-- ==== Sys2Proof/Word.lean ====
section
/-! DEFINITION. The word types of the Krezar and the sparse map that holds its arrays and memories. -/
namespace Sys2Proof

abbrev Byte := BitVec 8
abbrev W16 := BitVec 16
abbrev W32 := BitVec 32
abbrev W64 := BitVec 64

/-- A status code (R9, R10). -/
abbrev Code := BitVec 16

/-- A 48-bit step index (R243, R253). -/
abbrev Step := BitVec 48

/-- A sparse array: keys strictly rising, no entry equal to the default an unlisted key reads as. -/
abbrev SMap (α : Type) := List (Nat × α)

end Sys2Proof
end

