-- ==== Sys2Proof/Syntax.lean ====
section
/-! DEFINITION. The commands of the block: one constructor of `Instr` per row of spec/opcode_table.json.
An operand is what reaches the step from outside the state: a unit's number, a token's damage on its link, a
transaction, a measurement, whether a signature verifies. -/
namespace Sys2Proof

/-- Result of decoding a SECDED word (R63, R99). -/
inductive EccKind where
  | clean | ce | ue
  deriving DecidableEq, Repr

/-- Damage that has struck a memory since it was last read: an MU word, an MU tag, or a DRAM burst. -/
inductive Upset where
  /-- An SRAM word of MU 256p + n: single-bit or uncorrectable. -/
  | muWord (unit : Fin 1024) (word : Fin 524288) (kind : EccKind)
  /-- A tag-store entry of MU 256p + n, at a line pair. -/
  | muTag (unit : Fin 1024) (slot : Fin 32768) (kind : EccKind)
  /-- A DRAM burst: the symbol that an x4 device of the burst's rank gives to one of its eight codewords (R269). -/
  | burst (chan : Fin 16) (burst : Nat) (word : Fin 8) (rank : Fin 4) (device : Fin 20)
  deriving DecidableEq, Repr

/-- Vector token (R104). -/
structure VTok where
  data : BitVec 1024
  par : BitVec 128
  epoch : BitVec 4
  poison : Bool
  last : Bool
  hpar : Bool
  deriving DecidableEq, Repr

/-- Scalar token (R104). -/
structure STok where
  value : W32
  tag : Byte
  epoch : BitVec 4
  poison : Bool
  par : BitVec 4
  hpar : Bool
  deriving DecidableEq, Repr

/-- Control token (R104). -/
structure CTok where
  tag : Byte
  epoch : BitVec 4
  hpar : Bool
  deriving DecidableEq, Repr

/-- The three networks of the traverse. -/
inductive Net where
  | vector | scalar | control
  deriving DecidableEq, Repr

inductive Tok where
  | v (t : VTok)
  | s (t : STok)
  | c (t : CTok)
  deriving DecidableEq, Repr

/-- A member of a wait cycle the deadlock detector sees: a switch input queue or the unit of a site. -/
inductive CycleNode where
  | queue (plat : Fin 4) (site : Fin 512) (net : Net) (chan : Fin 64)
  | unit (plat : Fin 4) (site : Fin 512)
  deriving DecidableEq, Repr

/-- The path of a control-space access (R479). -/
inductive Path where
  | fw (plat : Fin 4)
  | mgmt (src : W16) (port : Fin 32)
  | smbus
  deriving DecidableEq, Repr

/-- Origin of an order (R368). -/
inductive Origin where
  | containment | host | master | firmware
  deriving DecidableEq, Repr

/-- The part of a record, frame or table that one transaction carries (R331): its first byte and how many. -/
structure Frag where
  offset : Nat
  len : Nat
  deriving DecidableEq, Repr

/-- Header of an arriving transaction (R330), whether its authentication tag verifies under the keys of its key phase
(R336, R337), and the fragment it carries where its body travels in several (R331). -/
structure Rx where
  port : Fin 32
  src : W16
  dst : W16
  tag : W16
  hops : Byte
  tagOk : Bool
  keyPhase : Bool := false
  frag : Option Frag := none
  deriving DecidableEq, Repr

/-- How an order reached the arbiter (R361): by CMD, from this device's own broadcast, by CMD_SUBMIT, from firmware. -/
inductive Arrival where
  | trans (rx : Rx)
  | own
  | submit (src : W16)
  | firmware
  deriving DecidableEq, Repr

/-- A command descriptor (R361); the row of the table fixes its opcode. -/
structure CmdDesc where
  flags : W16 := 0
  targetClass : W16 := 0
  target : W16 := 0
  actTime : W64 := 0
  deadline : W64 := 0
  step : Step := 0
  slot : W16 := 0xFFFF
  payload : BitVec 256 := 0
  deriving DecidableEq, Repr

/-- Voltage and current that a regulator reports (R486). -/
structure RailSample where
  mv : W16
  ma : W32
  deriving DecidableEq, Repr

/-- Another order that arrives in the same datum tick (R369). -/
structure Rival where
  opcode : W16
  isStop : Bool
  targetClass : W16
  target : W16
  exclusive : Bool
  origin : Origin
  port : Fin 33
  earlier : Bool
  deriving DecidableEq, Repr

/-- An order as it arrives: descriptor, origin, port, how its completion returns, the orders of the same tick. -/
structure Order where
  desc : CmdDesc
  origin : Origin
  port : Fin 33
  arrival : Arrival
  rivals : List Rival := []
  deriving DecidableEq, Repr

/-- An operation that a register write or a command may request. -/
inductive Via where
  | reg (path : Path)
  | cmd (order : Order)
  deriving DecidableEq, Repr

/-- A unit of the part that issues benchmark operations (R208). -/
inductive BmkUnit where
  | mu | dma | sequencer
  | au (g : Fin 4)
  | monument
  deriving DecidableEq, Repr

/-- Source of a benchmark operation (R208). -/
inductive BmkSrc where
  | fw (plat : Fin 4)
  | host (src : W16)
  | cmd (order : Order)
  | unit (u : BmkUnit)
  | remote (rx : Rx)
  deriving DecidableEq, Repr

/-- A token inside a COLL payload (R348). -/
structure PTok where
  data : BitVec 1024
  last : Bool
  poison : Bool
  deriving DecidableEq, Repr

/-- SEAL, GATE, COMMIT (R243) and closure records (R306). -/
structure NormRec where
  typ : Fin 5
  vote : Bool
  fault : Code
  dev : Nat
  shard : Nat
  step : Step
  rset : Nat
  gsq : W32
  trust : List (Nat × W32 × W32)
  root : List Byte
  deriving DecidableEq, Repr

/-- A monument frame (R301). -/
structure MonFrame where
  status : Byte
  srcDev : Nat
  index : W32
  step : W64
  payload : List Byte
  digest : List Byte
  deriving DecidableEq, Repr

/-- Identity announcement (R334, R441): certificate field split into public key, chain digest, roster seq. -/
structure Announce where
  kind : Byte
  port : Byte
  number : W16
  bridge : Bool
  keyId : List Byte
  nonce : List Byte
  ek : List Byte
  pubKey : List Byte
  chainDigest : List Byte
  rosterSeq : W64
  signature : List Byte
  deriving DecidableEq, Repr

/-- A device's ports as LINKSTATE and the membership table list them (R340). -/
structure PortEntry where
  peer : Nat
  peerPort : Nat
  state : Nat
  deriving DecidableEq, Repr

/-- An entry of the membership table (R341). -/
structure MemberEntry where
  num : Nat
  keyId : List Byte
  ports : List PortEntry
  deriving DecidableEq, Repr

/-- A membership table (R341). -/
structure MTable where
  epoch : W32
  master : Nat
  effStep : Step
  bridge : Nat
  masterKeyId : List Byte
  entries : List MemberEntry
  signature : List Byte
  deriving DecidableEq, Repr

/-- A flit (R323). -/
structure Flit where
  kind : Fin 4
  vc : Fin 8
  sot : Bool
  eot : Bool
  fill : Byte
  payload : List Byte
  crc : W32
  deriving DecidableEq, Repr

/-- What the outer code found at a flit (R319): codewords that end here, corrected and uncorrectable, each named once,
and whether an uncorrectable codeword overlaps the flit. -/
structure Fec where
  ce : Nat := 0
  ue : Nat := 0
  bad : Bool := false
  deriving DecidableEq, Repr

/-- Payload of a LINK flit (R325). -/
structure LinkOps where
  ack : Bool
  nak : Bool
  replay : Bool
  credit : Bool
  ackSeq : W16
  seq : W16
  credits : List Nat
  deriving DecidableEq, Repr

/-- A datum frame (R352). -/
structure DatumFrame where
  time : W64
  timeFrac : W16
  master : W16
  hops : Byte
  traceable : Bool
  seq : W16
  step : Step
  stepTime : W64
  echoTime : W64
  echoFrac : W16
  turn : W32
  masterTag : W64
  memberEpoch : W32
  deriving DecidableEq, Repr

/-- A transaction of another device that this one passes on (R343). -/
structure Passing where
  rx : Rx
  typ : Byte
  args : BitVec 128
  payload : List Byte
  deriving DecidableEq, Repr

/-- A factor block of a preconditioned region as the stock program finds it in a step: the factor stored, and the block
of the gradient, both FP32, row after row (R259). -/
structure FactorBlock where
  region : Fin 4096
  index : Fin 65536
  factor : List (List W32)
  grad : List (List W32)
  deriving DecidableEq, Repr

/-- A command of a memory group controller to a channel, after so many failed retries (R267). -/
structure ChanCmd where
  chan : Fin 16
  failedRetries : Nat
  deriving DecidableEq, Repr

/-- Reader or writer of a DRAM burst (R270, R277); the engine of a plat moves rows for its program, for host
descriptors and for the stash service. -/
inductive DramUser where
  | auPass1 | auPass2
  | platDma (plat : Fin 4)
  | hostDma (plat : Fin 4)
  | stash (plat : Fin 4)
  | monument | digest | host | load
  deriving DecidableEq, Repr

/-- What a module shows at start-up (R263 to R265, R463, R495). -/
structure ModuleSeen where
  present : Bool
  usable : Bool
  capacityGB : Nat
  ranks : Nat
  maxSpeed : Nat
  spd : List Byte
  fastOk : Bool
  trainOk : Bool
  deriving DecidableEq, Repr

/-- Records of the MRAM that still verify at a start-up (R416, R419, R430, R459 to R461). -/
structure MramSeen where
  mfgOk : Bool := true
  gen0Ok : Bool := true
  gen1Ok : Bool := true
  cnt0Ok : Bool := true
  cnt1Ok : Bool := true
  fence0Ok : Bool := true
  fence1Ok : Bool := true
  badRecords : List (Fin 4 × Bool) := []
  ringBad : List (BitVec 16) := []
  deriving DecidableEq, Repr

/-- What the self-tests and verifications of a start-up find: the failing test number, 0 for none (R443). -/
structure BootSeen where
  straps : BitVec 3
  failTest : Byte
  fsfValid : Bool × Bool
  pcfValid : Bool × Bool
  mram : MramSeen
  modules : List ModuleSeen
  bridgesUp : BitVec 8
  pllFail : Option (Fin 25)
  light : Byte
  signal : W32
  heldUs : W32
  deriving DecidableEq, Repr

/-- What the tests of a security service find: the failing test number of R443, 0 for none. -/
structure SecSeen where
  failTest : Byte := 0
  deriving DecidableEq, Repr

/-- JTAG instructions (R450); of the internal ones, those that firmware debug needs for the firmware of a plat, and internal
scan (R451). -/
inductive JtagOp where
  | bypass | idcode | samplePreload | extest | clamp
  | fwHalt (p : Fin 4) | fwRun (p : Fin 4) | fwStep (p : Fin 4) | fwMem (p : Fin 4)
  | scan
  deriving DecidableEq, Repr

/-- A spine transfer on arrival (R399): whole, its data damaged (`row`: the row request of a plat whose data it carries), or
its header damaged. -/
inductive SpineDamage where
  | none | data (row : Option (Fin 4 × Nat)) | header
  deriving DecidableEq, Repr

/-- An access to the control space: its address and its size in bytes. -/
structure Access where
  addr : W64
  size : Nat := 8
  deriving DecidableEq, Repr

/-- A read command of a DRAM channel: its address, and the tries of it that failed under command-address parity (R267). -/
structure ReadCmd where
  addr : BitVec 42
  failedRetries : Nat := 0
  deriving DecidableEq, Repr

/-- The verdict on a signature, in a row that verifies one. The part works it out from the key, the message and the
signature (R138, R427), so it is nothing the sender names: it has this one value. -/
inductive Verdict where
  | computed
  deriving DecidableEq, Repr

/-- The commands of the Krezar: one constructor per row of spec/opcode_table.json, in the table's order. -/
inductive Instr where
  -- control space
  | registerWrite (path : Path) (addr : Access) (value : W64)
  | readClear (path : Path) (addr : Access)
  -- compute units
  | kStep (p : Fin 4) (cu : Fin 256) (scaleSeen : Bool)
  | tileOperationStart (p : Fin 4) (cu : Fin 256)
  | checksumComparison (p : Fin 4) (cu : Fin 256) (tile : Fin 32)
  | retireSetReadout (p : Fin 4) (cu : Fin 256)
  | readoutComplete (p : Fin 4) (cu : Fin 256)
  | accumulatorScrub (p : Fin 4) (cu : Fin 256) (errs : List (Fin 32 × Fin 1024 × EccKind))
  | rowStreamToken (p : Fin 4) (cu : Fin 256) (streamY : Bool)
  | scalarInputArrival (p : Fin 4) (cu : Fin 256)
  -- memory units
  | narrowRead (p : Fin 4) (mu : Fin 256) (off : BitVec 22) (size : Nat) (ups : List Upset)
  | narrowWrite (p : Fin 4) (mu : Fin 256) (off : BitVec 22) (size : Nat) (value : W64)
  | generatorStartEvent (p : Fin 4) (mu : Fin 256)
  | pendingWalkStart (p : Fin 4) (mu : Fin 256) (a : Fin 4)
  | generatorAddress (p : Fin 4) (mu : Fin 256) (a : Fin 4) (ups : List Upset)
  | walkEnd (p : Fin 4) (mu : Fin 256) (a : Fin 4)
  | accumulateSegment (p : Fin 4) (mu : Fin 256)
  | parkedSegmentApply (p : Fin 4) (mu : Fin 256) (r : Fin 16)
  | queueTokenIn (p : Fin 4) (mu : Fin 256) (k : Fin 2)
  | queueTokenOut (p : Fin 4) (mu : Fin 256) (k : Fin 2)
  | fill (p : Fin 4) (mu : Fin 256) (dst : BitVec 13) (rows : BitVec 14) (byEvent : Bool)
  | copy (p : Fin 4) (mu : Fin 256) (dst src : BitVec 13) (rows : BitVec 14) (byEvent : Bool)
  | rowCommandDone (p : Fin 4) (mu : Fin 256)
  | creditReturn (p : Fin 4) (mu : Fin 256) (r : Fin 16)
  | scrubRow (p : Fin 4) (mu : Fin 256) (ups : List Upset)
  | scrubLate (p : Fin 4) (mu : Fin 256)
  -- traverse
  | tokenArrival (p : Fin 4) (site : Fin 512) (net : Net) (chan : Fin 64) (flips : Tok)
  | tokenDeparture (p : Fin 4) (site : Fin 512) (net : Net) (chan : Fin 64) (unitReady unitParityBad : Bool)
  | queueBlocked (p : Fin 4) (site : Fin 512) (net : Net) (chan : Fin 64)
  | deadlockResolution (p : Fin 4) (cycle : List CycleNode)
  | spillEnd (p : Fin 4) (site : Fin 512)
  | drain (p : Fin 4) (mask : W16) (via : Via)
  | drainComplete (p : Fin 4) (mask : W16)
  | drainTimeout (p : Fin 4) (mask : W16)
  | resume (p : Fin 4) (mask : W16) (via : Via)
  -- images
  | load (via : Via)
  | loadComplete (sig : Verdict) (ups : List Upset)
  | loadPartial (via : Via)
  | partialLoadComplete (sig : Verdict) (ups : List Upset)
  | start (via : Via) (ups : List Upset)
  | stop (via : Via)
  | stopComplete
  | unload (via : Via)
  | abort (via : Via)
  -- stash
  | pushWalk (p : Fin 4) (mu : Fin 256) (a : Fin 4) (ups : List Upset)
  | popWalk (p : Fin 4) (mu : Fin 256) (a : Fin 4) (ups : List Upset)
  | stashSpill (p : Fin 4) (mu : Fin 256) (r : Fin 16) (ups : List Upset)
  | stashRefill (p : Fin 4) (mu : Fin 256) (r : Fin 16) (ups : List Upset)
  -- plat DMA, triggers, sequencer
  | dmaDescriptorStart (p : Fin 4)
  | rowRequestIssue (p : Fin 4)
  | rowRequestDone (p : Fin 4) (ix : Nat) (ups : List Upset)
  | descriptorComplete (p : Fin 4)
  | dmaHqPush (p : Fin 4) (go : Bool)
  | triggerFire (p : Fin 4) (t : Fin 1024)
  | sequencerStart (p : Fin 4) (ix : BitVec 16)
  | sequencerPendingStart (p : Fin 4)
  -- benchmarks
  | bmkRead (src : BmkSrc) (i : Fin 65536)
  | bmkAdd (src : BmkSrc) (i : Fin 65536) (v : W32)
  | bmkSet (src : BmkSrc) (i : Fin 65536) (v : W32)
  | bmkWait (src : BmkSrc) (i : Fin 65536) (v : W32)
  | bmkArm (src : BmkSrc) (i : Fin 65536) (thr : W32) (mode : W32)
  | bmkReservedOp (src : BmkSrc) (i : Fin 65536) (op : Fin 16)
  -- the adjustment
  | requantisation (item : Fin 65536) (ups : List Upset)
  | sealSend
  | normRecord (rx : Rx) (rec : NormRec)
  | exchangeTimeout
  | pass1Start
  | auElementEvaluate (g : Fin 4) (ups : List Upset)
  | parkedSlotEvaluate (g : Fin 4) (slot : Nat) (ups : List Upset)
  | gateSend
  | pass2Start (blocks : List FactorBlock)
  | commitSend
  | stepBoundary
  | coefSet (order : Order)
  | freezeSet (order : Order)
  | auStepWrite (g : Fin 4) (value : W64)
  -- external memory
  | dramRead (user : DramUser) (cmd : ReadCmd) (ups : List Upset)
  | dramWrite (user : DramUser) (addr : BitVec 42) (data : List Byte) (poison : Bool) (failedRetries : Nat) (ups : List Upset)
  | dramRefresh (cmd : ChanCmd)
  | dramHot (cmd : ChanCmd)
  | patrolScrub (chan : Fin 16) (ups : List Upset)
  -- monuments and closure checks
  | capture (via : Via) (step : Step)
  | restore (via : Via) (newest : Bool) (step : Step)
  | monumentAbort (via : Via)
  | chunkRead (ups : List Upset)
  | ackFrame (rx : Rx) (frame : MonFrame)
  | retryResend (index : W32)
  | silenceResend (index : W32)
  | resendLimit (index : W32)
  | recordSignature
  | monBankWait
  | chunkFrame (rx : Rx) (frame : MonFrame)
  | recordFrame (rx : Rx) (frame : MonFrame) (sig : Verdict)
  | abandonFrame (rx : Rx) (frame : MonFrame)
  | pullFrame (rx : Rx) (frame : MonFrame)
  | closureDigestDone (ups : List Upset)
  | closureDeadline
  -- Lumoux ports
  | laserLost (i : Fin 8)
  | laserReturn (i : Fin 8)
  | laneLockLoss (n : Fin 32) (lane : Fin 8)
  | trainingDone (n : Fin 32)
  | announce (n : Fin 32) (a : Announce) (sig : Verdict)
  | keyx (n : Fin 32) (ciphertext transcript signature : List Byte)
  | dataFlit (n : Fin 32) (f : Flit) (fec : Fec)
  | linkFlit (n : Fin 32) (f : Flit) (ended : Nat × Nat) (bad : Bool)
  | ackReport (n : Fin 32)
  | nakRepeat (n : Fin 32)
  | replayLimit (n : Fin 32)
  | retrain (n : Fin 32)
  | rekey (n : Fin 32)
  | rekeyTimeout (n : Fin 32)
  | keyPhaseGraceEnd (n : Fin 32)
  -- Lumoux transactions
  | rwrite (rx : Rx) (addr : W64) (data : List Byte) (poison : Bool)
  | rread (rx : Rx) (addr : W64) (bytes : W32) (ups : List Upset)
  | resp (rx : Rx) (code : Code) (answered : Byte) (value : W64) (data : List Byte)
  | coll (rx : Rx) (addr : W64) (mode : Byte) (contrib : Byte) (entry : W16) (tokens : List PTok)
  | cpl (rx : Rx) (code : Code) (opcode : W16) (value : W64)
  | mgmtRead (rx : Rx) (addr : Access)
  | mgmtWrite (rx : Rx) (addr : Access) (value : W64)
  | member (rx : Rx) (table : MTable) (sig : Verdict)
  | linkstate (rx : Rx) (keyId : List Byte) (ports : List PortEntry)
  | transactionForward (t : Passing)
  | forwardStall (tag : W16)
  | lxTimeout (tag : W16)
  | streamEntryFire (e : Fin 16384)
  -- datum time
  | datumFrameSend (n : Fin 32)
  | datumFrame (rx : Rx) (f : DatumFrame) (t4frac : W16)
  | referenceLoss (portLeft : Bool)
  | holdoverExpiry
  | localRef (via : Via)
  | reacquire (via : Via)
  | dtmTimeSet (value : W64)
  -- commands
  | stepStart (order : Order)
  | stepStartTime
  | nop (order : Order)
  | commandActivation (id : Nat)
  | deadlineMissed (id : Nat)
  | consume (slot : Fin 512)
  | slotWord0Read (slot : Fin 512)
  | notifyPop
  | broadcastGo (all : Bool) (dev : BitVec 12)
  -- clocks and power
  | pllLockFail (d : Fin 25)
  | pllRelock
  | refinLost
  | gatingModeWrite (value : W64)
  | idleClockStop (d : Fin 25) (block : Nat)
  | clockWake (d : Fin 25) (block : Nat)
  | gateOpen (d : BitVec 5) (gate : BitVec 5)
  | gateClose (d : BitVec 5) (gate : BitVec 5)
  | fmeterStart (value : W64)
  | fmeterDone (count : BitVec 48) (refStopped : Bool)
  | idle
  | wake
  | powerStateChange
  | pwrLimitWrite (value : W64)
  | railPoll (rails : List RailSample) (answered : BitVec 5)
  | temperatureSample (temps : List Int)
  | vddCoreAdjust (stepUv : Int)
  | avsFail
  | avsTelemetry (rail : Fin 5)
  -- error detection
  | spineTransfer (damage : SpineDamage) (header : W64)
  | watchdogExpiry (p : Fin 4)
  | quiescingEnd (timedOut : Bool) (ups : List Upset)
  | restartActionsDone
  | restartFail
  | faultRecordStore
  | fenceAdd (bit : BitVec 13)
  | fenceRemove (bit : BitVec 13)
  | fenceConfirm
  | fenceStoreDone (ok : Bool)
  -- security
  | nonce (order : Order)
  | nonceExpiry
  | coAuth (order : Order) (sig : Verdict)
  | coLogout (order : Order)
  | coSessionTimeout
  | selfTest (order : Order) (failTest : Byte)
  | attest (order : Order)
  | getCert (order : Order)
  | keyEnroll (order : Order)
  | keyRevoke (order : Order)
  | svnAdvance (order : Order)
  | rosterSet (order : Order) (sig : Verdict)
  | fwUpdate (order : Order) (key : Verdict) (sig : Verdict)
  | debugUnlock (order : Order) (sig : Verdict)
  | debugLock (order : Order)
  | debugExpiry
  | zeroizeSession (order : Order)
  | zeroizeData (order : Order)
  | zeroizeDevice (order : Order)
  | zeroizationComplete
  | random (order : Order)
  | drbgReseed
  | entropySample (value : Byte)
  | jtagInstruction (op : JtagOp)
  -- start-up, reset, persistent settings
  | resetRelease (seen : BootSeen)
  | reset
  | powerLoss
  | nvmCommit (via : Via) (base : W64)
  | commitDone (readBackOk : Bool)
  -- SMBus
  | regRead (addr : W64)
  | regValue
  | bootBegin (kind : Byte)
  | bootData (offset : W32) (data : List Byte)
  | bootEnd
  | bootStatus
  | bootVerifyDone (key : Verdict) (sig : Verdict)
  -- remaining events
  | receiveSignal (n : Fin 32)
  | firmwareException (p : Fin 4)
  | firmwareMemoryError (p : Fin 4) (kind : EccKind)
  | localInputPresent
  | unlistedOpcode (order : Order) (opcode : W16)
  | reservedTransaction (rx : Rx) (typ : Byte)
  deriving DecidableEq, Repr

end Sys2Proof
end

