-- ==== Sys2Proof/Config.lean ====
section
/-! DEFINITION. What the part or an outside standard fixes and this spec does not: uninterpreted constants. -/
namespace Sys2Proof.Config

/-- Byte k of the output of SHAKE256 (FIPS 202) over some bytes. The standard lies outside the spec (R427). -/
opaque shakeByte : List Byte → Nat → Byte

/-- SHAKE256: input bytes, output length in bytes. -/
def shake256 (m : List Byte) (n : Nat) : List Byte := (List.range n).map (shakeByte m)

/-- A free value: the n-th value the spec leaves open in a run (log entry 4). -/
opaque freeValue : Nat → W64

/-- Stage-4 functions between the special values of R74; the fixed table and polynomial are not given (log entry 5). -/
opaque expTable : W32 → W32
opaque logTable : W32 → W32
opaque rsqrtTable : W32 → W32
opaque tanhTable : W32 → W32
opaque erfTable : W32 → W32
opaque recipTable : W32 → W32

/-- The n-th of the 768-sample inputs that the entropy source gives the DRBG in a run (R444; log entry 6). -/
opaque entropyByte : Nat → Nat → Byte
def entropy (n : Nat) : List Byte := (List.range 768).map (entropyByte n)

/-- CTR_DRBG, AES-256, with derivation function (SP 800-90A, R427): byte k of the key and counter, 48 bytes, after a seeding
with some entropy and after a request, and byte k of what a request for a number of bytes gives. -/
opaque drbgSeedByte : List Byte → List Byte → Nat → Byte
opaque drbgNextByte : List Byte → Nat → Nat → Byte
opaque drbgOutByte : List Byte → Nat → Nat → Byte
def drbgSeed (st entropy : List Byte) : List Byte := (List.range 48).map (drbgSeedByte st entropy)
def drbgNext (st : List Byte) (len : Nat) : List Byte := (List.range 48).map (drbgNextByte st len)
def drbgOut (st : List Byte) (len : Nat) : List Byte := (List.range len).map (drbgOutByte st len)

/-- The PUF root key that this part regenerates, and the labels under which the wrapping and the integrity key are derived
from it by SHAKE256 (R429). -/
opaque pufByte : Nat → Byte
def pufRoot : List Byte := (List.range 32).map pufByte
opaque wrapLabel : List Byte
opaque integrityLabel : List Byte

/-- The identity private key, 128 bytes, that its AES-256-GCM ciphertext in MRAM holds (R429, R430). -/
opaque identitySecretByte : Nat → Byte
def identitySecret : List Byte := (List.range 128).map identitySecretByte

/-- Byte k of the public identity key of the part, and the key, 64 bytes (R334, R442). -/
opaque identityByte : Nat → Byte
def identityPub : List Byte := (List.range 64).map identityByte

/-- Bytes of an SLH-DSA signature (FIPS 205, R138, R334): SHAKE-256f where `fast` is set, else SHAKE-256s. -/
def sigLen (fast : Bool) : Nat := if fast then 49856 else 29792

/-- Byte k of the signature that the holder of a public key's secret key makes over a message. -/
opaque slhByte : Bool → List Byte → List Byte → Nat → Byte
def slhSign (fast : Bool) (pub msg : List Byte) : List Byte := (List.range (sigLen fast)).map (slhByte fast pub msg)

/-- Another signature over the message that verifies under the key: a signer may add randomness of its own. -/
opaque slhOther : Bool → List Byte → List Byte → List Byte → Bool

/-- The verification of FIPS 205, pure form, empty context string (log entry 6). -/
def slhVerify (fast : Bool) (pub msg sig : List Byte) : Bool :=
  sig.length == sigLen fast && (sig == slhSign fast pub msg || slhOther fast pub msg sig)

/-- A signature by the device identity key (R293, R334, R449). -/
def identitySign (msg : List Byte) : List Byte := slhSign true identityPub msg

/-- Yatchaiq firmware keys 0 and 1, and their SHAKE256 digests in the ROM (R446). -/
opaque fwKeyByte : Nat → Nat → Byte
def fwKey (k : Nat) : List Byte := (List.range 64).map (fwKeyByte k)
def fwKeyDigest (k : Nat) : List Byte := shake256 (fwKey k) 64

/-- ML-KEM-1024 (FIPS 203, R335): the key pair of 64 random bytes, and encapsulation of 32 random bytes to a key. A
decapsulation key holds its encapsulation key at bytes 1,536 to 3,103. Both ends of an exchange get the secret that the
standard gives the encapsulation key and the ciphertext (log entry 6). -/
opaque kemEkByte : List Byte → Nat → Byte
opaque kemPkeByte : List Byte → Nat → Byte
opaque kemHashByte : List Byte → Nat → Byte
opaque kemCtByte : List Byte → List Byte → Nat → Byte
opaque kemSharedByte : List Byte → List Byte → Nat → Byte
def kemEk (rnd : List Byte) : List Byte := (List.range 1568).map (kemEkByte rnd)
def kemDk (rnd : List Byte) : List Byte :=
  (List.range 1536).map (kemPkeByte rnd) ++ (kemEk rnd ++ ((List.range 32).map (kemHashByte (kemEk rnd)) ++ rnd.drop 32))
def kemCt (ek rnd : List Byte) : List Byte := (List.range 1568).map (kemCtByte ek rnd)
def kemShared (ek ct : List Byte) : List Byte := (List.range 32).map (kemSharedByte ek ct)
def kemSs (ek rnd : List Byte) : List Byte := kemShared ek (kemCt ek rnd)
def kemDecaps (dk ct : List Byte) : List Byte := kemShared ((dk.drop 1536).take 1568) ct

/-- AES-256-GCM (SP 800-38D, R336): byte k of the ciphertext with its 16-byte tag, by key, nonce, additional
authenticated data and plaintext. -/
opaque gcmByte : List Byte → List Byte → List Byte → List Byte → Nat → Byte
def gcmSeal (key nonce aad plain : List Byte) : List Byte :=
  (List.range (plain.length + 16)).map (gcmByte key nonce aad plain)

/-- z ** 0.25 of R259, whose rounding the spec does not state (log entry 95). -/
opaque quarterPower : W32 → W32

/-- Bytes of the factor and root planes that a region's preconditioner program sets (R279), by the region's precond word,
elements and columns (log entry 23). -/
opaque factorBytes : W64 → Nat → Nat → Nat

/-- VDD_CORE in µV that the manufacturing data asks for at a temperature in 1/16 °C (R486). -/
opaque vddTarget : W16 → Int

/-- PWR_LEAK of this part, in mW (R459, R395). -/
opaque leakMw : W32

/-- The part serial (R459). -/
opaque serial : W64

/-- The device certificate chain stored at manufacture (R442). -/
opaque certChain : List Byte

/-- JTAG manufacturer identity code that Yatchaiq holds (R450). -/
opaque jtagMaker : BitVec 11

end Sys2Proof.Config
end

