-- ==== Sys2Proof/Machine/Bits.lean ====
section
/-! DEFINITION. Bit fields, byte order and small list helpers (R3). -/
namespace Sys2Proof.Machine

/-- The value of the field [lo + len − 1 : lo] of a word. -/
def fld {n : Nat} (w : BitVec n) (lo len : Nat) : Nat := w.toNat / 2 ^ lo % 2 ^ len

/-- Bit k of a word. -/
def bitOf {n : Nat} (w : BitVec n) (k : Nat) : Bool := w.toNat.testBit k

/-- A word with the field [lo + len − 1 : lo] replaced. -/
def putFld {n : Nat} (w : BitVec n) (lo len v : Nat) : BitVec n :=
  let x := w.toNat
  BitVec.ofNat n (x - (x / 2 ^ lo % 2 ^ len) * 2 ^ lo + (v % 2 ^ len) * 2 ^ lo)

/-- A word with bit k set. -/
def setBit {n : Nat} (w : BitVec n) (k : Nat) : BitVec n := w ||| BitVec.ofNat n (2 ^ k)

def clrBit {n : Nat} (w : BitVec n) (k : Nat) : BitVec n := w &&& ~~~(BitVec.ofNat n (2 ^ k))

def b2n (b : Bool) : Nat := if b then 1 else 0

/-- A word from fields: (low bit, width, value) each. -/
def mkWord (n : Nat) (fs : List (Nat × Nat × Nat)) : BitVec n :=
  BitVec.ofNat n (fs.foldl (fun a f => a + (f.2.2 % 2 ^ f.2.1) * 2 ^ f.1) 0)

/-- The signed value of the field. -/
def sfld {n : Nat} (w : BitVec n) (lo len : Nat) : Int :=
  let v := fld w lo len
  if v ≥ 2 ^ (len - 1) then (v : Int) - (2 ^ len : Nat) else v

/-- Little-endian bytes of a number (R3). -/
def leBytes : Nat → Nat → List Byte
  | 0, _ => []
  | k + 1, v => BitVec.ofNat 8 v :: leBytes k (v / 256)

/-- The number little-endian bytes hold (R3). -/
def leNat : List Byte → Nat
  | [] => 0
  | b :: t => b.toNat + 256 * leNat t

/-- k bytes from offset o; bytes past the end read 0. -/
def sub (bs : List Byte) (o k : Nat) : List Byte :=
  let t := (bs.drop o).take k
  t ++ List.replicate (k - t.length) 0

/-- The little-endian number in bytes o to o + k − 1. -/
def leAt (bs : List Byte) (o k : Nat) : Nat := leNat (sub bs o k)

def byteAt (bs : List Byte) (o : Nat) : Nat := ((bs.drop o).headD 0).toNat

/-- Two's complement value of a k-byte number. -/
def toSigned (bits v : Nat) : Int :=
  let v := v % 2 ^ bits
  if v ≥ 2 ^ (bits - 1) then (v : Int) - (2 ^ bits : Nat) else v

/-- The ASCII bytes of a string, as the magics and prefixes of the spec are written. -/
def ascii (s : String) : List Byte := s.toList.map (fun c => BitVec.ofNat 8 c.toNat)

def allZero (bs : List Byte) : Bool := bs.all (· == 0)

/-- A list cut into pieces of k elements, the last one possibly shorter. Fuel: the list's length. -/
def chunksOf {α : Type} (k : Nat) (xs : List α) : List (List α) := go xs.length xs
where
  go : Nat → List α → List (List α)
    | 0, _ => []
    | n + 1, ys => if ys.isEmpty then [] else ys.take (max k 1) :: go n (ys.drop (max k 1))

/-- The bytes of a string of 64-bit words. -/
def wordsOf (bs : List Byte) : List W64 := (chunksOf 8 bs).map (fun b => BitVec.ofNat 64 (leNat b))

def satAdd (bits a b : Nat) : Nat := min (a + b) (2 ^ bits - 1)

/-- Ceiling of a / b. -/
def cdiv (a b : Nat) : Nat := (a + b - 1) / b

/-- A count c has reached a level v (R204). -/
def reached (c v : W32) : Bool := (c - v).toNat < 2 ^ 31

/-- Stable insertion sort by a key, ascending. -/
def sortBy {α : Type} (key : α → Nat) (l : List α) : List α := l.foldr insert []
where
  insert (x : α) : List α → List α
    | [] => [x]
    | y :: ys => if key x ≤ key y then x :: y :: ys else y :: insert x ys

/-- CRC-32 of IEEE 802.3 over bytes (R324): reflected polynomial, initial ones, final complement. -/
def crc32 (bs : List Byte) : W32 := ~~~(bs.foldl step 0xFFFFFFFF#32)
where
  step (c : W32) (b : Byte) : W32 := bitSteps 8 (c ^^^ b.zeroExtend 32)
  bitSteps : Nat → W32 → W32
    | 0, c => c
    | k + 1, c => bitSteps k (if c.toNat % 2 = 1 then (c >>> 1) ^^^ 0xEDB88320#32 else c >>> 1)

end Sys2Proof.Machine
end

