-- ==== Sys2Proof/Machine/Codes.lean ====
section
/-! DEFINITION. The status codes of R9, R500 and of each chapter's table of codes. -/
namespace Sys2Proof.Machine.Codes

abbrev ok : Code := 0x0000
abbrev nop : Code := 0x0000
abbrev notReady : Code := 0x0001
abbrev siteMap : Code := 0x0001
abbrev image : Code := 0x0001
abbrev conflict : Code := 0x0002
abbrev switch : Code := 0x0002
abbrev stepStart : Code := 0x0002
abbrev notSchedulable : Code := 0x0003
abbrev cu : Code := 0x0003
abbrev drain : Code := 0x0003
abbrev refused : Code := 0x0004
abbrev tileProgram : Code := 0x0004
abbrev stepMismatch : Code := 0x0005
abbrev mu : Code := 0x0005
abbrev staleToken : Code := 0x0006
abbrev platProgram : Code := 0x0006
abbrev stashOverflow : Code := 0x0007
abbrev seqProgram : Code := 0x0007
abbrev benchmark : Code := 0x0008
abbrev closureFail : Code := 0x0008
abbrev ruleTable : Code := 0x0009
abbrev precondStale : Code := 0x0009
abbrev paramRegions : Code := 0x000A
abbrev refLost : Code := 0x000A
abbrev dramLayout : Code := 0x000B
abbrev fenced : Code := 0x000B
abbrev lumouxPlan : Code := 0x000C
abbrev accTiles : Code := 0x000C
abbrev timingTable : Code := 0x000D
abbrev imageSig : Code := 0x000D
abbrev powerBudget : Code := 0x000E
abbrev imageStruct : Code := 0x000E
abbrev imagePower : Code := 0x000F
abbrev coefSet : Code := 0x0010
abbrev freezeSet : Code := 0x0011
abbrev bmk : Code := 0x0020
abbrev mon : Code := 0x0030
abbrev sec : Code := 0x0040
abbrev nvmCommit : Code := 0x0041
abbrev refSelect : Code := 0x0050
abbrev operandShape : Code := 0x0300
abbrev abftMismatch : Code := 0x0301
abbrev tileState : Code := 0x0302
abbrev accUncorrectable : Code := 0x0303
abbrev accCorrected : Code := 0x0304
abbrev agBounds : Code := 0x0400
abbrev creditOverrun : Code := 0x0401
abbrev winAddr : Code := 0x0402
abbrev accumOrder : Code := 0x0403
abbrev lifoUnderflow : Code := 0x0404
abbrev muUncorrectable : Code := 0x0405
abbrev muCorrected : Code := 0x0406
abbrev accumBounds : Code := 0x0407
abbrev deadlockSpill : Code := 0x0500
abbrev spillExhausted : Code := 0x0501
abbrev drainTimeout : Code := 0x0502
abbrev tokenParity : Code := 0x0503
abbrev imageBusy : Code := 0x0600
abbrev imageAborted : Code := 0x0601
abbrev imageBase : Code := 0x0602
abbrev imageEpoch : Code := 0x0603
abbrev stashFrame : Code := 0x0700
abbrev stashResidue : Code := 0x0701
abbrev dmaAddr : Code := 0x0800
abbrev bmkDenied : Code := 0x0900
abbrev bmkWaitFull : Code := 0x0901
abbrev bmkAbandoned : Code := 0x0902
abbrev nonfiniteSkip : Code := 0x0A00
abbrev sealPeer : Code := 0x0B00
abbrev exchangeTimeout : Code := 0x0B01
abbrev coefMissing : Code := 0x0B02
abbrev coefInvalid : Code := 0x0B03
abbrev holdRound : Code := 0x0B04
abbrev sparseIndex : Code := 0x0B05
abbrev dramUncorrectable : Code := 0x0C00
abbrev dramChannelDown : Code := 0x0C01
abbrev dramScrubUe : Code := 0x0C02
abbrev dramHot : Code := 0x0C03
abbrev dramCorrected : Code := 0x0C04
abbrev dramPoison : Code := 0x0C05
abbrev monBusy : Code := 0x0D00
abbrev monStateGone : Code := 0x0D01
abbrev monAbandoned : Code := 0x0D02
abbrev monPoison : Code := 0x0D03
abbrev monSinkFail : Code := 0x0D04
abbrev monBankWait : Code := 0x0D05
abbrev monRoot : Code := 0x0D06
abbrev monSignature : Code := 0x0D07
abbrev monImage : Code := 0x0D08
abbrev monLayout : Code := 0x0D09
abbrev closureIncomplete : Code := 0x0D0A
abbrev lxLinkDown : Code := 0x0E00
abbrev lxNoRoute : Code := 0x0E01
abbrev lxAuth : Code := 0x0E02
abbrev lxTimeout : Code := 0x0E03
abbrev lxFwdStall : Code := 0x0E04
abbrev lxPeerMismatch : Code := 0x0E05
abbrev lxNotMember : Code := 0x0E06
abbrev lxMemberLost : Code := 0x0E07
abbrev lxNotBridge : Code := 0x0E08
abbrev lxLaserLost : Code := 0x0E09
abbrev lxOversize : Code := 0x0E0A
abbrev deadlineMissed : Code := 0x0F00
abbrev cmdQueueFull : Code := 0x0F01
abbrev cmdSlotBusy : Code := 0x0F02
abbrev cmdCancelled : Code := 0x0F03
abbrev refinLost : Code := 0x1000
abbrev pllLockFail : Code := 0x1001
abbrev thermTrip : Code := 0x1002
abbrev thermWarn : Code := 0x1003
abbrev pwrOver : Code := 0x1004
abbrev clkGated : Code := 0x1005
abbrev spineParity : Code := 0x1100
abbrev spineHeader : Code := 0x1101
abbrev firmwareFault : Code := 0x1102
abbrev restartFail : Code := 0x1103
abbrev stepFailed : Code := 0x1104
abbrev fenceMapLost : Code := 0x1105
abbrev statePoison : Code := 0x1106
abbrev fwCorrected : Code := 0x1107
abbrev secSelftest : Code := 0x1200
abbrev secNvmAuth : Code := 0x1201
abbrev secAuth : Code := 0x1202
abbrev secRole : Code := 0x1203
abbrev secSlot : Code := 0x1204
abbrev secSvn : Code := 0x1205
abbrev secFormat : Code := 0x1206
abbrev secBootFallback : Code := 0x1207
abbrev secZeroized : Code := 0x1208
abbrev nvmBusy : Code := 0x1300
abbrev nvmStale : Code := 0x1301
abbrev nvmField : Code := 0x1302
abbrev nvmWriteFail : Code := 0x1303
abbrev nvmGenDamaged : Code := 0x1304
abbrev nvmSettingsLost : Code := 0x1305
abbrev nvmSafeMode : Code := 0x1306
abbrev nvmMfgBad : Code := 0x1307
abbrev avsFail : Code := 0x1500
abbrev avsTelemetry : Code := 0x1501

end Sys2Proof.Machine.Codes
end

