-- ==== Sys2Proof/Machine/Fp32.lean ====
section
/-! DEFINITION. Exact arithmetic rounded once: FP32 and BF16 of R30, R31, R37, R38. -/
namespace Sys2Proof.Machine

/-- An exact value: NaN, a signed infinity, or the finite number (−1)^neg · m · 2^e. -/
inductive Fp where
  | nan
  | inf (neg : Bool)
  | fin (neg : Bool) (m : Nat) (e : Int)
  deriving DecidableEq, Repr

/-- Nearest integer to n/d, ties to even (R37). -/
def rneRat (n d : Nat) : Nat :=
  let q := n / d
  let r := n % d
  if 2 * r > d || (2 * r == d && q % 2 == 1) then q + 1 else q

/-- n · 2^k as a pair numerator, denominator. -/
def scaleRat (n d : Nat) (k : Int) : Nat × Nat :=
  match k with
  | .ofNat j => (n <<< j, d)
  | .negSucc j => (n, d <<< (j + 1))

/-- Floor of log2 (n/d), for n and d positive. -/
def floorLog2 (n d : Nat) : Int :=
  let l : Int := (Nat.log2 n : Int) - (Nat.log2 d : Int)
  let (a, b) := scaleRat n d (-l)
  if a ≥ b then l else l - 1

/-- Ceiling of log2 (n/d), for n and d positive. -/
def ceilLog2 (n d : Nat) : Int :=
  let l := floorLog2 n d
  let (a, b) := scaleRat n d (-l)
  if a = b then l else l + 1

/-- n/d rounded to p significant bits, no bit below 2^emin: q · 2^E with q ≤ 2^p. -/
def roundRat (p : Nat) (emin : Int) (n d : Nat) : Nat × Int :=
  if n = 0 then (0, emin) else
    let E := max (floorLog2 n d - ((p : Int) - 1)) emin
    let (a, b) := scaleRat n d (-E)
    (rneRat a b, E)

def fpInf (neg : Bool) : W32 := if neg then 0xFF800000#32 else 0x7F800000#32

/-- The canonical NaN of FP32 (R31). -/
def fpNaN : W32 := 0x7FC00000#32

/-- The rounded magnitude q · 2^E as FP32 bits; beyond the range, infinity. -/
def fpBits (neg : Bool) (q : Nat) (E : Int) : W32 :=
  let (q, E) := if q ≥ 2 ^ 24 then (q / 2, E + 1) else (q, E)
  let s : Nat := if neg then 2 ^ 31 else 0
  if q < 2 ^ 23 then BitVec.ofNat 32 (s + q)
  else
    let ex := (E + 150).toNat
    if ex ≥ 255 then fpInf neg else BitVec.ofNat 32 (s + ex * 2 ^ 23 + (q - 2 ^ 23))

/-- n/d rounded once to FP32 (R31, R34). -/
def round32Rat (neg : Bool) (n d : Nat) : W32 :=
  let (q, E) := roundRat 24 (-149) n d
  fpBits neg q E

/-- An exact value rounded once to FP32. -/
def round32 : Fp → W32
  | .nan => fpNaN
  | .inf s => fpInf s
  | .fin s m e => let (a, b) := scaleRat m 1 e; round32Rat s a b

/-- The value of FP32 bits (R30). -/
def dec32 (w : W32) : Fp :=
  let n : Nat := w.toNat
  let s : Bool := n ≥ 2 ^ 31
  let ex : Nat := n / 2 ^ 23 % 256
  let fr : Nat := n % 2 ^ 23
  if ex = 255 then (if fr = 0 then .inf s else .nan)
  else if ex = 0 then .fin s fr (-149)
  else .fin s (fr + 2 ^ 23) ((ex : Int) - 150)

def isNaN32 (w : W32) : Bool := dec32 w == .nan
def isInf32 (w : W32) : Bool := match dec32 w with | .inf _ => true | _ => false
def isFin32 (w : W32) : Bool := match dec32 w with | .fin _ _ _ => true | _ => false
def isZero32 (w : W32) : Bool := match dec32 w with | .fin _ 0 _ => true | _ => false

/-- Exact product; infinity times zero is NaN (IEEE 754). -/
def Fp.mul : Fp → Fp → Fp
  | .nan, _ => .nan
  | _, .nan => .nan
  | .inf s, .inf t => .inf (s != t)
  | .inf s, .fin t m _ => if m = 0 then .nan else .inf (s != t)
  | .fin s m _, .inf t => if m = 0 then .nan else .inf (s != t)
  | .fin s m e, .fin t k f => .fin (s != t) (m * k) (e + f)

/-- The signed mantissa of a finite value at exponent e0 ≤ e. -/
def signedAt (s : Bool) (m : Nat) (e e0 : Int) : Int :=
  let v : Int := ((m <<< (e - e0).toNat : Nat) : Int)
  if s then -v else v

/-- Exact sum; an exact zero is +0 unless both are −0 (IEEE 754, to nearest). -/
def Fp.add : Fp → Fp → Fp
  | .nan, _ => .nan
  | _, .nan => .nan
  | .inf s, .inf t => if s = t then .inf s else .nan
  | .inf s, .fin .. => .inf s
  | .fin .., .inf t => .inf t
  | .fin s m e, .fin t k f =>
    let e0 := min e f
    let v := signedAt s m e e0 + signedAt t k f e0
    if v = 0 then .fin (s && t && m == 0 && k == 0) 0 e0
    else .fin (v < 0) v.natAbs e0

def Fp.neg : Fp → Fp
  | .nan => .nan
  | .inf s => .inf !s
  | .fin s m e => .fin (!s) m e

def fpAdd (a b : W32) : W32 := round32 ((dec32 a).add (dec32 b))
def fpSub (a b : W32) : W32 := round32 ((dec32 a).add (dec32 b).neg)
def fpMul (a b : W32) : W32 := round32 ((dec32 a).mul (dec32 b))

/-- Correctly rounded quotient (R220). -/
def fpDiv (a b : W32) : W32 :=
  match dec32 a, dec32 b with
  | .nan, _ => fpNaN
  | _, .nan => fpNaN
  | .inf _, .inf _ => fpNaN
  | .inf s, .fin t _ _ => fpInf (s != t)
  | .fin s _ _, .inf t => if s != t then 0x80000000#32 else 0
  | .fin s m e, .fin t k f =>
    if k = 0 then (if m = 0 then fpNaN else fpInf (s != t))
    else let (n, d) := scaleRat m k (e - f); round32Rat (s != t) n d

/-- Integer square root, one bit at a time from bit k down. -/
def isqrtFrom (x : Nat) : Nat → Nat → Nat
  | 0, r => if (r + 1) * (r + 1) ≤ x then r + 1 else r
  | k + 1, r =>
    let t := r + 2 ^ (k + 1)
    isqrtFrom x k (if t * t ≤ x then t else r)

/-- Correctly rounded square root (R220): the integer root with a sticky bit below it. -/
def fpSqrt (a : W32) : W32 :=
  match dec32 a with
  | .nan => fpNaN
  | .inf s => if s then fpNaN else fpInf false
  | .fin s m e =>
    if m = 0 then a
    else if s then fpNaN
    else
      let (m, e) := if e % 2 = 0 then (m, e) else (2 * m, e - 1)
      let x := m <<< 64
      let r := isqrtFrom x 64 0
      let n := 2 * r + (if r * r = x then 0 else 1)
      let (a, b) := scaleRat n 1 (e / 2 - 33)
      round32Rat false a b

def fpNeg (a : W32) : W32 := if isNaN32 a then fpNaN else a ^^^ 0x80000000#32
def fpAbs (a : W32) : W32 := if isNaN32 a then fpNaN else a &&& 0x7FFFFFFF#32

/-- a < b on exact values; false with a NaN. -/
def Fp.lt (a b : Fp) : Bool :=
  match a.add b.neg with
  | .nan => (match a, b with
    | .inf s, .inf t => s && !t
    | _, _ => false)
  | .inf s => s
  | .fin s m _ => s && m != 0

def fpLt (a b : W32) : Bool := (dec32 a).lt (dec32 b)
def fpLe (a b : W32) : Bool := !isNaN32 a && !isNaN32 b && !fpLt b a

/-- Minimum and maximum: a NaN operand gives NaN; min (+0, −0) = −0, max = +0 (R71, R220). -/
def fpMin (a b : W32) : W32 :=
  if isNaN32 a || isNaN32 b then fpNaN
  else if isZero32 a && isZero32 b then a ||| b
  else if fpLt a b then a else b

def fpMax (a b : W32) : W32 :=
  if isNaN32 a || isNaN32 b then fpNaN
  else if isZero32 a && isZero32 b then a &&& b
  else if fpLt a b then b else a

/-- FP32 narrowed to BF16: nearest even, finite overflow saturates (R37, R38). -/
def narrowBf16 (w : W32) : W16 :=
  match dec32 w with
  | .nan => 0x7FC0#16
  | .inf s => if s then 0xFF80#16 else 0x7F80#16
  | .fin s m e =>
    let (a, b) := scaleRat m 1 e
    let (q, E) := roundRat 8 (-133) a b
    let (q, E) := if q ≥ 2 ^ 8 then (q / 2, E + 1) else (q, E)
    let sg : Nat := if s then 2 ^ 15 else 0
    if q < 2 ^ 7 then BitVec.ofNat 16 (sg + q)
    else
      let ex := (E + 134).toNat
      if ex ≥ 255 then BitVec.ofNat 16 (sg + 0x7F7F)
      else BitVec.ofNat 16 (sg + ex * 2 ^ 7 + (q - 2 ^ 7))

/-- BF16 is the upper half of binary32 (R30). -/
def widenBf16 (h : W16) : W32 := (h.zeroExtend 32) <<< 16

/-- Narrow and widen again: a lane value in BF16 lane mode (R70). -/
def roundBf16 (w : W32) : W32 := widenBf16 (narrowBf16 w)

/-- The constants 1.0 and 0.0. -/
def fpOne : W32 := 0x3F800000#32
def fpZero : W32 := 0

/-- A fixed pairwise tree: element 2l with 2l + 1 at each level (R73, R240). Fuel bounds the depth. -/
def treeFold (f : W32 → W32 → W32) : Nat → List W32 → W32
  | 0, xs => xs.headD 0
  | k + 1, xs => treeFold f k (pairUp f xs)
where
  pairUp (f : W32 → W32 → W32) : List W32 → List W32
    | a :: b :: t => f a b :: pairUp f t
    | xs => xs

/-- A sum in list order, each addition rounded (R65, R66, R73). -/
def fpSum (xs : List W32) : W32 := xs.foldl fpAdd fpZero

end Sys2Proof.Machine
end

