-- ==== Sys2Proof/Machine/StateCfg.lean ====
section
/-! DEFINITION. The loaded image: its tables (R129 to R139, R235, R236, R346) and the image state (R146, R155). -/
namespace Sys2Proof.Machine

/-- Image states (R146). -/
inductive ImgState where
  | held | loading | ready | running | stopping
  deriving DecidableEq, Repr

def ImgState.num : ImgState → Nat
  | .held => 0 | .loading => 1 | .ready => 2 | .running => 3 | .stopping => 4

/-- An entry of TIMING_TABLE (R135). -/
structure TimingEntry where
  opcode : Nat
  cls : Nat
  unitBytes : Nat
  base : Nat
  perUnit : Nat
  max : Nat
  deriving DecidableEq, Repr

/-- TIMING_TABLE (R135). -/
structure Timing where
  stepDt : Nat := 0
  boundaryDt : Nat := 0
  entries : List TimingEntry := []
  deriving DecidableEq, Repr

/-- Working-copy descriptor (R236). -/
structure CopyDesc where
  fmt : Nat := 0
  gsz : Nat := 0
  bpg : Nat := 0
  en : Bool := false
  axis : Bool := false
  plat : Nat := 0
  mu : Nat := 0
  region : Nat := 0
  gather : Bool := false
  deriving DecidableEq, Repr

/-- PIECE item (R235). `item` is its index in PARAM_REGIONS. -/
structure Piece where
  item : Nat
  rPlat : Nat
  rMu : Nat
  rReg : Nat
  hPlat : Nat
  hMu : Nat
  hReg : Nat
  eEn : Bool
  raw : Bool
  e0 : Nat
  n : Nat
  gFmt : Nat
  eFmt : Nat
  gsz : Nat
  bpg : Nat
  deriving DecidableEq, Repr

/-- REGION item with its pieces (R235). -/
structure Region where
  rule : Nat
  tier : Nat
  au : Nat
  trustGroup : Nat
  sparse : Bool
  frozen : Bool
  elements : Nat
  matCols : Nat
  ownerDev : Nat
  stateOff : Nat
  stateOffB : Nat
  copy0 : CopyDesc
  copy1 : CopyDesc
  mapBase : Nat
  precond : W64
  betaF : W32
  pieces : List Piece
  deriving DecidableEq, Repr

/-- Seal entry (R346). -/
structure SealEntry where
  dev : Nat
  rset : Nat
  shard : Nat
  deriving DecidableEq, Repr

/-- Stream entry (R346). -/
structure StreamEntry where
  mode : Nat
  contrib : Nat
  dstDev : Nat
  bm : Nat
  doneBm : Nat
  src : Nat
  dst : Nat
  tokens : Nat
  thr0 : W32
  inc : W32
  doneInc : Nat
  spread : Bool
  cbm : Nat
  srcAdv : Int
  advPeriod : Nat
  deriving DecidableEq, Repr

/-- LUMOUX_PLAN (R346). -/
structure Plan where
  dev : Nat := 0
  rset : Nat := 0
  shard : Nat := 0
  shards : Nat := 0
  portMask : W32 := 0
  credit : List Nat := []
  weights : List Nat := []
  seals : List SealEntry := []
  streams : List StreamEntry := []
  deriving DecidableEq, Repr

/-- A DRAM_LAYOUT range (R274). -/
structure DramRange where
  kind : Nat
  gran : Nat
  chans : Nat
  base : Nat
  len : Nat
  local0 : Nat
  plat : Nat := 0
  mu : Nat := 0
  region : Nat := 0
  buddyDev : Nat := 0
  deriving DecidableEq, Repr

/-- DMA program entry or host descriptor (R184): six words. -/
structure DmaDesc where
  w0 : W64 := 0
  w1 : W64 := 0
  w2 : W64 := 0
  w3 : W64 := 0
  w4 : W64 := 0
  w5 : W64 := 0
  deriving DecidableEq, Repr

/-- The tables of the loaded image. Items whose fields are register words stay as words. -/
structure Cfg where
  /-- SITE_MAP byte by 512p + s (R133). -/
  siteMap : SMap Nat := []
  timing : Timing := {}
  /-- POWER_BUDGET fields (R136). -/
  budget : List Nat := []
  /-- RULE_TABLE: 16 words per row (R225). -/
  rules : List (List W64) := []
  regions : List Region := []
  plan : Plan := {}
  layout : List DramRange := []
  /-- PLAT_PROGRAM entries by plat: DMA entries, triggers, stash entries, hand-off entries (R195), as words. -/
  platProg : SMap (List (List W64)) := []
  /-- SEQ_PROGRAM items by plat, as words (R196). -/
  seqProg : SMap (List (List W64)) := []
  /-- Initial benchmark objects by index, 16 bytes each (R134, R202). -/
  bmkInit : List (Nat × W64 × W64) := []
  deriving DecidableEq, Repr

/-- Image registers and the load in progress (R152, R155). -/
structure Img where
  state : ImgState := .held
  stageBase : W64 := 0
  stageLen : W64 := 0
  loaded : Bool := false
  partialBusy : Bool := false
  partialMask : W64 := 0
  code : Code := 0
  check : Nat := 0
  plat : Nat := 0
  section_ : Nat := 0
  item : W32 := 0
  progress : Nat := 0
  /-- How far the running load was when last read (the model's own; log entry 94). -/
  course : Nat := 0
  cfgId : List Byte := List.replicate 64 0
  fullId : List Byte := List.replicate 64 0
  layoutId : List Byte := List.replicate 64 0
  /-- A STOP in progress: pass 2 had started when it was accepted (R149). -/
  stopAtBoundary : Bool := false
  /-- Regions that STOP left DRAINED, reopened by START (R148). -/
  stopDrained : Bool := false
  deriving DecidableEq, Repr

/-- A coefficient entry (R252). -/
structure CoefEntry where
  step : Step
  row : Nat
  index : Nat
  value : W32
  deriving DecidableEq, Repr

/-- A freeze change accepted for a step (R254). -/
structure FreezeEntry where
  step : Step
  region : Nat
  bit : Bool
  deriving DecidableEq, Repr

/-- A factor block of the preconditioner and its inverse root, as one bank holds them (R258). -/
structure FactorSt where
  factor : List (List W32) := []
  root : List (List W32) := []
  deriving DecidableEq, Repr

/-- A step of the device (R242 to R255, R360, R403). -/
structure Adj where
  /-- A step is in progress, from its T_s to its boundary. -/
  inStep : Bool := false
  ts : W64 := 0
  /-- No step has started since START or a restart: the next T_s grants the initial credit (R97). -/
  fresh : Bool := true
  /-- Ids of the STEP_START orders: the one running and the one waiting. -/
  curStart : Option Nat := none
  nextStart : Option Nat := none
  sealSent : Option Bool := none
  gateSent : Option Bool := none
  commitSent : Option Bool := none
  recs : List NormRec := []
  sealed : Bool := false
  gateOk : Bool := false
  /-- A contained fault was raised on this device since the step started (R242). -/
  kFault : Bool := false
  /-- Requantised pieces of the step, by item index, with their partials (R240). -/
  partials : List (Nat × W32) := []
  /-- An all-gather write was answered with another code than OK (R250). -/
  gatherBad : Bool := false
  gsq : W32 := 0
  norm : W32 := 0
  /-- Trust factor by trust group (R223). -/
  trust : SMap W32 := []
  coefs : List CoefEntry := []
  freeze : BitVec 4096 := 0
  freezeNext : List FreezeEntry := []
  /-- Bank-difference bits of dense regions (R255). -/
  dbits : BitVec 4096 := 0
  exch : W64 := 0
  pass2 : Bool := false
  /-- Factors and inverse roots of the preconditioner, by bank, region and block (R258, R259; log entry 95). -/
  factors : SMap FactorSt := []
  deriving DecidableEq, Repr

/-- One AU (R262). -/
structure Au where
  phase : Nat := 0
  step : Step := 0
  fault : W64 := 0
  cntElem : W64 := 0
  cntStall : W64 := 0
  precond : W64 := 0
  peak : Nat := 0
  /-- Pass position: region, piece and element or slot next read; parked slots of R256. -/
  region : Nat := 0
  piece : Nat := 0
  pos : Nat := 0
  lastIndex : Option Nat := none
  parked : List (Nat × Nat × Nat × Nat) := []
  passDone : Bool := false
  /-- Sums of the pass by trust group, and the chunk in progress. -/
  sums : SMap (W32 × W32) := []
  chunk : List (W32 × W32) := []
  /-- AU_COEF_LIVE: replaced coefficients by 32·row + index (R234). -/
  live : SMap (Option W32) := []
  deriving DecidableEq, Repr

end Sys2Proof.Machine
end

