-- ==== Sys2Proof/Machine/StateFault.lean ====
section
/-! DEFINITION. State of error detection and fault handling (R397 to R423). -/
namespace Sys2Proof.Machine

/-- Fault classes with their record values (R397). -/
inductive FClass where
  | corr | cont | fatal | stat
  deriving DecidableEq, Repr

def FClass.num : FClass → Nat
  | .corr => 1 | .cont => 2 | .fatal => 3 | .stat => 4

/-- FLT_STATUS.step_state (R423). -/
inductive StepState where
  | idle | running | failed | quiescing | restarted
  deriving DecidableEq, Repr

def StepState.num : StepState → Nat
  | .idle => 0 | .running => 1 | .failed => 2 | .quiescing => 3 | .restarted => 4

/-- A fault record (R413); its crc is computed when it is read. -/
structure FaultRec where
  seq : W64
  time : W64
  step : Step
  code : Code
  cls : FClass
  srcKind : Nat
  srcInst : Nat
  count : Nat := 1
  first : Bool := false
  running : Bool := false
  merged : Bool := false
  imgState : Nat := 0
  detail : W64 := 0
  deriving DecidableEq, Repr

/-- FLT_FIRST (R417). -/
structure FltFirst where
  code : Code := 0
  srcKind : Nat := 0
  srcInst : Nat := 0
  valid : Bool := false
  deriving DecidableEq, Repr

/-- A copy of the fence map in MRAM (R419): its seq and the bitmap of bytes 0x80 to 0x2FF. -/
structure FenceCopy where
  seq : W64
  bitmap : BitVec 5120
  deriving DecidableEq, Repr

/-- Operations of FLT_FENCE_CMD (R420). -/
inductive FenceOp where
  | add (b : Nat)
  | remove (b : Nat)
  | confirm
  deriving DecidableEq, Repr

/-- Fence map state (R419 to R421). -/
structure Fence where
  /-- Valid copies; none where magic or digest is wrong. -/
  copy0 : Option FenceCopy := some { seq := 1, bitmap := 0 }
  copy1 : Option FenceCopy := none
  lost : Bool := false
  busy : Option FenceOp := none
  result : Code := 0
  deriving DecidableEq, Repr

/-- The fault registers, the record buffer and the ring (R413 to R423). -/
structure Flt where
  stepState : StepState := .idle
  dropped : Nat := 0
  first : FltFirst := {}
  /-- The step whose T_s came last, until its boundary (R417). -/
  begun : Option Step := none
  /-- The data of the next transfer to or from an MU over the spine arrive damaged (R399). -/
  spineBad : Bool := false
  attemptStep : Step := 0
  attempts : Nat := 0
  cntC : W64 := 0
  cntK : W64 := 0
  cntF : W64 := 0
  head : W64 := 0
  sel : W64 := 0
  /-- Records given a seq and not yet in MRAM, in seq order (R415). -/
  buffer : List FaultRec := []
  /-- Ring entries by entry number seq mod 65,536 (R416). -/
  ring : SMap (Option FaultRec) := []
  fence : Fence := {}
  /-- QUIESCING has ended and the restart actions are under way (R408). -/
  restarting : Bool := false
  deriving DecidableEq, Repr

end Sys2Proof.Machine
end

