-- ==== Sys2Proof/Machine/StateLink.lean ====
section
/-! DEFINITION. State of the Lumoux ports and the group (R317 to R351), of datum time (R352 to R359)
and of the command path (R360 to R374). -/
namespace Sys2Proof.Machine

/-- A command with the opcode its row fixes (R361, R362). -/
structure CmdWord where
  opcode : W16
  desc : CmdDesc
  deriving DecidableEq, Repr

/-- A completion (R363). -/
structure Cpl where
  status : Code
  opcode : W16
  slot : W16
  late : Bool := false
  value : W64 := 0
  deriving DecidableEq, Repr

/-- Argument and payload of a transaction, by type (R331). -/
inductive TBody where
  | rwrite (addr : W64) (data : List Byte) (poison : Bool)
  | rread (addr : W64) (bytes : W32)
  | resp (code : Code) (answered : Byte) (value : W64) (data : List Byte)
  | bmk (index : W16) (op : Nat) (v : W32)
  | coll (addr : W64) (mode contrib : Byte) (entry : W16) (tokens : List PTok)
  | norm (rec : NormRec)
  /-- The type of the frame (R301): 1 CHUNK, 2 RECORD, 3 ABANDON, 4 ACK, 5 PULL. -/
  | mon (kind : Nat) (frame : MonFrame)
  | cmd (word : CmdWord)
  | cpl (c : Cpl)
  | datum (f : DatumFrame)
  | mgmt (write : Bool) (addr : W64) (value : W64)
  | announce (a : Announce)
  | keyx (ciphertext transcript signature : List Byte)
  | member (t : MTable)
  | linkstate (keyId : List Byte) (ports : List PortEntry)
  | other (typ : Byte) (args : BitVec 128) (payload : List Byte)
  deriving DecidableEq, Repr

/-- A transaction (R330). `array`: it belongs to the running array (R326, R332, R343). `frag`: the number of the
fragment of the body that it carries, where the body travels in several (R331). `inPort`: the port whose receive buffer
still holds it, since no port could take it on (R328). `spoiled`: the data of a RESP is marked poisoned (R270). -/
structure Trans where
  src : W16
  dst : W16
  tag : W16
  hops : Nat := 15
  array : Bool := false
  body : TBody
  frag : Option Nat := none
  inPort : Option Nat := none
  spoiled : Bool := false
  deriving DecidableEq, Repr

/-- LX_PORT_STATUS.state (R321). -/
inductive PortState where
  | off | down | training | linked | secure | isolated
  deriving DecidableEq, Repr

def PortState.num : PortState → Nat
  | .off => 0 | .down => 1 | .training => 2 | .linked => 3 | .secure => 4 | .isolated => 5

/-- Session keys and salts of one key phase (R335, R336). -/
structure LinkKeys where
  txKey : List Byte := []
  rxKey : List Byte := []
  txSalt : List Byte := []
  rxSalt : List Byte := []
  txCount : W64 := 0
  rxCount : W64 := 0
  deriving DecidableEq, Repr

/-- Secrets of one side's key exchange (R335): its decapsulation key and the secret of its own encapsulation. -/
structure KemSide where
  dk : List Byte := []
  ss : List Byte := []
  deriving DecidableEq, Repr

/-- The last datum frame received on a port (R352, R354). -/
structure FrameSeen where
  frame : DatumFrame
  arrival : W64
  arrivalFrac : W16
  deriving DecidableEq, Repr

/-- One Lumoux port. -/
structure Port where
  en : Bool := true
  loopback : Bool := false
  state : PortState := .off
  /-- Light at the laser input, and a valid signal on all 8 receive lanes (R320, R322). -/
  light : Bool := false
  signal : Bool := false
  lanes : Byte := 0
  peerKind : Nat := 0
  peerPort : Nat := 0
  peerNum : Nat := 0
  peerValid : Bool := false
  peerKey : List Byte := []
  keyPhase : Bool := false
  keys : LinkKeys := {}
  /-- Keys of the old phase, accepted for 1 ms after the switch (R337). -/
  oldKeys : Option LinkKeys := none
  /-- Keys of a rekey whose own KEYX still waits (R337). -/
  nextKeys : Option LinkKeys := none
  /-- A rekey is in progress (R337). -/
  rekey : Bool := false
  /-- This side's ANNOUNCE of the exchange in progress with its secrets, and the peer's once verified. -/
  kem : KemSide := {}
  myAnnounce : Option Announce := none
  peerAnnounce : Option Announce := none
  fault : W64 := 0
  cntFecCe : W64 := 0
  cntFecUe : W64 := 0
  cntCrc : W64 := 0
  cntReplay : W64 := 0
  cntTx : W64 := 0
  cntRx : W64 := 0
  cntFwd : W64 := 0
  /-- Flits sent whose credit has not come back, by channel (R328). -/
  txSpent : List Nat := [0, 0, 0, 0, 0, 0, 0, 0]
  /-- Receive flits held, and credit owed to the peer, by channel. -/
  rxUsed : List Nat := [0, 0, 0, 0, 0, 0, 0, 0]
  owed : List Nat := [0, 0, 0, 0, 0, 0, 0, 0]
  /-- Transactions that wait for credit or for replay room, oldest first. -/
  waiting : List Trans := []
  /-- Deficits of VC4, VC6 and VC7 (R327). -/
  deficit : List Nat := [0, 0, 0]
  /-- Number of the next DATA flit sent, the unacknowledged DATA flits oldest first, and the unacknowledged
  transactions with their last numbers (R326). -/
  txSeq : W16 := 0
  replay : List Flit := []
  inFlight : List (W16 × Trans) := []
  /-- Next DATA number expected, flits received since the last report, a nak not yet answered. -/
  rxSeq : W16 := 0
  unreported : Nat := 0
  nak : Option W16 := none
  /-- Bytes of the transaction that is arriving on a channel, and whole transactions that await their tag (R323, R328). -/
  rxBytes : SMap (List Byte) := []
  rxWhole : List (Nat × List Byte) := []
  /-- naks received in a row that name the same number (R326). -/
  nakSeen : Option (W16 × Nat) := none
  /-- Number of the next datum frame, when the last one was sent, and the last one that came (R352, R353). -/
  dtmSeq : W16 := 0
  frameSent : Option W64 := none
  frame : Option FrameSeen := none
  deriving DecidableEq, Repr

/-- What a response completes (R332). -/
inductive ReqKind where
  | stream (entry : Nat)
  | dmaRow (plat ix : Nat)
  | gather
  | bmkAdd
  | bcast (dev : Nat)
  | plain
  deriving DecidableEq, Repr

/-- An outstanding request (R332). -/
structure Req where
  tag : W16
  dst : W16
  typ : Nat
  kind : ReqKind
  array : Bool
  failed : Bool := false
  /-- Port it was sent on. -/
  port : Nat := 0
  deriving DecidableEq, Repr

/-- A stream entry's trigger state (R348). -/
structure StreamSt where
  thr : W32 := 0
  fired : Nat := 0
  deriving DecidableEq, Repr

/-- A link-state report kept for the datum master (R340). -/
structure LinkReport where
  keyId : List Byte
  ports : List PortEntry
  deriving DecidableEq, Repr

/-- A body that is being reassembled from its fragments (R331): its source and type, what it is, the parts that came. -/
structure Partial where
  src : W16
  body : TBody
  got : List Frag
  deriving DecidableEq, Repr

/-- Group state (R339 to R351). -/
structure Lxg where
  table : Option MTable := none
  pendingTable : Option MTable := none
  rejected : Nat := 0
  faultLoc : W64 := 0
  strapBridge : Bool := false
  /-- Key id of the identity key (SEC_KEY_ID, R456). -/
  ownKeyId : List Byte := List.replicate 64 0
  /-- Last flood sequence number forwarded, by src. -/
  floodSeen : SMap (Option W16) := []
  floodTag : W16 := 0
  nextTag : W16 := 0
  reqs : List Req := []
  /-- Firing state by stream entry. -/
  streams : SMap StreamSt := []
  reports : List LinkReport := []
  /-- Transactions of other devices that wait for a port (R329), and bodies under reassembly (R331). -/
  held : List Trans := []
  parts : List Partial := []
  /-- Rows sent against each credit benchmark by stream entries (R98). -/
  sent : SMap W32 := []
  deriving DecidableEq, Repr

/-- DTM_STATUS.state (R355). -/
inductive DtmState where
  | acquiring | locked | holdover | localRef | master
  deriving DecidableEq, Repr

def DtmState.num : DtmState → Nat
  | .acquiring => 0 | .locked => 1 | .holdover => 2 | .localRef => 3 | .master => 4

/-- Datum time (R352 to R359, R374). Offsets in units of 2^−17 dt, so that R354's halving is exact. -/
structure Dtm where
  role : Bool := false
  state : DtmState := .acquiring
  time : W64 := 0
  frac : W16 := 0
  /-- What is still to be absorbed of the averaged offset by a change of rate, 2^−17 dt (R354). -/
  slew : Int := 0
  port : Option (Fin 32) := none
  hops : Nat := 15
  refLost : Bool := false
  offsets : List Int := []
  good : Nat := 0
  offset : W16 := 0
  memberEpoch : W32 := 0
  masterTag : W64 := 0
  lowestTag : Option W64 := none
  frameStep : Step := 0
  frameStepTime : W64 := 0
  mstep : Step := 0
  mstepTime : W64 := 0
  localStep : Step := 0
  localStepTime : W64 := 0
  latched : Step := 0
  cntFrames : W64 := 0
  lastFrameAt : W64 := 0
  holdoverAt : W64 := 0
  /-- State entered once every PLL has reached nominal (R380). -/
  relockTo : Option DtmState := none
  deriving DecidableEq, Repr

/-- An order of a datum tick as the others of the tick meet it (R369), and its number where it was accepted. -/
structure TickOrder where
  id : Option Nat
  rival : Rival
  deriving DecidableEq, Repr

/-- An accepted or running order (R365, R366). -/
structure Held where
  id : Nat
  word : CmdWord
  origin : Origin
  port : Nat
  arrival : Arrival
  te : W64
  timed : Bool
  start : W64 := 0
  dur : W64 := 0
  started : Bool := false
  missed : Bool := false
  /-- What a security service will find when it runs. -/
  seen : SecSeen := {}
  deriving DecidableEq, Repr

/-- CMD_ARB_LOG entry (R374). -/
structure ArbEntry where
  word : W64 := 0
  tick : W64 := 0
  deriving DecidableEq, Repr

/-- A notification (R363, R364). -/
structure Notice where
  index : Nat
  tag : Nat
  count : W32
  deriving DecidableEq, Repr

/-- A result slot (R371). -/
structure Slot where
  ready : Bool := false
  accepted : Bool := false
  busy : Bool := false
  readCount : Nat := 0
  w1 : W64 := 0
  w2 : W64 := 0
  data : List W64 := []
  deriving DecidableEq, Repr

/-- Broadcast results (R372, R374). -/
structure Bcast where
  /-- Opcode sent, and devices whose CPL is awaited. -/
  opcode : W16 := 0
  waitingOn : List Nat := []
  ok : Nat := 0
  fail : Nat := 0
  firstDev : Nat := 0
  firstCode : Code := 0
  deriving DecidableEq, Repr

/-- The command path (R361 to R374). -/
structure Cmd where
  submit : List W64 := List.replicate 8 0
  lastCode : Code := 0
  arbHead : Nat := 0
  arbLog : SMap ArbEntry := []
  notify : W64 := 0
  notices : List Notice := []
  dropped : Nat := 0
  bcastDesc : List W64 := List.replicate 8 0
  bcast : Bcast := {}
  slots : SMap Slot := []
  /-- Orders accepted and not complete, in order of arrival. -/
  held : List Held := []
  nextId : Nat := 0
  /-- The orders that arrived in the datum tick `tickAt` (R369). -/
  tick : List TickOrder := []
  tickAt : W64 := 0
  deriving DecidableEq, Repr

end Sys2Proof.Machine
end

