-- ==== Sys2Proof/Machine/SMap.lean ====
section
/-! DEFINITION. Reading and writing a sparse array in its canonical form. -/
namespace Sys2Proof.Machine

/-- The entry at key k; an unlisted key reads as the default. -/
def SMap.get {α : Type} (d : α) : SMap α → Nat → α
  | [], _ => d
  | e :: t, k => if e.1 = k then e.2 else SMap.get d t k

def SMap.erase {α : Type} (m : SMap α) (k : Nat) : SMap α := m.filter (fun e => e.1 != k)

/-- A new key put in its sorted place. -/
def SMap.ins {α : Type} : SMap α → Nat → α → SMap α
  | [], k, v => [(k, v)]
  | e :: t, k, v => if k < e.1 then (k, v) :: e :: t else e :: SMap.ins t k v

/-- Writing the default removes the entry, so that equal arrays are equal data. -/
def SMap.set {α : Type} [DecidableEq α] (d : α) (m : SMap α) (k : Nat) (v : α) : SMap α :=
  if v = d then SMap.erase m k else SMap.ins (SMap.erase m k) k v

/-- The canonical form: keys strictly rising, no entry the default. -/
def SMap.wf {α : Type} [DecidableEq α] (d : α) : SMap α → Bool
  | [] => true
  | [e] => e.2 != d
  | e :: f :: t => e.2 != d && e.1 < f.1 && SMap.wf d (f :: t)

/-- A list laid out at consecutive keys from k. -/
def SMap.run {α : Type} [DecidableEq α] (d : α) : Nat → List α → SMap α
  | _, [] => []
  | k, v :: t => if v = d then SMap.run d (k + 1) t else (k, v) :: SMap.run d (k + 1) t

/-- The entries of consecutive keys from k become those of a list. -/
def SMap.setList {α : Type} [DecidableEq α] (d : α) (m : SMap α) (k : Nat) (vs : List α) : SMap α :=
  m.filter (fun e => e.1 < k) ++ SMap.run d k vs ++ m.filter (fun e => k + vs.length ≤ e.1)

/-- The entries of n consecutive keys from k. -/
def SMap.getList {α : Type} (d : α) (m : SMap α) (k n : Nat) : List α :=
  let w := m.filter (fun e => k ≤ e.1 && e.1 < k + n)
  (List.range n).map (fun i => SMap.get d w (k + i))

/-- Entries with keys from lo up to, not including, hi removed. -/
def SMap.clear {α : Type} (m : SMap α) (lo hi : Nat) : SMap α :=
  m.filter (fun e => e.1 < lo || hi ≤ e.1)

/-- Every entry changed by f; entries that become the default are removed. -/
def SMap.mapVals {α : Type} [DecidableEq α] (d : α) (f : Nat → α → α) (m : SMap α) : SMap α :=
  (m.map (fun e => (e.1, f e.1 e.2))).filter (fun e => e.2 != d)

/-- Memory: bytes by address; a byte nothing has written reads 0 (log entry 2). -/
abbrev Memory := SMap Byte

namespace Memory

abbrev wf (m : Memory) : Bool := SMap.wf 0 m

def byte (m : Memory) (a : Nat) : Byte := SMap.get 0 m a

def write (m : Memory) (a : Nat) (bs : List Byte) : Memory := SMap.setList 0 m a bs

def read (m : Memory) (a n : Nat) : List Byte := SMap.getList 0 m a n

end Memory

end Sys2Proof.Machine
end

