-- ==== Sys2Proof/Machine/StateMem.lean ====
section
/-! DEFINITION. State of external memory (R263 to R287). -/
namespace Sys2Proof.Machine

/-- MG_CHAN_STATUS.state (R287). -/
inductive ChanState where
  | absent | up | failed | mismatch | fenced
  deriving DecidableEq, Repr

def ChanState.num : ChanState → Nat
  | .absent => 0 | .up => 1 | .failed => 2 | .mismatch => 3 | .fenced => 4

/-- One DDR5 channel. -/
structure Chan where
  state : ChanState := .absent
  hot : Bool := false
  fullTrained : Bool := false
  capacity : Nat := 0
  ranks : Nat := 0
  speed : Nat := 0
  spd : List Byte := []
  /-- MG_ECC_CE, and corrections by 32·rank + device since start-up (MG_CHIP_CE). -/
  eccCe : W32 := 0
  chipCe : SMap Nat := []
  /-- Next burst of the patrol scrubber. -/
  scrubPos : Nat := 0
  deriving DecidableEq, Repr

/-- A symbol of a burst that is damaged and that no read has met yet (R269): its codeword, rank and device. -/
structure DevHit where
  word : Nat
  rank : Nat
  device : Nat
  deriving DecidableEq, Repr

/-- One memory group (R287). -/
structure Mg where
  fault : W64 := 0
  period : W32 := 69120
  passes : W32 := 0
  /-- Channels of the group that have completed the pass in hand. -/
  passed : Nat := 0
  eccLoc : W64 := 0
  cntPoison : W32 := 0
  cntRd : W64 := 0
  cntWr : W64 := 0
  deriving DecidableEq, Repr

/-- DRAM: bytes at channel·2^40 + local address; poison codes and damage at channel·2^33 + burst. -/
structure Dram where
  mem : Memory := []
  poison : SMap Bool := []
  err : SMap (List DevHit) := []
  chans : SMap Chan := []
  mgs : SMap Mg := []
  selfRefresh : Bool := false
  /-- Row requests that the controllers have taken so far (R268; the model's own). -/
  arrivals : Nat := 0
  deriving DecidableEq, Repr

end Sys2Proof.Machine
end

