-- ==== Sys2Proof/Machine/StateMon.lean ====
section
/-! DEFINITION. State of the monument engine, of restores and buddy slots, and of closure checks (R288 to R316). -/
namespace Sys2Proof.Machine

/-- A segment entry of a monument (R288, R290). -/
structure MonSeg where
  kind : Nat
  item : Nat
  off : Nat
  len : Nat
  src : Nat
  deriving DecidableEq, Repr

/-- A frame sent and not yet acknowledged with OK (R302): chunk index or the record's number, sends so far, and
whether a RETRY waits for its millisecond. -/
structure MonSent where
  index : Nat
  bytes : List Byte
  digest : List Byte
  sends : Nat := 1
  retry : Bool := false
  deriving DecidableEq, Repr

/-- A monument stream: a capture of this device (`own`), or a stored monument streamed to a restoring device. -/
structure MonJob where
  own : Bool
  step : Nat
  src : Nat
  dst : W16
  mask : W32
  window : Nat
  /-- Progress benchmark. -/
  bm : Option Nat
  /-- Manifest with its padding, segments, and the snapshots of RULE and FREEZE (R288 to R290, R294). -/
  head : List Byte
  segs : List MonSeg
  rule : List Byte
  freeze : List Byte
  /-- Stored monument: address of its body. -/
  base : Nat
  len : Nat
  next : Nat := 0
  flight : List MonSent := []
  digests : List (List Byte) := []
  /-- The record, once signed (R293) or as stored. -/
  record : Option (List Byte) := none
  recordOut : Bool := false
  deriving DecidableEq, Repr

/-- A restore in progress (R309, R310). -/
structure Restore where
  /-- Step asked for; none: the newest, or the pushed one, until its first frame. -/
  step : Option Nat
  /-- Source device of the monument; none: pushed by a host endpoint. -/
  from_ : Option Nat
  peer : W16
  mask : W32
  /-- The manifest header has been checked; what it says. -/
  seed : Option (W64 × W64) := none
  got : SMap (List Byte) := []
  deriving DecidableEq, Repr

/-- A buddy slot being filled (R303). -/
structure Fill where
  src : Nat
  step : Nat
  slot : Nat
  len : Nat
  got : SMap (List Byte) := []
  deriving DecidableEq, Repr

/-- A closure record received or sent (R306): device, step, root, and the fault of a FAIL vote. -/
structure CloRec where
  dev : Nat
  step : Nat
  root : List Byte
  fail : Option Code
  deriving DecidableEq, Repr

/-- A closure check not yet judged (R307); `bad`: a member's record named a step at which no check is due; `strays`: members
whose record of another due step came while the check was open. -/
structure CloCheck where
  step : Nat
  at_ : W64
  recs : List CloRec := []
  bad : Bool := false
  strays : List Nat := []
  deriving DecidableEq, Repr

/-- The monument engine (R316). -/
structure Mon where
  /-- MON_CTL: window 8, and the share of the ROM defaults, 25 (R316, R462). -/
  ctl : W64 := 0x819
  sink : W64 := 0
  job : Option MonJob := none
  restore : Option Restore := none
  fills : List Fill := []
  restoreBad : Bool := false
  result : Code := 0
  resultStep : Nat := 0
  acked : Nat := 0
  total : Nat := 0
  seed0 : W64 := 0
  seed1 : W64 := 0
  root : List Byte := List.replicate 64 0
  /-- A step boundary has occurred since the last LOAD or restore, and the last step whose pass 2 started (R294). -/
  boundary : Bool := false
  pass2Step : Option Nat := none
  interval : W32 := 0
  /-- Closure digest running, for the step named; checks not judged; records of checks still to come (R305 to R308). -/
  digest : Option Nat := none
  /-- Body bytes of that step which the monument stream has read for the digest too, and whether it met poison (R308). -/
  digestRead : Nat := 0
  digestBad : Bool := false
  checks : List CloCheck := []
  early : List CloRec := []
  closeStatus : W64 := 0
  closeRoot : List Byte := List.replicate 64 0
  deriving DecidableEq, Repr

def MonJob.total (j : MonJob) : Nat := (j.len + 0xFFFFF) / 0x100000

/-- Steps whose bank a capture or a closure digest holds locked (R295, R305). -/
def Mon.locks (m : Mon) : List Nat :=
  (match m.job with | some j => if j.own then [j.step] else [] | none => []) ++ m.digest.toList

/-- The ERROR segment of a piece is still to be read (R296). -/
def Mon.errorPending (m : Mon) (c item : Nat) : Bool :=
  (match m.job with
   | some j => j.own && j.step + 2 == c && j.segs.any (fun g => g.kind == 1 && g.item == item && j.next * 0x100000 < g.off + g.len)
   | none => false)
  || m.digest.any (fun n => n + 2 == c)

/-- MON_STATUS.state. -/
def Mon.stateNum (m : Mon) : Nat :=
  if m.restore.isSome then 3
  else match m.job with
    | some j => if j.recordOut then 2 else 1
    | none => 0

def Mon.stepNow (m : Mon) : Nat :=
  match m.job, m.restore with
  | some j, _ => j.step
  | none, some r => r.step.getD 0
  | none, none => 0

end Sys2Proof.Machine
end

