-- ==== Sys2Proof/Machine/StateSys.lean ====
section
/-! DEFINITION. State of clocks and power (R375 to R396, R486), the security block (R424 to R456), the MRAM and
start-up (R457 to R473), JTAG and the SMBus target (R450, R493, R494). -/
namespace Sys2Proof.Machine

/-- CLK_DOM_STATUS.pll (R395). -/
inductive Pll where
  | unlocked | locked | gliding | coasting
  deriving DecidableEq, Repr

def Pll.num : Pll → Nat
  | .unlocked => 0 | .locked => 1 | .gliding => 2 | .coasting => 3

/-- Clocks (R395). -/
structure Clk where
  /-- PLL state by domain. -/
  pll : SMap Pll := []
  gateMode : BitVec 25 := 0
  /-- Gates closed by command and block clocks stopped in automatic mode, by 32·domain + gate (R384, R386). -/
  closed : SMap Bool := []
  stopped : SMap Bool := []
  gateResult : Code := 0
  /-- Local input present (R381). -/
  refin : Bool := false
  meas : Nat := 0
  ref : Nat := 0
  gate : W32 := 0
  measuring : Bool := false
  count : BitVec 48 := 0
  done : Bool := false
  aborted : Bool := false
  fault : W64 := 0
  faultLoc : W64 := 0
  deriving DecidableEq, Repr

/-- PWR_STATE.state (R387). -/
inductive PState where
  | active | drained | idle
  deriving DecidableEq, Repr

def PState.num : PState → Nat
  | .active => 0 | .drained => 1 | .idle => 2

/-- Power, temperature and the adaptive-voltage bus (R387 to R393, R486, R487). -/
structure Pwr where
  state : PState := .active
  /-- An IDLE or WAKE is in progress (PWR_STATE.moving, R395). -/
  moving : Bool := false
  result : Code := 0
  limit : W32 := 2500000
  admitted : W32 := 0
  admittedSum : W32 := 0
  avg : W32 := 0
  peak : W32 := 0
  temp : W16 := 0
  sensor : Nat := 0
  peakTemp : W16 := 0
  warn : Nat := 100
  /-- THERM_WARN has been raised and the reading has not fallen 5 °C since (R392). -/
  warned : Bool := false
  /-- Stopped by the thermal trip until an image is loaded; THERMTRIP_N asserted (R393). -/
  tripped : Bool := false
  tripOut : Bool := false
  /-- PWR_OVER has been raised since the load (R391). -/
  above : Bool := false
  fault : W64 := 0
  /-- Power of each rail at the last poll it answered, and the sums of the last ten polls, in mW (R391, R486). -/
  rails : SMap Nat := []
  polls : List Nat := []
  /-- VDD_CORE as last commanded, in µV (R486), and rails whose telemetry does not answer (R487). -/
  vddCore : Int := 720000
  outage : BitVec 5 := 0
  deriving DecidableEq, Repr

/-- SEC_STATUS.state (R456). -/
inductive SecState where
  | boot | selftest | operational | error | noIdentity
  deriving DecidableEq, Repr

def SecState.num : SecState → Nat
  | .boot => 0 | .selftest => 1 | .operational => 2 | .error => 3 | .noIdentity => 4

/-- Key slot (R432): 0 EMPTY, 1 ENROLLED, 2 REVOKED. -/
structure KeySlot where
  st : Nat := 0
  key : List Byte := []
  deriving DecidableEq, Repr

/-- Roster entry (R440). -/
structure RosterEntry where
  key : List Byte
  kind : Nat
  serial : W64
  deriving DecidableEq, Repr

/-- The roster in effect (R440). -/
structure Roster where
  seq : W64
  entries : List RosterEntry
  deriving DecidableEq, Repr

/-- What the block keeps of a firmware image (R446). `image`: the bytes that FW_UPDATE or a host stored; none: the image of
manufacture, which the spec does not give (log entry 53). -/
structure FwInfo where
  svn : W32 := 0
  fwKey : Nat := 0
  digest : List Byte := List.replicate 64 0
  image : Option (List Byte) := none
  deriving DecidableEq, Repr

/-- The two MRAM copies of a protected record, each with its sequence number (R430); none: a copy that does not
authenticate. -/
structure Copies (α : Type) where
  copy0 : Option (W64 × α) := none
  copy1 : Option (W64 × α) := none
  deriving DecidableEq, Repr

/-- The copy in use: the authentic one with the higher sequence number (R430). -/
def Copies.newer {α : Type} (c : Copies α) : Option (W64 × α) :=
  match c.copy0, c.copy1 with
  | some a, some b => if a.1.toNat < b.1.toNat then some b else some a
  | some a, none => some a
  | none, b => b

/-- A store writes the older copy (R430). -/
def Copies.store {α : Type} (c : Copies α) (x : α) : Copies α :=
  match c.copy0, c.copy1 with
  | some a, some b => if a.1.toNat < b.1.toNat then { c with copy0 := some (b.1 + 1, x) } else { c with copy1 := some (a.1 + 1, x) }
  | some a, none => { c with copy1 := some (a.1 + 1, x) }
  | none, some b => { c with copy0 := some (b.1 + 1, x) }
  | none, none => { c with copy0 := some (1, x) }

/-- The anti-rollback counters (R448). -/
structure Svns where
  fsf : W32 := 0
  pcf : W32 := 0
  img : W32 := 0
  fwkeyMin : W32 := 0
  deriving DecidableEq, Repr

/-- The protected records of the MRAM (R430, R457). -/
structure SecMram where
  slots : Copies (SMap KeySlot) := { copy0 := some (1, []), copy1 := some (2, []) }
  roster : Copies (Option Roster) := { copy0 := some (1, none), copy1 := some (2, none) }
  chain : Copies Bool := { copy0 := some (1, true), copy1 := some (2, true) }
  svns : Copies Svns := { copy0 := some (1, {}), copy1 := some (2, {}) }
  deriving DecidableEq, Repr

/-- Secret keys that the module holds while it runs; empty where one is absent (R429). -/
structure SecKeys where
  root : List Byte := []
  wrap : List Byte := []
  integrity : List Byte := []
  identity : List Byte := []
  deriving DecidableEq, Repr

/-- Health tests of the entropy source (R444). -/
structure Entropy where
  last : Option Byte := none
  run : Nat := 0
  first : Option Byte := none
  seen : Nat := 0
  hits : Nat := 0
  deriving DecidableEq, Repr

/-- The security block (R424 to R456). -/
structure Sec where
  state : SecState := .boot
  /-- Endpoint of the CO session (R434, R435). -/
  co : Option W16 := none
  /-- The nonce outstanding (R434). -/
  nonce : Option (List Byte) := none
  fsfSlot : Bool := false
  pcfSlot : Bool := false
  test : Nat := 0
  resCode : Code := 0
  resService : Nat := 0
  resLen : Nat := 0
  fault : W64 := 0
  fsfSvn : W32 := 0
  pcfSvn : W32 := 0
  imgSvn : W32 := 0
  fwkeyMin : W32 := 0
  slots : SMap KeySlot := []
  fwDebug : Bool := false
  scan : Bool := false
  expiry : W64 := 0
  /-- Plats whose firmware a debugger has halted (R451). -/
  halted : BitVec 4 := 0
  bufPage : Bool := false
  /-- SEC_BUF, 64 KiB. -/
  buf : Memory := []
  roster : Option Roster := none
  /-- The device certificate chain and the PUF helper data are present (R442, R453). -/
  chain : Bool := true
  puf : Bool := true
  /-- Protected records as MRAM holds them, and the secret keys while the module runs (R429, R430). -/
  mram : SecMram := {}
  keys : SecKeys := {}
  /-- Running firmware, and the MRAM slots by 2·(kind − 1) + slot (R446, R457). -/
  fsf : FwInfo := {}
  pcf : FwInfo := {}
  fwSlots : SMap FwInfo := []
  entropy : Entropy := {}
  /-- A zeroization in progress: its scope and the order that asked for it (R453). -/
  zeroing : Option (Nat × Nat) := none
  /-- The zeroization mark in MRAM (R454): 0 none, 2 DATA, 3 DEVICE. -/
  zeroMark : Nat := 0
  /-- Image security version of the full image loaded (R448). -/
  loadedSvn : W32 := 0
  deriving DecidableEq, Repr

/-- The DRBG (R427, R444): seedings of the run, its key and counter (empty: not instantiated), the requests since the last
seeding and the datum time of that. -/
structure Drbg where
  seedings : Nat := 0
  state : List Byte := []
  since : Nat := 0
  seededAt : W64 := 0
  deriving DecidableEq, Repr

/-- A calibration record (R463): data rate, and the digest or key it is bound to. -/
structure Calib where
  rate : Nat := 0
  tag : List Byte := []
  deriving DecidableEq, Repr

/-- A settings generation (R461). -/
structure Gen where
  seq : W64
  set0 : W64
  set1 : W64
  set2 : W64
  ddr : SMap (Option Calib) := []
  lx : SMap (Option Calib) := []
  deriving DecidableEq, Repr

/-- Counter record (R460). -/
structure Counts where
  seq : W64
  boots : W32
  commits : W32
  floor : W64
  deriving DecidableEq, Repr

/-- ROM defaults of the settings fields (R462): NVM_SET0, NVM_SET1, NVM_SET2 of R473. -/
def romSet0 : W64 := BitVec.ofNat 64 (12800 + 3 * 2 ^ 16 + 25 * 2 ^ 24 + 69120 * 2 ^ 32)
def romSet1 : W64 := BitVec.ofNat 64 (2500000 * 2 ^ 32)
def romSet2 : W64 := BitVec.ofNat 64 (100 + 0xFFFFFFFF * 2 ^ 32)

/-- A commit or a fence store that waits for its turn or runs (R458): `head`, FLT_LOG_HEAD when it was requested, for the
records before that were requested earlier. -/
structure StoreReq where
  fence : Bool
  head : W64
  deriving DecidableEq, Repr

/-- The NVM block (R457 to R473). Its MRAM areas hold their records as structures; none: not valid. -/
structure Nvm where
  gen0 : Option Gen := none
  gen1 : Option Gen := none
  inUse : Nat := 2
  /-- Valid slots as start-up and later commits found them. -/
  cnt0 : Option Counts := none
  cnt1 : Option Counts := none
  safe : Bool := false
  mfgBad : Bool := false
  calDirty : Bool := false
  /-- A commit in progress: the generation being written and the order that asked for it. -/
  busy : Option (Gen × Option Nat) := none
  /-- Commits and fence stores in the order of their requests (R458). -/
  storeQ : List StoreReq := []
  result : Code := 0
  commitBase : W64 := 0
  straps : BitVec 3 := 0
  phase : Nat := 0
  heldUs : W32 := 0
  /-- NVM_SET0 to NVM_SET2: ROM defaults until a generation is in use (R464, R473). -/
  set0 : W64 := romSet0
  set1 : W64 := romSet1
  set2 : W64 := romSet2
  /-- Calibration that this start-up's training produced, by port (R471). -/
  lxCal : SMap (Option Calib) := []
  /-- A start-up that waits for a host firmware image: what it finds (R467). -/
  booting : Option BootSeen := none
  deriving DecidableEq, Repr

/-- The generation in use; none: ROM defaults (R464). -/
def Nvm.genInUse (n : Nvm) : Option Gen := if n.inUse = 0 then n.gen0 else if n.inUse = 1 then n.gen1 else none

/-- Fields of the generation in use. -/
def Nvm.fieldsInUse (n : Nvm) : W64 × W64 × W64 :=
  match n.genInUse with
  | some g => (g.set0, g.set1, g.set2)
  | none => (romSet0, romSet1, romSet2)

/-- NVM_STATUS (R473). -/
def Nvm.status (n : Nvm) : W64 :=
  let bit := fun (b : Bool) k => if b then 2 ^ k else 0
  BitVec.ofNat 64 (n.inUse + bit n.gen0.isSome 2 + bit n.gen1.isSome 3 + bit n.busy.isSome 4
    + bit ((n.set0, n.set1, n.set2) != n.fieldsInUse) 5 + bit n.calDirty 6 + bit n.safe 7 + bit n.mfgBad 8)

/-- A host firmware image in arrival (R494). -/
structure BootImage where
  kind : Nat
  bytes : List Byte := []
  ended : Bool := false
  deriving DecidableEq, Repr

/-- The SMBus target and JTAG (R450, R493, R494). -/
structure Smb where
  regAddr : Option W64 := none
  /-- Kind of image awaited by the boot loader: 0 none, 1 first-stage, 2 plat control. -/
  awaiting : Nat := 0
  image : Option BootImage := none
  status : Code := 0
  /-- The instruction in the JTAG register. -/
  jtag : JtagOp := .bypass
  deriving DecidableEq, Repr

end Sys2Proof.Machine
end

