-- ==== Sys2Proof/Machine/Formats.lean ====
section
/-! DEFINITION. Number formats, scales, the grouped product and the quantiser (R25 to R45). -/
namespace Sys2Proof.Machine

/-- The formats of R25. -/
inductive Fmt where
  | fp32 | bf16 | g8e4 | g8e5 | g8i | g8u | g4e2 | g4i | g4u
  deriving DecidableEq, Repr

/-- Format codes of R25; 0x9 to 0xF are reserved. -/
def Fmt.ofCode : Nat → Option Fmt
  | 0 => some .fp32 | 1 => some .bf16 | 2 => some .g8e4 | 3 => some .g8e5 | 4 => some .g8i
  | 5 => some .g8u | 6 => some .g4e2 | 7 => some .g4i | 8 => some .g4u | _ => none

def Fmt.ofCodeD (c : Nat) : Fmt := (Fmt.ofCode c).getD .fp32

/-- Element width in bits (R25). -/
def Fmt.width : Fmt → Nat
  | .fp32 => 32 | .bf16 => 16 | .g4e2 => 4 | .g4i => 4 | .g4u => 4 | _ => 8

def Fmt.grouped : Fmt → Bool
  | .fp32 => false | .bf16 => false | _ => true

/-- The asymmetric formats (R33). -/
def Fmt.asym : Fmt → Bool
  | .g8u => true | .g4u => true | _ => false

/-- Group size of a gsz code; 0b11 is reserved (R25). -/
def gszOf (c : Nat) : Nat := 32 <<< (c % 4)

/-- A floating element with eb exponent bits, mb mantissa bits and a bias, without the special codes. -/
def decFloat (eb mb bias : Nat) (n : Nat) : Fp :=
  let s : Bool := n / 2 ^ (eb + mb) % 2 = 1
  let e : Nat := n / 2 ^ mb % 2 ^ eb
  let m : Nat := n % 2 ^ mb
  if e = 0 then .fin s m (1 - (bias : Int) - mb)
  else .fin s (m + 2 ^ mb) ((e : Int) - bias - mb)

/-- Integer value as an exact number. -/
def fpInt (v : Int) : Fp := .fin (v < 0) v.natAbs 0

/-- The element value of R26 to R29; for GwU the code itself. -/
def decElem (f : Fmt) (n : Nat) : Fp :=
  match f with
  | .fp32 => dec32 (BitVec.ofNat 32 n)
  | .bf16 => dec32 (widenBf16 (BitVec.ofNat 16 n))
  | .g8e4 => if n % 128 = 0x7F then .nan else decFloat 4 3 7 (n % 256)
  | .g8e5 =>
    let e := n / 4 % 32
    if e = 31 then (if n % 4 = 0 then .inf (n / 128 % 2 = 1) else .nan) else decFloat 5 2 15 (n % 256)
  | .g4e2 => decFloat 2 1 1 (n % 16)
  | .g8i => fpInt (toSigned 8 n)
  | .g4i => fpInt (toSigned 4 n)
  | .g8u => fpInt (n % 256 : Nat)
  | .g4u => fpInt (n % 16 : Nat)

/-- First-level scale byte: G8E4 without sign (R32). -/
def decS1 (b : Byte) : Fp := decElem .g8e4 (b.toNat % 128)

/-- The operand term of R40 step 1: the element, or element minus zero point. -/
def decTerm (f : Fmt) (n : Nat) (z : Byte) : Fp :=
  match f with
  | .g8u => fpInt ((n % 256 : Nat) - (z.toNat : Int))
  | .g4u => fpInt ((n % 16 : Nat) - (z.toNat % 16 : Int))
  | _ => decElem f n

/-- The value of an element as FP32 (R34): exact, rounded once. -/
def decValue (f : Fmt) (n : Nat) (s1 : Byte) (s2 : W32) (z : Byte) : W32 :=
  if f.grouped then round32 (((decTerm f n z).mul (decS1 s1)).mul (dec32 s2))
  else round32 (decElem f n)

/-- Largest finite magnitude, or span, of an element format (R44). -/
def Fmt.q : Fmt → Nat
  | .g8e4 => 448 | .g8e5 => 57344 | .g4e2 => 6 | .g8i => 127 | .g4i => 7 | .g8u => 255 | .g4u => 15 | _ => 0

/-- The group accumulator of R41: 72-bit two's complement with bit 0 of weight 2^−32, and three flags. -/
structure GAcc where
  sum : BitVec 72 := 0
  nan : Bool := false
  posInf : Bool := false
  negInf : Bool := false
  deriving DecidableEq, Repr

/-- Add one product of two terms, exactly (R41). -/
def GAcc.addProduct (g : GAcc) (a b : Fp) : GAcc :=
  match a.mul b with
  | .nan => { g with nan := true }
  | .inf s => if s then { g with negInf := true } else { g with posInf := true }
  | .fin s m e =>
    let v : Int := (m <<< (e + 32).toNat : Nat)
    { g with sum := g.sum + BitVec.ofInt 72 (if s then -v else v) }

/-- The exact group sum as a finite number. -/
def GAcc.value (g : GAcc) : Fp := .fin (g.sum.toInt < 0) g.sum.toInt.natAbs (-32)

/-- The scaled product of step 3 (R42): the first case that applies. The sum is taken as infinite once pos_inf or neg_inf
is set, whatever its finite products add up to (log entry 85). -/
def scaledProduct (g : GAcc) (scales : List Fp) : W32 :=
  let inf := g.posInf || g.negInf
  let infScale := scales.any (fun s => match s with | .inf _ => true | _ => false)
  let isZ : Fp → Bool := fun s => match s with | .fin _ 0 _ => true | _ => false
  let zeroS : Bool := g.sum.toNat = 0
  let zeroScale := scales.any isZ
  if g.nan || (g.posInf && g.negInf) || scales.any (· == .nan)
      || (inf && zeroScale) || (infScale && (zeroScale || (zeroS && !inf))) then fpNaN
  else if inf || infScale then
    let sg := if inf then g.negInf else g.sum.toInt < 0
    fpInf (scales.foldl (fun a s => match s with
      | .inf t => a != t
      | .fin t _ _ => a != t
      | .nan => a) sg)
  else if zeroS || zeroScale then fpZero
  else round32 (scales.foldl Fp.mul g.value)

/-- Steps 3 and 4 of R40: scale, round, add into the accumulator. -/
def groupBoundary (acc : W32) (g : GAcc) (sA1 : Byte) (sA2 : W32) (sB1 : Byte) (sB2 : W32) : W32 :=
  fpAdd acc (scaledProduct g [decS1 sA1, dec32 sA2, decS1 sB1, dec32 sB2])

/-- |x| as a fraction; 0 for values that are not finite. -/
def magRat (w : W32) : Nat × Nat :=
  match dec32 w with
  | .fin _ m e => scaleRat m 1 e
  | _ => (0, 1)

def ratLt (a b : Nat × Nat) : Bool := a.1 * b.2 < b.1 * a.2
def ratMax (a b : Nat × Nat) : Nat × Nat := if ratLt a b then b else a
def ratAdd (a b : Nat × Nat) : Nat × Nat := (a.1 * b.2 + b.1 * a.2, a.2 * b.2)

/-- Largest magnitude of the finite values. -/
def amaxOf (xs : List W32) : Nat × Nat := xs.foldl (fun a x => ratMax a (magRat x)) (0, 1)

/-- −lo and hi of R44 for GwU: extents of the finite values below and above 0. -/
def extents (xs : List W32) : (Nat × Nat) × (Nat × Nat) :=
  xs.foldl (fun a x => match dec32 x with
    | .fin true m e => (ratMax a.1 (scaleRat m 1 e), a.2)
    | .fin false m e => (a.1, ratMax a.2 (scaleRat m 1 e))
    | _ => a) ((0, 1), (0, 1))

/-- The exponent of the second-level scale (R44): a power of two, not below 2^−149; 0 for an all-zero block. -/
def s2Exp (amax : Nat × Nat) (q : Nat) : Int :=
  if amax.1 = 0 then 0 else max (ceilLog2 amax.1 (amax.2 * q * 448)) (-149)

/-- The smallest G8E4 value v with gmax ≤ q · v · s2, as its code (R44). -/
def s1Code (gmax : Nat × Nat) (q : Nat) (k : Int) : Byte :=
  match (List.range 127).find? (fun c =>
      match decElem .g8e4 c with
      | .fin _ m e => let (n, d) := scaleRat (m * q) 1 (e + k); !ratLt (n, d) gmax
      | _ => false) with
  | some c => BitVec.ofNat 8 c
  | none => 0x7E

/-- The exact scale s1 · s2 as a fraction. -/
def scaleOf (s1 : Byte) (k : Int) : Nat × Nat :=
  match decS1 s1 with
  | .fin _ m e => scaleRat m 1 (e + k)
  | _ => (0, 1)

/-- A magnitude n/d as an element code of a floating format with p significant bits: round once, saturate (R38). -/
def encFloat (p mb : Nat) (emin : Int) (q : Nat) (sgn : Nat) (neg : Bool) (n d : Nat) : Nat :=
  let (m, E) := roundRat p emin n d
  let (m, E) := if m ≥ 2 ^ p then (m / 2, E + 1) else (m, E)
  let (a, b) := scaleRat m 1 E
  let carry := q * b < a
  let (m, E) := if carry then
      (let (m, E) := roundRat p emin q 1; (m, E))
    else (m, E)
  if m = 0 then 0
  else
    let code := if m < 2 ^ mb then m else (E - emin + 1).toNat * 2 ^ mb + (m - 2 ^ mb)
    code + (if neg then sgn else 0)

/-- One element of a symmetric format (R44, R45, R38). -/
def encElem (f : Fmt) (x : W32) (s1 : Byte) (k : Int) : Nat :=
  let sc := scaleOf s1 k
  match dec32 x with
  | .nan => (match f with | .g8e4 => 0x7F | .g8e5 => 0x7E | _ => 0)
  | .inf s =>
    if sc.1 = 0 then 0 else
    (match f with
     | .g8e5 => if s then 0xFC else 0x7C
     | .g8e4 => encFloat 4 3 (-9) 448 128 s 448 1
     | .g4e2 => encFloat 2 1 (-1) 6 8 s 6 1
     | .g8i => if s then 256 - 127 else 127
     | _ => if s then 16 - 7 else 7)
  | .fin s m e =>
    if sc.1 = 0 then 0 else
    let (a, b) := scaleRat m 1 e
    let n := a * sc.2
    let d := b * sc.1
    (match f with
     | .g8e4 => encFloat 4 3 (-9) 448 128 s n d
     | .g8e5 => encFloat 3 2 (-16) 57344 128 s n d
     | .g4e2 => encFloat 2 1 (-1) 6 8 s n d
     | .g8i => let v := min (rneRat n d) 127; if s && v != 0 then 256 - v else v
     | _ => let v := min (rneRat n d) 7; if s && v != 0 then 16 - v else v)

/-- Scale byte, zero point and element codes of one group. -/
structure QGroup where
  s1 : Byte
  z : Byte
  es : List Nat
  deriving DecidableEq, Repr

/-- Quantise one group against the block's exponent k (R44, R45). -/
def quantGroup (f : Fmt) (k : Int) (xs : List W32) : QGroup :=
  let hasNaN := xs.any isNaN32
  if hasNaN && !(f == .g8e4 || f == .g8e5) then { s1 := 0x7F, z := 0, es := xs.map (fun _ => 0) }
  else if f.asym then
    let ex := extents xs
    let s1 := s1Code (ratAdd ex.1 ex.2) f.q k
    let sc := scaleOf s1 k
    if sc.1 = 0 then { s1 := s1, z := 0, es := xs.map (fun _ => 0) }
    else
      let z := min (rneRat (ex.1.1 * sc.2) (ex.1.2 * sc.1)) f.q
      { s1 := s1, z := BitVec.ofNat 8 z
        es := xs.map (fun x => match dec32 x with
          | .inf s => if s then 0 else f.q
          | .fin s m e =>
            let (a, b) := scaleRat m 1 e
            let r : Int := (rneRat (a * sc.2) (b * sc.1) : Nat)
            let v : Int := (if s then -r else r) + z
            min v.toNat f.q
          | .nan => 0) }
  else
    let s1 := s1Code (amaxOf xs) f.q k
    { s1 := s1, z := 0, es := xs.map (fun x => encElem f x s1 k) }

/-- A quantised block: second-level scale and its groups. -/
structure QBlock where
  s2 : W32
  groups : List QGroup
  deriving DecidableEq, Repr

/-- The power of two 2^k as FP32 bits. -/
def pow2Bits (k : Int) : W32 := let (a, b) := scaleRat 1 1 k; round32Rat false a b

/-- Quantise one block, given as its groups (R44). -/
def quantBlock (f : Fmt) (gs : List (List W32)) : QBlock :=
  let span := if f.asym then
      gs.foldl (fun a g => let e := extents g; ratMax a (ratAdd e.1 e.2)) (0, 1)
    else gs.foldl (fun a g => ratMax a (amaxOf g)) (0, 1)
  let k := s2Exp span f.q
  { s2 := pow2Bits k, groups := gs.map (quantGroup f k) }

/-- The values a quantised block decodes to (R34). -/
def QBlock.values (f : Fmt) (b : QBlock) : List W32 :=
  b.groups.flatMap (fun g => g.es.map (fun n => decValue f n g.s1 b.s2 g.z))

/-- Element codes packed into bytes, element k even in the low nibble for 4-bit formats (R35). -/
def packElems (w : Nat) (es : List Nat) : List Byte :=
  if w = 4 then (chunksOf 2 es).map (fun p => BitVec.ofNat 8 (p.headD 0 % 16 + 16 * ((p.drop 1).headD 0 % 16)))
  else es.flatMap (fun e => leBytes (w / 8) e)

/-- Element codes out of bytes. -/
def unpackElems (w : Nat) (bs : List Byte) : List Nat :=
  if w = 4 then bs.flatMap (fun b => [b.toNat % 16, b.toNat / 16])
  else (chunksOf (w / 8) bs).map leNat

/-- Plane sizes of the canonical layout of rows × K elements (R35): element, s1, z, s2 bytes. -/
structure Planes where
  elem : Nat
  s1 : Nat
  z : Nat
  s2 : Nat
  deriving DecidableEq, Repr

def planesOf (f : Fmt) (G nb rows K : Nat) : Planes :=
  if f.grouped then
    let gp := cdiv K G
    { elem := rows * gp * G * f.width / 8, s1 := rows * gp
      z := if f.asym then rows * gp else 0, s2 := 4 * rows * cdiv gp nb }
  else { elem := rows * K * f.width / 8, s1 := 0, z := 0, s2 := 0 }

/-- One row of values quantised into canonical planes, padding to whole groups with the exact zero (R35, R36). -/
structure RowPlanes where
  elem : List Byte
  s1 : List Byte
  z : List Byte
  s2 : List Byte
  deriving DecidableEq, Repr

def quantRow (f : Fmt) (G nb : Nat) (xs : List W32) : RowPlanes :=
  if f.grouped then
    let blocks := (chunksOf nb (chunksOf G xs)).map (quantBlock f)
    let padded : QGroup → List Nat := fun g =>
      g.es ++ List.replicate (G - g.es.length) (if f.asym then g.z.toNat else 0)
    let gs := blocks.flatMap (·.groups)
    { elem := packElems f.width (gs.flatMap padded), s1 := gs.map (·.s1)
      z := if f.asym then gs.map (·.z) else [], s2 := blocks.flatMap (fun b => leBytes 4 b.s2.toNat) }
  else if f == .bf16 then
    { elem := xs.flatMap (fun x => leBytes 2 (narrowBf16 x).toNat), s1 := [], z := [], s2 := [] }
  else { elem := xs.flatMap (fun x => leBytes 4 x.toNat), s1 := [], z := [], s2 := [] }

/-- Values of elements first to first + n − 1 of one row out of its planes (R34, R35). -/
def decodeRow (f : Fmt) (G nb : Nat) (p : RowPlanes) (first n : Nat) : List W32 :=
  let es := unpackElems f.width p.elem
  (List.range n).map (fun i =>
    let k := first + i
    let e := (es.drop k).headD 0
    let s1 := (p.s1.drop (k / G)).headD 0
    let z := (p.z.drop (k / G)).headD 0
    let s2 : W32 := BitVec.ofNat 32 (leAt p.s2 (4 * (k / (G * nb))) 4)
    decValue f e s1 s2 z)

end Sys2Proof.Machine
end

