-- ==== Sys2Proof/Machine/StateUnits.lean ====
section
/-! DEFINITION. State of the units of the array: CUs, MUs, switches, plats, benchmarks (R12). -/
namespace Sys2Proof.Machine

/-- A token without its parity: what a unit sees of it (R104, R105). -/
structure VIn where
  data : BitVec 1024
  poison : Bool
  last : Bool
  deriving DecidableEq, Repr

structure SIn where
  value : W32
  tag : Byte
  poison : Bool
  deriving DecidableEq, Repr

/-- Run state of a unit; IDLE or RUNNING is read from the image state (R79, R102, R121). -/
inductive UnitRun where
  | unconfigured | live | drained | faulted
  deriving DecidableEq, Repr

/-- Tile states (R60). -/
inductive TileSt where
  | free | active | held | retiring
  deriving DecidableEq, Repr

def TileSt.num : TileSt → Nat
  | .free => 0 | .active => 1 | .held => 2 | .retiring => 3

/-- An accumulator tile: 64 × 32 FP32 words, its poison and its checksums (R60, R65). -/
structure Tile where
  st : TileSt := .free
  poison : Bool := false
  /-- Word 32·row + column. -/
  acc : SMap W32 := []
  cr : SMap W32 := []
  mr : SMap W32 := []
  cc : SMap W32 := []
  mc : SMap W32 := []
  deriving DecidableEq, Repr

/-- A tile-operation descriptor (R59). -/
structure TileDesc where
  word : W64
  deriving DecidableEq, Repr

/-- Scales and position of an operand stream inside its block (R55). -/
structure OperandSt where
  s2 : List W32 := []
  s1 : List Byte := []
  z : List Byte := []
  /-- Element token in hand and the K steps it has given; groups left in the block. -/
  token : Option (BitVec 1024) := none
  used : Nat := 0
  groupsLeft : Nat := 0
  deriving DecidableEq, Repr

/-- The running tile operation (R53, R54). -/
structure Engine where
  desc : TileDesc
  kDone : Nat := 0
  a : OperandSt := {}
  b : OperandSt := {}
  /-- The current tile register and the group accumulators, by 32·row + column. -/
  reg : SMap W32 := []
  gacc : SMap GAcc := []
  poison : Bool := false
  deriving DecidableEq, Repr

/-- A retire set (R62). -/
structure RetireSet where
  tiles : List Nat := []
  complete : Bool := false
  compared : List Nat := []
  poison : Bool := false
  deriving DecidableEq, Repr

/-- One element of a row stream. -/
structure VLane where
  v : W32
  poison : Bool
  deriving DecidableEq, Repr

/-- Lanes that enter the stages together, all of one token; `last`: they end their row. -/
structure Beat where
  lanes : List VLane
  last : Bool
  deriving DecidableEq, Repr

/-- Decoder of a row stream (R69, R501). -/
structure RowDec where
  inBlock : Bool := false
  s2 : W32 := 0
  s1 : List Byte := []
  z : List Byte := []
  hdrPoison : Bool := false
  /-- Elements of the block in hand that its tokens have given, and elements of the row before the block. -/
  blkPos : Nat := 0
  rowPos : Nat := 0
  beats : List Beat := []
  deriving DecidableEq, Repr

/-- Vector stages of a CU (R70 to R75). -/
structure VecSt where
  x : RowDec := {}
  y : RowDec := {}
  /-- Ordinal of the row (R105), and its scalars. -/
  ordinal : Nat := 0
  p : Option SIn := none
  q : Option SIn := none
  /-- Row accumulator of stage 5 (R73); none before the first beat. -/
  acc : Option W32 := none
  rowPoison : Bool := false
  /-- Elements of the row that have entered stage 6. -/
  outPos : Nat := 0
  /-- Elements stage 6 holds (R75). -/
  block : List VLane := []
  deriving DecidableEq, Repr

/-- One compute unit (R79). -/
structure Cu where
  cfg : W64 := 0
  vprog : W64 := 0
  abftCtl : W64 := 0
  vconst : SMap W32 := []
  /-- Tile program: sequenced mode, descriptor list, next descriptor, descriptors the sequencer handed over. -/
  seq : Bool := false
  program : List TileDesc := []
  next : Nat := 0
  seqDescs : List TileDesc := []
  run : UnitRun := .unconfigured
  fault : W64 := 0
  abftLoc : W64 := 0
  abftHeld : Bool := false
  cntKstep : W64 := 0
  cntStallA : W64 := 0
  cntStallB : W64 := 0
  cntStallOut : W64 := 0
  cntRetired : W64 := 0
  /-- Poisoned arrivals (R402); no register shows the count. -/
  cntPoison : Nat := 0
  accCe : W64 := 0
  tiles : SMap Tile := []
  engine : Option Engine := none
  /-- The two tile registers, and which of them is current (R54). -/
  reg0 : SMap W32 := []
  reg1 : SMap W32 := []
  curReg : Bool := false
  /-- Retired tiles whose comparison is still to come, oldest first (R66). -/
  writeback : List Nat := []
  sets : List RetireSet := []
  readout : Option RetireSet := none
  /-- Ends of the current operation's streams seen, and its descriptor in FAULTED (R77). -/
  lastA : Bool := false
  lastB : Bool := false
  faultDesc : Option TileDesc := none
  vec : VecSt := {}
  inA : List VIn := []
  inB : List VIn := []
  inS : List SIn := []
  deriving DecidableEq, Repr

/-- A line of the transpose block: 64 bytes and whether their row is poisoned (R90). -/
structure XpLine where
  bytes : List Byte
  poison : Bool
  deriving DecidableEq, Repr

/-- An address generator (R87 to R92, R102, R180, R192). -/
structure AgSt where
  /-- MU_AG words 0 to 7, MU_STASH word and MU_AG_HANDOFF word (R87, R180, R200). -/
  words : List W64 := []
  stash : W64 := 0
  handoff : W64 := 0
  addr : Nat := 0
  busy : Bool := false
  pending : Nat := 0
  moved : Nat := 0
  /-- Addresses issued in the walk, its base line, walks since image load or restart, walks of the step. -/
  idx : Nat := 0
  base : Int := 0
  walk : Nat := 0
  stepWalks : Nat := 0
  /-- Bases the tile sequencer has supplied (R197). -/
  seqBases : List Nat := []
  /-- AG_BOUNDS stopped it; the walk in hand goes on poisoned, or discards its input (R88). -/
  stopped : Bool := false
  dead : Bool := false
  lines : List XpLine := []
  input : List VIn := []
  deriving DecidableEq, Repr

/-- A contribution segment that waits or is parked (R91, R92). -/
structure Segment where
  region : Nat
  contrib : Nat
  firstRow : Nat
  tokens : List VIn
  /-- Generator it came from; none: a remote segment. -/
  gen : Option Nat
  /-- Park rows that hold its tokens, once it is parked. -/
  park : List Nat := []
  deriving DecidableEq, Repr

/-- State of one region of an MU (R93 to R97, R168). -/
structure RegSt where
  a : W64 := 0
  b : W64 := 0
  /-- STASH: top and bottom. QUEUE, SPILL: tokens written and read. -/
  hi : Nat := 0
  lo : Nat := 0
  granted : W32 := 0
  received : W32 := 0
  /-- Rows freed and not yet granted (R97). -/
  freed : Nat := 0
  /-- Contributions applied, by row (R92), and parked segments. -/
  applied : SMap Nat := []
  parked : List Segment := []
  /-- A round has completed and its buffer is still to be requantised (R239). -/
  roundDone : Bool := false
  /-- MU_STASH_STAT (R180). -/
  pushed : Nat := 0
  popped : Nat := 0
  reserveFrames : Nat := 0
  spills : Nat := 0
  /-- Rows of the frames in the reserve, newest last (R166). -/
  reserve : List Nat := []
  /-- A push waits for rows; STASH_OVERFLOW struck in the step; spilling stopped for the step (R166, R168). -/
  waiting : Bool := false
  overflow : Bool := false
  noSpill : Bool := false
  deriving DecidableEq, Repr

/-- Tag-store entry of a queued token (R94). -/
structure TokTag where
  last : Bool := false
  poison : Bool := false
  epoch : Nat := 0
  deriving DecidableEq, Repr

/-- A FILL or COPY in progress (R95). -/
structure RowCmd where
  copy : Bool
  dst : Nat
  src : Nat
  rows : Nat
  deriving DecidableEq, Repr

/-- One memory unit (R102). -/
structure Mu where
  epoch : Nat := 0
  run : UnitRun := .unconfigured
  fault : W64 := 0
  eccCe : W64 := 0
  eccLoc : W64 := 0
  scrubExp : Nat := 3
  scrubLate : Nat := 0
  scrubPasses : W32 := 0
  scrubRow : Nat := 0
  cntConflict : W64 := 0
  /-- Poisoned arrivals (R402); no register shows the count. -/
  cntPoison : Nat := 0
  fillPat : W64 := 0
  cmd : Option RowCmd := none
  cmdResult : Code := 0
  regions : SMap RegSt := []
  ags : SMap AgSt := []
  /-- 4 MiB of SRAM by byte, poisoned rows, tags by token slot 4·row + i. -/
  sram : Memory := []
  poison : SMap Bool := []
  tags : SMap TokTag := []
  /-- Damage no read has met: words by 64·row + word, tag entries by line pair 4·row + i. -/
  ecc : SMap EccKind := []
  tagEcc : SMap EccKind := []
  /-- Control event delivered and not yet taken; tokens delivered at QI0 and QI1; segments to apply. -/
  events : List Nat := []
  qin : SMap (List VIn) := []
  segs : List Segment := []
  deriving DecidableEq, Repr

/-- An input queue of a switch with the link into it (R107 to R117). -/
structure SwIn where
  /-- Tokens under way on the link, and tokens queued; oldest first. -/
  link : List Tok := []
  q : List Tok := []
  blocked : Bool := false
  /-- Last flag of the newest vector token passed, and whether any passed since configuration (R121). -/
  passedLast : Bool := true
  passed : Bool := false
  closed : Bool := false
  deriving DecidableEq, Repr

/-- Run states of switches (R121, R127). -/
inductive SwRun where
  | unconfigured | running | draining | drained
  deriving DecidableEq, Repr

def SwRun.num : SwRun → Nat
  | .unconfigured => 0 | .running => 1 | .draining => 2 | .drained => 3

/-- One switch (R127). -/
structure Sw where
  cregion : Nat := 0
  epoch : Nat := 0
  spill : W64 := 0
  qbind : W64 := 0
  /-- Route words: VROUTE 0–11, SROUTE at 12–16, CROUTE at 17–19. -/
  routes : SMap W64 := []
  run : SwRun := .unconfigured
  fault : W64 := 0
  cntStale : W64 := 0
  cntParity : W64 := 0
  /-- Input queues by 256·net + channel. -/
  ins : SMap SwIn := []
  /-- The queue that spills, by net and channel, and the tokens spilled so far (R119). -/
  spilling : Option (Nat × Nat) := none
  spillTokens : Nat := 0
  /-- The set of configuration regions with which the switch is drained (R121). -/
  drainSet : W16 := 0
  deriving DecidableEq, Repr

/-- Sources of the plat DMA engine, in priority order (R183). -/
inductive DmaSrc where
  | stash | program | seqr | host
  deriving DecidableEq, Repr

/-- A frame that the stash service moves between a STASH region and its reserve (R166, R167): the row count of its
first row, its rows, the region's first row and size, the reserve's base. -/
structure StashMove where
  mu : Nat
  region : Nat
  spill : Bool
  count : Nat
  rows : Nat
  baseRow : Nat
  size : Nat
  reserve : Nat
  deriving DecidableEq, Repr

/-- A descriptor of plat DMA, waiting or started (R185 to R187); `firing` counts a program entry's firings (R183). -/
structure DmaJob where
  src : DmaSrc
  index : Nat
  desc : DmaDesc := {}
  firing : Nat := 0
  /-- The frame of a job of the stash service. -/
  frame : Option StashMove := none
  /-- Bytes of a staging transfer of the sequencer; 0 where whole rows move (log entry 37). -/
  len : Nat := 0
  deriving DecidableEq, Repr

/-- A started descriptor. -/
structure DmaActive where
  id : Nat
  job : DmaJob
  rowsIssued : Nat := 0
  rowsDone : Nat := 0
  failed : Bool := false
  deriving DecidableEq, Repr

/-- An outstanding row request (R185); `sent`: it travels as an RWRITE; `groups`: the memory groups whose controllers
it takes a place of, `served`: it holds those places, `spoiled`: its data failed parity on the spine (R399). -/
structure RowReq where
  id : Nat
  owner : Nat
  src : Nat
  dst : Nat
  sent : Bool := false
  groups : List Nat := []
  served : Bool := true
  /-- Its place among the requests that the controllers have taken (R268). -/
  arrived : Nat := 0
  spoiled : Bool := false
  deriving DecidableEq, Repr

/-- A parked WAIT (R207). -/
structure Parked where
  index : Nat
  level : W32
  src : BmkSrc
  deriving DecidableEq, Repr

/-- Work of a macro run, in order (R197). -/
inductive SeqJob where
  /-- Staging or copy-out transfers; the next job waits for all of them. -/
  | move (ds : List (DmaDesc × Nat))
  /-- A tile operation: its descriptor word, the base lines of its A and B feed walks, and of the output walk. -/
  | op (word : W64) (baseA baseB : Nat) (baseOut : Option Nat)
  /-- The end of a pass: whether it was added by re-tiling, and the A bytes it fetched. -/
  | pass (extra : Bool) (bytes : Nat)
  /-- The end of a macro-instruction. -/
  | done
  deriving DecidableEq, Repr

/-- A macro run (R197). -/
structure SeqRun where
  macro_ : Nat
  jobs : List SeqJob := []
  /-- The first job has been handed out and is awaited. -/
  issued : Bool := false
  deriving DecidableEq, Repr

/-- One plat: deadlock detector, drains, DMA engine, triggers, sequencer, benchmark unit (R127, R200, R218). -/
structure Plat where
  dldWindow : Nat := 16
  dldEn : Bool := true
  dldSpills : W32 := 0
  dldLog : W64 := 0
  draining : W16 := 0
  drained : W16 := 0
  timedOut : W16 := 0
  drainResult : Code := 0
  timeoutExp : Nat := 14
  /-- Current epoch of each configuration region (R124). -/
  epochs : SMap Nat := []
  bridgeUp : Byte := 0
  parErr : SMap Nat := []
  /-- DMA: started descriptors in start order, outstanding requests, waiting descriptors in arrival order. -/
  active : List DmaActive := []
  reqs : List RowReq := []
  waitingDma : List DmaJob := []
  nextDma : Nat := 0
  /-- Rows sent against each credit benchmark (R188), and rows issued since the host queue was served (R186). -/
  sent : SMap W32 := []
  sinceHost : Nat := 0
  hq : List DmaDesc := []
  hqDesc : List W64 := List.replicate 6 0
  hqResult : Code := 0
  hqDone : W32 := 0
  dmaFault : W64 := 0
  dmaFaultLoc : W64 := 0
  cntRows : W64 := 0
  cntFull : W64 := 0
  /-- Firings made by program entry (R183), and triggers: threshold and firing count (R190). -/
  firings : SMap Nat := []
  thr : SMap W32 := []
  fired : SMap Nat := []
  /-- Sequencer starts a trigger has asked for, starts held as pending, and the run in progress (R197). -/
  seqReq : List Nat := []
  seqPend : List Nat := []
  seqRun : Option SeqRun := none
  seqPasses : W64 := 0
  seqExtra : W64 := 0
  seqExtraBytes : W64 := 0
  seqMacros : W64 := 0
  /-- Benchmark unit (R218). -/
  waits : List Parked := []
  waitPeak : Nat := 0
  bmkFault : W64 := 0
  bmkDeny : W64 := 0
  cntOps : W64 := 0
  cntWaitFull : W32 := 0
  fwHalted : Bool := false
  deriving DecidableEq, Repr

/-- A benchmark (R202): count, threshold, mode. -/
structure Bmk where
  count : W32 := 0
  thr : W32 := 0
  mode : W32 := 0
  deriving DecidableEq, Repr

end Sys2Proof.Machine
end

