-- ==== Sys2Proof/Machine/State.lean ====
section
/-! DEFINITION. The state of the Krezar as plain data, its reset, and the reasons a step can stop. -/
namespace Sys2Proof.Machine

/-- What leaves the part towards its surroundings, oldest first. -/
inductive Out where
  /-- A transaction handed to the transmitter of a port. -/
  | trans (port : Nat) (t : Trans)
  /-- A DATA or LINK flit. -/
  | flit (port : Nat) (f : Flit)
  /-- A value a register read returned. -/
  | value (v : W64)
  /-- A code that completed an access or a request at its requester. -/
  | code (c : Code)
  /-- A reply of a benchmark operation: completion code, value, object. -/
  | bmk (code : Code) (value : W64) (object : List Byte)
  /-- Bytes a service, an SMBus command or a read of DRAM returned, and whether they are marked poisoned (R270). -/
  | bytes (bs : List Byte) (poisoned : Bool := false)
  /-- What a loaded JTAG instruction acts as. -/
  | jtag (op : JtagOp)
  deriving DecidableEq, Repr

/-- The machine. -/
structure State where
  pending : List Instr := []
  out : List Out := []
  free : Nat := 0
  img : Img := {}
  cfg : Cfg := {}
  adj : Adj := {}
  cus : SMap Cu := []
  mus : SMap Mu := []
  sws : SMap Sw := []
  plats : SMap Plat := []
  bmks : SMap Bmk := []
  aus : SMap Au := []
  dram : Dram := {}
  mon : Mon := {}
  ports : SMap Port := []
  lxg : Lxg := {}
  dtm : Dtm := {}
  cmd : Cmd := {}
  flt : Flt := {}
  clk : Clk := {}
  pwr : Pwr := {}
  sec : Sec := {}
  drbg : Drbg := {}
  nvm : Nvm := {}
  smb : Smb := {}
  deriving DecidableEq, Repr

/-- Reasons to stop with a fault. No rule of the spec stops the block: the constructor is held in reserve
and no meaning answers it. -/
inductive Fault where
  /-- Raised by nothing; safe. -/
  | unused
  deriving DecidableEq, Repr

/-- Reasons to refuse a command. -/
inductive Refusal where
  /-- Raised by an arm of `exec` whose command has no meaning yet; safe. -/
  | notModelled (mnemonic : String)
  deriving DecidableEq, Repr

/-- The outcome of a command. -/
abbrev Outcome := Host.Outcome State Fault Refusal

/-- The part right after reset, before RESET_RELEASE: HELD, nothing configured. -/
def State.reset : State := {}

end Sys2Proof.Machine
end

