-- ==== Sys2Proof/Machine/Wire.lean ====
section
/-! DEFINITION. How transactions lie on a link: payloads, headers, encryption, flits (R243, R301, R306, R323 to R325,
R328, R330, R331, R334 to R336, R340, R341, R352, R361, R363). -/
namespace Sys2Proof.Machine

/-! Payloads -/

/-- A norm or closure record (R243, R306). -/
def normRecBytes (r : NormRec) : List Byte :=
  leBytes 1 r.typ.val ++ leBytes 1 (b2n r.vote) ++ leBytes 2 r.fault.toNat ++ leBytes 2 r.dev ++ leBytes 2 r.shard
    ++ leBytes 6 r.step.toNat ++ leBytes 2 r.rset ++ leBytes 4 r.gsq.toNat
    ++ leBytes 4 (if r.typ.val = 4 then 0 else r.trust.length) ++ leBytes 40 0
    ++ (if r.typ.val = 4 then sub r.root 0 64
        else r.trust.flatMap (fun e => leBytes 2 e.1 ++ leBytes 2 0 ++ leBytes 4 e.2.1.toNat ++ leBytes 4 e.2.2.toNat ++ leBytes 4 0))

/-- A monument frame of a type (R301). -/
def monFrameBytes (kind : Nat) (f : MonFrame) : List Byte :=
  leBytes 1 kind ++ leBytes 1 f.status.toNat ++ leBytes 2 f.srcDev ++ leBytes 4 f.index.toNat ++ leBytes 8 f.step.toNat
    ++ leBytes 4 f.payload.length ++ leBytes 44 0 ++ (if kind = 1 then sub f.digest 0 64 else leBytes 64 0) ++ f.payload

/-- A command descriptor (R361). -/
def CmdWord.bytes (w : CmdWord) : List Byte :=
  let d := w.desc
  leBytes 2 w.opcode.toNat ++ leBytes 2 d.flags.toNat ++ leBytes 2 d.targetClass.toNat ++ leBytes 2 d.target.toNat
    ++ leBytes 8 d.actTime.toNat ++ leBytes 8 d.deadline.toNat ++ leBytes 6 d.step.toNat ++ leBytes 2 d.slot.toNat
    ++ leBytes 32 d.payload.toNat

/-- A completion (R363). -/
def Cpl.bytes (c : Cpl) : List Byte :=
  leBytes 2 c.status.toNat ++ leBytes 2 c.opcode.toNat ++ leBytes 2 c.slot.toNat ++ leBytes 1 (b2n c.late) ++ leBytes 1 0
    ++ leBytes 8 c.value.toNat

/-- A datum frame (R352). -/
def datumBytes (f : DatumFrame) : List Byte :=
  leBytes 8 f.time.toNat ++ leBytes 2 f.timeFrac.toNat ++ leBytes 2 f.master.toNat ++ leBytes 1 f.hops.toNat
    ++ leBytes 1 (b2n f.traceable) ++ leBytes 2 f.seq.toNat ++ leBytes 6 f.step.toNat ++ leBytes 2 0
    ++ leBytes 8 f.stepTime.toNat ++ leBytes 8 f.echoTime.toNat ++ leBytes 2 f.echoFrac.toNat ++ leBytes 2 0
    ++ leBytes 4 f.turn.toNat ++ leBytes 8 f.masterTag.toNat ++ leBytes 4 f.memberEpoch.toNat ++ leBytes 4 0

/-- Bytes 0x0000 to 0x0C67 of an ANNOUNCE (R334, R441). -/
def announceBytes (a : Announce) : List Byte :=
  [a.kind, a.port] ++ leBytes 2 a.number.toNat ++ leBytes 4 (b2n a.bridge) ++ sub a.keyId 0 64 ++ sub a.nonce 0 32
    ++ sub a.ek 0 1568 ++ sub (sub a.pubKey 0 64 ++ sub a.chainDigest 0 64 ++ leBytes 8 a.rosterSeq.toNat) 0 1504

/-- The ANNOUNCE payload with its signature (R334). -/
def announceWire (a : Announce) : List Byte := announceBytes a ++ sub a.signature 0 49856

/-- Thirty-two port entries of 4 bytes (R340). -/
def portBytes (ps : List PortEntry) : List Byte :=
  sub (ps.flatMap (fun e => leBytes 2 e.peer ++ leBytes 1 e.peerPort ++ leBytes 1 e.state)) 0 128

/-- Head and entries of a membership table, the signed part (R341). -/
def tableSigned (t : MTable) : List Byte :=
  ascii "BLKMEMB1" ++ leBytes 4 t.epoch.toNat ++ leBytes 2 t.entries.length ++ leBytes 2 t.master
    ++ leBytes 6 t.effStep.toNat ++ leBytes 2 0 ++ leBytes 2 t.bridge ++ leBytes 38 0 ++ sub t.masterKeyId 0 64
    ++ t.entries.flatMap (fun e =>
      leBytes 2 e.num ++ leBytes 2 0 ++ sub e.keyId 0 64 ++ leBytes 4 0 ++ portBytes e.ports)

/-- What the signature of a membership table covers (R341). -/
def tableMessage (t : MTable) : List Byte := ascii "BLK-MEMB-SIG1" ++ tableSigned t

/-- Payload of a body (R331). Flags of COLL tokens and the poison of an RWRITE travel beside the bytes (log entry 92). -/
def TBody.bytes : TBody → List Byte
  | .rwrite _ d _ => d
  | .rread .. => []
  | .resp _ _ _ d => d
  | .bmk .. => []
  | .coll _ _ _ _ ts => ts.flatMap (fun t => leBytes 128 t.data.toNat)
  | .norm r => normRecBytes r
  | .mon k f => monFrameBytes k f
  | .cmd w => w.bytes
  | .cpl c => c.bytes
  | .datum f => datumBytes f
  | .mgmt w _ v => if w then leBytes 8 v.toNat else []
  | .announce a => announceWire a
  | .keyx ct tr sig => sub ct 0 1568 ++ sub tr 0 64 ++ sub sig 0 49856
  | .member t => tableSigned t ++ sub t.signature 0 49856
  | .linkstate k ps => sub k 0 64 ++ portBytes ps
  | .other _ _ p => p

/-! Sizes and channels -/

/-- Bytes of a norm record (R243, R306). -/
def normBytes (r : NormRec) : Nat :=
  if r.typ.val = 4 then 128 else 64 + 16 * r.trust.length

/-- Payload length by type (R331). -/
def TBody.payload : TBody → Nat
  | .rwrite _ d _ => d.length
  | .rread .. => 0
  | .resp _ _ _ d => d.length
  | .bmk .. => 0
  | .coll _ _ _ _ ts => 128 * ts.length
  | .norm r => normBytes r
  | .mon _ f => 128 + f.payload.length
  | .cmd _ => 64
  | .cpl _ => 16
  | .datum _ => 64
  | .mgmt w _ _ => if w then 8 else 0
  | .announce _ => 53032
  | .keyx .. => 51488
  | .member t => 128 + 200 * t.entries.length + 49856
  | .linkstate .. => 192
  | .other _ _ p => p.length

/-- Type number (R331). -/
def TBody.typ : TBody → Nat
  | .rwrite .. => 0x01 | .rread .. => 0x02 | .resp .. => 0x03 | .bmk .. => 0x04 | .coll .. => 0x05
  | .norm _ => 0x06 | .mon .. => 0x07 | .cmd _ => 0x08 | .cpl _ => 0x09 | .datum _ => 0x0A
  | .mgmt .. => 0x0B | .announce _ => 0x0C | .keyx .. => 0x0D | .member _ => 0x0E | .linkstate .. => 0x0F
  | .other t _ _ => t.toNat

/-- Virtual channel of a type (R327). -/
def vcOf (typ : Nat) : Nat :=
  if typ = 0x0A then 1
  else if typ = 0x08 then 2
  else if typ = 0x04 || typ = 0x06 then 3
  else if typ = 0x01 || typ = 0x02 then 4
  else if typ = 0x03 || typ = 0x09 then 5
  else if typ = 0x05 then 6
  else if typ = 0x07 then 7
  else 0

/-- Largest payload of a channel (R327). -/
def vcLimit (vc : Nat) : Nat :=
  if vc = 1 || vc = 2 then 256 else if vc = 7 then 262144 else 65536

/-- Flits of a transaction of P payload bytes (R328). -/
def flitsOf (payload : Nat) : Nat := cdiv (payload + 48) 250

/-- Fragmented types travel in pieces of at most the channel's limit (R331). -/
def TBody.fragmented : TBody → Bool
  | .norm _ => true | .mon .. => true | .member _ => true | _ => false

def Trans.vc (t : Trans) : Nat := vcOf t.body.typ

/-- Offset of the part of the body that a transaction carries, and its length (R331). -/
def Trans.part (t : Trans) : Nat × Nat :=
  match t.frag with
  | some k => (k * vcLimit t.vc, min (vcLimit t.vc) (t.body.payload - k * vcLimit t.vc))
  | none => (0, t.body.payload)

/-- ANNOUNCE and KEYX carry no tag and meet no key (R330, R336). -/
def Trans.plain (t : Trans) : Bool := t.body.typ = 0x0C || t.body.typ = 0x0D

/-- Flits of a transaction: those of its fragment, or of all fragments of a body that has not been cut (R328). -/
def Trans.flits (t : Trans) : Nat :=
  let p := t.body.payload
  let lim := vcLimit t.vc
  match t.frag with
  | some _ => flitsOf t.part.2
  | none =>
    if t.body.fragmented then (p / lim) * flitsOf lim + (if p % lim = 0 then 0 else flitsOf (p % lim))
    else flitsOf p

/-- The transactions that carry a body: one, or one for each fragment of at most the channel's limit (R327, R331). -/
def Trans.cut (t : Trans) : List Trans :=
  let lim := vcLimit t.vc
  if t.body.fragmented && t.frag.isNone && lim < t.body.payload then
    (List.range (cdiv t.body.payload lim)).map (fun k => { t with frag := some k })
  else [t]

/-! Headers and flits -/

/-- Args of the header, 16 bytes by type (R331): fragmented types name their offset and whole length. -/
def Trans.args (t : Trans) : List Byte :=
  let o := t.part.1
  let n := t.body.payload
  match t.body with
  | .rwrite a _ _ => leBytes 8 a.toNat ++ leBytes 8 0
  | .rread a k => leBytes 8 a.toNat ++ leBytes 4 k.toNat ++ leBytes 4 0
  | .resp c k v _ => leBytes 2 c.toNat ++ leBytes 1 k.toNat ++ leBytes 5 0 ++ leBytes 8 v.toNat
  | .bmk i op v => leBytes 2 i.toNat ++ leBytes 2 op ++ leBytes 4 v.toNat ++ leBytes 8 0
  | .coll a m c e _ => leBytes 8 a.toNat ++ leBytes 1 m.toNat ++ leBytes 1 c.toNat ++ leBytes 2 e.toNat ++ leBytes 4 0
  | .norm r => leBytes 6 r.step.toNat ++ leBytes 2 r.typ.val ++ leBytes 4 o ++ leBytes 4 n
  | .mon .. => leBytes 4 o ++ leBytes 4 n ++ leBytes 8 0
  | .mgmt w a _ => leBytes 8 (b2n w) ++ leBytes 8 a.toNat
  | .member m => leBytes 4 m.epoch.toNat ++ leBytes 4 0 ++ leBytes 4 o ++ leBytes 4 n
  | .other _ a _ => leBytes 16 a.toNat
  | _ => leBytes 16 0

/-- The 32-byte header under a key phase (R330). -/
def Trans.header (t : Trans) (phase : Bool) : List Byte :=
  leBytes 1 t.body.typ ++ leBytes 1 (b2n (phase && !t.plain)) ++ leBytes 2 t.src.toNat ++ leBytes 2 t.dst.toNat
    ++ leBytes 2 t.tag.toNat ++ leBytes 4 t.part.2 ++ leBytes 1 t.hops ++ leBytes 3 0 ++ t.args

/-- The transaction as it leaves the port (R330, R336): nonce of salt and count, the header authenticated, the payload
encrypted, the tag after it. -/
def Trans.wire (t : Trans) (k : LinkKeys) (phase : Bool) : List Byte :=
  let h := t.header phase
  let p := sub t.body.bytes t.part.1 t.part.2
  h ++ (if t.plain then p else Config.gcmSeal k.txKey (k.txSalt ++ leBytes 8 k.txCount.toNat) h p)

/-- Header bytes of a flit (R323). -/
def flitHeader (f : Flit) : Nat :=
  f.kind.val + 4 * f.vc.val + 32 * b2n f.sot + 64 * b2n f.eot + 256 * f.fill.toNat

/-- The CRC of a flit under the number of the next DATA flit (R324). -/
def flitCrc (f : Flit) (seq : W16) : W32 := crc32 (leBytes 2 seq.toNat ++ leBytes 2 (flitHeader f) ++ f.payload)

/-- A flit with its CRC (R324). -/
def sealFlit (f : Flit) (seq : W16) : Flit := { f with crc := flitCrc f seq }

/-- The DATA flits of a transaction's bytes on a channel, numbered from seq (R323, R324). -/
def dataFlits (vc : Fin 8) (bytes : List Byte) (seq : W16) : List Flit :=
  let parts := chunksOf 250 bytes
  parts.zipIdx.map (fun (b, i) =>
    sealFlit { kind := 1, vc := vc, sot := i == 0, eot := i + 1 == parts.length, fill := BitVec.ofNat 8 (b.length - 1),
               payload := sub b 0 250, crc := 0 } (seq + BitVec.ofNat 16 i))

/-- Payload of a LINK flit (R325). -/
def linkOpsBytes (o : LinkOps) : List Byte :=
  leBytes 1 (b2n o.ack + 2 * b2n o.nak + 4 * b2n o.replay + 8 * b2n o.credit) ++ leBytes 1 0
    ++ leBytes 2 o.ackSeq.toNat ++ leBytes 2 o.seq.toNat ++ leBytes 2 0
    ++ (List.range 8).flatMap (fun v => leBytes 2 (o.credits.getD v 0)) ++ leBytes 226 0

/-- What a LINK flit's payload says (R325). -/
def linkOpsOf (b : List Byte) : LinkOps :=
  { ack := (byteAt b 0).testBit 0, nak := (byteAt b 0).testBit 1, replay := (byteAt b 0).testBit 2
    credit := (byteAt b 0).testBit 3, ackSeq := BitVec.ofNat 16 (leAt b 2 2), seq := BitVec.ofNat 16 (leAt b 4 2)
    credits := (List.range 8).map (fun v => leAt b (8 + 2 * v) 2) }

/-- A LINK flit under the number of the DATA flit that follows it (R324, R325). -/
def linkFlitOf (o : LinkOps) (seq : W16) : Flit :=
  sealFlit { kind := 2, vc := 0, sot := false, eot := false, fill := 249, payload := linkOpsBytes o, crc := 0 } seq

end Sys2Proof.Machine
end

