-- ==== Sys2Proof/Machine/Ops.lean ====
section
/-! DEFINITION. The named operations every family uses: units, transactions and their routes (R327 to R343),
raising a code (R397 to R417), failing a step (R403, R404) and the fatal stop (R412). -/
namespace Sys2Proof.Machine

/-! Units -/

/-- Key of unit n of plat p, 256 units a plat (R6, R7). -/
def unitKey (p n : Nat) : Nat := 256 * p + n
def siteKey (p s : Nat) : Nat := 512 * p + s

def State.cu (s : State) (p n : Nat) : Cu := SMap.get {} s.cus (unitKey p n)
def State.setCu (s : State) (p n : Nat) (c : Cu) : State := { s with cus := SMap.set {} s.cus (unitKey p n) c }
def State.mu (s : State) (p n : Nat) : Mu := SMap.get {} s.mus (unitKey p n)
def State.setMu (s : State) (p n : Nat) (m : Mu) : State := { s with mus := SMap.set {} s.mus (unitKey p n) m }
def State.sw (s : State) (p n : Nat) : Sw := SMap.get {} s.sws (siteKey p n)
def State.setSw (s : State) (p n : Nat) (w : Sw) : State := { s with sws := SMap.set {} s.sws (siteKey p n) w }
def State.plat (s : State) (p : Nat) : Plat := SMap.get {} s.plats p
def State.setPlat (s : State) (p : Nat) (x : Plat) : State := { s with plats := SMap.set {} s.plats p x }
def State.bmk (s : State) (i : Nat) : Bmk := SMap.get {} s.bmks i
def State.setBmk (s : State) (i : Nat) (b : Bmk) : State := { s with bmks := SMap.set {} s.bmks i b }
def State.au (s : State) (g : Nat) : Au := SMap.get {} s.aus g
def State.setAu (s : State) (g : Nat) (a : Au) : State := { s with aus := SMap.set {} s.aus g a }
def State.port (s : State) (n : Nat) : Port := SMap.get {} s.ports n
def State.setPort (s : State) (n : Nat) (p : Port) : State := { s with ports := SMap.set {} s.ports n p }
def State.chan (s : State) (c : Nat) : Chan := SMap.get {} s.dram.chans c
def State.setChan (s : State) (c : Nat) (x : Chan) : State :=
  { s with dram := { s.dram with chans := SMap.set {} s.dram.chans c x } }
def State.mg (s : State) (g : Nat) : Mg := SMap.get {} s.dram.mgs g
def State.setMg (s : State) (g : Nat) (x : Mg) : State :=
  { s with dram := { s.dram with mgs := SMap.set {} s.dram.mgs g x } }

/-- Something leaves the part. -/
def State.emit (s : State) (o : Out) : State := { s with out := s.out ++ [o] }

/-- The next free value of the run (log entry 4). -/
def State.takeFree (s : State) : W64 × State := (Config.freeValue s.free, { s with free := s.free + 1 })

/-- Free bytes, k words of them, for positions no rule gives a value. -/
def State.freeBytes (s : State) : Nat → List Byte × State
  | 0 => ([], s)
  | k + 1 =>
    let (w, s) := s.takeFree
    let (bs, s) := s.freeBytes k
    (leBytes 8 w.toNat ++ bs, s)

/-- 1 ms in datum ticks: 156,250. -/
def dtPerMs : Nat := 156250

/-- Datum time elapsed since t. -/
def State.since (s : State) (t : W64) : Nat := (s.dtm.time - t).toNat

/-- Step counter c of the AUs (R253); the four agree unless written apart. -/
def State.stepIndex (s : State) : Step := (s.au 0).step

/-! Transactions and their routes -/

/-- Entry of a device number. -/
def tableEntry (t : MTable) (d : Nat) : Option MemberEntry := t.entries.find? (fun e => e.num == d)

/-- Links of device a: this port, the neighbour (R343). -/
def tableLinks (t : MTable) (a : Nat) : List (Nat × Nat) :=
  match tableEntry t a with
  | none => []
  | some e =>
    e.ports.zipIdx.filterMap (fun (pe, p) =>
      if pe.state = 1 then
        match tableEntry t pe.peer with
        | some f =>
          (match f.ports[pe.peerPort]? with
           | some back => if back.state = 1 && back.peer = a && back.peerPort = p then some (p, pe.peer) else none
           | none => none)
        | none => none
      else none)

/-- Distances from device d in links, breadth first: devices of the frontier, devices seen with their distance. -/
def tableBfs (t : MTable) : Nat → Nat → List Nat → List (Nat × Nat) → List (Nat × Nat)
  | 0, _, _, seen => seen
  | fuel + 1, k, frontier, seen =>
    let next := (frontier.flatMap (fun a => (tableLinks t a).map (·.2))).eraseDups.filter
      (fun b => !seen.any (·.1 == b))
    if next.isEmpty then seen
    else tableBfs t fuel (k + 1) next (seen ++ next.map (fun b => (b, k + 1)))

def tableDist (t : MTable) (d : Nat) : List (Nat × Nat) := tableBfs t t.entries.length 0 [d] [(d, 0)]

/-- Ports of device a on a shortest path to d, ascending (R343). -/
def routePorts (t : MTable) (a d : Nat) : List Nat :=
  let ds := tableDist t d
  let at_ := fun x => (ds.find? (·.1 == x)).map (·.2)
  match at_ a with
  | none => []
  | some k => (tableLinks t a).filterMap (fun (p, n) => if at_ n = some (k - 1) && k > 0 then some p else none)

/-- This device's number under the table in effect (R342). -/
def State.myNum (s : State) : Option Nat :=
  match s.lxg.table with
  | none => none
  | some t => (t.entries.find? (fun e => e.keyId == s.lxg.ownKeyId)).map (·.num)

/-- This device acts as bridge (R344). -/
def State.isBridge (s : State) : Bool :=
  match s.lxg.table with
  | none => s.lxg.strapBridge
  | some t => s.myNum == some t.bridge

/-- A port is in service when it is SECURE (R321) and not looped back (R351). -/
def State.inService (s : State) (n : Nat) : Bool :=
  (s.port n).state == .secure && !(s.port n).loopback

/-- F(d): ports towards a destination in order, where an endpoint is attached for one of the bridge's own (R343, R344). -/
def State.routes (s : State) (dst : W16) : List Nat :=
  if bitOf dst 15 && s.isBridge then
    (List.range 32).filter (fun n => (s.port n).peerKind = 2 && (s.port n).peerNum = fld dst 0 12)
  else match s.lxg.table, s.myNum with
    | some t, some a => routePorts t a (if bitOf dst 15 then t.bridge else fld dst 0 12)
    | _, _ => []

/-- Ports of F(d) in service (R343). -/
def State.outPorts (s : State) (dst : W16) : List Nat := (s.routes dst).filter s.inService

/-- The number this device writes as src; 0xFFF while it is unnumbered. -/
def State.ownSrc (s : State) : W16 := BitVec.ofNat 16 (s.myNum.getD 0xFFF)

/-! The random bits and the announcement of a link (R334, R427) -/

/-- Requests, and datum ticks of 24 h, after which the DRBG is reseeded (R444). -/
def drbgRequests : Nat := 2 ^ 20
def drbgTicks : Nat := 24 * 3600 * 156250000

/-- The DRBG takes fresh entropy at a datum time (R444). -/
def Drbg.reseeded (d : Drbg) (now : W64) : Drbg :=
  { seedings := d.seedings + 1, state := Config.drbgSeed d.state (Config.entropy d.seedings), since := 0, seededAt := now }

/-- The DRBG is instantiated (R444, R453). -/
def State.drbgStart (s : State) : State := { s with drbg := { s.drbg with state := [] }.reseeded s.dtm.time }

/-- Bytes of the DRBG, and the state with the request counted; after 2^20 requests it is reseeded first (R427, R444). -/
def State.drbgDraw (s : State) (len : Nat) : List Byte × State :=
  let d := if drbgRequests ≤ s.drbg.since then s.drbg.reseeded s.dtm.time else s.drbg
  (Config.drbgOut d.state len, { s with drbg := { d with state := Config.drbgNext d.state len, since := d.since + 1 } })

/-- The module signs and keys links: it is neither starting, in error nor without identity (R443, R445, R453). -/
def State.hasIdentity (s : State) : Bool := s.sec.state == .operational

/-- This device's ANNOUNCE on port n, of fresh random bytes, with its signature (R334). -/
def State.announceOf (s : State) (n : Nat) (nonce rnd : List Byte) : Announce :=
  let a : Announce := {
    kind := 1, port := BitVec.ofNat 8 n, number := BitVec.ofNat 16 (s.myNum.getD 0xFFFF), bridge := s.isBridge
    keyId := s.lxg.ownKeyId, nonce := nonce, ek := Config.kemEk rnd, pubKey := Config.identityPub
    chainDigest := Config.shake256 Config.certChain 64
    rosterSeq := match s.sec.roster with | some r => r.seq | none => 0
    signature := [] }
  { a with signature := Config.identitySign (ascii "BLK-LX-ANN1" ++ announceBytes a) }

/-- An ANNOUNCE joins what waits on port n (R334). -/
def State.queueAnnounce (s : State) (n : Nat) : State :=
  if !s.hasIdentity then s
  else
    let (nonce, s) := s.drbgDraw 32
    let (rnd, s) := s.drbgDraw 64
    let a := s.announceOf n nonce rnd
    let p := s.port n
    s.setPort n { p with
      myAnnounce := some a, kem := { dk := Config.kemDk rnd }
      waiting := p.waiting ++ [{ src := s.ownSrc, dst := 0, tag := 0, body := .announce a }] }

/-- A transaction count has reached 2^32 under the keys of a SECURE port (R337). -/
def Port.rekeyDue (p : Port) : Bool :=
  p.state == .secure && !p.rekey && (2 ^ 32 ≤ p.keys.txCount.toNat || 2 ^ 32 ≤ p.keys.rxCount.toNat)

/-- The exchange of a rekey begins where a count asks for it (R337). -/
def State.rekeyIfDue (s : State) (n : Nat) : State :=
  if (s.port n).rekeyDue then (s.setPort n { s.port n with rekey := true }).queueAnnounce n else s

/-! The transmitter of a port (R326 to R328) -/

/-- Order in which the transmitter serves the channels (R327), VC4, VC6 and VC7 apart. -/
def vcOrder : List Nat := [1, 0, 3, 5, 2]

/-- Division of a receive buffer among the channels: that of the loaded plan, or the defaults of R328. -/
def State.planCredit (s : State) : List Nat :=
  if s.img.loaded then s.cfg.plan.credit else [512, 64, 256, 1024, 1024, 1024, 2048, 2240]

/-- Flits the port may still send on a channel of a division (R328). -/
def Port.credit (p : Port) (division : List Nat) (vc : Nat) : Nat := division.getD vc 0 - p.txSpent.getD vc 0

/-- Traffic that a port's state lets pass (R321). -/
def PortState.carries (st : PortState) (typ : Nat) : Bool :=
  match st with
  | .secure => true
  | .linked => typ = 0x0C || typ = 0x0D
  | .isolated => typ = 0x0C
  | _ => false

/-- Oldest waiting transaction of a channel that the port may carry and that has credit and replay room (R321, R326, R328). -/
def Port.ready (p : Port) (division : List Nat) (vc : Nat) : Option Trans :=
  match p.waiting.find? (fun t => t.vc == vc && p.state.carries t.body.typ) with
  | none => none
  | some t => if t.flits ≤ p.credit division vc && p.replay.length + t.flits ≤ 8192 then some t else none

/-- Deficit round robin over VC4, VC6 and VC7 (R327): the channel served, and the deficits after. -/
def Port.drr (p : Port) (division weights : List Nat) : Option (Trans × List Nat) :=
  let cand := [(4, 0), (6, 1), (7, 2)].filterMap (fun (vc, i) => (p.ready division vc).map (fun t => (i, t)))
  let need := fun (c : Nat × Trans) =>
    cdiv (c.2.flits - p.deficit.getD c.1 0) (max 1 (weights.getD c.1 1))
  match cand with
  | [] => none
  | c :: cs =>
    let best := cs.foldl (fun a b => if need b < need a then b else a) c
    let r := need best
    let d := (List.range 3).map (fun i =>
      if cand.any (·.1 == i) then p.deficit.getD i 0 + r * max 1 (weights.getD i 1) else 0)
    some (best.2, d.set best.1 (d.getD best.1 0 - best.2.flits))

/-- Time stamps of a datum frame at the departure of its first flit (R352). -/
def State.stamp (s : State) (n : Nat) (f : DatumFrame) : DatumFrame :=
  let d := s.dtm
  let (eT, eF, turn) := match (s.port n).frame with
    | some x => (x.frame.time, x.frame.timeFrac,
        (d.time.toNat * 65536 + d.frac.toNat) - (x.arrival.toNat * 65536 + x.arrivalFrac.toNat))
    | none => (0, 0, 0)
  { f with time := d.time, timeFrac := d.frac, echoTime := eT, echoFrac := eF, turn := BitVec.ofNat 32 turn }

/-- A transaction as it starts on port n. -/
def State.stamped (s : State) (n : Nat) (t : Trans) : Trans :=
  match t.body with
  | .datum f => { t with body := .datum (s.stamp n f) }
  | _ => t

/-- A waiting transaction starts as `u`: numbers, credit, replay buffer, key count (R326, R328, R336). -/
def Port.transmit (p : Port) (t u : Trans) (fs : List Flit) (deficit : List Nat) : Port :=
  let k := t.flits
  { p with
    waiting := p.waiting.erase t
    txSpent := p.txSpent.modify t.vc (· + k)
    replay := p.replay ++ fs
    txSeq := p.txSeq + BitVec.ofNat 16 k
    inFlight := p.inFlight ++ [(p.txSeq + BitVec.ofNat 16 k - 1, u)]
    cntTx := BitVec.ofNat 64 (satAdd 64 p.cntTx.toNat k)
    deficit := deficit
    keys := if t.plain then p.keys else { p.keys with txCount := p.keys.txCount + 1 } }

/-- The keys of a rekey come into use once both KEYX have gone their way, this side's no later than what follows it on the
port; the old phase stays accepted (R337). -/
def Port.switchKeys (p : Port) : Port :=
  match p.nextKeys with
  | none => p
  | some k =>
    if p.waiting.any (fun t => t.body.typ = 0x0D) then p
    else { p with nextKeys := none, rekey := false, keyPhase := !p.keyPhase, oldKeys := some p.keys, keys := k }

/-- Flits leave a port. -/
def State.emitFlits (s : State) (n : Nat) (fs : List Flit) : State := { s with out := s.out ++ fs.map (.flit n) }

/-- A transaction starts on port n: its DATA flits leave (R323, R328). -/
def State.startOn (s : State) (n : Nat) (t : Trans) (deficit : List Nat) : State :=
  let p := s.port n
  let u := s.stamped n t
  let fs := dataFlits (Fin.ofNat 8 t.vc) (u.wire p.keys p.keyPhase) p.txSeq
  (((s.setPort n (p.transmit t u fs deficit).switchKeys).emit (.trans n u)).emitFlits n fs).rekeyIfDue n

/-- Weights of VC4, VC6 and VC7: LUMOUX_PLAN, equal in HELD (R327). -/
def State.drrWeights (s : State) : List Nat := if s.img.loaded then s.cfg.plan.weights else [1, 1, 1]

/-- Everything that can start on port n starts. Fuel: the transactions waiting, and an ANNOUNCE a rekey adds. -/
def pump (n : Nat) : Nat → State → State
  | 0, s => s
  | fuel + 1, s =>
    let p := s.port n
    match vcOrder.findSome? (p.ready s.planCredit) with
    | some t => pump n fuel (s.startOn n t p.deficit)
    | none =>
      match p.drr s.planCredit s.drrWeights with
      | some (t, d) => pump n fuel (s.startOn n t d)
      | none => s

def State.pumpPort (s : State) (n : Nat) : State := pump n ((s.port n).waiting.length + 1) s

/-- Hand a transaction to a port's transmitter, fragment by fragment. -/
def State.put (s : State) (n : Nat) (t : Trans) : State :=
  (s.setPort n { s.port n with waiting := (s.port n).waiting ++ { t with inPort := none }.cut }).pumpPort n

/-- LX_PORT_STATUS (R351). -/
def Port.status (p : Port) : W64 :=
  mkWord 64 [(0, 3, p.state.num), (3, 1, b2n p.light), (4, 8, p.lanes.toNat), (12, 2, p.peerKind),
    (14, 1, b2n p.keyPhase), (16, 5, p.peerPort), (32, 12, p.peerNum), (44, 1, b2n p.peerValid)]

/-- Set a bit of LX_PORT_FAULT. -/
def Port.flag (p : Port) (b : Nat) : Port := { p with fault := setBit p.fault b }

/-- The port that a transaction to d would take: the lowest of F(d), or 0 where F(d) is empty (log entry 101). -/
def State.wayPort (s : State) (dst : W16) : Nat := ((s.routes dst).headD 0)

/-- Send on the lowest port of F(d) in service, or say why not (R327, R343). -/
def State.trySend (s : State) (t : Trans) : State × Option Code :=
  if !t.body.fragmented && vcLimit t.vc < t.body.payload then (s, some Codes.lxOversize)
  else match s.outPorts t.dst with
    | n :: _ => (s.put n t, none)
    | [] => (s, some Codes.lxNoRoute)

/-- A transaction of another device is handed to an outgoing port and counts there (R351). -/
def State.putOn (s : State) (n : Nat) (t : Trans) : State :=
  let p := s.port n
  (s.setPort n { p with cntFwd := BitVec.ofNat 64 (satAdd 64 p.cntFwd.toNat 1) }).put n t

/-- A transaction that no port can take on stays in its receive buffer: its credit is not owed yet (R328). -/
def Port.keep (p : Port) (vc flits : Nat) : Port :=
  { p with rxUsed := p.rxUsed.modify vc (· + flits), owed := p.owed.modify vc (· - flits) }

/-- It leaves the receive buffer that held it: the credit is owed (R328). -/
def State.unkeep (s : State) (t : Trans) : State :=
  match t.inPort with
  | none => s
  | some n =>
    let p := s.port n
    s.setPort n { p with rxUsed := p.rxUsed.modify t.vc (· - t.flits), owed := p.owed.modify t.vc (· + t.flits) }

/-- Another device's transaction goes on by a port in service, or waits for one (R329, R343). -/
def State.passOn (s : State) (t : Trans) : State :=
  match s.outPorts t.dst with
  | n :: _ => s.putOn n t
  | [] =>
    let s := match t.inPort with
      | some n => s.setPort n ((s.port n).keep t.vc t.flits)
      | none => s
    { s with lxg := { s.lxg with held := s.lxg.held ++ [t] } }

/-- A port or a table has come into service: what waited for a port tries again (R329). -/
def State.retryHeld (s : State) : State :=
  s.lxg.held.foldl (fun s t => (s.unkeep t).passOn t) { s with lxg := { s.lxg with held := [] } }

/-- The receive buffer of port n is gone: nothing that waits is held there. -/
def State.bufferGone (s : State) (n : Nat) : State :=
  { s with lxg := { s.lxg with held := s.lxg.held.map (fun t => if t.inPort == some n then { t with inPort := none } else t) } }

/-- Flood a transaction on every SECURE port except the one it came by (R339); what is passed on counts (R351). -/
def State.flood (s : State) (except_ : Option Nat) (t : Trans) : State :=
  ((List.range 32).filter (fun n => s.inService n && except_ != some n)).foldl
    (fun s n => if except_.isSome then s.putOn n t else s.put n t) s

/-! Faults -/

/-- Insert a record into the buffer, keeping its bounds (R415). -/
def Flt.push (f : Flt) (r : FaultRec) : Flt :=
  let low := fun (x : FaultRec) => x.cls == .corr || x.cls == .stat
  if low r then
    if f.buffer.length < 224 then { f with buffer := f.buffer ++ [r], head := r.seq + 1 }
    else { f with dropped := satAdd 16 f.dropped 1 }
  else if f.buffer.length < 256 then { f with buffer := f.buffer ++ [r], head := r.seq + 1 }
  else match f.buffer.reverse.find? low with
    | some v => { f with buffer := f.buffer.erase v ++ [r], head := r.seq + 1, dropped := satAdd 16 f.dropped 1 }
    | none => f

/-- Count an occurrence in its class (R397). -/
def Flt.count (f : Flt) (c : FClass) : Flt :=
  match c with
  | .corr => { f with cntC := f.cntC + 1 }
  | .cont => { f with cntK := f.cntK + 1 }
  | .fatal => { f with cntF := f.cntF + 1 }
  | .stat => f

/-- Merge into an open record of the same code and source within 1 ms (R415), else none. -/
def Flt.merge (f : Flt) (c : FClass) (code : Code) (kind inst : Nat) (now : W64) : Option Flt :=
  if c == .cont || c == .fatal then none
  else match f.buffer.find? (fun r => r.code == code && r.cls == c && r.srcKind == kind && r.srcInst == inst
      && (now - r.time).toNat ≤ dtPerMs) with
    | none => none
    | some r => some { f with buffer := f.buffer.map (fun x =>
        if x.seq == r.seq then { x with count := satAdd 16 x.count 1, merged := true } else x) }

/-- Record an occurrence: counters and fault log, without any action of its class (R397, R413 to R417). -/
def State.logFault (s : State) (c : FClass) (code : Code) (kind inst : Nat) (detail : W64 := 0) : State :=
  let latch := c == .cont && s.adj.inStep && !s.flt.first.valid
  let f := s.flt.count c
  let f := if latch then { f with first := { code := code, srcKind := kind, srcInst := inst, valid := true } } else f
  let f := match f.merge c code kind inst s.dtm.time with
    | some g => g
    | none => f.push { seq := f.head, time := s.dtm.time, step := s.stepIndex, code := code, cls := c
                       srcKind := kind, srcInst := inst, first := latch, running := s.img.state == .running
                       imgState := s.img.state.num, detail := detail }
  { s with flt := f }

/-- Record a code at port n with its status as detail, without any action of its class (R414). -/
def State.logPort (s : State) (c : FClass) (code : Code) (n : Nat) : State := s.logFault c code 6 n (s.port n).status

/-- Every piece of the image, in item order. -/
def Cfg.allPieces (c : Cfg) : List Piece := c.regions.flatMap (·.pieces)

/-- Every piece has been requantised in the step (R242). -/
def State.piecesDone (s : State) : Bool :=
  s.cfg.allPieces.all (fun p => s.adj.partials.any (·.1 == p.item))

/-- gsq of R240: the partials of every piece that is not raw, in item order. -/
def State.deviceGsq (s : State) : W32 :=
  fpSum (((s.cfg.allPieces.filter (fun p => !p.raw)).filterMap (fun p => s.adj.partials.find? (·.1 == p.item))).map (·.2))

/-- The exchange record this device writes of itself (R243); a SEAL carries gsq from the moment it is formed. -/
def State.ownRec (s : State) (typ : Fin 5) (ok : Bool) : NormRec :=
  { typ := typ, vote := !ok
    fault := if ok then 0 else s.flt.first.code
    dev := s.cfg.plan.dev, shard := s.cfg.plan.shard, step := s.stepIndex, rset := s.cfg.plan.rset
    gsq := if typ.val = 1 && s.piecesDone then s.deviceGsq else 0, trust := [], root := [] }

/-- Send a record to every other device of the seal set (R243, R349); a device without a route is a contained fault
(R343). -/
def State.sendNorm (s : State) (r : NormRec) : State :=
  (s.cfg.plan.seals.filter (fun e => e.dev != s.cfg.plan.dev)).foldl (fun s e =>
    let (s, c) := s.trySend { src := s.ownSrc, dst := BitVec.ofNat 16 e.dev, tag := 0, array := true, body := .norm r }
    match c with
    | none => s
    | some c => ({ s with adj := { s.adj with kFault := true } }).logPort .cont c (s.wayPort (BitVec.ofNat 16 e.dev))) s

/-- Send the FAIL record of the phase the step is in, unless a FAIL record went out already (R242, R404). -/
def State.sendFail (s : State) : State :=
  let a := s.adj
  if a.sealSent == some false || a.gateSent == some false || a.commitSent == some false then s
  else if !a.sealed then
    ({ s with adj := { a with sealSent := some false } }).sendNorm (s.ownRec 1 false)
  else if !a.gateOk then
    ({ s with adj := { a with gateSent := some false } }).sendNorm (s.ownRec 2 false)
  else ({ s with adj := { a with commitSent := some false } }).sendNorm (s.ownRec 3 false)

/-- The device enters FAILED (R403, R404). Requests of the attempt stay outstanding, marked as its own (R405). -/
def State.enterFailed (s : State) : State :=
  let s := if s.adj.inStep then s.sendFail else s
  { s with
    flt := { s.flt with stepState := .failed, restarting := false }
    lxg := { s.lxg with reqs := s.lxg.reqs.map (fun r => if r.array then { r with failed := true } else r) } }

/-- A contained fault fails the step in RUNNING, and a step that a STOP lets end (R403; log entry 43). -/
def State.stepFail (s : State) : State :=
  if (s.img.state == .running || (s.img.state == .stopping && s.adj.inStep))
      && (s.flt.stepState == .idle || s.flt.stepState == .running) then s.enterFailed
  else s

/-- A unit before the configuration of a load reaches it: UNCONFIGURED, epoch 0, empty (R144, R150). -/
def Cu.clear (c : Cu) : Cu :=
  { c with run := .unconfigured, cfg := putFld c.cfg 36 4 0, tiles := [], engine := none, reg0 := [], reg1 := [], readout := none
           sets := [], writeback := [], next := 0, seqDescs := [], faultDesc := none, lastA := false, lastB := false
           vec := {}, inA := [], inB := [], inS := [] }
def Mu.clear (m : Mu) : Mu :=
  { m with run := .unconfigured, epoch := 0, cmd := none, events := [], qin := [], segs := []
           ags := SMap.mapVals {} (fun _ a => { a with busy := false, pending := 0, lines := [], input := [] }) m.ags }
def Sw.clear (w : Sw) : Sw :=
  { w with run := .unconfigured, epoch := 0, ins := [], spilling := none, spillTokens := 0 }

/-- A unit whose configuration is cleared: UNCONFIGURED, epoch 0; it stops, and its registers keep what they hold (R150,
R151, R412). -/
def Cu.halt (c : Cu) : Cu :=
  { c with run := .unconfigured, cfg := putFld c.cfg 36 4 0, engine := none, readout := none, writeback := []
           vec := {}, inA := [], inB := [], inS := [] }
def Mu.halt (m : Mu) : Mu :=
  { m with run := .unconfigured, epoch := 0, cmd := none, events := [], qin := [], segs := []
           ags := SMap.mapVals {} (fun _ a => { a with busy := false, pending := 0, lines := [], input := [] }) m.ags }
def Sw.halt (w : Sw) : Sw := { w with run := .unconfigured, epoch := 0 }
def Plat.halt (p : Plat) : Plat :=
  { p with draining := 0, drained := 0, timedOut := 0, epochs := [], active := [], reqs := [], waitingDma := [], hq := []
           seqReq := [], seqPend := [], seqRun := none }

/-- Send a transaction that belongs to no running array; one that cannot leave is a status (R343). -/
def State.sendQuiet (s : State) (t : Trans) : State :=
  match s.trySend t with
  | (s, none) => s
  | (s, some c) => s.logPort .stat c (s.wayPort t.dst)

/-! Completions and slots (R363, R371) -/

/-- A CPL of the broadcast in hand (R372, R374). -/
def Bcast.count (b : Bcast) (dev : Nat) (code : Code) : Bcast :=
  let b := { b with waitingOn := b.waitingOn.filter (· != dev) }
  if code = Codes.ok then { b with ok := b.ok + 1 }
  else if b.fail = 0 then { b with fail := 1, firstDev := dev, firstCode := code }
  else { b with fail := b.fail + 1 }

/-- Sends a completion as CPL where the command came by CMD (R363). A broadcast's copy for this device itself is
counted here (log entry 50). -/
def State.sendCpl (s : State) (a : Arrival) (c : Cpl) : State :=
  match a with
  | .trans rx => s.sendQuiet { src := s.ownSrc, dst := rx.src, tag := rx.tag, body := .cpl c }
  | .own =>
    let d := s.ownSrc.toNat
    if s.cmd.bcast.waitingOn.contains d then { s with cmd := { s.cmd with bcast := s.cmd.bcast.count d c.status } } else s
  | _ => s

/-- Slot s of the command block (R371). -/
def State.slot (s : State) (k : Nat) : Slot := SMap.get {} s.cmd.slots k
def State.setSlot (s : State) (k : Nat) (x : Slot) : State :=
  { s with cmd := { s.cmd with slots := SMap.set {} s.cmd.slots k x } }

/-- Words 1 and 2 of a slot: the 16-byte completion (R363). -/
def Cpl.word1 (c : Cpl) : W64 :=
  mkWord 64 [(0, 16, c.status.toNat), (16, 16, c.opcode.toNat), (32, 16, c.slot.toNat), (48, 1, b2n c.late)]

/-- What an order's effect answers: its code, the value of its completion where it is not the datum time, result data. -/
structure Reply where
  code : Code
  value : Option W64 := none
  data : List W64 := []
  deriving DecidableEq, Repr

def Reply.ok : Reply := { code := Codes.ok }

/-- The deadline of an order has passed (R363, R367). -/
def State.pastDeadline (s : State) (w : CmdWord) : Bool :=
  w.desc.deadline != 0 && decide (w.desc.deadline.toNat < s.dtm.time.toNat)

/-- The completion of an order with a reply (R363). -/
def State.cplOf (s : State) (w : CmdWord) (r : Reply) : Cpl :=
  { status := r.code, opcode := w.opcode, slot := w.desc.slot, late := s.pastDeadline w, value := r.value.getD s.dtm.time }

/-- A completion of an order, to its requester and its slot (R363, R371). -/
def State.finish (s : State) (w : CmdWord) (a : Arrival) (r : Reply) : State :=
  let c := s.cplOf w r
  let s := if w.desc.slot.toNat < 512 then
      s.setSlot w.desc.slot.toNat { s.slot w.desc.slot.toNat with
        ready := true, w1 := c.word1, w2 := c.value, data := r.data.take 4 }
    else s
  s.sendCpl a c

/-- The order is a WAIT on a benchmark, which its deadline ends (R207, R362). -/
def CmdWord.isWait (w : CmdWord) : Bool := w.opcode == 0x0020 && fld w.desc.payload 0 8 == 3

/-! The datum port (R353, R356) -/

/-- Four thousand and ninety-six dt: one frame goes out in each (R353). -/
def frameInterval : Nat := 4096

/-- Four frame intervals (R356). -/
def frameTimeout : Nat := 4 * frameInterval

/-- A frame is valid on a SECURE port (R353). -/
def State.frameValid (s : State) (f : DatumFrame) : Bool :=
  decide (f.hops.toNat < 15) && (match s.lxg.table with
    | some t => f.master.toNat == t.master
    | none => s.dtm.lowestTag == some f.masterTag)

/-- Hops of the frame that makes port n a candidate for the datum port: a frame four intervals old makes none (log
entry 70). -/
def State.candidateHops (s : State) (n : Nat) : Option Nat :=
  match (s.port n).frame with
  | some x => if s.inService n && s.frameValid x.frame && x.frame.traceable && s.since x.arrival ≤ frameTimeout
      then some x.frame.hops.toNat else none
  | none => none

/-- The datum port: lowest hops, then lowest port (R353). -/
def State.bestPort (s : State) : Option Nat :=
  ((List.range 32).foldl (fun (b : Option (Nat × Nat)) n =>
    match s.candidateHops n, b with
    | some h, none => some (n, h)
    | some h, some (_, k) => if h < k then some (n, h) else b
    | none, _ => b) none).map (·.1)

/-- A relock on the frames of a port that is the datum port no more is off (R356). -/
def Dtm.noRelock (d : Dtm) : Dtm := if d.relockTo == some .locked then { d with relockTo := none } else d

/-- The follower has no datum port. -/
def Dtm.noPort (d : Dtm) : Dtm := { d.noRelock with port := none, hops := 15, offsets := [], good := 0, slew := 0 }

/-- A port becomes the datum port: its last frame gives hops, master and step (R353, R359), and starts its silence
(R356). -/
def Dtm.usePort (d : Dtm) (n : Nat) (f : Option FrameSeen) : Dtm :=
  match f with
  | none => d.noPort
  | some x =>
    { d.noRelock with
      port := some (Fin.ofNat 32 n), offsets := [], good := 0, hops := x.frame.hops.toNat + 1, lastFrameAt := x.arrival
      masterTag := x.frame.masterTag, frameStep := x.frame.step, frameStepTime := x.frame.stepTime }

/-- The choice of the datum port (R353). -/
def State.choosePort (s : State) : Dtm :=
  match s.bestPort with
  | none => if s.dtm.port.isNone then s.dtm else s.dtm.noPort
  | some n => if s.dtm.port == some (Fin.ofNat 32 n) then s.dtm else s.dtm.usePort n (s.port n).frame

/-- The datum state as it stands: a port that has left SECURE or fallen silent is the datum port no more. A LOCKED
follower keeps it until REFERENCE_LOSS (R356). -/
def State.dtmNow (s : State) : Dtm :=
  if s.dtm.role || s.dtm.state == .locked || s.dtm.port.isNone then s.dtm else s.choosePort

/-- DTM_STATUS (R374); a follower without a datum port reads hops 15, after reset too (R353, log entry 70). -/
def Dtm.status (d : Dtm) : W64 :=
  mkWord 64 [(0, 3, d.state.num), (3, 5, match d.port with | some p => p.val | none => 0), (8, 1, b2n d.port.isSome),
    (9, 4, if d.role then 0 else if d.port.isSome then d.hops else 15), (13, 1, b2n d.refLost), (16, 16, d.offset.toNat),
    (32, 32, d.memberEpoch.toNat)]

/-- The miss of a deadline is recorded once; a WAIT ends at its deadline instead (R367, R362). -/
def State.missRecord (s : State) (h : Held) : State :=
  if s.pastDeadline h.word && !h.missed && !h.word.isWait then s.logFault .stat Codes.deadlineMissed 7 0 s.dtmNow.status else s

/-- A held order completes: its reservation is released (R366), a deadline it missed is recorded (R367). -/
def State.complete (s : State) (id : Nat) (r : Reply) : State :=
  match s.cmd.held.find? (fun h => h.id == id) with
  | none => s
  | some h =>
    (({ s with cmd := { s.cmd with held := s.cmd.held.filter (fun x => x.id != id) } }).missRecord h).finish h.word h.arrival r

/-- A wait ends: the command that carried it completes, or its requester is answered (R207, R362). -/
def State.waitReply (s : State) (src : BmkSrc) (code : Code) (v : W32) : State :=
  match src with
  | .cmd o =>
    match s.cmd.held.find? (fun h => h.started && h.word.opcode == 0x0020 && h.word.desc == o.desc && h.arrival == o.arrival) with
    | some h => s.complete h.id { code := code, value := some (BitVec.ofNat 64 v.toNat) }
    | none => s
  | .remote rx =>
    s.sendQuiet { src := s.ownSrc, dst := rx.src, tag := rx.tag, body := .resp code 0x04 (BitVec.ofNat 64 v.toNat) [] }
  | _ => s.emit (.bmk code (BitVec.ofNat 64 v.toNat) [])

/-- Reply of an operation of a benchmark to its requester (R205, R208). -/
def State.bmkReply (s : State) (src : BmkSrc) (code : Code) (v : W64) (obj : List Byte) : State :=
  match src with
  | .remote rx =>
    s.sendQuiet { src := s.ownSrc, dst := rx.src, tag := rx.tag, body := .resp code 0x04 v obj }
  | _ => s.emit (.bmk code v obj)

/-- Every parked wait completes with BMK_ABANDONED (R211, R215). -/
def State.abandonWaits (s : State) : State :=
  (List.range 4).foldl (fun s p =>
    let w := (s.plat p).waits
    let s := s.setPlat p { s.plat p with waits := [] }
    w.foldl (fun s k => s.waitReply k.src Codes.bmkAbandoned 0) s) s

/-- Pass 2 or a requantisation waits for the bank lock (R296, R297). -/
def State.monBlocking (s : State) : Bool :=
  let c := s.stepIndex.toNat
  s.adj.inStep && (s.mon.locks.any (fun m => m + 2 == c) && (s.au 0).phase == 3 && s.adj.gateOk && !s.adj.pass2
    || s.cfg.regions.any (fun r => r.pieces.any (fun p => p.eEn && s.mon.errorPending c p.item
        && !s.adj.partials.any (·.1 == p.item)
        && (SMap.get {} (s.mu p.rPlat p.rMu).regions p.rReg).roundDone)))

/-- MON_STATUS (R316). -/
def State.monStatus (s : State) : W64 :=
  let m := s.mon
  mkWord 64 [(0, 3, m.stateNum), (3, 1, b2n s.monBlocking), (4, 1, b2n m.digest.isSome), (5, 1, b2n m.restoreBad),
    (16, 48, m.stepNow)]

/-- Started orders of an opcode whose payload byte passes a test complete. -/
def State.completeAll (s : State) (op : W16) (f : Nat → Bool) (r : Reply) : State :=
  (s.cmd.held.filter (fun h => h.started && h.word.opcode == op && f (fld h.word.desc.payload 0 8))).foldl
    (fun s h => s.complete h.id r) s

/-- A monument operation ends (R316): MON_RESULT holds its final code, and its order completes. -/
def State.monEnd (s : State) (code : Code) (step : Nat) : State :=
  ({ s with mon := { s.mon with result := code, resultStep := step } }).completeAll 0x0030 (fun b => b % 4 < 2) { code := code }

/-- A fatal stop ends a monument, a restore and a closure digest without any frame (R298, R412). -/
def State.monFatal (s : State) : State :=
  let s := match s.mon.job with
    | some j =>
      let s := s.logFault .stat Codes.monAbandoned 10 0 s.monStatus
      let s := { s with mon := { s.mon with job := none } }
      if j.own then s.monEnd Codes.monAbandoned j.step else s
    | none => s
  let s := match s.mon.restore with
    | some r => ({ s with mon := { s.mon with restore := none, restoreBad := true } }).monEnd Codes.monAbandoned (r.step.getD 0)
    | none => s
  { s with mon := { s.mon with digest := none, checks := [], early := [] } }

/-- This device's ports as LINKSTATE reports them (R340). -/
def State.portEntries (s : State) : List PortEntry :=
  (List.range 32).map (fun n =>
    let p := s.port n
    if p.state == .secure then { peer := p.peerNum, peerPort := p.peerPort, state := p.peerKind }
    else { peer := 0, peerPort := 0, state := 0 })

/-- Send LINKSTATE (R340), flooded with the next flood sequence number (R339). -/
def State.sendLinkstate (s : State) : State :=
  let tag := s.lxg.floodTag + 1
  let s := { s with lxg := { s.lxg with floodTag := tag } }
  s.flood none { src := s.ownSrc, dst := 0, tag := tag, body := .linkstate s.lxg.ownKeyId s.portEntries }

/-- A port as it stands once its link is gone. -/
def Port.unlinked (p : Port) (st : PortState) : Port :=
  { p with
    state := st, lanes := 0, peerKind := 0, peerPort := 0, peerNum := 0, peerValid := false, peerKey := []
    keyPhase := false, keys := {}, oldKeys := none, nextKeys := none, rekey := false, kem := {}, myAnnounce := none, peerAnnounce := none
    txSpent := List.replicate 8 0, rxUsed := List.replicate 8 0, owed := List.replicate 8 0, waiting := []
    rxBytes := [], rxWhole := [], txSeq := 0, replay := [], inFlight := [], rxSeq := 0, unreported := 0, nak := none
    nakSeen := none, frameSent := none, frame := none }

/-- A CO session ends when its endpoint's last port leaves SECURE (R435). -/
def State.endSession (s : State) : State :=
  match s.sec.co with
  | none => s
  | some c =>
    if bitOf c 15 && !(List.range 32).any (fun n =>
        s.inService n && (s.port n).peerKind = 2 && (s.port n).peerNum = fld c 0 12) && s.isBridge then
      { s with sec := { s.sec with co := none } }
    else s

/-- What follows when a port has left SECURE (R340, R435). -/
def State.leftSecure (s : State) : State := s.sendLinkstate.endSession

/-- Types that travel no further than one link or are flooded: they name no route. -/
def TBody.unrouted (b : TBody) : Bool := b.typ = 0x0A || 0x0C ≤ b.typ

/-- Transactions that waited on a port which left service: this device's look for another port, and complete with
LX_NO_ROUTE or LX_OVERSIZE as `lost` says where there is none (R343); another device's go on or wait (R329). -/
def State.redirect (s : State) (lost : State → Trans → Code → State) (ts : List Trans) : State :=
  ts.foldl (fun s t =>
    if t.body.unrouted then s
    else if t.src == s.ownSrc then (match s.trySend t with
      | (s, none) => s
      | (s, some c) => lost s t c)
    else s.passOn t) s

/-- No request is outstanding for the transaction any more. -/
def State.dropReq (s : State) (t : Trans) : State :=
  { s with lxg := { s.lxg with reqs := s.lxg.reqs.filter (fun r => !(r.tag == t.tag && r.dst == t.dst)) } }

/-- A transaction that finds no way out, of no running array: a status, and its request ends (R343). -/
def State.lostQuiet (s : State) (t : Trans) (c : Code) : State := (s.dropReq t).logPort .stat c (s.wayPort t.dst)

/-- A port becomes OFF (R321, R420): no link is dropped to DOWN, so no code is raised. What waited on it finds another port,
or is lost (R343). -/
def State.closePort (s : State) (n : Nat) (lost : State → Trans → Code → State) : State :=
  let p := s.port n
  let s' := (s.setPort n (p.unlinked .off)).bufferGone n
  let s' := if p.state == .secure then s'.leftSecure else s'
  s'.redirect lost p.waiting

/-- A port as it stands when it becomes ISOLATED: no key of the session is left (R321, R453). -/
def Port.isolated (p : Port) : Port :=
  { p with
    state := .isolated, rekey := false, kem := {}, keys := {}, oldKeys := none, nextKeys := none, myAnnounce := none
    peerAnnounce := none, waiting := [] }

/-- Host adapters on a device that is not, or is no longer, the acting bridge: their ports become ISOLATED with
LX_NOT_BRIDGE (R344). -/
def State.bridgeLeft (s : State) : State :=
  (List.range 32).foldl (fun s n =>
    let p := s.port n
    if p.state == .secure && p.peerKind = 2 && !s.isBridge then
      (((s.setPort n (p.isolated.flag 4)).leftSecure).redirect State.lostQuiet p.waiting).logPort .stat Codes.lxNotBridge n
    else s) s

/-- A membership table takes effect (R342): the numbers of the peers follow their keys, and host adapters stay with the
bridge it names (R344). -/
def State.tableEffect (s : State) (t : MTable) : State :=
  let num := fun (k : List Byte) => (t.entries.find? (fun e => e.keyId == k)).map (·.num)
  State.retryHeld (State.bridgeLeft { s with
    lxg := { s.lxg with table := some t, pendingTable := none }
    ports := SMap.mapVals {} (fun _ (p : Port) =>
      if p.peerKind = 1 && !p.peerKey.isEmpty then
        (match num p.peerKey with
         | some d => { p with peerNum := d, peerValid := true }
         | none => { p with peerNum := 0, peerValid := false })
      else p) s.ports })

/-- The image state is not RUNNING any more: a pending table takes effect at once (R342). -/
def State.tableNow (s : State) : State :=
  match s.lxg.pendingTable with
  | some t => s.tableEffect t
  | none => s

/-- The fence map in use: of two valid copies the one with the higher seq (R419). While lost is set its seq is 0, and it
holds the bits that stores have added since (R421; log entry 46). -/
def Fence.inUse (f : Fence) : FenceCopy :=
  if f.lost then { seq := 0, bitmap := match f.copy0 with | some c => c.bitmap | none => 0 }
  else match f.copy0, f.copy1 with
    | some a, some b => if a.seq.toNat < b.seq.toNat then b else a
    | some a, none => a
    | none, some b => b
    | none, none => { seq := 0, bitmap := 0 }

/-- Unit b of R419 is fenced. -/
def State.fenced (s : State) (b : Nat) : Bool := bitOf s.flt.fence.inUse.bitmap b

/-- Fenced ports that no loaded image names become OFF (R420). -/
def State.closeFenced (s : State) : State :=
  (List.range 32).foldl (fun s n =>
    if s.fenced (4128 + n) && (s.port n).state != .off && !(s.img.loaded && bitOf s.cfg.plan.portMask n) then
      s.closePort n State.lostQuiet
    else s) s

/-- Transactions of this device's array that have not started are not sent any more (R412). -/
def State.purgeArray (s : State) : State :=
  { s with ports := SMap.mapVals {} (fun _ (p : Port) =>
      { p with waiting := p.waiting.filter (fun t => !(t.array && t.src == s.ownSrc)) }) s.ports }

/-- The configuration is cleared and the part enters HELD (R150, R151, R395). Every unit stops; what its registers hold
stays readable until the next LOAD (log entry 96). -/
def State.clearConfig (s : State) : State :=
  let s := s.abandonWaits.purgeArray
  let s := { s with
    cfg := {}
    cus := SMap.mapVals {} (fun _ c => c.halt) s.cus
    mus := SMap.mapVals {} (fun _ m => m.halt) s.mus
    sws := SMap.mapVals {} (fun _ w => w.halt) s.sws
    plats := SMap.mapVals {} (fun _ p => p.halt) s.plats
    aus := SMap.mapVals {} (fun _ a => { a with phase := 0, parked := [], live := [], passDone := false, sums := [], chunk := [] }) s.aus
    lxg := { s.lxg with streams := [], sent := [] }
    adj := { s.adj with inStep := false, curStart := none, nextStart := none, recs := [], pass2 := false }
    pwr := { s.pwr with admitted := 0, admittedSum := 0 }
    mon := { s.mon with fills := [], digest := none, checks := [], early := [] }
    img := { s.img with
      state := .held, loaded := false, partialBusy := false, partialMask := 0
      cfgId := List.replicate 64 0, fullId := List.replicate 64 0, layoutId := List.replicate 64 0
      stopAtBoundary := false, stopDrained := false } }
  s.closeFenced.tableNow

/-- An image operation ends: IMG_RESULT, and the order that asked for it (R155). -/
def State.imgEnd (s : State) (op : Nat) (code : Code) : State :=
  ({ s with img := { s.img with code := code, check := 0, plat := 0xFF, section_ := 0xFFFF, item := 0 } }).completeAll
    0x0001 (fun b => b % 8 == op) { code := code }

/-- The orders of this datum tick so far (R369). -/
def State.tickOrders (s : State) : List TickOrder := if s.cmd.tickAt == s.dtm.time then s.cmd.tick else []

/-- An order of this tick is noted (R369). -/
def State.noteOrder (s : State) (id : Option Nat) (r : Rival) : State :=
  { s with cmd := { s.cmd with tick := s.tickOrders ++ [{ id := id, rival := r }], tickAt := s.dtm.time } }

/-- The step of an accepted order has not begun, or the order has not started (R370). -/
def State.unstarted (s : State) (h : Held) : Bool := !h.started || s.adj.nextStart == some h.id

/-- A STOP or containment action cancels accepted class-0 orders that have not started, a STEP_START whose step has
not begun among them (R370). -/
def State.cancelClass0 (s : State) : State :=
  let next := s.adj.nextStart
  let s := { s with adj := { s.adj with nextStart := none } }
  (s.cmd.held.filter (fun h => (!h.started || next == some h.id) && h.word.desc.targetClass == 0
      && h.word.opcode != 0x0001 && h.word.opcode != 0x0030)).foldl
    (fun s h => s.complete h.id { code := Codes.cmdCancelled }) s

/-- A containment action of the part: it cancels orders of class 0, and beats those of class 0 that arrive in its tick.
The opcode CMD_ARB_LOG shows of it is free (R368 to R370, log entry 102). -/
def State.contain (s : State) : State :=
  let (op, s) := s.cancelClass0.takeFree
  s.noteOrder none { opcode := op.setWidth 16, isStop := false, targetClass := 0, target := 0, exclusive := true
                     origin := .containment, port := 32, earlier := true }

/-- The fatal stop (R412): every unit stops and the part enters HELD. A STEP_START that runs completes with the
fatal code, a load with IMAGE_ABORTED, a STOP with OK (log entry 32). A start-up under way ends where it stands (R468). -/
def State.fatalStop (s : State) (code : Code) : State :=
  let s := match s.adj.curStart with
    | some id => s.complete id { code := code }
    | none => s
  let s := s.contain.monFatal
  let s := if s.img.state == .loading then s.imgEnd 0 Codes.imageAborted else s
  let s := if s.img.partialBusy then s.imgEnd 1 Codes.imageAborted else s
  let s := if s.img.state == .stopping then s.imgEnd 3 Codes.ok else s
  let s := s.clearConfig
  { s with
    flt := { s.flt with stepState := .idle, restarting := false }
    nvm := { s.nvm with booting := none }
    smb := { s.smb with awaiting := 0, image := none } }

/-- Raise a code: record it, and do what its class asks (R397, R398, R403, R412). -/
def State.raise (s : State) (c : FClass) (code : Code) (kind inst : Nat) (detail : W64 := 0) : State :=
  let s := s.logFault c code kind inst detail
  match c with
  | .corr => s
  | .stat => s
  | .cont => ({ s with adj := { s.adj with kFault := true } }).stepFail
  | .fatal => s.fatalStop code

/-- What a transaction that finds no way out completes with (R327, R343). -/
def State.lost (s : State) (t : Trans) (c : Code) : State :=
  let n := s.wayPort t.dst
  ((s.dropReq t).emit (.code c)).raise (if c == Codes.lxNoRoute && t.array then .cont else .stat) c 6 n (s.port n).status

/-- Send, and complete with LX_NO_ROUTE or LX_OVERSIZE where it cannot leave (R327, R343). -/
def State.send (s : State) (t : Trans) : State :=
  match s.trySend t with
  | (s, none) => s
  | (s, some c) => s.lost t c

/-- The step has failed and has not started again (R404): its array traffic stands still. -/
def State.stepFailed (s : State) : Bool :=
  s.flt.stepState == .failed || s.flt.stepState == .quiescing || s.flt.stepState == .restarted

/-- Send a request and keep it until its RESP or CPL (R332); one of a failed attempt is its own (R405). -/
def State.request (s : State) (dst : W16) (array : Bool) (kind : ReqKind) (body : TBody) : State :=
  let tag := s.lxg.nextTag
  let r : Req := { tag := tag, dst := dst, typ := body.typ, kind := kind, array := array, failed := array && s.stepFailed
                   port := (s.outPorts dst).headD 0 }
  let s := { s with lxg := { s.lxg with nextTag := tag + 1, reqs := s.lxg.reqs ++ [r] } }
  s.send { src := s.ownSrc, dst := dst, tag := tag, array := array, body := body }

/-- Answer a request with RESP (R331); MGMT answers flood where there is no route (R339). -/
def State.respond (s : State) (rx : Rx) (typ : Nat) (code : Code) (v : W64 := 0) (data : List Byte := [])
    (spoiled : Bool := false) : State :=
  let t : Trans := { src := s.ownSrc, dst := rx.src, tag := rx.tag, body := .resp code (BitVec.ofNat 8 typ) v data
                     spoiled := spoiled }
  if typ = 0x0B && (s.outPorts rx.src).isEmpty then s.flood none t else s.send t

/-- The array takes new work: RUNNING and no failed step; STOP ends it (R149, R404; log entry 87). -/
def State.inputsOpen (s : State) : Bool := s.img.state == .running && !s.stepFailed

/-- The device has sealed the step that runs: what reads a WEIGHT region from here to the boundary belongs to the next
step (R17; log entry 88). -/
def State.weightsHeld (s : State) : Bool := s.adj.inStep && s.adj.sealSent == some true

/-- The array runs: image RUNNING or STOPPING and no failed step (R147, R404). -/
def State.arrayRuns (s : State) : Bool :=
  (s.img.state == .running || s.img.state == .stopping) && !s.stepFailed

end Sys2Proof.Machine
end

