-- ==== Sys2Proof/Machine/Blocks.lean ====
section
/-! DEFINITION. Blocks of control space (R474 to R477) and which of them can be reached (R386, R388, R479). -/
namespace Sys2Proof.Machine

/-- A block, with its number. -/
inductive Block where
  | glb | clk | pwr | nvm | sec | dtm | cmd
  | mg (g : Nat)
  | au (g : Nat)
  | lx (n : Nat)
  | bmk (i : Nat)
  | cu (p n : Nat)
  | mu (p n : Nat)
  | sw (p site : Nat)
  | trv (p : Nat)
  | dma (p : Nat)
  | trg (p : Nat)
  | seq (p : Nat)
  | bmu (p : Nat)
  deriving DecidableEq, Repr

/-- A block and the offset inside it; none where no block decodes the address (R475 to R477). -/
def blockAt (a : Nat) : Option (Block × Nat) :=
  let o := a % 0x10000
  if a < 0x70000 then
    (match a / 0x10000 with
     | 0 => some (.glb, o) | 1 => some (.clk, o) | 2 => some (.pwr, o) | 3 => some (.nvm, o)
     | 4 => some (.sec, o) | 5 => some (.dtm, o) | _ => some (.cmd, o))
  else if 0x100000 ≤ a && a < 0x140000 then some (.mg (a / 0x10000 % 4), o)
  else if 0x200000 ≤ a && a < 0x240000 then some (.au (a / 0x10000 % 4), o)
  else if 0x300000 ≤ a && a < 0x320000 then some (.lx (a / 0x1000 % 32), a % 0x1000)
  else if 0x400000 ≤ a && a < 0x500000 then some (.bmk ((a - 0x400000) / 16), a % 16)
  else if 0x1000000 ≤ a && a < 0x5000000 then
    let p := a / 0x1000000 - 1
    let k := a % 0x1000000
    if 0x100000 ≤ k && k < 0x140000 then some (.cu p ((k - 0x100000) / 0x400), k % 0x400)
    else if 0x200000 ≤ k && k < 0x280000 then some (.mu p ((k - 0x200000) / 0x800), k % 0x800)
    else if 0x300000 ≤ k && k < 0x400000 then some (.sw p ((k - 0x300000) / 0x800), k % 0x800)
    else if 0x400000 ≤ k && k < 0x410000 then some (.trv p, o)
    else if 0x500000 ≤ k && k < 0x510000 then some (.dma p, o)
    else if 0x600000 ≤ k && k < 0x610000 then some (.trg p, o)
    else if 0x700000 ≤ k && k < 0x710000 then some (.seq p, o)
    else if 0x800000 ≤ k && k < 0x810000 then some (.bmu p, o)
    else none
  else none

/-- Site of CU n and of MU n: y + x even at a CU, odd at an MU, n = s >> 1 (R7). -/
def cuSite (n : Nat) : Nat := if n / 16 % 2 = 0 then 2 * n else 2 * n + 1
def muSite (n : Nat) : Nat := if n / 16 % 2 = 0 then 2 * n + 1 else 2 * n

def Clk.isClosed (c : Clk) (d g : Nat) : Bool := SMap.get false c.closed (32 * d + g)

/-- Gates under which a block lies, as domain and gate (R385). The engines that run in D0 to D3 lie under the root of
their plat's tree, a unit or a switch also under the gate of its region (log entry 51). -/
def State.gatesOver (s : State) : Block → List (Nat × Nat)
  | .cu p n => [(p, 0), (p, (s.sw p (cuSite n)).cregion + 1)]
  | .mu p n => [(p, 0), (p, (s.sw p (muSite n)).cregion + 1)]
  | .sw p x => [(p, 0), (p, (s.sw p x).cregion + 1)]
  | .trv p => [(p, 0)]
  | .dma p => [(p, 0)]
  | .au g => [(12 + g, 0), (12 + g, 1)]
  | .lx n => [(16 + n / 8, 0), (16 + n / 8, n % 8 + 1)]
  | _ => []

/-- Blocks that Idle leaves reachable (R388). -/
def Block.idleServed : Block → Bool
  | .clk => true | .pwr => true | .dtm => true | .nvm => true | .sec => true | .glb => true
  | _ => false

/-- The gates over a block are open (R386): what a closed one covers keeps its contents and stands still. -/
def State.gatesOpen (s : State) (b : Block) : Bool := (s.gatesOver b).all (fun g => !s.clk.isClosed g.1 g.2)

/-- Idle and the thermal trip have stopped D0 to D3, D8 to D11, the AUs and the digest engines (R387, R393). -/
def State.arrayStopped (s : State) : Bool := s.pwr.state == .idle || s.pwr.tripped

/-- The part is out of reset; held in reset, or without its rails, nothing of it runs (R387, R490). -/
def State.awake (s : State) : Bool := s.nvm.phase != 0

/-- A command acts only on a part out of reset. -/
def State.whenAwake (s : State) (f : State → State) : State := if s.awake then f s else s

/-- An access to the block completes with CLK_GATED (R386, R388). -/
def State.blockGated (s : State) (b : Block) : Bool :=
  !s.awake || (s.pwr.state == .idle && !b.idleServed) || !s.gatesOpen b

/-- An access restarts the clock of a block that automatic gating has stopped (R384). -/
def State.woken (s : State) (b : Block) : State :=
  (s.gatesOver b).foldl (fun s g =>
    { s with clk := { s.clk with stopped := SMap.set false s.clk.stopped (32 * g.1 + g.2) false } }) s

/-- A write is not served: as `blockGated`, but for DMA_HQ_PUSH, which answers NOT_READY in Idle (R388, log entry 52). -/
def State.accessGated (s : State) (b : Block) (o : Nat) : Bool :=
  match b, o with
  | .dma p, 0x070 => s.clk.isClosed p 0
  | _, _ => s.blockGated b

/-- An access to a block that is not gated has its effect (R386, R388). -/
def State.atBlock (s : State) (b : Block) (f : State → State) : State :=
  if !s.awake then s else if s.blockGated b then s.emit (.code Codes.clkGated) else f (s.woken b)

/-- The path can be used (R479): plat control firmware from step 5 of start-up unless an exception or a debugger stopped it, MGMT
through a port in service, the SMBus from the release of reset. -/
def State.pathOpen (s : State) : Path → Bool
  | .fw p => 5 ≤ s.nvm.phase && !(s.plat p.val).fwHalted && !s.sec.halted.getLsbD p.val
  | .mgmt _ port => s.inService port.val
  | .smbus => s.nvm.phase != 0

/-- A register write by a path: nothing where the path is not open, REFUSED on the SMBus (R479). -/
def State.writeBy (s : State) (path : Path) (b : Block) (f : State → State) : State :=
  if !s.pathOpen path then s
  else match path with
    | .smbus => s.emit (.code Codes.refused)
    | _ => s.atBlock b f

end Sys2Proof.Machine
end

