-- ==== Sys2Proof/Machine/LinkOps.lean ====
section
/-! DEFINITION. What every arriving transaction meets at its port, and the drop of a link (R320 to R340). -/
namespace Sys2Proof.Machine

/-- Raise a code at port n with its status as detail (R414). -/
def State.raisePort (s : State) (c : FClass) (code : Code) (n : Nat) : State :=
  s.raise c code 6 n (s.port n).status

/-- Key id of a public key (R431). -/
def keyIdOf (pk : List Byte) : List Byte := Config.shake256 (ascii "BLK-KEYID" ++ pk) 64

/-- The public key that the roster in effect holds under a key id with a kind (R440, R441). -/
def State.rosterKey (s : State) (keyId : List Byte) (kind : Nat) : Option (List Byte) :=
  match s.sec.roster with
  | some r => (r.entries.find? (fun e => keyIdOf e.key == keyId && e.kind == kind)).map (·.key)
  | none => none

/-- A port that is DOWN with light and signal trains (R321, R322). -/
def Port.retrain (p : Port) : Port :=
  if p.state == .down && p.en && p.light && p.signal then { p with state := .training } else p

/-- A port trains where it can: the lane clocks stop with the local input (R321, R381). -/
def State.retrainPort (s : State) (n : Nat) (p : Port) : State := s.setPort n (if s.clk.refin then p.retrain else p)

/-- The link of port n is dropped (R326): transactions in flight are lost, LX_LINK_DOWN is raised once, and the port
retrains (R321). What had not started looks for another port (R329, R343). -/
def State.dropLink (s : State) (n : Nat) : State :=
  let p := s.port n
  let up := p.state == .linked || p.state == .secure || p.state == .isolated
  let lost := p.inFlight.any (fun e => e.2.array) && s.adj.inStep && s.arrayRuns
  let s1 := (s.retrainPort n (p.unlinked .down)).bufferGone n
  if up then
    let s1 := if p.state == .secure then s1.leftSecure else s1
    let s1 := s1.redirect State.lost p.waiting
    (s1.setPort n ((s1.port n).flag 0)).raise (if lost then .cont else .stat) Codes.lxLinkDown 6 n p.status
  else s1

/-- Source of an arriving transaction: the bridge writes the adapter's endpoint (R344). -/
def State.srcOf (s : State) (rx : Rx) : W16 :=
  let p := s.port rx.port.val
  if p.peerKind = 2 && s.isBridge then BitVec.ofNat 16 (0x8000 + p.peerNum) else rx.src

/-- A transaction leaves the receive buffer and its credit is owed (R328). -/
def Port.free (p : Port) (vc flits : Nat) : Port :=
  { p with
    rxUsed := p.rxUsed.modify vc (· - flits)
    owed := p.owed.modify vc (· + flits)
    rxWhole := p.rxWhole.eraseP (fun e => e.1 == vc) }

/-- A verified transaction counts under the keys of its phase and leaves the receive buffer (R328, R336, R337). -/
def Port.accept (p : Port) (phase : Bool) (vc flits : Nat) : Port :=
  let p := p.free vc flits
  if phase == p.keyPhase then { p with keys := { p.keys with rxCount := p.keys.rxCount + 1 } }
  else { p with oldKeys := p.oldKeys.map (fun k => { k with rxCount := k.rxCount + 1 }) }

/-- The tag verifies: under the keys in use, or under those of the old phase while they are accepted (R336, R337). -/
def Port.tagGood (p : Port) (rx : Rx) : Bool := rx.tagOk && (rx.keyPhase == p.keyPhase || p.oldKeys.isSome)

/-- An authentication tag failed (R336): the transaction is discarded and the link dropped. -/
def State.authFail (s : State) (n : Nat) : State :=
  let s := s.setPort n ((s.port n).flag 1)
  (s.raisePort .cont Codes.lxAuth n).dropLink n

/-- What an arriving transaction carries of its body: its offset and length (R331). -/
def rxPart (rx : Rx) (body : TBody) : Frag :=
  match rx.frag with
  | some f => f
  | none => { offset := 0, len := body.payload }

/-- Arrival at a port: nothing on a port out of service; on a good tag the transaction is handed on. -/
def State.arrive (s : State) (rx : Rx) (body : TBody) (f : State → Rx → State) : State :=
  let n := rx.port.val
  if !s.inService n then s
  else if !(s.port n).tagGood rx then s.authFail n
  else
    let src := s.srcOf rx
    f ((s.setPort n ((s.port n).accept rx.keyPhase (vcOf body.typ) (flitsOf (rxPart rx body).len))).rekeyIfDue n) { rx with src := src }

/-- The transaction is addressed to this device (R330). -/
def State.forMe (s : State) (rx : Rx) : Bool :=
  match s.myNum with
  | some k => !bitOf rx.dst 15 && fld rx.dst 0 12 = k
  | none => false

/-- The flood tag is newer than the last one forwarded from its source (R339). A numbered device knows its own when they come
back; the unnumbered ones share a src (log entry 92). -/
def State.floodNew (s : State) (rx : Rx) : Bool :=
  (s.myNum.isNone || rx.src != s.ownSrc) && (match SMap.get none s.lxg.floodSeen rx.src.toNat with
    | none => true
    | some t => rx.tag != t && (rx.tag - t).toNat < 2 ^ 15)

/-- The newest flood tag seen of a source. -/
def State.floodMark (s : State) (rx : Rx) : State :=
  { s with lxg := { s.lxg with floodSeen := SMap.set none s.lxg.floodSeen rx.src.toNat (some rx.tag) } }

/-- MGMT and the RESP to it are flooded where there is no route (R339). -/
def TBody.floods : TBody → Bool
  | .mgmt .. => true
  | .resp _ k _ _ => k == 0x0B
  | .other t a _ => t == 0x0B || (t == 0x03 && fld a 16 8 = 0x0B)
  | _ => false

/-- The fragment number a passing fragment has on its channel (R331). -/
def rxFragNo (rx : Rx) (body : TBody) : Option Nat := rx.frag.map (fun f => f.offset / vcLimit (vcOf body.typ))

/-- A transaction for another destination is passed on (R329, R330, R343): at the sixteenth hop it is discarded; where
there is no route, MGMT and its RESP are flooded, once (R339). -/
def State.forward (s : State) (rx : Rx) (body : TBody) : State :=
  let t : Trans := { src := rx.src, dst := rx.dst, tag := rx.tag, hops := rx.hops.toNat - 1, body := body
                     frag := rxFragNo rx body, inPort := some rx.port.val }
  if rx.hops = 0 then s
  else if body.floods && (s.outPorts rx.dst).isEmpty then
    (if s.floodNew rx then (s.floodMark rx).flood (some rx.port.val) t else s)
  else s.passOn t

/-- The parts of a body cover all of its bytes. -/
def fragsCover (total : Nat) (fs : List Frag) : Bool :=
  fs.foldl (fun k _ => (fs.filter (fun f => f.offset ≤ k)).foldl (fun m f => max m (f.offset + f.len)) k) 0 ≥ total

/-- Fragments of a body that have come, this one the last (R331). -/
def State.gotParts (s : State) (rx : Rx) (body : TBody) (g : Frag) : List Frag :=
  (match s.lxg.parts.find? (fun q => q.src == rx.src && q.body == body) with
    | some q => q.got
    | none => []) ++ [g]

/-- The body is whole: it came in one transaction, or this fragment is its last (R331). -/
def State.whole (s : State) (rx : Rx) (body : TBody) : Bool :=
  match rx.frag with
  | none => true
  | some g => fragsCover body.payload (s.gotParts rx body g)

/-- No fragment of the body is kept any more. -/
def State.dropParts (s : State) (rx : Rx) (body : TBody) : State :=
  match rx.frag with
  | none => s
  | some _ => { s with lxg := { s.lxg with parts := s.lxg.parts.filter (fun q => !(q.src == rx.src && q.body == body)) } }

/-- A fragment waits for the others of its body. -/
def State.keepPart (s : State) (rx : Rx) (body : TBody) : State :=
  match rx.frag with
  | none => s
  | some g =>
    let t := s.dropParts rx body
    { t with lxg := { t.lxg with parts := t.lxg.parts ++ [{ src := rx.src, body := body, got := s.gotParts rx body g }] } }

/-- The body came by flood: a MGMT or its RESP, with no route back to its source (R339). -/
def State.byFlood (s : State) (rx : Rx) (body : TBody) : Bool := body.floods && (s.outPorts rx.src).isEmpty

/-- A body for this device that can be handed on: whole, and new where it came by flood. -/
def State.handsOn (s : State) (rx : Rx) (body : TBody) : Bool :=
  if s.byFlood rx body then s.floodNew rx else s.whole rx body

/-- The state in which it is handed on. -/
def State.handed (s : State) (rx : Rx) (body : TBody) : State :=
  if s.byFlood rx body then s.floodMark rx else s.dropParts rx body

/-- A MGMT access to a device without a number, which reads 0xFFF as its own until a table gives it one: control space is
open from the first SECURE port (R339, R479; log entry 106). -/
def State.openHere (s : State) (rx : Rx) (body : TBody) : Bool :=
  s.myNum.isNone && body.typ == 0x0B && rx.dst == 0xFFF && s.floodNew rx

/-- A routed transaction arrives: handled here, once where it came by flood, or passed on. -/
def State.take (s : State) (rx : Rx) (body : TBody) (f : State → Rx → State) : State :=
  s.arrive rx body (fun s rx =>
    if !s.forMe rx then
      (let t := s.forward rx body
       if s.openHere rx body then f (t.floodMark rx) rx else t)
    else if s.handsOn rx body then f (s.handed rx body) rx
    else if s.byFlood rx body then s
    else s.keepPart rx body)

end Sys2Proof.Machine
end

