-- ==== Sys2Proof/Machine/MemOps.lean ====
section
/-! DEFINITION. Reading and writing MU SRAM (R81 to R84, R99) and DRAM (R269 to R281), with their error codes. -/
namespace Sys2Proof.Machine

/-! Data space (R8) -/

/-- Data-space base of MU n of plat p (R8). -/
def muBase (p n : Nat) : Nat := 0x080000000000 + p * 0x40000000 + n * 0x400000

/-- The plat, MU and byte offset an address of the MU half names. -/
def muOf (a : Nat) : Option (Nat × Nat × Nat) :=
  if 0x080000000000 ≤ a ∧ a < 0x080100000000 then
    let o := a - 0x080000000000
    some (o / 0x40000000, o / 0x400000 % 256, o % 0x400000)
  else none

/-- The DRAM half of data space (R8). -/
def isDram (a : Nat) : Bool := a < 0x040000000000

/-! Latent damage -/

/-- State of a SECDED word after new damage: a second bit makes it uncorrectable (R99; log entry 86). -/
def eccJoin (old new : EccKind) : EccKind :=
  match old, new with
  | o, .clean => o
  | .clean, e => e
  | _, _ => .ue

/-- Damaged symbols of one codeword of a burst. -/
def hitsOf (hs : List DevHit) (word : Nat) : List DevHit := hs.filter (fun h => h.word == word)

/-- A word of MU 256p + n is struck. An uncorrectable word holds a value the spec does not give (R84, R99). -/
def State.strikeWord (s : State) (p n w : Nat) (e : EccKind) : State :=
  let m := s.mu p n
  let j := eccJoin (SMap.get .clean m.ecc w) e
  let s := s.setMu p n { m with ecc := SMap.set .clean m.ecc w j }
  if j == .ue && e != .clean then
    let (bs, s) := s.freeBytes 1
    s.setMu p n { s.mu p n with sram := (s.mu p n).sram.write (8 * w) bs }
  else s

/-- A symbol of a burst is struck. The 16 data bytes of a codeword with two damaged devices or more are no longer
what was stored: free values (R269; log entry 86). -/
def State.strikeBurst (s : State) (c burst word rank device : Nat) : State :=
  let key := c * 2 ^ 33 + burst
  let hs := SMap.get [] s.dram.err key
  let hs := if hs.any (fun h => h.word == word && h.device == device) then hs
    else hs ++ [{ word := word, rank := rank, device := device }]
  let s := { s with dram := { s.dram with err := SMap.set [] s.dram.err key hs } }
  if 2 ≤ (hitsOf hs word).length then
    let (bs, s) := s.freeBytes 2
    { s with dram := { s.dram with mem := s.dram.mem.write (c * 2 ^ 40 + 128 * burst + 16 * word) bs } }
  else s

/-- Damage that has struck since the last read joins what the memories hold. -/
def State.strike (s : State) (u : Upset) : State :=
  match u with
  | .muWord k w e => s.strikeWord (k.val / 256) (k.val % 256) w.val e
  | .muTag k w e =>
    let m := s.mu (k.val / 256) (k.val % 256)
    s.setMu (k.val / 256) (k.val % 256)
      { m with tagEcc := SMap.set .clean m.tagEcc w.val (eccJoin (SMap.get .clean m.tagEcc w.val) e) }
  | .burst c b w r d => s.strikeBurst c.val (b % 2 ^ 31) w.val r.val d.val

def State.strikes (s : State) (us : List Upset) : State := us.foldl State.strike s

/-! MU memory -/

/-- Fields of MU_REGION_A and MU_REGION_B (R102). -/
def RegSt.baseRow (r : RegSt) : Nat := fld r.a 0 13
def RegSt.rows (r : RegSt) : Nat := fld r.a 13 14
def RegSt.kind (r : RegSt) : Nat := fld r.a 27 4
def RegSt.window (r : RegSt) : Bool := bitOf r.a 31
def RegSt.order (r : RegSt) : Bool := bitOf r.a 32
def RegSt.ncontrib (r : RegSt) : Nat := fld r.a 33 8
def RegSt.parkRows (r : RegSt) : Nat := fld r.a 41 13
def RegSt.inFmt (r : RegSt) : Nat := fld r.a 54 4
def RegSt.inGsz (r : RegSt) : Nat := fld r.a 58 2
def RegSt.inBpg (r : RegSt) : Nat := fld r.b 54 5
def RegSt.cbmIndex (r : RegSt) : Nat := fld r.b 0 16
def RegSt.cbmDev (r : RegSt) : Nat := fld r.b 16 12
def RegSt.cbmLocal (r : RegSt) : Bool := bitOf r.b 28
def RegSt.retBatch (r : RegSt) : Nat := fld r.b 29 8
def RegSt.doneBm (r : RegSt) : Nat := fld r.b 37 16
def RegSt.doneEn (r : RegSt) : Bool := bitOf r.b 53

def Mu.reg (m : Mu) (r : Nat) : RegSt := SMap.get {} m.regions r
def Mu.setReg (m : Mu) (r : Nat) (x : RegSt) : Mu := { m with regions := SMap.set {} m.regions r x }

/-- The region a row lies in, if any. -/
def Mu.regionOf (m : Mu) (row : Nat) : Option Nat :=
  (List.range 16).find? (fun r =>
    let g := m.reg r
    g.rows != 0 && g.baseRow ≤ row && row < g.baseRow + g.rows)

def Mu.rowPoison (m : Mu) (row : Nat) : Bool := SMap.get false m.poison row
def Mu.setPoison (m : Mu) (row : Nat) (b : Bool) : Mu := { m with poison := SMap.set false m.poison row b }

/-- Write entry k of the tag store, which clears what damage it held (R99). -/
def Mu.setTag (m : Mu) (k : Nat) (t : TokTag) : Mu :=
  { m with tags := SMap.set {} m.tags k t, tagEcc := SMap.set .clean m.tagEcc k .clean }

/-- Set a bit of MU_FAULT. -/
def Mu.flag (m : Mu) (b : Nat) : Mu := { m with fault := setBit m.fault b }

/-- MU_REGION_PTR (R102). -/
def RegSt.ptr (r : RegSt) : W64 :=
  if r.kind = 2 || r.kind = 4 || r.kind = 5 then mkWord 64 [(0, 32, r.hi), (32, 32, r.lo)] else 0

/-- Raise a contained code about region r of an MU, with its MU_FAULT bit (R101, R414). -/
def State.raiseMu (s : State) (code : Code) (p n r : Nat) (bit : Option Nat) : State :=
  let m := s.mu p n
  let m := match bit with
    | some b => m.flag b
    | none => m
  (s.setMu p n m).raise .cont code 2 (unitKey p n) (m.reg r).ptr

/-- Who reads: an ordinary reader, the monument engine, or the scrubber (R99, R100). -/
inductive MuReader where
  | plain | monument | scrub
  deriving DecidableEq, Repr

/-- One damaged word of MU 256p + n is read (R99). -/
def State.muWordRead (s : State) (p n : Nat) (rd : MuReader) (w : Nat) (e : EccKind) : State :=
  let m := s.mu p n
  let row := w / 64
  match e with
  | .clean => s
  | .ce =>
    let m := ({ m with ecc := SMap.set .clean m.ecc w .clean, eccCe := m.eccCe + 1 }).flag 6
    (s.setMu p n m).raise .corr Codes.muCorrected 2 (unitKey p n) m.eccLoc
  | .ue =>
    let loc := mkWord 64 [(0, 13, row), (13, 6, w % 64), (19, 1, 1), (20, 1, b2n (rd == .scrub))]
    let m := ({ m with eccLoc := loc }.setPoison row true).flag 5
    let cls : FClass := if rd == .monument then .stat
      else if (m.regionOf row).isSome then .cont else .corr
    (s.setMu p n m).raise cls Codes.muUncorrectable 2 (unitKey p n) loc

/-- One damaged tag-store entry is read: a corrected error is handled as for data (R99); an uncorrectable one
poisons the row whose tags it holds and is located by its row, word 0 (log entry 35). -/
def State.muTagRead (s : State) (p n : Nat) (rd : MuReader) (k : Nat) (e : EccKind) : State :=
  let m := s.mu p n
  match e with
  | .clean => s
  | .ce =>
    let m := ({ m with tagEcc := SMap.set .clean m.tagEcc k .clean, eccCe := m.eccCe + 1 }).flag 6
    (s.setMu p n m).raise .corr Codes.muCorrected 2 (unitKey p n) m.eccLoc
  | .ue =>
    let row := k / 4
    let loc := mkWord 64 [(0, 13, row), (19, 1, 1), (20, 1, b2n (rd == .scrub))]
    let m := ({ m with eccLoc := loc, tagEcc := SMap.set .clean m.tagEcc k .clean }.setPoison row true).flag 5
    let cls : FClass := if rd == .monument then .stat
      else if (m.regionOf row).isSome then .cont else .corr
    (s.setMu p n m).raise cls Codes.muUncorrectable 2 (unitKey p n) loc

/-- SECDED over the words and tags that bytes off to off + len − 1 touch. What one read finds is recorded by class: contained
before corrected before status (R415). -/
def State.muCheck (s : State) (p n off len : Nat) (rd : MuReader := .plain) : State :=
  if len = 0 then s else
  let lo := off / 8
  let hi := (off + len - 1) / 8
  let bad := (s.mu p n).ecc.filter (fun e => lo ≤ e.1 && e.1 ≤ hi)
  let tags := (s.mu p n).tagEcc.filter (fun e => off / 128 ≤ e.1 && e.1 ≤ (off + len - 1) / 128)
  let found := fun k => (bad.map (fun e => (false, e)) ++ tags.map (fun e => (true, e))).filter (fun h => h.2.2 == k)
  (if rd == .monument then found .ce ++ found .ue else found .ue ++ found .ce).foldl
    (fun s h => if h.1 then s.muTagRead p n rd h.2.1 h.2.2 else s.muWordRead p n rd h.2.1 h.2.2) s

/-- A read of bytes over the wide path: the bytes, and whether a row of them is poisoned. -/
def State.muRead (s : State) (p n off len : Nat) (rd : MuReader := .plain) : List Byte × Bool × State :=
  let s := s.muCheck p n off len rd
  let m := s.mu p n
  let rows := if len = 0 then [] else List.range' (off / 512) ((off + len - 1) / 512 - off / 512 + 1)
  (m.sram.read off len, rows.any m.rowPoison, s)

/-- A wide-path write: a row written whole takes the poison of the write, a partial write keeps poison (R99). -/
def Mu.writeWide (m : Mu) (off : Nat) (bs : List Byte) (poison : Bool) : Mu :=
  let len := bs.length
  if len = 0 then m else
  let ecc := m.ecc.filter (fun e => !(off ≤ 8 * e.1 && 8 * e.1 + 8 ≤ off + len))
  let rows := List.range' (off / 512) ((off + len - 1) / 512 - off / 512 + 1)
  let m := { m with sram := m.sram.write off bs, ecc := ecc }
  rows.foldl (fun m r =>
    if off ≤ 512 * r && 512 * r + 512 ≤ off + len then m.setPoison r poison
    else if poison then m.setPoison r true else m) m

def State.muWrite (s : State) (p n off : Nat) (bs : List Byte) (poison : Bool) : State :=
  s.setMu p n ((s.mu p n).writeWide off bs poison)

/-! DRAM: mapping -/

/-- Bytes of a module, from its capacity in GB (log entry 20). -/
def Chan.bytes (c : Chan) : Nat := c.capacity * 10 ^ 9

def State.upChans (s : State) : List Nat := (List.range 16).filter (fun c => (s.chan c).state == .up)

/-- The held-state interleave (R273): channel and local address. -/
def State.heldMap (s : State) (a : Nat) : Option (Nat × Nat) :=
  let cs := s.upChans
  let c := cs.length
  match cs with
  | [] => none
  | c0 :: _ =>
    let m := (s.chan c0).bytes
    if a < c * m / (c * 4096) * (c * 4096) then
      some (cs.getD (a / 4096 % c) 0, a / 4096 / c * 4096 + a % 4096)
    else none

/-- Channels of a range, ascending. -/
def DramRange.chanList (r : DramRange) : List Nat := (List.range 16).filter (fun i => r.chans.testBit i)

/-- Mapping of an address inside a range (R275). -/
def DramRange.map (r : DramRange) (a : Nat) : Nat × Nat :=
  let cs := r.chanList
  let o := a - r.base
  let g := 2 ^ r.gran
  let gi := o / g
  (cs.getD (gi % cs.length) 0, r.local0 + gi / cs.length * g + o % g)

def State.rangeOf (s : State) (a : Nat) : Option DramRange :=
  s.cfg.layout.find? (fun r => r.base ≤ a && a < r.base + r.len)

/-- A layout is in force: a configuration is loaded (R277). -/
def State.layoutOn (s : State) : Bool := s.img.loaded && s.img.state != .held && s.img.state != .loading

/-- The address lies in the staging range (R143). -/
def State.inStaging (s : State) (a : Nat) : Bool :=
  s.img.stageBase.toNat ≤ a && a < s.img.stageBase.toNat + s.img.stageLen.toNat

/-- Channel and local address of a data-space DRAM address (R273, R275). -/
def State.dramMap (s : State) (a : Nat) : Option (Nat × Nat) :=
  if s.layoutOn then
    if s.inStaging a then s.heldMap a else (s.rangeOf a).map (·.map a)
  else s.heldMap a

/-- A load is in progress (R143). -/
def State.loadBusy (s : State) : Bool := s.img.state == .loading || s.img.partialBusy

/-- Bank of a step: STATE_A for even steps (R19). -/
def bankKind (n : Nat) : Nat := if n % 2 = 0 then 1 else 2

/-- Who may read an address (R277). -/
def State.dramReadOk (s : State) (u : DramUser) (a : Nat) : Bool :=
  if !s.layoutOn then
    (match u with
     | .host => (s.heldMap a).isSome
     | .load => (s.heldMap a).isSome
     | _ => false)
  else if s.inStaging a then (s.heldMap a).isSome
  else match s.rangeOf a with
    | none => false
    | some r => (match r.kind, u with
      | 1, .auPass1 => true | 2, .auPass1 => true | 1, .auPass2 => true | 2, .auPass2 => true
      | 5, .auPass1 => true | 5, .auPass2 => true
      | 1, .monument => true | 2, .monument => true | 4, .monument => true
      | 1, .digest => true | 2, .digest => true
      | 1, .platDma _ => true | 2, .platDma _ => true | 6, .platDma _ => true
      | 1, .hostDma _ => true | 2, .hostDma _ => true | 5, .hostDma _ => true | 6, .hostDma _ => true
      | 4, .hostDma _ => s.img.state == .ready
      | 1, .host => true | 2, .host => true | 5, .host => true | 6, .host => true
      | 4, .host => s.img.state == .ready
      | 3, .stash q => r.plat == q.val
      | _, _ => false)

/-- The host program, by a descriptor or by a transaction. -/
def dramIsHost : DramUser → Bool
  | .host => true | .hostDma _ => true | _ => false

/-- A capture or a closure digest holds ranges of this kind locked (R295). -/
def State.kindLocked (s : State) (kind : Nat) : Bool :=
  s.mon.locks.any (fun m => kind == bankKind m || kind == 5)

/-- Who may write an address (R143, R277); a locked range takes no host write (R295). -/
def State.dramWriteOk (s : State) (u : DramUser) (a : Nat) : Bool :=
  if s.loadBusy && s.inStaging a then false
  else if !s.layoutOn then (match u with
    | .host => (s.heldMap a).isSome
    | _ => false)
  else if s.inStaging a then (s.heldMap a).isSome
  else match s.rangeOf a with
    | none => false
    | some r => if dramIsHost u && s.kindLocked r.kind then false else (match r.kind, u with
      | 1, .auPass2 => s.adj.pass2 && bankKind s.stepIndex.toNat = 1
      | 2, .auPass2 => s.adj.pass2 && bankKind s.stepIndex.toNat = 2
      | 5, .auPass2 => true | 5, .auPass1 => true
      | 1, .platDma _ => s.adj.pass2 && bankKind s.stepIndex.toNat = 1
      | 2, .platDma _ => s.adj.pass2 && bankKind s.stepIndex.toNat = 2
      | 1, .monument => s.mon.restore.isSome | 2, .monument => s.mon.restore.isSome | 4, .monument => true
      | 1, .hostDma _ => s.img.state == .ready | 2, .hostDma _ => s.img.state == .ready
      | 5, .hostDma _ => s.img.state == .ready
      | 1, .host => s.img.state == .ready | 2, .host => s.img.state == .ready
      | 5, .host => s.img.state == .ready
      | 6, .platDma _ => true | 6, .hostDma _ => true | 6, .host => true
      | 3, .stash q => r.plat == q.val
      | _, _ => false)

/-! DRAM: bursts -/

/-- Class of DRAM_UNCORRECTABLE and DRAM_POISON by reader (R270). -/
def dramCls : DramUser → FClass
  | .auPass1 => .cont | .auPass2 => .cont | .platDma _ => .cont | .stash _ => .cont
  | .hostDma _ => .stat | .monument => .stat | .digest => .stat | .host => .stat | .load => .stat

def dramIsAu : DramUser → Bool
  | .auPass1 => true | .auPass2 => true | _ => false

/-- Key of a burst: channel and burst number. -/
def burstKey (c l : Nat) : Nat := c * 2 ^ 33 + l / 128

/-- Byte key of a channel-local address. -/
def dramKey (c l : Nat) : Nat := c * 2 ^ 40 + l

/-- MG_ECC_LOC word (R287). -/
def mgLoc (c burst : Nat) (poison byScrub : Bool) : W64 :=
  mkWord 64 [(0, 2, c % 4), (2, 1, 1), (3, 1, b2n poison), (4, 1, b2n byScrub), (8, 31, burst)]

/-- A codeword of channel c is corrected, written back and counted (R269). -/
def State.dramCorrect (s : State) (c key : Nat) (h : DevHit) : State :=
  let ch := s.chan c
  let k := 32 * h.rank + h.device
  let s := s.setChan c { ch with
    eccCe := BitVec.ofNat 32 (satAdd 32 ch.eccCe.toNat 1)
    chipCe := SMap.set 0 ch.chipCe k (satAdd 32 (SMap.get 0 ch.chipCe k) 1) }
  let s := { s with dram := { s.dram with err := SMap.set [] s.dram.err key ((SMap.get [] s.dram.err key).erase h) } }
  let g := s.mg (c / 4)
  (s.setMg (c / 4) { g with fault := setBit g.fault 1 }).raise .corr Codes.dramCorrected 5 (c / 4) g.eccLoc

/-- The codewords of a stored burst that damage of one device has struck are corrected (R269). -/
def State.burstFix (s : State) (c key : Nat) : State :=
  let hs := SMap.get [] s.dram.err key
  (hs.filter (fun h => (hitsOf hs h.word).length == 1)).foldl (fun s h => s.dramCorrect c key h) s

/-- A codeword of a stored burst has damage that is detected and not corrected (R269): that of two or three devices. Whether
damage of four or more is detected is free (log entry 86). -/
def State.burstLost (s : State) (key : Nat) : Bool × State :=
  let hs := SMap.get [] s.dram.err key
  let size := fun (h : DevHit) => (hitsOf hs h.word).length
  if hs.any (fun h => size h == 2 || size h == 3) then (true, s)
  else if hs.any (fun h => 4 ≤ size h) then
    let (f, s) := s.takeFree
    (bitOf f 0, s)
  else (false, s)

/-- A stored burst is decoded: whether damage is left that no code corrects, and the state after. -/
def State.burstDecode (s : State) (c key : Nat) : Bool × State :=
  let (bad, s) := s.burstLost key
  (bad, s.burstFix c key)

/-- A read of one burst (R269 to R271): whether its data is poisoned, and the state after. What it finds is recorded by
class: contained before corrected before status (R415). -/
def State.burstRead (s : State) (u : DramUser) (c l : Nat) : Bool × State :=
  let key := burstKey c l
  let gi := c / 4
  let g := s.mg gi
  let s := s.setMg gi { g with cntRd := g.cntRd + 128 }
  if SMap.get false s.dram.poison key then
    let loc := mgLoc c (l / 128) true false
    let g := s.mg gi
    let s := s.setMg gi { g with
      fault := setBit g.fault 3, eccLoc := loc, cntPoison := BitVec.ofNat 32 (satAdd 32 g.cntPoison.toNat 1) }
    (true, if dramIsAu u then s.raise .cont Codes.statePoison 5 gi loc else s.raise (dramCls u) Codes.dramPoison 5 gi loc)
  else
    let (bad, s) := s.burstLost key
    if bad then
      let loc := mgLoc c (l / 128) false false
      let g := s.mg gi
      let s := s.setMg gi { g with fault := setBit g.fault 0, eccLoc := loc }
      (true, if dramCls u == .stat then (s.burstFix c key).raise .stat Codes.dramUncorrectable 5 gi loc
        else (s.raise (dramCls u) Codes.dramUncorrectable 5 gi loc).burstFix c key)
    else (false, s.burstFix c key)

/-- First address of each burst that [a, a + n) touches. -/
def burstsOf (a n : Nat) : List Nat :=
  if n = 0 then [] else (List.range ((a + n - 1) / 128 - a / 128 + 1)).map (fun i => 128 * (a / 128 + i))

/-- Bytes of DRAM as stored. -/
def State.dramBytes (s : State) (a n : Nat) : List Byte :=
  (burstsOf a n).flatMap (fun b =>
    let lo := max a b
    let k := min (a + n) (b + 128) - lo
    match s.dramMap lo with
    | some (c, l) => s.dram.mem.read (dramKey c l) k
    | none => List.replicate k 0)

/-- A read of DRAM bytes: the bytes, whether any burst is poisoned, the state after. -/
def State.dramRead (s : State) (u : DramUser) (a n : Nat) : List Byte × Bool × State :=
  let (p, s) := (burstsOf a n).foldl (fun (acc : Bool × State) b =>
    match acc.2.dramMap b with
    | some (c, l) => let (p, s) := acc.2.burstRead u c l; (acc.1 || p, s)
    | none => acc) (false, s)
  (s.dramBytes a n, p, s)

/-- A write to one burst, in whole, or in part by a read of the burst and a write of what the two make (R271). -/
def State.burstWrite (s : State) (u : DramUser) (c l : Nat) (bs : List Byte) (poison : Bool) : State :=
  let key := burstKey c l
  let gi := c / 4
  let g := s.mg gi
  let s := s.setMg gi { g with cntWr := g.cntWr + 128 }
  let (p, s) : Bool × State := if bs.length = 128 then (false, s) else s.burstRead u c l
  let p := p || poison
  { s with dram := { s.dram with
      mem := s.dram.mem.write (dramKey c l) bs
      poison := SMap.set false s.dram.poison key p
      err := SMap.set [] s.dram.err key [] } }

/-- A write of DRAM bytes, burst by burst. None reaches the staging range during a load (R143). -/
def State.dramWrite (s : State) (u : DramUser) (a : Nat) (bs : List Byte) (poison : Bool) : State :=
  (burstsOf a bs.length).foldl (fun s b =>
    let lo := max a b
    let hi := min (a + bs.length) (b + 128)
    match s.dramMap lo with
    | some (c, l) =>
      if s.loadBusy && s.inStaging lo then s else s.burstWrite u c l ((bs.drop (lo - a)).take (hi - lo)) poison
    | none => s) s

/-! Either half of data space -/

/-- A unit that receives poisoned data sets poison_in and counts the arrival (R402). -/
def Mu.poisonIn (m : Mu) : Mu := { m.flag 7 with cntPoison := m.cntPoison + 1 }

/-- MU_FAULT.poison_in: poisoned data arrived (R102, R402). -/
def State.muPoisonIn (s : State) (p n : Nat) (bad : Bool) : State :=
  if bad then s.setMu p n (s.mu p n).poisonIn else s

/-- Damage that the next transfer over the spine takes (R399). -/
def State.takeSpine (s : State) : Bool × State := (s.flt.spineBad, { s with flt := { s.flt with spineBad := false } })

/-- Bytes at a data-space address, from DRAM or from an MU over the wide path. -/
def State.spaceRead (s : State) (u : DramUser) (a n : Nat) : List Byte × Bool × State :=
  match muOf a with
  | some (p, m, o) =>
    let (sb, s) := s.takeSpine
    let (bs, bad, s) := s.muRead p m o n (if u == .monument || u == .digest then .monument else .plain)
    (bs, bad || sb, s)
  | none => s.dramRead u a n

def State.spaceWrite (s : State) (u : DramUser) (a : Nat) (bs : List Byte) (poison : Bool) : State :=
  match muOf a with
  | some (p, m, o) =>
    let (sb, s) := s.takeSpine
    (s.muWrite p m o bs (poison || sb)).muPoisonIn p m (poison || sb)
  | none => s.dramWrite u a bs poison

/-- Bytes as they stand stored, without a read. -/
def State.spaceBytes (s : State) (a n : Nat) : List Byte :=
  match muOf a with
  | some (p, m, o) => (s.mu p m).sram.read o n
  | none => s.dramBytes a n

/-! State planes that an AU writes in pass 2 (R271, R284, R304) -/

/-- Bytes of a burst that the AU writes whole, part after part in rising order: no merge with what the burst held. With its
last part the burst is clean (R271). -/
def State.burstFill (s : State) (c l : Nat) (bs : List Byte) : State :=
  let g := s.mg (c / 4)
  let s := if l % 128 = 0 then s.setMg (c / 4) { g with cntWr := g.cntWr + 128 } else s
  let d := { s.dram with mem := s.dram.mem.write (dramKey c l) bs }
  let key := burstKey c l
  { s with dram :=
      if (l + bs.length) % 128 = 0 then { d with poison := SMap.set false d.poison key false, err := SMap.set [] d.err key [] }
      else d }

/-- A row that the AU writes whole, part after part in rising order, is clean with its last part (R99). -/
def Mu.fillRow (m : Mu) (off len : Nat) : Mu :=
  if (off + len) % 512 = 0 && len != 0 then m.setPoison ((off + len - 1) / 512) false else m

/-- An AU write: a dense region is written in whole bursts and whole rows, a table row alone by read-modify-write. -/
def State.auStore (s : State) (dense : Bool) (a : Nat) (bs : List Byte) (poison : Bool) : State :=
  match muOf a with
  | some (p, m, o) =>
    let (sb, s) := s.takeSpine
    let bad := poison || sb
    let s := (s.muWrite p m o bs bad).muPoisonIn p m bad
    if dense && !bad then s.setMu p m ((s.mu p m).fillRow o bs.length) else s
  | none =>
    if dense && !poison then (burstsOf a bs.length).foldl (fun s b =>
      let lo := max a b
      let hi := min (a + bs.length) (b + 128)
      match s.dramMap lo with
      | some (c, l) => s.burstFill c l ((bs.drop (lo - a)).take (hi - lo))
      | none => s) s
    else s.dramWrite .auPass2 a bs poison

/-- Every row or burst of [a, b) has been written whole with clean data: no poison and no damage is left (R99, R271). -/
def State.settle (s : State) (a b : Nat) : State :=
  match muOf a with
  | some (p, n, o) =>
    let m := s.mu p n
    let inside := fun (row : Nat) => o / 512 ≤ row && row < cdiv (o + (b - a)) 512
    s.setMu p n { m with
      poison := m.poison.filter (fun e => !inside e.1)
      ecc := m.ecc.filter (fun e => !inside (e.1 / 64)) }
  | none => (burstsOf a (b - a)).foldl (fun s x =>
      match s.dramMap x with
      | some (c, l) =>
        let key := burstKey c l
        { s with dram := { s.dram with
            poison := SMap.set false s.dram.poison key false, err := SMap.set [] s.dram.err key [] } }
      | none => s) s

end Sys2Proof.Machine
end

