-- ==== Sys2Proof/Machine/Rule.lean ====
section
/-! DEFINITION. The adjustment rule: the recurrence of one element, its coefficients, the layout of state (R219 to R234,
R239, R240, R279). -/
namespace Sys2Proof.Machine

/-! Rule rows -/

/-- 32-bit word k of rule row r (R225). -/
def Cfg.ruleWord (c : Cfg) (r k : Nat) : W32 :=
  let w := ((c.rules.getD r []).getD (k / 2) 0)
  BitVec.ofNat 32 (fld w (32 * (k % 2)) 32)

/-- A rule row's flags (R226). -/
structure RowFlags where
  m1En : Bool
  m2En : Bool
  hAbs : Bool
  denEn : Bool
  clipEn : Bool
  trust : Bool
  nfSkip : Bool
  precond : Bool
  m1Fmt : Fmt
  m2Fmt : Fmt
  gsz : Nat
  nb : Nat
  deriving DecidableEq, Repr

def rowFlags (w : W32) : RowFlags :=
  { m1En := bitOf w 0, m2En := bitOf w 1, hAbs := bitOf w 2, denEn := bitOf w 3, clipEn := bitOf w 4
    trust := fld w 5 2 = 1, nfSkip := bitOf w 7, precond := bitOf w 8
    m1Fmt := Fmt.ofCodeD (fld w 9 4), m2Fmt := Fmt.ofCodeD (fld w 13 4)
    gsz := gszOf (fld w 17 2), nb := fld w 19 5 + 1 }

/-- Coefficient i of row r as the image holds it (R225). -/
def Cfg.coef (c : Cfg) (r i : Nat) : W32 := c.ruleWord r (2 + i)

/-- Bit i of sched (R225). -/
def Cfg.sched (c : Cfg) (r i : Nat) : Bool := bitOf (c.ruleWord r 1) i

/-- The coefficients of a row in effect in AU_COEF_LIVE (R228, R234). -/
def Au.liveCoef (a : Au) (c : Cfg) (r i : Nat) : W32 :=
  (SMap.get none a.live (32 * r + i)).getD (c.coef r i)

/-- Coefficients of the recurrence by their index of R225. -/
abbrev Coefs := Nat → W32

/-! The recurrence (R221) -/

/-- The clip factor (R221, R222). -/
def clipFactor (fl : RowFlags) (k : Coefs) (norm : W32) : W32 :=
  if !fl.clipEn then fpOne
  else if isZero32 norm then fpOne
  else fpMin fpOne (fpDiv (k 12) norm)

/-- Inputs of one element (R219). -/
structure ElemIn where
  w : W32
  m1 : W32
  m2 : W32
  gh : W32
  deriving DecidableEq, Repr

/-- What the recurrence forms of one element up to u. -/
structure ElemOut where
  m1n : W32
  m2n : W32
  u : W32
  deriving DecidableEq, Repr

/-- R221 up to u. -/
def evalU (fl : RowFlags) (k : Coefs) (clip : W32) (e : ElemIn) : ElemOut :=
  let g := fpMul (k 0) e.gh
  let gt := fpMul clip g
  let gt := if isZero32 (k 10) then gt else fpAdd gt (fpMul (k 10) e.w)
  let m1n := fpAdd (fpMul (k 1) e.m1) (fpMul (k 2) gt)
  let hv := if fl.hAbs then fpAbs gt else fpMul gt gt
  let m2n := fpAdd (fpMul (k 3) e.m2) (fpMul (k 4) hv)
  let q := if fl.denEn then
      fpDiv (fpMul (k 5) m1n) (fpAdd (fpSqrt (fpMul (k 6) m2n)) (k 8))
    else fpMul (k 5) m1n
  { m1n := m1n, m2n := m2n, u := fpAdd (fpAdd q (fpMul (k 7) gt)) (fpMul (k 9) e.w) }

/-- The new master of R221: w minus s · u with s = eta · t. -/
def evalW (k : Coefs) (t w u : W32) : W32 := fpSub w (fpMul (fpMul (k 11) t) u)

/-- The trust factor (R223). -/
def trustFactor (fl : RowFlags) (k : Coefs) (w u : W32) : W32 :=
  if !fl.trust then fpOne
  else if isNaN32 w || isNaN32 u then fpNaN
  else if isZero32 w || isZero32 u then fpOne
  else fpMin (fpMax (fpMul (k 15) (fpDiv w u)) (k 13)) (k 14)

/-- Conditions of R227 on one coefficient, given the value its partner of t_min ≤ t_max holds, if any (R228). -/
def coefOk (fl : RowFlags) (i : Nat) (v : W32) (partner : Option W32) : Bool :=
  isFin32 v &&
  (if i = 8 && fl.denEn then fpLt fpZero v else true) &&
  (if i = 12 && fl.clipEn then fpLt fpZero v else true) &&
  (if i = 13 && fl.trust then fpLe fpZero v && (match partner with | some m => fpLe v m | none => true) else true) &&
  (if i = 14 && fl.trust then (match partner with | some m => fpLe m v | none => true) else true) &&
  (if i = 15 && fl.trust then fpLt fpZero v else true)

/-! Planes -/

/-- Round up to a 512-byte row boundary. -/
def up512 (n : Nat) : Nat := cdiv n 512 * 512

/-- Offsets of the sub-planes of one plane whose sub-planes each start on a row boundary (R239, R279). -/
structure PlaneAt where
  elem : Nat
  s1 : Nat
  z : Nat
  s2 : Nat
  len : Nat
  deriving DecidableEq, Repr

def planeAt (base : Nat) (p : Planes) : PlaneAt :=
  let s1 := base + up512 p.elem
  let z := s1 + up512 p.s1
  let s2 := z + up512 p.z
  { elem := base, s1 := s1, z := z, s2 := s2, len := s2 + up512 p.s2 - base }

/-- Where a plane that begins at base ends: its last row is filled up (the worked example of R279). -/
def planeFin (base : Nat) (p : Planes) : Nat := base + (planeAt base p).len

/-- Bytes of a sub-plane row-padded with zeros (R239). -/
def padRow (bs : List Byte) : List Byte := bs ++ List.replicate (up512 bs.length - bs.length) 0

/-- The bytes of one plane, sub-plane after sub-plane, each padded to whole rows. -/
def planeBytes (r : RowPlanes) : List Byte := padRow r.elem ++ padRow r.s1 ++ padRow r.z ++ padRow r.s2

/-- Rows, counted from the plane's start, that hold the elements or scales of block b of a K-element row (R239). -/
def blockRows (f : Fmt) (g nb k b : Nat) : List Nat :=
  let a := planeAt 0 (planesOf f g nb 1 k)
  let lo := b * g * nb
  let hi := min (lo + g * nb) (cdiv k g * g)
  let span := fun (base first last : Nat) => (List.range (last / 512 - first / 512 + 1)).map (fun i => (base + first) / 512 + i)
  if hi ≤ lo then [] else
  let e := span a.elem (lo * f.width / 8) ((hi * f.width - 1) / 8)
  if f.grouped then
    e ++ span a.s1 (lo / g) ((hi - 1) / g) ++ (if f.asym then span a.z (lo / g) ((hi - 1) / g) else [])
      ++ span a.s2 (4 * b) (4 * b + 3)
  else e

/-- Chunk of at most 64 values summed by the fixed tree of 64 leaves (R240). -/
def chunkTree (xs : List W32) : W32 := treeFold fpAdd 6 (xs ++ List.replicate (64 - xs.length) fpZero)

/-- Squares summed in chunks of 64, chunk sums added in ascending order (R240). -/
def sumSquares (xs : List W32) : W32 :=
  fpSum ((chunksOf 64 (xs.map (fun x => fpMul x x))).map chunkTree)

/-- Planes of a stored tensor read out of data space for elements first to first + n − 1 (R34, R35). -/
structure Stored where
  fmt : Fmt
  g : Nat
  nb : Nat
  at_ : PlaneAt
  deriving DecidableEq, Repr

/-- Byte ranges of a stored tensor that hold elements first to first + n − 1, whole groups and blocks. -/
def Stored.ranges (t : Stored) (first n : Nat) : List (Nat × Nat) :=
  if n = 0 then [] else
  if t.fmt.grouped then
    let g0 := first / t.g
    let g1 := (first + n - 1) / t.g
    let b0 := g0 / t.nb
    let b1 := g1 / t.nb
    let w := t.g * t.fmt.width / 8
    [(t.at_.elem + g0 * w, (g1 - g0 + 1) * w), (t.at_.s1 + g0, g1 - g0 + 1)]
      ++ (if t.fmt.asym then [(t.at_.z + g0, g1 - g0 + 1)] else [])
      ++ [(t.at_.s2 + 4 * b0, 4 * (b1 - b0 + 1))]
  else [(t.at_.elem + first * t.fmt.width / 8, n * t.fmt.width / 8)]

/-- Read elements first to first + n − 1 as FP32: values, whether any byte was poisoned, the state after. -/
def State.readStored (s : State) (u : DramUser) (t : Stored) (first n : Nat) : List W32 × Bool × State :=
  let (bs, p, s) := (t.ranges first n).foldl (fun (acc : List (List Byte) × Bool × State) r =>
    let (b, p, s) := acc.2.2.spaceRead u r.1 r.2
    (acc.1 ++ [b], acc.2.1 || p, s)) ([], false, s)
  if t.fmt.grouped then
    let g0 := first / t.g
    let rp : RowPlanes := { elem := bs.getD 0 [], s1 := bs.getD 1 []
                            z := if t.fmt.asym then bs.getD 2 [] else []
                            s2 := bs.getD (if t.fmt.asym then 3 else 2) [] }
    let b0 := g0 / t.nb
    let es := unpackElems t.fmt.width rp.elem
    ((List.range n).map (fun i =>
      let k := first + i
      let gi := k / t.g
      decValue t.fmt (es.getD (k - g0 * t.g) 0) (rp.s1.getD (gi - g0) 0)
        (BitVec.ofNat 32 (leAt rp.s2 (4 * (gi / t.nb - b0)) 4)) (rp.z.getD (gi - g0) 0)), p, s)
  else
    ((unpackElems t.fmt.width (bs.getD 0 [])).map (fun e => decValue t.fmt e 0 0 0), p, s)

/-- Write whole blocks of values from element first of a stored tensor (R44, R45, R230). -/
def State.writeStored (s : State) (dense : Bool) (t : Stored) (first : Nat) (xs : List W32) : State :=
  let q := quantRow t.fmt t.g t.nb xs
  let s := s.auStore dense (t.at_.elem + first * t.fmt.width / 8) q.elem false
  if t.fmt.grouped then
    let s := s.auStore dense (t.at_.s1 + first / t.g) q.s1 false
    let s := s.auStore dense (t.at_.z + first / t.g) q.z false
    s.auStore dense (t.at_.s2 + 4 * (first / (t.g * t.nb))) q.s2 false
  else s

end Sys2Proof.Machine
end

