-- ==== Sys2Proof/Machine/Adjust.lean ====
section
/-! DEFINITION. Running the adjustment: requantisation, the exchange records and the two passes (R235 to R260). -/
namespace Sys2Proof.Machine

/-! Regions and their state -/

/-- The piece of a PARAM_REGIONS item, with its region. -/
def Cfg.piece (c : Cfg) (item : Nat) : Option (Region × Piece) :=
  c.regions.findSome? (fun r => (r.pieces.find? (fun p => p.item == item)).map (fun p => (r, p)))

/-- Base address of region r's bank copy of S(n) (R19, R278, R284). -/
def State.stateBase (s : State) (r : Region) (n : Nat) : Nat :=
  if r.tier = 0 then (if n % 2 = 0 then r.stateOff else r.stateOffB)
  else match s.cfg.layout.find? (fun x => x.kind == bankKind n && x.chans == 0xF <<< (4 * r.au)) with
    | some x => x.base + r.stateOff
    | none => r.stateOff

/-- Stored master and moments of a region whose copy lies at base, and where its last plane ends: that of the moments, or
that of the factor and root planes of a preconditioned region (R258, R279). -/
def regionPlanes (fl : RowFlags) (r : Region) (base : Nat) : Stored × Option Stored × Option Stored × Nat :=
  let e := r.elements
  let ps1 := planesOf fl.m1Fmt fl.gsz fl.nb 1 e
  let ps2 := planesOf fl.m2Fmt fl.gsz fl.nb 1 e
  let m := planeAt base (planesOf .fp32 1 1 1 e)
  let o1 := base + m.len
  let p1 := planeAt o1 ps1
  let o2 := if fl.m1En then o1 + p1.len else o1
  let p2 := planeAt o2 ps2
  let o3 := if fl.m2En then o2 + p2.len else o2
  let fin := if fl.precond then o3 + Config.factorBytes r.precond r.elements r.matCols else o3
  ({ fmt := .fp32, g := 1, nb := 1, at_ := m },
   if fl.m1En then some { fmt := fl.m1Fmt, g := fl.gsz, nb := fl.nb, at_ := p1 } else none,
   if fl.m2En then some { fmt := fl.m2Fmt, g := fl.gsz, nb := fl.nb, at_ := p2 } else none, fin)

/-- Elements of a piece's planes: n, or n table rows (R239, R241). -/
def pieceElems (r : Region) (p : Piece) : Nat := if r.sparse then p.n * r.matCols else p.n

/-- Byte address of the HOLD region of a piece, and where its planes lie (R239, R241). -/
structure HoldAt where
  base : Nat
  g : Stored
  e0 : Stored
  e1 : Stored
  deriving DecidableEq, Repr

def State.holdAt (s : State) (r : Region) (p : Piece) : HoldAt :=
  let reg := (s.mu p.hPlat p.hMu).reg p.hReg
  let base := muBase p.hPlat p.hMu + reg.baseRow * 512
  let k := pieceElems r p
  let G := gszOf p.gsz
  let nb := p.bpg + 1
  let gf := Fmt.ofCodeD p.gFmt
  let ef := Fmt.ofCodeD p.eFmt
  let g0 := base + (if r.sparse then up512 (4 * p.n) else 0)
  let ga := planeAt g0 (planesOf gf G nb 1 k)
  let ea := planeAt (g0 + ga.len) (planesOf ef G nb 1 k)
  let eb := planeAt (g0 + ga.len + ea.len) (planesOf ef G nb 1 k)
  { base := base, g := { fmt := gf, g := G, nb := nb, at_ := ga }
    e0 := { fmt := ef, g := G, nb := nb, at_ := ea }, e1 := { fmt := ef, g := G, nb := nb, at_ := eb } }

/-- Error plane of step n (R239). -/
def HoldAt.err (h : HoldAt) (n : Nat) : Stored := if n % 2 = 0 then h.e0 else h.e1

/-- An MU address of a locked error plane or tier-0 copy (R295). -/
def State.muLocked (s : State) (a : Nat) : Bool :=
  s.mon.locks.any (fun m => s.cfg.regions.any (fun r =>
    (r.tier == 0 && (let b := s.stateBase r m; b ≤ a && a < (regionPlanes (rowFlags (s.cfg.ruleWord r.rule 0)) r b).2.2.2))
    || r.pieces.any (fun p => p.eEn && (let e := ((s.holdAt r p).err m).at_; e.elem ≤ a && a < e.elem + e.len))))

/-- Address ranges that no host push may write: those of the bank lock (R295), and while RUNNING the row freeze
bitmaps (R254). -/
def State.hostClosed (s : State) : List (Nat × Nat) :=
  ((s.cfg.layout.filter (fun x => s.kindLocked x.kind)).map (fun x => (x.base, x.base + x.len)))
    ++ s.mon.locks.flatMap (fun m => s.cfg.regions.flatMap (fun r =>
      (if r.tier = 0 then
         (let b := s.stateBase r m; [(b, (regionPlanes (rowFlags (s.cfg.ruleWord r.rule 0)) r b).2.2.2)])
       else []) ++ (r.pieces.filter (·.eEn)).map (fun p =>
         let e := ((s.holdAt r p).err m).at_; (e.elem, e.elem + e.len))))
    ++ (if s.img.state == .running then
          (s.cfg.regions.filter (·.sparse)).map (fun r => (r.mapBase, r.mapBase + cdiv (r.elements / max 1 r.matCols) 8))
        else [])

/-- An address that a bank lock protects from host writes (R295). -/
def State.bankLocked (s : State) (a : Nat) : Bool :=
  match muOf a with
  | some _ => s.muLocked a
  | none => (match s.rangeOf a with | some r => s.kindLocked r.kind | none => false)

/-! Requantisation (R239, R240) -/

/-- Poisoned rows of a stored plane by their number in the plane. -/
def State.planeRowPoison (s : State) (at_ : Nat) (row : Nat) : Bool :=
  match muOf (at_ + 512 * row) with
  | some (p, m, o) => (s.mu p m).rowPoison (o / 512)
  | none => false

/-- Write a quantised plane whole and poison the rows of the blocks named (R239). -/
def State.writePlane (s : State) (t : Stored) (k : Nat) (xs : List W32) (bad : List Nat) : State :=
  let s := s.spaceWrite .auPass2 t.at_.elem (planeBytes (quantRow t.fmt t.g t.nb xs)) false
  (bad.flatMap (blockRows t.fmt t.g t.nb k)).foldl (fun s row =>
    match muOf (t.at_.elem + 512 * row) with
    | some (p, m, o) => s.setMu p m ((s.mu p m).setPoison (o / 512) true)
    | none => s) s

/-- The requantiser may run on a piece: its round is complete, and no monument still reads its error plane (R296). -/
def State.requantReady (s : State) (item : Nat) : Option (Region × Piece) :=
  match s.cfg.piece item with
  | none => none
  | some (r, p) =>
    let reg := (s.mu p.rPlat p.rMu).reg p.rReg
    let blocked := p.eEn && s.mon.errorPending s.stepIndex.toNat item
    if s.adj.inStep && s.arrayRuns && reg.roundDone && !blocked && !s.adj.partials.any (·.1 == item)
    then some (r, p) else none

/-- Blocks of a piece that poison marks: those of a poisoned row of the buffer, and those of a poisoned row of the
error plane read (R239). -/
def State.requantBad (s : State) (p : Piece) (span k : Nat) (ep : Stored) : List Nat × List Nat :=
  let m := s.mu p.rPlat p.rMu
  let base := (m.reg p.rReg).baseRow
  let blocks := List.range (cdiv k span)
  (blocks.filter (fun b =>
      (List.range (cdiv (min span (k - b * span)) 128 + 1)).any (fun i =>
        128 * ((b * span) / 128 + i) < min k ((b + 1) * span) && m.rowPoison (base + (b * span) / 128 + i))),
   if p.eEn then blocks.filter (fun b => (blockRows ep.fmt ep.g ep.nb k b).any (s.planeRowPoison ep.at_.elem)) else [])

/-- The gradient and, with e_en, the new error plane are written; the piece's part of gsq is kept (R239, R240). -/
def State.requantWrite (s : State) (item : Nat) (p : Piece) (h : HoldAt) (n k : Nat) (x : List W32) (bad : List Nat) : State :=
  let s := s.writePlane h.g k x bad
  let gq := (chunksOf h.g.nb (chunksOf h.g.g x)).map (quantBlock h.g.fmt)
  let dec := gq.flatMap (QBlock.values h.g.fmt)
  let s := if p.eEn then s.writePlane (h.err n) k ((x.zip dec).map (fun (a, d) => fpSub a d)) bad else s
  { s with adj := { s.adj with
    partials := s.adj.partials ++ [(item, sumSquares dec)] } }

/-- The round of a piece's REDUCE region is taken (R238). -/
def State.roundTaken (s : State) (p : Piece) : State :=
  let m := s.mu p.rPlat p.rMu
  s.setMu p.rPlat p.rMu (m.setReg p.rReg { m.reg p.rReg with roundDone := false, applied := [] })

/-- The elements to quantise: the buffer, with the error plane added where e_en is set (R239). -/
def State.requantRead (s : State) (p : Piece) (ep : Stored) (k : Nat) : List W32 × State :=
  let reg := (s.mu p.rPlat p.rMu).reg p.rReg
  let (bs, _, s) := s.muRead p.rPlat p.rMu (reg.baseRow * 512) (4 * k)
  let buf := unpackElems 32 bs |>.map (BitVec.ofNat 32)
  if p.eEn then
    let (es, _, s) := s.readStored .auPass2 ep 0 k
    ((buf.zip es).map (fun (b, e) => fpAdd b e), s)
  else (buf, s)

/-- REQUANTISATION. -/
def requantisation (item : Nat) (ups : List Upset) (s : State) : State :=
  match s.requantReady item with
  | none => s
  | some (r, p) =>
    let s := s.strikes ups
    let n := s.stepIndex.toNat
    let k := pieceElems r p
    let h := s.holdAt r p
    let ep := h.err (n + 1)
    let (x, s) := s.requantRead p ep k
    let bad := s.requantBad p (h.g.g * h.g.nb) k ep
    let s := (s.requantWrite item p h n k x (bad.1 ++ bad.2).eraseDups).roundTaken p
    if bad.2.isEmpty then s else s.raise .cont Codes.statePoison 2 (unitKey p.rPlat p.rMu) (s.mu p.rPlat p.rMu).eccLoc

def execRequantisation (item : Fin 65536) (ups : List Upset) (s : State) : Outcome :=
  .next (requantisation item.val ups s)

/-! The seal (R242 to R244) -/

/-- STASH regions that still hold rows, or whose reserve does, by unit and region (R169). -/
def State.stashResidue (s : State) : List (Nat × Nat) :=
  s.mus.flatMap (fun e => (e.2.regions.filter (fun r =>
    r.2.kind == 2 && (r.2.hi != 0 || r.2.lo != 0 || !r.2.reserve.isEmpty))).map (fun r => (e.1, r.1)))

/-- Each of them raises STASH_RESIDUE (R169, R414). -/
def State.raiseResidue (s : State) : State :=
  s.stashResidue.foldl (fun s e => s.raiseMu Codes.stashResidue (e.1 / 256) (e.1 % 256) e.2 none) s

/-- Some row of [a, b) of an MU is poisoned. -/
def State.rowsPoisoned (s : State) (a b : Nat) : Bool :=
  match muOf a with
  | some (p, n, o) => (s.mu p n).poison.any (fun e => e.2 && o / 512 ≤ e.1 && e.1 < cdiv (o + (b - a)) 512)
  | none => false

/-- A HOLD row of the step is poisoned (R242): of an index plane, which the placement writes, of a gradient, or of the
error plane the step writes. -/
def State.holdPoisoned (s : State) : Bool :=
  s.cfg.regions.any (fun r => r.pieces.any (fun p =>
    let h := s.holdAt r p
    let e := (h.err s.stepIndex.toNat).at_
    s.rowsPoisoned h.base (h.g.at_.elem + h.g.at_.len) || (p.eEn && s.rowsPoisoned e.elem (e.elem + e.len))))

def State.setPhase (s : State) (ph : Nat) : State :=
  (List.range 4).foldl (fun s g => if s.gatesOpen (.au g) then s.setAu g { s.au g with phase := ph } else s) s

/-- Set a bit of every AU_FAULT: the exchange values are device-wide (R262). -/
def State.auFlagAll (s : State) (b : Nat) : State :=
  (List.range 4).foldl (fun s g => s.setAu g { s.au g with fault := setBit (s.au g).fault b }) s

/-- Keep this device's own record with those received (R244). -/
def State.keepRec (s : State) (r : NormRec) : State := { s with adj := { s.adj with recs := s.adj.recs ++ [r] } }

/-- Records of a type from the whole seal set. -/
def State.haveAll (s : State) (typ : Nat) : Bool :=
  s.cfg.plan.seals.all (fun e => s.adj.recs.any (fun r =>
    r.typ.val == typ && r.dev == e.dev && r.step == s.stepIndex && !r.vote))

/-- Records of this replica set in ascending shard order (R244, R248). -/
def State.shardRecs (s : State) (typ : Nat) : List NormRec :=
  (List.range s.cfg.plan.shards).filterMap (fun k =>
    s.adj.recs.find? (fun r => r.typ.val == typ && r.rset == s.cfg.plan.rset && r.shard == k && r.step == s.stepIndex))

/-- AU_EXCH and AU_FAULT.seal_peer or exch_timeout for a record that failed or is missing (R244, R245, R262). -/
def State.exchFail (s : State) (dev typ : Nat) (fault : Code) (bit : Nat) (code : Code) : State :=
  let w := mkWord 64 [(0, 12, dev), (12, 2, typ), (16, 16, fault.toNat), (32, 1, 1)]
  (({ s with adj := { s.adj with exch := w } }).auFlagAll bit).raise .cont code 5 0 w

/-- The exchange whose records the step is gathering: 1 seal, 2 gate, 3 commit. -/
def State.exchPhase (s : State) : Nat := if !s.adj.sealed then 1 else if !s.adj.gateOk then 2 else 3

/-- A record that fails the step: FAIL for the step, or of the exchange in hand and of another step (R244, R248, R250). -/
def State.recBad (s : State) (r : NormRec) : Bool :=
  (r.vote && r.step == s.stepIndex) || (r.typ.val == s.exchPhase && r.step != s.stepIndex)

/-- The records held are judged: the first bad one of another device fails the step (R244). -/
def State.judgeBad (s : State) : State :=
  if s.adj.inStep && !s.stepFailed then
    match s.adj.recs.find? (fun r => r.dev != s.cfg.plan.dev && s.recBad r) with
    | some r => if r.step == s.stepIndex then s.exchFail r.dev r.typ.val r.fault 4 Codes.sealPeer
      else s.exchFail r.dev r.typ.val r.fault 0 Codes.stepMismatch
    | none => s
  else s

/-- With every SEAL record held, N is formed (R244). -/
def State.judgeSeal (s : State) : State :=
  if s.adj.inStep && !s.stepFailed && !s.adj.sealed && s.haveAll 1 then
    let recs := s.shardRecs 1
    let sum := (recs.drop 1).foldl (fun a r => fpAdd a r.gsq) ((recs.map (·.gsq)).headD 0)
    { s with adj := { s.adj with sealed := true, norm := fpSqrt sum } }
  else s

/-- An OK record goes out; the fault of one that cannot leave fails the step (R343, R403). -/
def State.sendVote (s : State) (r : NormRec) : State :=
  let s := s.sendNorm r
  if s.adj.kFault then s.stepFail else s

/-- SEAL_SEND: an OK record when the conditions hold; a poisoned HOLD row votes FAIL (R242, R401). -/
def sealSend (s : State) : State :=
  if s.adj.inStep && s.arrayRuns && s.adj.sealSent.isNone && !s.adj.kFault && s.piecesDone then
    if !s.stashResidue.isEmpty then s.raiseResidue
    else if s.holdPoisoned then s.stepFail
    else if (List.range 4).all (fun g => (s.au g).step == s.stepIndex) then
      let s := { s with adj := { s.adj with sealSent := some true, gsq := s.deviceGsq } }
      let r := s.ownRec 1 true
      (((s.setPhase 1).sendVote r).keepRec r).judgeSeal.judgeBad
    else s
  else s

def execSealSend (s : State) : Outcome := .next (sealSend s)

/-! Pass 1 and the gate (R246 to R248) -/

/-- Rule rows that a region of this device references. -/
def Cfg.usedRows (c : Cfg) : List Nat := (c.regions.map (·.rule)).eraseDups

/-- Every scheduled coefficient of every referenced row has its entry for the step (R252). -/
def State.coefsPresent (s : State) : Bool :=
  s.cfg.usedRows.all (fun r => (List.range 17).all (fun i =>
    !s.cfg.sched r i || s.adj.coefs.any (fun e => e.step == s.stepIndex && e.row == r && e.index == i)))

/-- The live coefficients of the step (R234). -/
def State.liveMap (s : State) : SMap (Option W32) :=
  (s.adj.coefs.filter (fun e => e.step == s.stepIndex && s.cfg.sched e.row e.index)).foldl
    (fun m e => SMap.set none m (32 * e.row + e.index) (some e.value)) []

/-- The step field of the command that started the step (R246). -/
def State.commandStep (s : State) : Option Step :=
  match s.adj.curStart with
  | none => none
  | some i => (s.cmd.held.find? (fun h => h.id == i)).map (·.word.desc.step)

/-- Sparse regions give the AU nothing until their first slot; the pass starts at the first region. -/
def Au.startPass (a : Au) (ph : Nat) : Au :=
  { a with phase := ph, region := 0, piece := 0, pos := 0, lastIndex := none, parked := [], passDone := false
           sums := [], chunk := [] }

/-- PASS_1_START: every AU checks for itself (R246, R252). -/
def pass1Start (s : State) : State :=
  if s.adj.inStep && s.arrayRuns && s.adj.sealed && (List.range 4).any (fun g => (s.au g).phase == 1) then
    let (idx, present, live) := (s.commandStep, s.coefsPresent, s.liveMap)
    (List.range 4).foldl (fun s g =>
      let a := s.au g
      if a.phase != 1 || !s.gatesOpen (.au g) then s
      else if idx != some a.step || s.dtm.latched != a.step then
        (s.setAu g { a with fault := setBit a.fault 0 }).raise .cont Codes.stepMismatch 5 g s.adj.exch
      else if !present then
        (s.setAu g { a with fault := setBit a.fault 1 }).raise .cont Codes.coefMissing 5 g s.adj.exch
      else s.setAu g { a.startPass 2 with live := live }) s
  else s

def execPass1Start (s : State) : Outcome := .next (pass1Start s)

/-! Evaluation of elements (R221, R231, R247, R249, R254 to R256) -/

/-- A region an AU passes over: its own, in tier 0 or 1 (R257). -/
def Region.byAu (r : Region) (g : Nat) : Bool := r.au == g && r.tier != 2

/-- Coefficients of a region's row as AU g holds them. -/
def State.coefsOf (s : State) (g : Nat) (r : Region) : Coefs := fun i => (s.au g).liveCoef s.cfg r.rule i

def State.flagsOf (s : State) (r : Region) : RowFlags := rowFlags (s.cfg.ruleWord r.rule 0)

/-- Held gradient of elements first to first + n − 1 of a dense region, from the pieces that hold them. -/
def State.heldGrad (s : State) (r : Region) (first n : Nat) : List W32 × Bool × State :=
  ((r.pieces.filter (fun p => !p.raw)).foldl (fun (acc : List (Nat × List W32) × Bool × State) p =>
    let lo := max first p.e0
    let hi := min (first + n) (p.e0 + p.n)
    if lo < hi then
      let (v, b, s) := acc.2.2.readStored .auPass1 (acc.2.2.holdAt r p).g (lo - p.e0) (hi - lo)
      (acc.1 ++ [(lo, v)], acc.2.1 || b, s)
    else acc) ([], false, s)) |> fun (parts, b, s) =>
      ((List.range n).map (fun i =>
        match parts.find? (fun q => q.1 ≤ first + i && first + i < q.1 + q.2.length) with
        | some q => q.2.getD (first + i - q.1) 0
        | none => 0), b, s)

/-- What one batch of a pass yields. -/
structure Batch where
  ws : List W32
  outs : List ElemOut
  poisoned : Bool

/-- Evaluate elements first to first + n − 1 of region r with held gradients gh (R221). -/
def State.evalBatch (s : State) (g : Nat) (u : DramUser) (r : Region) (first : Nat) (gh : List W32) : Batch × State :=
  let fl := s.flagsOf r
  let k := s.coefsOf g r
  let n := gh.length
  let (mw, m1, m2, _) := regionPlanes fl r (s.stateBase r (s.stepIndex.toNat + 1))
  let (ws, b0, s) := s.readStored u mw first n
  let (v1, b1, s) := match m1 with
    | some t => s.readStored u t first n
    | none => (List.replicate n fpZero, false, s)
  let (v2, b2, s) := match m2 with
    | some t => s.readStored u t first n
    | none => (List.replicate n fpZero, false, s)
  let clip := clipFactor fl k s.adj.norm
  let outs := (List.range n).map (fun i =>
    evalU fl k clip { w := ws.getD i 0, m1 := v1.getD i 0, m2 := v2.getD i 0, gh := gh.getD i 0 })
  let a := s.au g
  let s := s.setAu g { a with cntElem := a.cntElem + BitVec.ofNat 64 n }
  let bad := b0 || b1 || b2
  let s := if bad && r.tier = 0 then s.raise .cont Codes.statePoison 5 g s.adj.exch else s
  ({ ws := ws, outs := outs, poisoned := bad }, s)

/-- Trust sums of a pass: values join the chunk in hand; full chunks of 64 are summed (R240, R247). -/
def Au.addTrust (a : Au) (grp : Nat) (vs : List (W32 × W32)) (flush : Bool) : Au :=
  let all := a.chunk ++ vs
  let full := chunksOf 64 all
  let (done, rest) := if flush then (full, []) else
    (full.filter (fun c => c.length == 64), (full.filter (fun c => c.length != 64)).flatten)
  let add := fun (acc : W32 × W32) (c : List (W32 × W32)) =>
    (fpAdd acc.1 (chunkTree (c.map (fun v => fpMul v.1 v.1))), fpAdd acc.2 (chunkTree (c.map (fun v => fpMul v.2 v.2))))
  let cur := SMap.get (fpZero, fpZero) a.sums grp
  { a with chunk := rest, sums := SMap.ins (SMap.erase a.sums grp) grp (done.foldl add cur) }

/-- Elements of one batch of a dense region: whole moment blocks, at least 64. -/
def batchSpan (fl : RowFlags) : Nat :=
  let grouped := (fl.m1En && fl.m1Fmt.grouped) || (fl.m2En && fl.m2Fmt.grouped)
  if grouped then fl.gsz * fl.nb * cdiv 64 (fl.gsz * fl.nb) else 64

/-- The state of a region is not written in this step by R224. -/
def State.nfSkips (s : State) (r : Region) : Bool := (s.flagsOf r).nfSkip && !isFin32 s.adj.norm

/-- The region is frozen in this step (R254). -/
def State.regionIx (s : State) (r : Region) : Nat := (s.cfg.regions.findIdx? (· == r)).getD 0
def State.frozenRegion (s : State) (r : Region) : Bool := bitOf s.adj.freeze (s.regionIx r)

/-- Write the new state of a batch to the bank of S(n) (R230, R249). -/
def State.writeBatch (s : State) (g : Nat) (r : Region) (first : Nat) (b : Batch) : State :=
  let fl := s.flagsOf r
  let k := s.coefsOf g r
  let t := SMap.get fpOne s.adj.trust r.trustGroup
  let (mw, m1, m2, _) := regionPlanes fl r (s.stateBase r s.stepIndex.toNat)
  let wn := (b.ws.zip b.outs).map (fun (w, o) => evalW k t w o.u)
  let s := s.writeStored (!r.sparse) mw first wn
  let s := match m1 with
    | some st => s.writeStored (!r.sparse) st first (b.outs.map (·.m1n))
    | none => s
  match m2 with
  | some st => s.writeStored (!r.sparse) st first (b.outs.map (·.m2n))
  | none => s

/-- Bytes between the end of each sub-plane of a stored tensor of e elements and the next row (R279). -/
def Stored.gaps (t : Stored) (e : Nat) : List (Nat × Nat) :=
  let p := planesOf t.fmt t.g t.nb 1 e
  [(t.at_.elem, p.elem), (t.at_.s1, p.s1), (t.at_.z, p.z), (t.at_.s2, p.s2)].map (fun (a, k) => (a + k, up512 k - k))

/-- Planes of region r in the bank of S(n). -/
def State.writtenPlanes (s : State) (r : Region) : List Stored :=
  let (mw, m1, m2, _) := regionPlanes (s.flagsOf r) r (s.stateBase r s.stepIndex.toNat)
  [mw] ++ m1.toList ++ m2.toList

/-- The gaps between the planes written hold 0 (R279). -/
def State.fillGaps (s : State) (r : Region) : State :=
  ((s.writtenPlanes r).flatMap (fun t => t.gaps r.elements)).foldl
    (fun s (a, k) => s.auStore true a (List.replicate k 0) false) s

/-- The copy of a dense region in the bank of S(n) is written: whatever damage or poison its rows and bursts held before is
gone (R284, R304, R407). -/
def State.sealPlanes (s : State) (r : Region) : State :=
  let base := s.stateBase r s.stepIndex.toNat
  let ts := s.writtenPlanes r
  let s := s.fillGaps r
  s.settle base (ts.foldl (fun e t => max e (t.at_.elem + t.at_.len)) base)

/-- Copy forward the stored bytes of elements first to first + n − 1 (R224, R255). A poisoned row of tier-0 state raises
STATE_POISON (R407), as a DRAM burst does on its read. -/
def State.copyForward (s : State) (r : Region) (first n : Nat) : State :=
  let fl := s.flagsOf r
  let c := s.stepIndex.toNat
  let (aw, a1, a2, _) := regionPlanes fl r (s.stateBase r (c + 1))
  let (bw, b1, b2, _) := regionPlanes fl r (s.stateBase r c)
  let pairs := (aw.ranges first n).zip (bw.ranges first n)
    ++ (match a1, b1 with | some x, some y => (x.ranges first n).zip (y.ranges first n) | _, _ => [])
    ++ (match a2, b2 with | some x, some y => (x.ranges first n).zip (y.ranges first n) | _, _ => [])
  pairs.foldl (fun s (x, y) =>
    let (bs, p, s) := s.spaceRead .auPass2 x.1 x.2
    let s := if p && r.tier = 0 then s.raise .cont Codes.statePoison 5 r.au s.adj.exch else s
    if s.stepFailed || p then s else s.auStore (!r.sparse) y.1 bs false) s

/-- Bit of a row map (R281): `which` 0 the freeze bitmap, 1 the bank-difference bits. -/
def mapByte (r : Region) (which row : Nat) : Nat :=
  r.mapBase + which * cdiv (r.elements / r.matCols) 8 + row / 8

def State.rowBit (s : State) (r : Region) (which row : Nat) : Bool × State :=
  let (bs, _, s) := s.dramRead .auPass2 (mapByte r which row) 1
  (bitOf (bs.headD 0) (row % 8), s)

def State.setRowBit (s : State) (r : Region) (which row : Nat) (b : Bool) : State :=
  let old := (s.dramBytes (mapByte r which row) 1).headD 0
  let new : Byte := if b then setBit old (row % 8) else clrBit old (row % 8)
  if new = old then s else s.dramWrite .auPass2 (mapByte r which row) [new] false

def State.setDbit (s : State) (r : Region) (b : Bool) : State :=
  let i := s.regionIx r
  { s with adj := { s.adj with dbits := if b then setBit s.adj.dbits i else clrBit s.adj.dbits i } }

/-- What a working copy is formed from: the master of an element, and whether it was read poisoned (R231). -/
structure Masters where
  val : Nat → W32
  bad : Nat → Bool

/-- Every master of a region, read from the bank of S(n) (R148, R231, R406). -/
def State.masters (s : State) (r : Region) (n : Nat) : Masters × State :=
  let (mw, _, _, _) := regionPlanes (s.flagsOf r) r (s.stateBase r n)
  let bursts := burstsOf mw.at_.elem (4 * r.elements)
  let (bs, bad, s) := bursts.foldl (fun (acc : List Byte × List Nat × State) b =>
    let lo := max b mw.at_.elem
    let hi := min (b + 128) (mw.at_.elem + 4 * r.elements)
    let (bs, p, s) := acc.2.2.spaceRead .auPass2 lo (hi - lo)
    (acc.1 ++ bs, if p then acc.2.1 ++ [(lo - mw.at_.elem) / 4] else acc.2.1, s)) ([], [], s)
  let vs := unpackElems 32 bs |>.map (BitVec.ofNat 32)
  ({ val := fun e => vs.getD e 0, bad := fun e => bad.any (fun f => f ≤ e && e < f + 32) }, s)

/-- The masters of elements first to first + k − 1 that pass 2 has just written to the bank of S(n) (R231). -/
def State.written (s : State) (r : Region) (first k : Nat) : Masters :=
  let (mw, _, _, _) := regionPlanes (s.flagsOf r) r (s.stateBase r s.stepIndex.toNat)
  let vs := unpackElems 32 (s.spaceBytes (mw.at_.elem + 4 * first) (4 * k)) |>.map (BitVec.ofNat 32)
  { val := fun e => vs.getD (e - first) 0, bad := fun _ => false }

/-- A working copy as a matrix in the canonical layout (R35, R236). -/
structure CopyShape where
  fmt : Fmt
  g : Nat
  nb : Nat
  rows : Nat
  k : Nat
  at_ : PlaneAt
  one : Planes
  /-- Element of the region at row i, column j of the copy. -/
  src : Nat → Nat → Nat

def CopyDesc.shape (cd : CopyDesc) (r : Region) : CopyShape :=
  let f := Fmt.ofCodeD cd.fmt
  let g := gszOf cd.gsz
  let nb := cd.bpg + 1
  let cols := r.matCols
  let nr := r.elements / cols
  let rows := if cd.axis then cols else nr
  let k := if cd.axis then nr else cols
  { fmt := f, g := g, nb := nb, rows := rows, k := k, at_ := planeAt 0 (planesOf f g nb rows k), one := planesOf f g nb 1 k
    src := fun i j => if cd.axis then j * cols + i else i * cols + j }

/-- Row i of a copy. -/
def CopyShape.row (c : CopyShape) (m : Masters) (i : Nat) : RowPlanes :=
  quantRow c.fmt c.g c.nb ((List.range c.k).map (fun j => m.val (c.src i j)))

/-- Sub-planes of row i with their offsets in the copy. -/
def CopyShape.parts (c : CopyShape) (q : RowPlanes) (i : Nat) : List (Nat × List Byte) :=
  [(c.at_.elem + i * c.one.elem, q.elem), (c.at_.s1 + i * c.one.s1, q.s1), (c.at_.z + i * c.one.z, q.z),
    (c.at_.s2 + i * c.one.s2, q.s2)].filter (fun e => !e.2.isEmpty)

/-- Rows of 512 bytes that some bytes of a copy touch. -/
def rowsTouched (o n : Nat) : List Nat := if n = 0 then [] else List.range' (o / 512) ((o + n - 1) / 512 - o / 512 + 1)

/-- Rows that the block holding column j of row i is written in: its elements and its scales (R231). -/
def CopyShape.blockAt (c : CopyShape) (i j : Nat) : List Nat :=
  let at_ := fun (o : Nat) (len : Nat) => rowsTouched o len
  if c.fmt.grouped then
    let span := c.g * c.nb
    let b := j / span
    let lo := b * span
    let n := min span (cdiv c.k c.g * c.g - lo)
    at_ (c.at_.elem + i * c.one.elem + lo * c.fmt.width / 8) (n * c.fmt.width / 8)
      ++ at_ (c.at_.s1 + i * c.one.s1 + lo / c.g) (n / c.g)
      ++ (if c.fmt.asym then at_ (c.at_.z + i * c.one.z + lo / c.g) (n / c.g) else [])
      ++ at_ (c.at_.s2 + i * c.one.s2 + 4 * b) 4
  else at_ (c.at_.elem + i * c.one.elem + j * c.fmt.width / 8) (c.fmt.width / 8)

/-- Regenerate every block of a copy: its rows are written whole, and those of a block with a poisoned master are poisoned
(R231). The rows written are the second part. -/
def State.regenWhole (s : State) (r : Region) (cd : CopyDesc) (m : Masters) : List Nat × State :=
  let c := cd.shape r
  let qs := (List.range c.rows).map (c.row m)
  let base := ((s.mu cd.plat cd.mu).reg cd.region).baseRow
  let planes := [(c.at_.elem, qs.flatMap (·.elem)), (c.at_.s1, qs.flatMap (·.s1)), (c.at_.z, qs.flatMap (·.z)),
    (c.at_.s2, qs.flatMap (·.s2))]
  let s := planes.foldl (fun s (o, bs) => s.muWrite cd.plat cd.mu (base * 512 + o) (padRow bs) false) s
  let bad := (List.range c.rows).flatMap (fun i =>
    ((List.range c.k).filter (fun j => m.bad (c.src i j))).flatMap (c.blockAt i))
  (planes.flatMap (fun (o, bs) => rowsTouched o bs.length),
   s.setMu cd.plat cd.mu (bad.eraseDups.foldl (fun u t => u.setPoison (base + t) true) (s.mu cd.plat cd.mu)))

/-- Regenerate the blocks of one table row of a sparse region (R231, R237). -/
def State.regenRow (s : State) (r : Region) (cd : CopyDesc) (m : Masters) (i : Nat) : List Nat × State :=
  let c := cd.shape r
  let base := ((s.mu cd.plat cd.mu).reg cd.region).baseRow
  let ps := c.parts (c.row m i) i
  ((ps.flatMap (fun (o, bs) => rowsTouched o bs.length)).eraseDups,
   ps.foldl (fun s (o, bs) => s.muWrite cd.plat cd.mu (base * 512 + o) bs false) s)

/-- Regenerate a copy: whole, or one table row. -/
def State.regenCopy (s : State) (r : Region) (cd : CopyDesc) (m : Masters) (row : Option Nat) : List Nat × State :=
  if !cd.en || r.matCols = 0 then ([], s) else
  match row with
  | none => s.regenWhole r cd m
  | some i => s.regenRow r cd m i

/-- Cut consecutive row numbers into runs of at most 128 rows (one COLL of 512 tokens each). -/
def rowRuns (rows : List Nat) : List (Nat × Nat) :=
  rows.foldl (fun acc r => match acc.getLast? with
    | some (a, n) => if r = a + n && n < 128 then acc.dropLast ++ [(a, n + 1)] else acc ++ [(r, 1)]
    | none => [(r, 1)]) []

/-- All-gather of the rows regenerated to the other devices of the replica set (R249, R349). -/
def State.gather (s : State) (cd : CopyDesc) (rows : List Nat) : State :=
  if !cd.gather then s else
  let m := s.mu cd.plat cd.mu
  let reg := m.reg cd.region
  let devs := (s.cfg.plan.seals.filter (fun e => e.rset == s.cfg.plan.rset && e.dev != s.cfg.plan.dev)).map (·.dev)
  (rowRuns rows).foldl (fun s (a, n) =>
    let row := reg.baseRow + a
    let toks := (List.range (4 * n)).map (fun i =>
      ({ data := BitVec.ofNat 1024 (leNat (m.sram.read (row * 512 + 128 * i) 128)), last := i + 1 == 4 * n
         poison := m.rowPoison (row + i / 4) } : PTok))
    devs.foldl (fun s d => s.request (BitVec.ofNat 16 d) true .gather
      (.coll (BitVec.ofNat 64 (muBase cd.plat cd.mu + row * 512)) 2 0 0 toks)) s) s

/-- Both copies of a region after pass 2 has written its masters, or those of one table row, with their all-gather
(R231, R249). -/
def State.regenWritten (s : State) (r : Region) (row : Option Nat) : State :=
  if !r.copy0.en && !r.copy1.en then s else
  let m := match row with
    | none => s.written r 0 r.elements
    | some i => s.written r (i * r.matCols) r.matCols
  let (r0, s) := s.regenCopy r r.copy0 m row
  let s := s.gather r.copy0 r0
  let (r1, s) := s.regenCopy r r.copy1 m row
  s.gather r.copy1 r1

/-- Every copy of every region from the masters of the current bank (R148, R231, R406). -/
def State.regenAll (s : State) : State :=
  (s.cfg.regions.filter (fun r => r.tier != 2 && (r.copy0.en || r.copy1.en))).foldl (fun s r =>
    let (m, s) := s.masters r (s.stepIndex.toNat + 1)
    let s := (s.regenCopy r r.copy0 m none).2
    (s.regenCopy r r.copy1 m none).2) s

/-- Index of slot k of a sparse region over its pieces in ascending first slot (R241). -/
def State.slotIndex (s : State) (r : Region) (k : Nat) : Option (Nat × Piece × Nat) :=
  (r.pieces.filter (fun p => !p.raw)).findSome? (fun p =>
    if p.e0 ≤ k && k < p.e0 + p.n then
      let h := s.holdAt r p
      match muOf (h.base + 4 * (k - p.e0)) with
      | some (pl, m, o) => some (leNat ((s.mu pl m).sram.read o 4), p, k - p.e0)
      | none => none
    else none)

/-- Slots of a sparse region. -/
def Region.slots (r : Region) : Nat := ((r.pieces.filter (fun p => !p.raw)).map (·.n)).foldl (· + ·) 0

/-- Places of elements first to first + n − 1 of region r in the bank of S(n). -/
def State.writtenRanges (s : State) (r : Region) (first n : Nat) : List (Nat × Nat) :=
  (s.writtenPlanes r).flatMap (fun t => t.ranges first n)

/-- A row of the tier-0 copy being written that holds some of these elements is poisoned. -/
def State.copySpoilt (s : State) (r : Region) (first n : Nat) : Bool :=
  r.tier == 0 && (s.writtenRanges r first n).any (fun (a, k) => match muOf a with
    | some (p, m, o) => (List.range' (o / 512) ((o + k - 1) / 512 - o / 512 + 1)).any (s.mu p m).rowPoison
    | none => false)

/-- A table row that the step does not change is copied forward, and the banks agree on it (R255). A copy that failed leaves D
as it was. -/
def State.forwardRow (s : State) (r : Region) (row : Nat) : State :=
  let s := s.copyForward r (row * r.matCols) r.matCols
  if s.stepFailed then s else s.setRowBit r 1 row false

/-- One slot of a sparse region is evaluated: its table row, and in pass 2 its new state (R254, R255). -/
def State.evalSlot (s : State) (g : Nat) (r : Region) (p : Piece) (slot row : Nat) : State :=
  let pass2 := (s.au g).phase = 4
  let u : DramUser := if pass2 then .auPass2 else .auPass1
  let (gh, _, s) := s.readStored u (s.holdAt r p).g (slot * r.matCols) r.matCols
  let (b, s) := s.evalBatch g u r (row * r.matCols) gh
  if !pass2 || s.stepFailed then s else
  let (fr, s) := s.rowBit r 0 row
  let (d, s) := s.rowBit r 1 row
  if s.stepFailed then s
  else if s.nfSkips r then s.forwardRow r row
  else if fr || s.frozenRegion r then
    if d || s.copySpoilt r (row * r.matCols) r.matCols then s.forwardRow r row else s
  else
    let s := (s.writeBatch g r (row * r.matCols) b).setRowBit r 1 row true
    s.regenWritten r (some row)

/-- The tier-0 copy has been rewritten wherever it was poisoned: none of its rows is any more (R407). -/
def State.copyClean (s : State) (r : Region) : State :=
  if r.tier != 0 then s
  else (s.writtenRanges r 0 r.elements).foldl (fun s (a, k) => match muOf a with
    | some (p, m, o) => s.setMu p m { s.mu p m with
        poison := (s.mu p m).poison.filter (fun e => !(o / 512 ≤ e.1 && e.1 ≤ (o + k - 1) / 512)) }
    | none => s) s

/-- Rows of a sparse region the step did not touch are copied forward where the banks differ (R255), or where the tier-0
copy being written is poisoned (R407). -/
def State.sparseTail (s : State) (r : Region) : State :=
  let touched := (List.range r.slots).filterMap (fun k => (s.slotIndex r k).map (·.1))
  let s := (List.range (r.elements / r.matCols)).foldl (fun s row =>
    if s.stepFailed || touched.contains row then s else
    let (d, s) := s.rowBit r 1 row
    if (d || s.copySpoilt r (row * r.matCols) r.matCols) && !s.stepFailed then s.forwardRow r row else s) s
  if s.stepFailed then s else s.copyClean r

/-- AU g has done everything of region r in its pass but for what follows the last element: of a sparse region the
untouched rows (R255), of a dense one its planes and its copies. -/
def State.closeRegion (s : State) (g : Nat) (r : Region) : State :=
  if (s.au g).phase != 4 || s.stepFailed then s
  else if r.sparse then s.sparseTail r
  else if s.nfSkips r then (s.sealPlanes r).setDbit r false
  else if s.frozenRegion r then
    (if bitOf s.adj.dbits (s.regionIx r) then (s.sealPlanes r).setDbit r false
     else if s.copySpoilt r 0 r.elements then s.fillGaps r else s)
  else (s.sealPlanes r).regenWritten r none

/-- AU g goes on to the next region: the last chunk of its trust sums is added. Slots still parked retire later, and the
region is closed then (R256). -/
def State.endRegion (s : State) (g : Nat) (r : Region) : State :=
  let a := s.au g
  let s := if (s.flagsOf r).trust && a.phase = 2 then s.setAu g (a.addTrust r.trustGroup [] true) else s
  let s := if a.parked.any (fun q => q.1 == a.region) then s else s.closeRegion g r
  s.setAu g { s.au g with region := a.region + 1, pos := 0, lastIndex := none, chunk := [] }

/-- One batch of a dense region. -/
def State.denseBatch (s : State) (g : Nat) (r : Region) : State :=
  let a := s.au g
  let pass2 := a.phase = 4
  let u : DramUser := if pass2 then .auPass2 else .auPass1
  let fl := s.flagsOf r
  let n := min (batchSpan fl) (r.elements - a.pos)
  let (gh, _, s) := s.heldGrad r a.pos n
  let (b, s) := s.evalBatch g u r a.pos gh
  if s.stepFailed then s else
  let s := if pass2 then
      (if s.nfSkips r then s.copyForward r a.pos n
       else if s.frozenRegion r then
         (if bitOf s.adj.dbits (s.regionIx r) || s.copySpoilt r a.pos n then s.copyForward r a.pos n else s)
       else (s.writeBatch g r a.pos b).setDbit r true)
    else if fl.trust then
      s.setAu g ((s.au g).addTrust r.trustGroup (b.ws.zip (b.outs.map (·.u))) false)
    else s
  s.setAu g { s.au g with pos := a.pos + n }

/-- The next slot of a sparse region: its index is checked (R241), then it is evaluated or parked (R256). -/
def State.sparseSlot (s : State) (g : Nat) (r : Region) : State :=
  let a := s.au g
  if r.tier = 1 && 4096 ≤ a.parked.length then s.setAu g { a with cntStall := a.cntStall + 1 }
  else match s.slotIndex r a.pos with
    | none => s.setAu g { a with pos := a.pos + 1 }
    | some (row, p, k) =>
      let order := if k = 0 then true else (match a.lastIndex with | some l => decide (l < row) | none => true)
      if !order || r.elements ≤ row * r.matCols then
        (s.setAu g { a with fault := setBit a.fault 3 }).raise .cont Codes.sparseIndex 5 g s.adj.exch
      else
        let a := { a with pos := a.pos + 1, lastIndex := some row }
        if r.tier = 1 then
          let parked := a.parked ++ [(a.region, p.item, k, row)]
          s.setAu g { a with parked := parked, peak := max a.peak parked.length }
        else (s.setAu g a).evalSlot g r p k row

/-- AU g takes its next batch: dense elements, or a sparse slot; regions of other AUs are passed over. -/
def auElementEvaluate (g : Nat) (ups : List Upset) (s : State) : State :=
  let a := s.au g
  if s.arrayRuns && s.adj.inStep && (a.phase = 2 || a.phase = 4) && !a.passDone && s.gatesOpen (.au g) then
    let s := s.strikes ups
    match (s.cfg.regions.drop a.region).head? with
    | none => if a.parked.isEmpty then s.setAu g { a with passDone := true } else s
    | some r =>
      if !r.byAu g then s.setAu g { a with region := a.region + 1, pos := 0 }
      else if r.sparse then
        (if r.slots ≤ a.pos then s.endRegion g r else s.sparseSlot g r)
      else if r.elements ≤ a.pos then s.endRegion g r
      else s.denseBatch g r
  else s

def execAuElementEvaluate (g : Fin 4) (ups : List Upset) (s : State) : Outcome :=
  .next (auElementEvaluate g.val ups s)

/-- PARKED_SLOT_EVALUATE: a parked slot's state arrives (R256). -/
def parkedSlotEvaluate (g slot : Nat) (ups : List Upset) (s : State) : State :=
  let a := s.au g
  match a.parked[slot]? with
  | some (ri, item, k, row) =>
    if s.arrayRuns && s.adj.inStep && (a.phase = 2 || a.phase = 4) && s.gatesOpen (.au g) then
      match s.cfg.regions[ri]?, s.cfg.piece item with
      | some r, some (_, p) =>
        let s := s.strikes ups
        let s := (s.setAu g { a with parked := a.parked.eraseIdx slot }).evalSlot g r p k row
        if ri < (s.au g).region && !(s.au g).parked.any (fun q => q.1 == ri) then s.closeRegion g r else s
      | _, _ => s
    else s
  | none => s

def execParkedSlotEvaluate (g : Fin 4) (slot : Nat) (ups : List Upset) (s : State) : Outcome :=
  .next (parkedSlotEvaluate g.val slot ups s)

/-! The gate and the commit (R248, R250) -/

/-- The four AUs stand in a phase and have completed its pass. -/
def State.passDone (s : State) (ph : Nat) : Bool :=
  (List.range 4).all (fun g => (s.au g).phase = ph && (s.au g).passDone)

/-- Trust sums of the device, in ascending trust group (R243, R247). -/
def State.trustEntries (s : State) : List (Nat × W32 × W32) :=
  let grps := ((s.cfg.regions.filter (fun r => (s.flagsOf r).trust && r.tier != 2)).map (·.trustGroup)).eraseDups
  (sortBy id grps).map (fun gr =>
    let parts := (List.range 4).map (fun g => SMap.get (fpZero, fpZero) (s.au g).sums gr)
    (gr, fpSum (parts.map (·.1)), fpSum (parts.map (·.2))))

/-- With every GATE record held, the trust factors are formed (R223, R248). -/
def State.judgeGate (s : State) : State :=
  if s.adj.inStep && !s.stepFailed && s.adj.sealed && !s.adj.gateOk && s.adj.gateSent == some true && s.haveAll 2 then
    let recs := s.shardRecs 2
    let trust := s.cfg.regions.foldl (fun (m : SMap W32) r =>
      let es := recs.filterMap (fun q => q.trust.find? (fun e => e.1 == r.trustGroup))
      let w := fpSqrt (fpSum (es.map (·.2.1)))
      let u := fpSqrt (fpSum (es.map (·.2.2)))
      SMap.set fpOne m r.trustGroup (trustFactor (s.flagsOf r) (s.coefsOf r.au r) w u)) []
    { s with adj := { s.adj with gateOk := true, trust := trust } }
  else s

/-- The records held are judged, exchange after exchange: a record that came before its exchange counts from then on. -/
def State.judge (s : State) : State := s.judgeBad.judgeSeal.judgeBad.judgeGate.judgeBad

/-- GATE_SEND. -/
def gateSend (s : State) : State :=
  if s.adj.inStep && s.arrayRuns && s.adj.sealed && s.adj.gateSent.isNone && !s.adj.kFault && s.passDone 2 then
    let r := { s.ownRec 2 true with trust := s.trustEntries }
    let s := { s with adj := { s.adj with gateSent := some true } }
    (((s.setPhase 3).sendVote r).keepRec r).judge
  else s

def execGateSend (s : State) : Outcome := .next (gateSend s)

/-- COMMIT_SEND: pass 2 is complete and every all-gather of it has been acknowledged (R250). -/
def commitSend (s : State) : State :=
  if s.adj.inStep && s.arrayRuns && s.adj.gateOk && s.adj.commitSent.isNone && !s.adj.kFault && s.passDone 4
      && !s.adj.gatherBad && !s.lxg.reqs.any (fun q => q.kind == .gather) then
    let r := s.ownRec 3 true
    let s := { s with adj := { s.adj with commitSent := some true } }
    ((s.setPhase 5).sendVote r).keepRec r
  else s

def execCommitSend (s : State) : Outcome := .next (commitSend s)

/-- Deadline of a record type (R245). -/
def State.exchDeadline (s : State) (typ : Nat) : Nat :=
  s.adj.ts.toNat + s.cfg.timing.stepDt - (if typ = 1 then s.cfg.timing.boundaryDt else 0)

/-- MON_CTL.abandon_late (R297, R316). -/
def Mon.lateAbandon (m : Mon) : Bool := bitOf m.ctl 7

/-- Pass 2 could start but for the bank lock, which waits for the monument (R297). -/
def State.bankWaits (s : State) : Bool :=
  s.adj.inStep && s.arrayRuns && (s.au 0).phase = 3 && s.adj.gateOk && !s.mon.lateAbandon
    && s.mon.locks.any (fun m => m + 2 == s.stepIndex.toNat)

/-- EXCHANGE_TIMEOUT: a record of the exchange in hand is missing at its deadline (R245). A device that waits for the
bank lock fails with MON_BANK_WAIT at that instant instead (R297). -/
def exchangeTimeout (s : State) : State :=
  let typ := s.exchPhase
  if s.adj.inStep && s.arrayRuns && !s.bankWaits && s.exchDeadline typ ≤ s.dtm.time.toNat then
    match s.cfg.plan.seals.find? (fun e => !s.adj.recs.any (fun r =>
        r.typ.val == typ && r.dev == e.dev && r.step == s.stepIndex)) with
    | some e => s.exchFail e.dev typ Codes.exchangeTimeout 5 Codes.exchangeTimeout
    | none => s
  else s

def execExchangeTimeout (s : State) : Outcome := .next (exchangeTimeout s)

/-- A SEAL, GATE or COMMIT record of a device of the seal set (R243, R244, R248, R250). A FAIL counts after an OK of its
kind, too (R403). -/
def State.exchRecord (s : State) (r : NormRec) : State :=
  if s.img.state != .running && s.img.state != .stopping then s
  else if s.stepFailed || !s.cfg.plan.seals.any (fun e => e.dev == r.dev) then s
  else
    let same := fun (q : NormRec) => q.typ == r.typ && q.dev == r.dev && q.step == r.step
    if s.adj.recs.any (fun q => same q && (q.vote || !r.vote)) then s
    else (State.keepRec { s with adj := { s.adj with recs := s.adj.recs.filter (fun q => !same q) } } r).judge

end Sys2Proof.Machine
end

