-- ==== Sys2Proof/Machine/CmdOps.lean ====
section
/-! DEFINITION. The command path: arrival, conflicts, admission, completion, slots and notifications (R360 to R372). -/
namespace Sys2Proof.Machine

/-- Opcodes (R362). -/
abbrev opNop : W16 := 0x0000
abbrev opImage : W16 := 0x0001
abbrev opStepStart : W16 := 0x0002
abbrev opDrain : W16 := 0x0003
abbrev opCoefSet : W16 := 0x0010
abbrev opFreezeSet : W16 := 0x0011
abbrev opBmk : W16 := 0x0020
abbrev opMon : W16 := 0x0030
abbrev opSec : W16 := 0x0040
abbrev opNvmCommit : W16 := 0x0041
abbrev opRefSelect : W16 := 0x0050

/-- Target class listed for an opcode (R362). -/
def classOf (op : W16) : Option Nat :=
  if op = opNop || op = opImage || op = opStepStart || op = opCoefSet || op = opFreezeSet then some 0
  else if op = opDrain then some 1
  else if op = opBmk then some 3
  else if op = opMon then some 4
  else if op = opSec then some 6
  else if op = opNvmCommit then some 7
  else if op = opRefSelect then some 8
  else none

/-- Byte k of the payload (bytes 0x20 to 0x3F of the descriptor). -/
def CmdWord.payByte (w : CmdWord) (k : Nat) : Nat := fld w.desc.payload (8 * k) 8
def CmdWord.payWord (w : CmdWord) (k : Nat) : W64 := BitVec.ofNat 64 (fld w.desc.payload (64 * k) 64)
def CmdWord.pay32 (w : CmdWord) (k : Nat) : W32 := BitVec.ofNat 32 (fld w.desc.payload (32 * k) 32)

/-- The order of a row: the row says what the payload's field [lo + len − 1 : lo] holds, and the target. -/
def rowOrder (o : Order) (target lo len v : Nat) : Order :=
  { o with desc := { o.desc with target := BitVec.ofNat 16 target, payload := putFld o.desc.payload lo len v } }

/-- An order is exclusive unless R362 says otherwise. -/
def CmdWord.exclusive (w : CmdWord) : Bool :=
  !(w.opcode == opNop || (w.opcode == opBmk && (w.payByte 0 == 0 || w.payByte 0 == 1)))

def CmdWord.isStop (w : CmdWord) : Bool := w.opcode == opImage && w.payByte 0 % 8 == 3

/-- Origin of an order (R368); none for a CMD of a device that is not the datum master. -/
def State.originOf (s : State) (o : Order) : Option Origin :=
  match o.arrival with
  | .firmware => some .firmware
  | .submit _ => some (if o.origin == .firmware then .firmware else .host)
  | .own => some .master
  | .trans rx =>
    if bitOf rx.src 15 then some .host
    else match s.lxg.table with
      | some t => if t.master = fld rx.src 0 12 then some .master else none
      | none => none

def originRank : Origin → Nat
  | .containment => 0 | .host => 1 | .master => 2 | .firmware => 3

/-- The admission result of a submit (CMD_STATUS.last_code). -/
def State.admission (s : State) (a : Arrival) (c : Code) : State :=
  if (match a with | .submit _ => true | _ => false) then { s with cmd := { s.cmd with lastCode := c } } else s

/-- An order rejected at admission changes nothing but its completion (R365). -/
def State.reject (s : State) (w : CmdWord) (a : Arrival) (c : Code) : State :=
  (s.admission a c).finish w a { code := c }

/-- Port of an order (R368): 32 for firmware and for this device's own broadcast. -/
def orderPort (o : Order) : Nat :=
  match o.arrival with
  | .firmware => 32
  | .own => 32
  | .submit _ => if o.origin == .firmware then 32 else o.port.val
  | .trans rx => rx.port.val

/-- An order as the later ones of its tick meet it (R369). -/
def CmdWord.rival (w : CmdWord) (org : Origin) (port : Nat) : Rival :=
  { opcode := w.opcode, isStop := w.isStop, targetClass := w.desc.targetClass, target := w.desc.target
    exclusive := w.exclusive, origin := org, port := ⟨port % 33, Nat.mod_lt _ (by decide)⟩, earlier := true }

/-- An order and a rival conflict (R369). -/
def CmdWord.conflicts (w : CmdWord) (r : Rival) : Bool :=
  (r.targetClass == w.desc.targetClass && r.target == w.desc.target && (r.exclusive || w.exclusive))
    || ((r.isStop || r.origin == .containment) && w.desc.targetClass == 0) || (w.isStop && r.targetClass == 0)

def rivalRank (r : Rival) : Nat := if r.isStop then 0 else originRank r.origin

/-- Rival a beats rival b by origin, by the part's own action over a STOP, or by port; none: only the order within the
tick separates them (R369). -/
def rivalBeats (a b : Rival) : Option Bool :=
  if rivalRank a != rivalRank b then some (rivalRank a < rivalRank b : Bool)
  else if rivalRank a = 0 && a.isStop != b.isStop then some b.isStop
  else if a.port != b.port then some (a.port < b.port)
  else none

/-- The winner among the rivals that beat an order of the same tick, if any (R369). -/
def beatenBy (w : CmdWord) (org : Origin) (port : Nat) (rs : List Rival) : Option Rival :=
  match rs.filter (fun r => w.conflicts r && (rivalBeats r (w.rival org port)).getD r.earlier) with
  | [] => none
  | r :: rs => some (rs.foldl (fun b r => if (rivalBeats r b).getD false then r else b) r)

/-- Origin numbers of CMD_ARB_LOG (R374). -/
def originNum (o : Origin) : Nat := originRank o

/-- CMD_ARB_LOG entry and CONFLICT record of a lost conflict (R369); orders arrived 64 dt before the arbiter decides
(log entry 30). -/
def State.logConflict (s : State) (w : CmdWord) (org : Origin) (port : Nat) (r : Rival) : State :=
  let word := mkWord 64 [(0, 16, r.opcode.toNat), (16, 16, w.opcode.toNat), (32, 2, rivalRank r),
    (34, 2, originNum (if w.isStop then .containment else org)), (36, 6, port), (42, 1, 1)]
  let s := { s with cmd := { s.cmd with
    arbLog := SMap.set {} s.cmd.arbLog s.cmd.arbHead { word := word, tick := s.dtm.time - 64 }
    arbHead := (s.cmd.arbHead + 1) % 16 } }
  s.raise .stat Codes.conflict 7 0 word

/-- The accepted orders of this tick that an order beats: those that have not started, for a start is not undone (log
entry 102). -/
def State.outdone (s : State) (w : CmdWord) : List Held :=
  s.cmd.held.filter (fun h => s.unstarted h && s.tickOrders.any (fun t => t.id == some h.id && w.conflicts t.rival))

/-- An accepted order loses to a later one of its tick (R369). -/
def State.outdo (s : State) (r : Rival) (h : Held) : State :=
  let s := if s.adj.nextStart == some h.id then { s with adj := { s.adj with nextStart := none } } else s
  (s.logConflict h.word h.origin h.port r).complete h.id { code := Codes.conflict }

/-- Reservations of a target (R365). -/
def State.reservations (s : State) (cls tgt : Nat) : List (Nat × Nat) :=
  (s.cmd.held.filter (fun h => h.timed && h.word.desc.targetClass.toNat == cls && h.word.desc.target.toNat == tgt)).map
    (fun h => (h.start.toNat, h.start.toNat + h.dur.toNat))

/-- Earliest start at or after te at which [t, t + d) overlaps no reservation (R365). -/
def earliestStart (res : List (Nat × Nat)) (te d : Nat) : Nat :=
  let free := fun t => res.all (fun r => t + d ≤ r.1 || r.2 ≤ t)
  let cands := te :: (res.map (·.2)).filter (fun e => te ≤ e)
  match cands.filter free with
  | [] => te
  | c :: cs => cs.foldl min c

/-- Duration of a timed order (R365): none without an entry. -/
def State.orderDur (s : State) (w : CmdWord) (size : Nat) : Option (Nat × Nat) :=
  if w.opcode = opStepStart then some (s.cfg.timing.stepDt, s.cfg.timing.stepDt)
  else match s.cfg.timing.entries.find? (fun e => e.opcode == w.opcode.toNat && e.cls == w.desc.targetClass.toNat) with
    | none => none
    | some e => some (if e.unitBytes = 0 then e.base else e.base + e.perUnit * cdiv size e.unitBytes, e.max)

/-- Admission (R365): the reserved start and duration, or the code of the refusal. The row of an order is the tick at
which the arbiter has decided, A + 64, so T_e is the later of act_time and now (log entry 30). -/
def State.timing (s : State) (w : CmdWord) (size : Nat) : Except Code (W64 × W64) :=
  let te := max w.desc.actTime.toNat s.dtm.time.toNat
  if s.dtm.state == .holdover then .error Codes.refLost
  else match s.orderDur w size with
    | none => .error Codes.notSchedulable
    | some (d, mx) =>
      if mx < d then .error Codes.notSchedulable
      else
        let t := earliestStart (s.reservations w.desc.targetClass.toNat w.desc.target.toNat) te d
        if w.desc.deadline.toNat < t + d then .error Codes.notSchedulable
        else if 256 ≤ (s.cmd.held.filter (·.timed)).length then .error Codes.cmdQueueFull
        else .ok (BitVec.ofNat 64 t, BitVec.ofNat 64 d)

/-- Another accepted order of the same target is running (R366). A step that runs does not keep the others of class 0
waiting: R252 and R360 accept orders while it runs (log entry 44). -/
def State.targetBusy (s : State) (w : CmdWord) (id : Nat) : Bool :=
  s.cmd.held.any (fun h => h.started && h.id != id && h.word.desc.targetClass == w.desc.targetClass
    && h.word.desc.target == w.desc.target && h.word.opcode != opStepStart)

/-- Orders that end another order do not wait for it: IMAGE STOP and ABORT, MON ABORT (log entry 44). -/
def CmdWord.ends (w : CmdWord) : Bool :=
  (w.opcode == opImage && (w.payByte 0 % 8 == 3 || w.payByte 0 % 8 == 5)) || (w.opcode == opMon && w.payByte 0 % 4 == 2)

/-- A service starts after those that were admitted before it and may start too; one runs at a time (R439; log entry 47). -/
def State.secTurn (s : State) (w : CmdWord) (id : Nat) : Bool :=
  w.opcode != opSec || s.cmd.held.all (fun h => h.word.opcode != opSec || h.id == id || !(h.started
    || decide (h.id < id) && decide (h.te.toNat ≤ s.dtm.time.toNat) && (!h.timed || decide (h.start.toNat ≤ s.dtm.time.toNat))))

/-- An untimed order may start now: its target is free and no reservation begins within its D (R366). -/
def State.mayStartUntimed (s : State) (w : CmdWord) (id size : Nat) : Bool :=
  let res := s.reservations w.desc.targetClass.toNat w.desc.target.toNat
  w.ends || !s.targetBusy w id && (match s.orderDur w size with
    | none => res.isEmpty
    | some (d, _) => res.all (fun r => s.dtm.time.toNat + d ≤ r.1))

/-- Commands that HELD serves; it answers the others with NOT_READY (R147, R211). -/
def CmdWord.heldServes (w : CmdWord) : Bool :=
  w.opcode == opImage || w.opcode == opSec || w.opcode == opNvmCommit || (w.opcode == opBmk && w.payByte 0 == 0)

/-- Commands that the Idle power state serves (R388). -/
def idleServes (op : W16) : Bool := op == opSec || op == opNvmCommit || op == opRefSelect

/-- Run an order's effect; it completes now, or stays started until its end. -/
def State.runOrder (s : State) (id : Nat) (eff : Nat → State → State × Option Reply) : State :=
  let s := { s with cmd := { s.cmd with held := s.cmd.held.map (fun h => if h.id == id then { h with started := true } else h) } }
  let (s, r) := eff id s
  match r with
  | some r => s.complete id r
  | none => s

/-- What STEP_START meets at its arrival (R360, R410); outside RUNNING it is refused (log entry 45). -/
def State.stepCheck (s : State) (step : Step) : Option Code :=
  if s.img.state != .running then some Codes.refused
  else if s.flt.stepState == .failed || s.flt.stepState == .quiescing then some Codes.stepMismatch
  else if s.adj.nextStart.isNone && ((step == s.stepIndex && !s.adj.inStep) || (step == s.stepIndex + 1 && s.adj.inStep)) then none
  else some Codes.stepMismatch

/-- What the state of the part answers an order with, when it arrives and when it would start: HELD (R147) and Idle
(R388) serve some orders only (log entry 104). -/
def State.orderServed (s : State) (w : CmdWord) : Bool :=
  !(s.img.state == .held && !w.heldServes) && !(s.pwr.state == .idle && !idleServes w.opcode)

/-- The checks an order meets before admission (R147, R362, R368, R369, R371); none: it goes on. -/
def State.orderCheck (s : State) (w : CmdWord) (o : Order) : Option Code :=
  match s.originOf o with
  | none => some Codes.refused
  | some org =>
    if w.opcode == opSec && org != .host then some Codes.refused
    else if classOf w.opcode != some w.desc.targetClass.toNat then some Codes.refused
    else if !s.orderServed w then some Codes.notReady
    else if w.opcode == opStepStart then s.stepCheck w.desc.step
    else none

/-- The order that a held one was. -/
def Held.order (h : Held) : Order :=
  { desc := h.word.desc, origin := h.origin, port := ⟨h.port % 33, Nat.mod_lt _ (by decide)⟩, arrival := h.arrival }

/-- A held order by its id. -/
def State.heldOrder (s : State) (id : Nat) : Option Order := (s.cmd.held.find? (fun h => h.id == id)).map Held.order

/-- An order is here: slot, checks, conflicts, admission; an untimed order that is due starts at once. -/
def State.cmdHere (s : State) (op : W16) (o : Order) (size : Nat) (eff : Nat → State → State × Option Reply)
    (seen : SecSeen := {}) : State :=
  let w : CmdWord := { opcode := op, desc := o.desc }
  if w.desc.slot.toNat < 512 && (s.slot w.desc.slot.toNat).busy then
    (s.admission o.arrival Codes.cmdSlotBusy).sendCpl o.arrival (s.cplOf w { code := Codes.cmdSlotBusy })
  else
    let s := if w.desc.slot.toNat < 512 then s.setSlot w.desc.slot.toNat { busy := true } else s
    match s.orderCheck w o with
    | some c => s.reject w o.arrival c
    | none =>
      let org := (s.originOf o).getD .firmware
      let mine := w.rival org (orderPort o)
      match beatenBy w org (orderPort o) (o.rivals ++ s.tickOrders.map (·.rival)) with
      | some r => ((s.noteOrder none mine).logConflict w org (orderPort o) r).reject w o.arrival Codes.conflict
      | none =>
        let s := (s.outdone w).foldl (fun s h => s.outdo mine h) s
        let timed := w.desc.deadline != 0
        match (if timed then s.timing w size else .ok (0, 0)) with
        | .error c => (s.noteOrder none mine).reject w o.arrival c
        | .ok (t, d) =>
          let id := s.cmd.nextId
          let due := w.desc.actTime.toNat ≤ s.dtm.time.toNat
          let te := if due then s.dtm.time else w.desc.actTime
          let h : Held := { id := id, word := w, origin := org, port := orderPort o, arrival := o.arrival, te := te
                            timed := timed, start := t, dur := d, seen := seen }
          let s := (s.noteOrder (some id) mine).admission o.arrival Codes.ok
          let s := if w.desc.slot.toNat < 512 then
              s.setSlot w.desc.slot.toNat { s.slot w.desc.slot.toNat with accepted := true } else s
          let go := !timed && due && s.mayStartUntimed w id size && s.secTurn w id
          let s := { s with cmd := { s.cmd with nextId := id + 1, held := s.cmd.held ++ [h] } }
          if go then s.runOrder id eff else s

/-- An order arrives: a CMD transaction by its port, when its tag verifies and it is addressed here (R330, R336). -/
def State.cmdArrive (s : State) (op : W16) (o : Order) (size : Nat) (eff : Nat → State → State × Option Reply)
    (seen : SecSeen := {}) : State :=
  match o.arrival with
  | .trans rx => s.take rx (.cmd { opcode := op, desc := o.desc }) (fun s rx =>
      s.cmdHere op { o with arrival := .trans rx, port := rx.port.castLE (by decide) } size eff seen)
  | _ => if s.awake then s.cmdHere op o size eff seen else s

/-- A notification (R364). -/
def State.notify (s : State) (n : Notice) : State :=
  if bitOf s.cmd.notify 12 then
    s.send { src := s.ownSrc, dst := BitVec.ofNat 16 (0x8000 + fld s.cmd.notify 0 12), tag := 0
             body := .cpl { status := Codes.ok, opcode := 0xFFFF, slot := 0xFFFF
                            value := mkWord 64 [(0, 16, n.index), (16, 8, n.tag), (32, 32, n.count.toNat)] } }
  else if s.cmd.notices.length < 64 then { s with cmd := { s.cmd with notices := s.cmd.notices ++ [n] } }
  else { s with cmd := { s.cmd with dropped := satAdd 7 s.cmd.dropped 1 } }

end Sys2Proof.Machine
end

