-- ==== Sys2Proof/Machine/AdjCmds.lean ====
section
/-! DEFINITION. Coefficient entries, freeze changes and the step counters (R228, R252 to R254). -/
namespace Sys2Proof.Machine

/-- Pass 1 of the step that the counters name has not started (R252). -/
def State.beforePass1 (s : State) : Bool := !s.adj.inStep || (s.au 0).phase < 2

/-- The step window of R252 and R254. -/
def State.inWindow (s : State) (step : Step) : Bool :=
  (step == s.stepIndex && s.beforePass1) || step == s.stepIndex + 1

/-- Partner of t_min or t_max for the condition that joins them (R228). -/
def State.coefPartner (s : State) (step : Step) (row i : Nat) : Option W32 :=
  let j := if i = 13 then 14 else 13
  if i != 13 && i != 14 then none
  else if s.cfg.sched row j then (s.adj.coefs.find? (fun e => e.step == step && e.row == row && e.index == j)).map (·.value)
  else some (s.cfg.coef row j)

/-- One coefficient entry (R252): its code and the state after. -/
def State.coefEntry (s : State) (w : BitVec 128) : Code × State :=
  let step : Step := BitVec.ofNat 48 (fld w 0 48)
  let row := fld w 48 6
  let i := fld w 54 5
  let v : W32 := BitVec.ofNat 32 (fld w 64 32)
  if fld w 59 5 != 0 || fld w 96 32 != 0 || 16 < i || !s.inWindow step then (Codes.refused, s)
  else if !coefOk (rowFlags (s.cfg.ruleWord row 0)) i v (s.coefPartner step row i) then (Codes.coefInvalid, s)
  else
    let keep := s.adj.coefs.filter (fun e => !(e.step == step && e.row == row && e.index == i))
    (Codes.ok, { s with adj := { s.adj with coefs := keep ++ [{ step := step, row := row, index := i, value := v }] } })

/-- The entries of a COEF_SET in order; the first code that is not OK is the command's (log entry 31). -/
def State.coefSetApply (s : State) (w : CmdWord) : State × Code :=
  let n := w.desc.flags.toNat % 4
  if n = 0 || n = 3 || w.desc.flags.toNat / 4 != 0 then (s, Codes.refused)
  else
    let (c1, s) := s.coefEntry (BitVec.ofNat 128 (fld w.desc.payload 0 128))
    if n = 1 then (s, c1)
    else
      let (c2, s) := s.coefEntry (BitVec.ofNat 128 (fld w.desc.payload 128 128))
      (s, if c1 = Codes.ok then c2 else c1)

def coefSetEff (w : CmdWord) (s : State) : State × Option Reply :=
  let (s, c) := s.coefSetApply w
  (s, some { code := c })

def coefSet (o : Order) (s : State) : State :=
  s.cmdArrive opCoefSet o 0 (fun _ => coefSetEff { opcode := opCoefSet, desc := o.desc })

def execCoefSet (o : Order) (s : State) : Outcome := .next (coefSet o s)

/-- FREEZE_SET (R254). -/
def State.freezeApply (s : State) (w : CmdWord) : State × Code :=
  let p := w.desc.payload
  let step : Step := BitVec.ofNat 48 (fld p 0 48)
  let r := fld p 48 12
  if fld p 61 67 != 0 || s.cfg.regions.length ≤ r || !s.inWindow step then (s, Codes.refused)
  else ({ s with adj := { s.adj with
      freezeNext := s.adj.freezeNext ++ [{ step := step, region := r, bit := bitOf p 60 }] } }, Codes.ok)

def freezeSetEff (w : CmdWord) (s : State) : State × Option Reply :=
  let (s, c) := s.freezeApply w
  (s, some { code := c })

def freezeSet (o : Order) (s : State) : State :=
  s.cmdArrive opFreezeSet o 0 (fun _ => freezeSetEff { opcode := opFreezeSet, desc := o.desc })

def execFreezeSet (o : Order) (s : State) : Outcome := .next (freezeSet o s)

/-- Freeze changes whose step has come apply from pass 2 on (R254). -/
def State.applyFreezes (s : State) : State :=
  let due := s.adj.freezeNext.filter (fun e => e.step.toNat ≤ s.stepIndex.toNat)
  { s with adj := { s.adj with
      freeze := due.foldl (fun f e => if e.bit then setBit f e.region else clrBit f e.region) s.adj.freeze
      freezeNext := s.adj.freezeNext.filter (fun e => !decide (e.step.toNat ≤ s.stepIndex.toNat)) } }

/-- AU_STEP_WRITE: taken only in READY (R253). -/
def auStepWrite (g : Nat) (v : W64) (s : State) : State :=
  if s.img.state == .ready then s.setAu g { s.au g with step := BitVec.ofNat 48 (fld v 0 48) } else s

def execAuStepWrite (g : Fin 4) (v : W64) (s : State) : Outcome := .next (s.atBlock (.au g.val) (auStepWrite g.val v))

end Sys2Proof.Machine
end

