-- ==== Sys2Proof/Machine/Tokens.lean ====
section
/-! DEFINITION. Tokens: parity, what a unit sees of a token, and how one enters a switch input (R104, R105, R190). -/
namespace Sys2Proof.Machine

/-- Number of ones in the low k bits, odd. -/
def oddOnes (k n : Nat) : Bool := (List.range k).foldl (fun a i => a != n.testBit i) false

/-- Odd parity bit of a field: with it the field holds an odd number of ones (R104). -/
def oddPar (k n : Nat) : Bool := !oddOnes k n

def bytePars (k n : Nat) : Nat :=
  (List.range k).foldl (fun a i => a + (if oddPar 8 (n / 2 ^ (8 * i) % 256) then 2 ^ i else 0)) 0

/-- A vector token with its parity (R104). -/
def mkV (data : BitVec 1024) (epoch : Nat) (poison last : Bool) : VTok :=
  { data := data, par := BitVec.ofNat 128 (bytePars 128 data.toNat), epoch := BitVec.ofNat 4 epoch
    poison := poison, last := last, hpar := oddPar 6 (epoch % 16 + 16 * b2n poison + 32 * b2n last) }

def mkS (value : W32) (tag : Byte) (epoch : Nat) (poison : Bool) : STok :=
  { value := value, tag := tag, epoch := BitVec.ofNat 4 epoch, poison := poison
    par := BitVec.ofNat 4 (bytePars 4 value.toNat)
    hpar := oddPar 13 (tag.toNat + 256 * (epoch % 16) + 4096 * b2n poison) }

def mkC (tag : Byte) (epoch : Nat) : CTok :=
  { tag := tag, epoch := BitVec.ofNat 4 epoch, hpar := oddPar 12 (tag.toNat + 256 * (epoch % 16)) }

/-- Header parity holds (R104). -/
def hparOk : Tok → Bool
  | .v t => t.hpar == oddPar 6 (t.epoch.toNat + 16 * b2n t.poison + 32 * b2n t.last)
  | .s t => t.hpar == oddPar 13 (t.tag.toNat + 256 * t.epoch.toNat + 4096 * b2n t.poison)
  | .c t => t.hpar == oddPar 12 (t.tag.toNat + 256 * t.epoch.toNat)

/-- Data parity holds; a control token has no data (R104). -/
def dparOk : Tok → Bool
  | .v t => t.par.toNat == bytePars 128 t.data.toNat
  | .s t => t.par.toNat == bytePars 4 t.value.toNat
  | .c _ => true

def tokEpoch : Tok → Nat
  | .v t => t.epoch.toNat | .s t => t.epoch.toNat | .c t => t.epoch.toNat

def tokLast : Tok → Bool
  | .v t => t.last | _ => false

/-- The token made again poisoned, with good parity. -/
def tokPoisoned : Tok → Tok
  | .v t => .v (mkV t.data t.epoch.toNat true t.last)
  | .s t => .s (mkS t.value t.tag t.epoch.toNat true)
  | .c t => .c t

/-- A token struck on its link: every field is exclusive-ORed with the damage; kinds that differ strike nothing. -/
def tokFlip (t d : Tok) : Tok :=
  match t, d with
  | .v a, .v b => .v { data := a.data ^^^ b.data, par := a.par ^^^ b.par, epoch := a.epoch ^^^ b.epoch
                       poison := a.poison != b.poison, last := a.last != b.last, hpar := a.hpar != b.hpar }
  | .s a, .s b => .s { value := a.value ^^^ b.value, tag := a.tag ^^^ b.tag, epoch := a.epoch ^^^ b.epoch
                       poison := a.poison != b.poison, par := a.par ^^^ b.par, hpar := a.hpar != b.hpar }
  | .c a, .c b => .c { tag := a.tag ^^^ b.tag, epoch := a.epoch ^^^ b.epoch, hpar := a.hpar != b.hpar }
  | t, _ => t

def vIn (t : VTok) : VIn := { data := t.data, poison := t.poison, last := t.last }
def sIn (t : STok) : SIn := { value := t.value, tag := t.tag, poison := t.poison }

/-- Bytes of a vector token. -/
def VIn.bytes (v : VIn) : List Byte := leBytes 128 v.data.toNat

def vOfBytes (bs : List Byte) (poison last : Bool) : VIn :=
  { data := BitVec.ofNat 1024 (leNat (bs.take 128)), poison := poison, last := last }

def netNum : Net → Nat
  | .vector => 0 | .scalar => 1 | .control => 2

/-- Key of an input queue of a switch. -/
def inKey (net chan : Nat) : Nat := 256 * net + chan

def Sw.inQ (w : Sw) (net chan : Nat) : SwIn := SMap.get {} w.ins (inKey net chan)
def Sw.setIn (w : Sw) (net chan : Nat) (q : SwIn) : Sw := { w with ins := SMap.set {} w.ins (inKey net chan) q }

/-- A token set under way into an input of a switch. -/
def State.pushLink (s : State) (p site net chan : Nat) (t : Tok) : State :=
  let w := s.sw p site
  let q := w.inQ net chan
  s.setSw p site (w.setIn net chan { q with link := q.link ++ [t] })

/-- The site holds a compute unit (R7). -/
def siteIsCu (site : Nat) : Bool := (site / 32 + site % 32) % 2 == 0

/-- Tokens of the array move: RUNNING or STOPPING (R147); a failed step stops origination only (R404). -/
def State.tokensMove (s : State) : Bool := s.img.state == .running || s.img.state == .stopping

/-- Bridge channels of the three networks (R106). -/
def bridgeChan (net chan : Nat) : Bool :=
  (net = 0 && 0x28 ≤ chan && chan ≤ 0x2D) || (net = 1 && (chan = 0x12 || chan = 0x13))
    || (net = 2 && (chan = 0x0A || chan = 0x0B))

/-- A sender may set a token under way into this input: its credit, and the 32-token buffer of a bridge, have
room; a queue that spills takes one token at a time past its 8 entries (R107, R115, R119). -/
def State.roomIn (s : State) (p site net chan : Nat) : Bool :=
  let w := s.sw p site
  let q := w.inQ net chan
  !q.closed && (q.link.length + q.q.length < (if bridgeChan net chan then 40 else 8)
    || (w.spilling == some (net, chan) && q.link.isEmpty))

/-- The site is being drained, or drained: no event goes in and no walk starts (R121). -/
def State.siteDraining (s : State) (p site : Nat) : Bool :=
  (s.sw p site).run == .draining || (s.sw p site).run == .drained

/-- Epoch of the configuration region a site lies in (R124). -/
def State.siteEpoch (s : State) (p site : Nat) : Nat := (s.sw p site).epoch

/-- Plat control injects a control event at a site through control channel 0x09 (R190, R206). -/
def State.injectEvent (s : State) (p site tag : Nat) : State :=
  s.pushLink p site 2 0x09 (.c (mkC (BitVec.ofNat 8 tag) (s.siteEpoch p site)))

end Sys2Proof.Machine
end

