-- ==== Sys2Proof/Machine/Benchmarks.lean ====
section
/-! DEFINITION. Benchmarks: the five operations, their evaluation and who may issue them (R201 to R218). -/
namespace Sys2Proof.Machine

/-- Home plat of a benchmark (R201). -/
def homePlat (i : Nat) : Nat := i / 16384 % 4

/-- Fields of the mode word (R202). -/
def Bmk.armed (b : Bmk) : Bool := bitOf b.mode 0
def Bmk.rearm (b : Bmk) : Bool := bitOf b.mode 1
def Bmk.action (b : Bmk) : Nat := fld b.mode 2 2
def Bmk.remote (b : Bmk) : Bool := bitOf b.mode 4
def Bmk.keep (b : Bmk) : Bool := bitOf b.mode 5
def Bmk.site (b : Bmk) : Nat := fld b.mode 8 9
def Bmk.tag (b : Bmk) : Nat := fld b.mode 20 8
def Bmk.stepExp (b : Bmk) : Nat := fld b.mode 28 4

/-- Waiting class of a source (R203). -/
def waitClass : BmkSrc → Nat
  | .fw _ => 0 | .host _ => 1 | .cmd _ => 1 | .unit (.au g) => 2 + g.val | .unit _ => 6 | .remote _ => 7

/-- Waiter mask of a benchmark, from the parked waits (R203). -/
def State.waiters (s : State) (i : Nat) : W32 :=
  (((s.plat (homePlat i)).waits.filter (fun w => w.index == i)).map (fun w => waitClass w.src)).foldl
    (fun m b => setBit m b) 0

/-- The 16-byte object (R201). -/
def State.bmkObject (s : State) (i : Nat) : List Byte :=
  let b := s.bmk i
  leBytes 4 b.count.toNat ++ leBytes 4 b.thr.toNat ++ leBytes 4 b.mode.toNat ++ leBytes 4 (s.waiters i).toNat

/-- One armed action (R206). No event goes into a site being drained (R121), and none while a STOP runs (R149): the
action then has no effect (log entry 91). -/
def State.armedAction (s : State) (i : Nat) (b : Bmk) : State :=
  if b.action = 1 then
    (if s.siteDraining (homePlat i) b.site || s.img.state == .stopping then s else s.injectEvent (homePlat i) b.site b.tag)
  else if b.action = 2 then s.notify { index := i, tag := b.tag, count := b.count }
  else s

/-- Firings of the armed action: one, or one for each step passed with rearm (R206). -/
def Bmk.firings (b : Bmk) : Nat :=
  if b.armed && reached b.count b.thr then
    (if b.rearm then (b.count - b.thr).toNat / 2 ^ b.stepExp + 1 else 1)
  else 0

/-- The object after its armed action (R206). -/
def Bmk.fired (b : Bmk) : Bmk :=
  if b.firings = 0 then b
  else if b.rearm then { b with thr := b.thr + BitVec.ofNat 32 (b.firings * 2 ^ b.stepExp) }
  else { b with mode := clrBit b.mode 0 }

/-- Parked waits whose level is reached complete, in the order they were parked (R206). -/
def State.releaseWaits (s : State) (i : Nat) : State :=
  let p := homePlat i
  let c := (s.bmk i).count
  let ready := fun (w : Parked) => w.index == i && reached c w.level
  let done := (s.plat p).waits.filter ready
  let s := s.setPlat p { s.plat p with waits := (s.plat p).waits.filter (fun w => !ready w) }
  done.foldl (fun s w => s.waitReply w.src Codes.ok c) s

/-- The evaluation after ADD, SET and ARM (R206); triggers fire as events of their own. -/
def State.bmkEval (s : State) (i : Nat) : State :=
  let b := s.bmk i
  let s := s.setBmk i b.fired
  let s := (List.range b.firings).foldl (fun s _ => s.armedAction i b) s
  s.releaseWaits i

def State.countOp (s : State) (i : Nat) : State :=
  let p := homePlat i
  s.setPlat p { s.plat p with cntOps := (s.plat p).cntOps + 1 }

/-- A done add or credit grant of a unit of the part (R208). -/
def State.bmkAdd (s : State) (i : Nat) (v : W32) : State :=
  ((s.countOp i).setBmk i { s.bmk i with count := (s.bmk i).count + v }).bmkEval i

/-- An ARM operand that R205 refuses. -/
def armBad (mode : W32) : Bool := fld mode 6 2 != 0 || fld mode 17 3 != 0 || fld mode 2 2 == 3

/-- An operation of R205. -/
inductive BmkOp where
  | read
  | add (v : W32)
  | set (v : W32)
  | wait (v : W32)
  | arm (thr mode : W32)
  | reserved (op : Nat)
  deriving DecidableEq, Repr

def BmkOp.code : BmkOp → Nat
  | .read => 0 | .add _ => 1 | .set _ => 2 | .wait _ => 3 | .arm .. => 4 | .reserved n => n

/-- The v of a BMK transaction (R331). -/
def BmkOp.val : BmkOp → W32
  | .add v => v | .set v => v | .wait v => v | _ => 0

/-- Operations of a unit of the part (R208). -/
def unitMay (u : BmkUnit) (op : BmkOp) : Bool :=
  match u, op with
  | _, .add _ => true
  | .au _, .read => true
  | .au _, .wait _ => true
  | .monument, .read => true
  | .monument, .wait _ => true
  | _, _ => false

/-- Bytes 0x20 to 0x2B of a BMK command (R362). -/
def BmkOp.payload : BmkOp → Nat
  | .add v => 1 + v.toNat * 2 ^ 32
  | .set v => 2 + v.toNat * 2 ^ 32
  | .wait v => 3 + v.toNat * 2 ^ 32
  | .arm thr mode => 4 + mode.toNat * 2 ^ 32 + thr.toNat * 2 ^ 64
  | op => op.code

/-- What follows an operation and its reply (R206; log entry 79). -/
def State.bmkAfter (s : State) (i : Nat) (op : BmkOp) : State :=
  match op with
  | .add _ => s.bmkEval i
  | .set _ => s.bmkEval i
  | .arm _ mode => if armBad mode then s else s.bmkEval i
  | _ => s

/-- Effect of a permitted operation on its benchmark: code, value and object of its reply; none when a WAIT parks. -/
def State.bmkApply (s : State) (src : BmkSrc) (i : Nat) (op : BmkOp) : State × Option (Code × W64 × List Byte) :=
  let b := s.bmk i
  let p := homePlat i
  match op with
  | .read => (s.countOp i, some (Codes.ok, BitVec.ofNat 64 (leNat (sub (s.bmkObject i) 0 8)), s.bmkObject i))
  | .add v => ((s.countOp i).setBmk i { b with count := b.count + v }, some (Codes.ok, BitVec.ofNat 64 b.count.toNat, []))
  | .set v => ((s.countOp i).setBmk i { b with count := v }, some (Codes.ok, BitVec.ofNat 64 b.count.toNat, []))
  | .wait v =>
    if reached b.count v then (s.countOp i, some (Codes.ok, BitVec.ofNat 64 b.count.toNat, []))
    else
      let x := s.plat p
      if 256 ≤ x.waits.length then
        (s.setPlat p { x with bmkFault := setBit x.bmkFault 1, cntWaitFull := x.cntWaitFull + 1 },
         some (Codes.bmkWaitFull, 0, []))
      else
        let w := x.waits ++ [{ index := i, level := v, src := src }]
        ((s.setPlat p { x with waits := w, waitPeak := max x.waitPeak w.length }).countOp i, none)
  | .arm thr mode =>
    if armBad mode then (s, some (Codes.refused, 0, []))
    else
      let m := putFld mode 4 2 (fld b.mode 4 2)
      ((s.countOp i).setBmk i { b with thr := thr, mode := m }, some (Codes.ok, BitVec.ofNat 64 b.mode.toNat, []))
  | .reserved _ => (s, some (Codes.refused, 0, []))

/-- Rights of the host program (R208): `cmdPath` is set for BMK commands. -/
def State.hostMay (s : State) (i : Nat) (op : BmkOp) (cmdPath : Bool) : Bool :=
  match op with
  | .set _ => s.img.state == .ready || (s.bmk i).keep
  | .wait _ => cmdPath
  | _ => true

/-- R210: what another device may not do. -/
def State.remoteDenied (s : State) (i : Nat) (op : BmkOp) : Bool :=
  !(s.bmk i).remote || (match op with | .set _ => true | .arm .. => true | _ => false)

/-- The code an operation completes with before it is applied, if any (R208, R210, R211). -/
def State.bmkCheck (s : State) (src : BmkSrc) (i : Nat) (op : BmkOp) : Option Code :=
  let heldCode : Option Code := if s.img.state == .held && op != .read then some Codes.notReady else none
  match src with
  | .fw _ => heldCode
  | .host _ => if s.img.state == .held then heldCode
      else if s.hostMay i op false then none else some Codes.refused
  | .cmd o => if s.img.state == .held then heldCode
      else if s.originOf o == some .firmware || s.hostMay i op true then none else some Codes.refused
  | .unit u => if unitMay u op then none else some Codes.refused
  | .remote rx =>
    if bitOf rx.src 15 then some Codes.refused
    else if s.img.state == .held then some Codes.notReady
    else if s.stepFailed then some Codes.stepFailed
    else (match op with
      | .reserved _ => some Codes.refused
      | _ => if s.remoteDenied i op then some Codes.bmkDenied else none)

/-- An operation from another device that R210 forbids: BMK_DENIED, with BMK_UNIT_DENY. -/
def State.bmkDeny (s : State) (dev : W16) (i : Nat) (op : BmkOp) : State :=
  let p := homePlat i
  let w := mkWord 64 [(0, 16, i), (16, 12, fld dev 0 12), (28, 4, op.code), (32, 1, 1)]
  (s.setPlat p { s.plat p with bmkFault := setBit (s.plat p).bmkFault 0, bmkDeny := w }).raise
    .cont Codes.bmkDenied 4 p w

/-- An operation on benchmark i by a source other than the command path. -/
def State.bmkDo (s : State) (src : BmkSrc) (i : Nat) (op : BmkOp) : State :=
  match s.bmkCheck src i op with
  | some c =>
    (match src with
     | .remote rx =>
       let s := if c == Codes.bmkDenied then s.bmkDeny rx.src i op else s
       s.bmkReply src c 0 []
     | _ => s.bmkReply src c 0 [])
  | none =>
    match s.bmkApply src i op with
    | (s, some (c, v, obj)) => (s.bmkReply src c v obj).bmkAfter i op
    | (s, none) => s

/-- The completion of a BMK command (R362). -/
def bmkReplyOf (r : Code × W64 × List Byte) : Reply :=
  { code := r.1, value := some r.2.1, data := if r.2.2.isEmpty then [] else wordsOf r.2.2 }

/-- The effect of a held BMK order (R362). It completes before what its operation releases (log entry 79). -/
def bmkOrder (id i : Nat) (op : BmkOp) (s : State) : State × Option Reply :=
  match s.heldOrder id with
  | some o =>
    (match s.bmkCheck (.cmd o) i op with
     | some c => (s, some { code := c, value := some 0 })
     | none => match s.bmkApply (.cmd o) i op with
       | (s, some r) => ((s.complete id (bmkReplyOf r)).bmkAfter i op, none)
       | (s, none) => (s, none))
  | none => (s, none)

/-- A benchmark operation by any path (R208). -/
def bmkOp (src : BmkSrc) (i : Nat) (op : BmkOp) (s : State) : State :=
  match src with
  | .cmd o =>
    let o := rowOrder o i 0 96 op.payload
    s.cmdArrive opBmk o 0 (fun id => bmkOrder id i op)
  | .remote rx => s.take rx (.bmk (BitVec.ofNat 16 i) op.code op.val) (fun s rx => s.bmkDo (.remote rx) i op)
  | .fw p => s.writeBy (.fw p) (.bmk i) (fun s => s.bmkDo src i op)
  | .host _ => s.atBlock (.bmk i) (fun s => s.bmkDo src i op)
  | .unit _ => s.bmkDo src i op

def execBmkRead (src : BmkSrc) (i : Fin 65536) (s : State) : Outcome := .next (bmkOp src i.val .read s)
def execBmkAdd (src : BmkSrc) (i : Fin 65536) (v : W32) (s : State) : Outcome := .next (bmkOp src i.val (.add v) s)
def execBmkSet (src : BmkSrc) (i : Fin 65536) (v : W32) (s : State) : Outcome := .next (bmkOp src i.val (.set v) s)
def execBmkWait (src : BmkSrc) (i : Fin 65536) (v : W32) (s : State) : Outcome := .next (bmkOp src i.val (.wait v) s)
def execBmkArm (src : BmkSrc) (i : Fin 65536) (thr mode : W32) (s : State) : Outcome :=
  .next (bmkOp src i.val (.arm thr mode) s)

/-- A reserved operation code; the five listed codes name no reserved operation and change nothing here. -/
def execBmkReservedOp (src : BmkSrc) (i : Fin 65536) (op : Fin 16) (s : State) : Outcome :=
  .next (if op.val < 5 then s else bmkOp src i.val (.reserved op.val) s)

/-- Restore of R215: benchmarks without keep return to their initial objects, their waits are abandoned. -/
def State.restoreBmks (s : State) : State :=
  let kept := s.bmks.filter (fun e => e.2.keep)
  let init := s.cfg.bmkInit.foldl (fun (m : SMap Bmk) (i, lo, hi) =>
    if (SMap.get {} s.bmks i).keep then m
    else SMap.set {} m i { count := BitVec.ofNat 32 (fld lo 0 32), thr := BitVec.ofNat 32 (fld lo 32 32)
                           mode := BitVec.ofNat 32 (fld hi 0 32) }) kept
  let s0 := s
  let s := { s with bmks := init }
  (List.range 4).foldl (fun s p =>
    let gone := (s.plat p).waits.filter (fun w => !(s0.bmk w.index).keep)
    let s := s.setPlat p { s.plat p with waits := (s.plat p).waits.filter (fun w => (s0.bmk w.index).keep) }
    gone.foldl (fun s w => s.waitReply w.src Codes.bmkAbandoned 0) s) s

end Sys2Proof.Machine
end

