-- ==== Sys2Proof/Machine/Datum.lean ====
section
/-! DEFINITION. Datum frames, lock states and references (R352 to R359, R379, R380). -/
namespace Sys2Proof.Machine

/-! The reference of the PLLs (R377, R379) -/

def State.pll (s : State) (d : Nat) : Pll := SMap.get .unlocked s.clk.pll d

def State.setPlls (s : State) (f : Pll → Pll) : State :=
  { s with clk := { s.clk with
      pll := (List.range 25).foldl (fun (m : SMap Pll) d => SMap.set .unlocked m d (f (SMap.get .unlocked m d))) s.clk.pll } }

def Pll.coasts : Pll → Bool
  | .gliding => true | .coasting => true | _ => false

/-- The domain's clock runs at gate 0 (R384, R387, R393, R395), but for what automatic gating stops. -/
def State.domPowered (s : State) (d : Nat) : Bool :=
  s.pll d != .unlocked && !s.clk.isClosed d 0 && !(s.arrayStopped && (d < 4 || (8 ≤ d && d < 12)))

/-- The reference source of the meter coasts or has stopped; datum ticks go on (R383). -/
def State.meterRefGone (s : State) : Bool :=
  if s.clk.ref ≤ 24 then (s.pll s.clk.ref).coasts || !s.domPowered s.clk.ref else s.clk.ref = 30 && !s.clk.refin

/-- A measurement whose reference coasts or stops ends without a count (R383). -/
def State.meterJudge (s : State) : State :=
  if s.clk.measuring && s.meterRefGone then
    { s with clk := { s.clk with measuring := false, done := true, aborted := true, count := 0 } }
  else s

/-- Every locked PLL starts to coast (R379). -/
def State.coast (s : State) : State :=
  let s := s.setPlls (fun p => if p == .locked then .gliding else p)
  State.meterJudge { s with clk := { s.clk with fault := setBit s.clk.fault 0 } }

/-! Frames out (R352, R353) -/

/-- Bytes 0 to 7 of a key id. -/
def tagOf (k : List Byte) : W64 := BitVec.ofNat 64 (leNat (k.take 8))

def State.masterNum (s : State) : W16 :=
  match s.lxg.table with
  | some t => BitVec.ofNat 16 t.master
  | none => 0xFFFF

/-- The step index and its time that a frame carries (R352, R359). -/
def Dtm.stepSent (d : Dtm) : Step × W64 :=
  match d.state with
  | .master => (d.mstep, d.mstepTime)
  | .locked => (d.frameStep, d.frameStepTime)
  | .holdover => (d.frameStep, d.frameStepTime)
  | _ => (d.localStep, d.localStepTime)

/-- The frame of port n, but for the times that `State.stamp` writes at its departure. -/
def State.datumOut (s : State) (n : Nat) : DatumFrame :=
  let d := s.dtmNow
  let p := s.port n
  { time := 0, timeFrac := 0, master := s.masterNum
    hops := BitVec.ofNat 8 (if d.role then 0 else if d.port.isSome then d.hops else 15)
    traceable := d.state == .master || (d.state == .locked && d.port.isSome)
    seq := p.dtmSeq, step := d.stepSent.1, stepTime := d.stepSent.2, echoTime := 0, echoFrac := 0, turn := 0
    masterTag := if d.role then tagOf s.lxg.ownKeyId else d.masterTag
    memberEpoch := match s.lxg.table with | some t => t.epoch | none => 0 }

/-- A port sends its next frame: it is SECURE, and its last one is an interval old (R353). -/
def State.frameDue (s : State) (n : Nat) : Bool :=
  s.inService n && (s.port n).frameSent.all (fun t => decide (frameInterval ≤ s.since t))

/-- DATUM_FRAME_SEND. -/
def datumFrameSend (n : Nat) (s : State) : State :=
  if s.frameDue n then
    let f := s.datumOut n
    (s.setPort n { s.port n with dtmSeq := (s.port n).dtmSeq + 1, frameSent := some s.dtm.time }).put n
      { src := s.ownSrc, dst := 0, tag := 0, body := .datum f }
  else s

def execDatumFrameSend (n : Fin 32) (s : State) : Outcome := .next (datumFrameSend n.val s)

/-! Frames in (R353 to R355, R358) -/

/-- A time with fraction, in 2^−17 dt. -/
def halfFrac (t : W64) (f : W16) : Int := (t.toNat : Int) * 131072 + (f.toNat : Int) * 2

/-- Offset of a frame that arrives at t4 (R354), in 2^−17 dt. -/
def frameOffset (f : DatumFrame) (t4 : Int) : Int :=
  let d := (t4 - halfFrac f.echoTime f.echoFrac - 2 * (f.turn.toNat : Int)) / 2
  halfFrac f.time f.timeFrac + d - t4

def average (xs : List Int) : Int := if xs.isEmpty then 0 else xs.foldl (· + ·) 0 / (xs.length : Int)

/-- A valid frame of the datum port: its offset joins the last 16 (R354). -/
def Dtm.takeFrame (d : Dtm) (f : DatumFrame) (t4 : Int) : Dtm :=
  let o := frameOffset f t4
  let steady := match d.offsets.getLast? with
    | some p => decide (-131072 < o - p ∧ o - p < 131072)
    | none => true
  let os := d.offsets ++ [o]
  let os := os.drop (os.length - 16)
  let avg := average os
  { d with
    offsets := os, good := if steady then d.good + 1 else 1, offset := BitVec.ofInt 16 (avg / 8192)
    slew := if d.state == .locked then avg else 0
    hops := f.hops.toNat + 1, masterTag := f.masterTag, frameStep := f.step, frameStepTime := f.stepTime
    cntFrames := BitVec.ofNat 64 (satAdd 64 d.cntFrames.toNat 1), lastFrameAt := d.time }

/-- The whole part of a time in 2^−17 dt, and its fraction. -/
def ofHalf (t : Int) : W64 × W16 := (BitVec.ofInt 64 (t / 131072), BitVec.ofInt 16 (t % 131072 / 2))

/-- A time moves by a step of datum time. -/
def moveTime (by_ : Int) (t : W64 × W16) : W64 × W16 := ofHalf (halfFrac t.1 t.2 + by_)

/-- Datum time steps by an amount (R358). The instants from which intervals are measured move with it: the last frame of
each port, the last one sent, the loss of the reference, the last seeding of the DRBG. Activation times and deadlines do not. -/
def State.stepDatum (s : State) (by_ : Int) : State :=
  let mv := fun (t : W64) => (moveTime by_ (t, 0)).1
  let at_ := moveTime by_ (s.dtm.time, s.dtm.frac)
  { s with
    cmd := { s.cmd with tick := [] }
    drbg := { s.drbg with seededAt := mv s.drbg.seededAt }
    dtm := { s.dtm with
      time := at_.1, frac := at_.2, slew := 0, offsets := [], lastFrameAt := mv s.dtm.lastFrameAt, holdoverAt := mv s.dtm.holdoverAt }
    ports := SMap.mapVals {} (fun _ p => { p with
      frameSent := p.frameSent.map mv
      frame := p.frame.map (fun x =>
        let t := moveTime by_ (x.arrival, x.arrivalFrac)
        { x with arrival := t.1, arrivalFrac := t.2 }) }) s.ports }

/-- Datum time steps to a value. -/
def State.setDatum (s : State) (v : W64) : State := s.stepDatum (halfFrac v 0 - halfFrac s.dtm.time s.dtm.frac)

/-- Datum time steps once to the recovered value (R358). -/
def State.stepRecovered (s : State) : State := s.stepDatum (average s.dtm.offsets)

/-- Sixteen frames in a row lock a follower: at once from ACQUIRING, through the PLLs from HOLDOVER (R355, R380), where
LOCAL is not to follow already. -/
def State.tryLock (s : State) : State :=
  if s.dtm.good < 16 then s
  else match s.dtm.state with
    | .acquiring =>
      let s := s.stepRecovered
      { s with dtm := { s.dtm with state := .locked, refLost := false } }
    | .holdover => if s.dtm.relockTo.isNone then { s with dtm := { s.dtm with relockTo := some .locked } } else s
    | _ => s

/-! Loss of the reference (R356) -/

/-- A LOCKED follower enters HOLDOVER. -/
def State.loseReference (s : State) : State :=
  let s := { s with dtm := { s.dtm.noPort with state := .holdover, refLost := true, holdoverAt := s.dtm.time, relockTo := none } }
  s.coast.raise .stat Codes.refLost 7 0 s.dtm.status

/-- The datum port of a LOCKED follower has left SECURE; no valid frame came on it for four intervals. -/
def State.refPortLeft (s : State) : Bool :=
  s.dtm.state == .locked && s.dtm.port.any (fun p => !s.inService p.val)
def State.refSilent (s : State) : Bool := s.dtm.state == .locked && decide (frameTimeout ≤ s.since s.dtm.lastFrameAt)

/-- REFERENCE_LOSS. -/
def referenceLoss (portLeft : Bool) (s : State) : State :=
  if (if portLeft then s.refPortLeft else s.refSilent) then s.loseReference else s

def execReferenceLoss (portLeft : Bool) (s : State) : Outcome := .next (referenceLoss portLeft s)

/-! A frame arrives -/

/-- A frame that its tag has verified. -/
def State.frameIn (s : State) (n : Nat) (f : DatumFrame) (t4frac : W16) : State :=
    let s := if s.refPortLeft || s.refSilent then s.loseReference else { s with dtm := s.dtmNow }
    let seen : FrameSeen := { frame := f, arrival := s.dtm.time, arrivalFrac := t4frac }
    let s := s.setPort n { s.port n with frame := some seen }
    let low := match s.dtm.lowestTag with
      | some t => if f.masterTag.toNat < t.toNat then f.masterTag else t
      | none => f.masterTag
    let s := { s with dtm := { s.dtm with
      lowestTag := some low
      memberEpoch := if s.dtm.memberEpoch.toNat < f.memberEpoch.toNat then f.memberEpoch else s.dtm.memberEpoch } }
    if s.dtm.role then s
    else
      let s := { s with dtm := s.choosePort }
      if s.bestPort == some n && s.frameValid f then
        ({ s with dtm := s.dtm.takeFrame f (halfFrac s.dtm.time t4frac) }).tryLock
      else s

/-- DATUM_FRAME: a frame goes no further than its link (R352). -/
def datumFrame (rx : Rx) (f : DatumFrame) (t4frac : W16) (s : State) : State :=
  s.arrive rx (.datum f) (fun s rx => s.frameIn rx.port.val f t4frac)

def execDatumFrame (rx : Rx) (f : DatumFrame) (t4frac : W16) (s : State) : Outcome := .next (datumFrame rx f t4frac s)

/-! Holdover and choice of the reference (R357) -/

/-- The holdover time of the timing table (R357). -/
def State.holdoverTime (s : State) : Option Nat :=
  (s.cfg.timing.entries.find? (fun e => e.opcode == 0x50 && e.cls == 0xFFFF)).map (·.max)

/-- HOLDOVER_EXPIRY: the PLLs lock to the local input, and LOCAL follows (R380). -/
def holdoverExpiry (s : State) : State :=
  match s.holdoverTime with
  | some h =>
    if s.dtm.state == .holdover && s.dtmNow.relockTo.isNone && h ≤ s.since s.dtm.holdoverAt then
      { s with dtm := { s.dtmNow with relockTo := some .localRef } }
    else s
  | none => s

def execHoldoverExpiry (s : State) : Outcome := .next (holdoverExpiry s)

/-- REF_SELECT of op 0 REACQUIRE or 1 LOCAL (R357, R362). A master has no reference to select; HOLDOVER, which looks
for frames already, is not left by REACQUIRE. -/
def State.refSelect (s : State) (op : Nat) : State × Option Code :=
  let d := s.dtm
  if 2 ≤ op then (s, some Codes.refused)
  else
    let d := match d.state, op with
      | .master, _ => d
      | .holdover, 1 => { d with relockTo := some .localRef }
      | .holdover, _ => d
      | _, 1 => { d.noPort with state := .localRef }
      | _, _ => { d.noPort with state := .acquiring }
    ({ s with dtm := d }, some Codes.ok)

def refEff (w : CmdWord) (s : State) : State × Option Reply :=
  let (s, c) := s.refSelect (w.payByte 0)
  (s, c.map (fun c => { code := c }))

def refVia (op : Nat) (via : Via) (s : State) : State :=
  match via with
  | .reg path => s.writeBy path .dtm (fun s => (s.refSelect op).1)
  | .cmd o =>
    let o := rowOrder o 0 0 8 op
    s.cmdArrive opRefSelect o 0 (fun _ => refEff { opcode := opRefSelect, desc := o.desc })

def execLocalRef (via : Via) (s : State) : Outcome := .next (refVia 1 via s)
def execReacquire (via : Via) (s : State) : Outcome := .next (refVia 0 via s)

/-- DTM_TIME_SET: taken in MASTER and LOCAL (R358). -/
def dtmTimeSet (v : W64) (s : State) : State :=
  if s.dtm.state == .master || s.dtm.state == .localRef then s.setDatum v else s

def execDtmTimeSet (value : W64) (s : State) : Outcome := .next (dtmTimeSet value s)

/-- A write of DTM_CTL.role (R355): a new master counts from 0. -/
def State.setRole (s : State) (master : Bool) : State :=
  if master == s.dtm.role then s
  else if master then
    let s := s.setDatum 0
    { s with dtm := { s.dtm.noPort with role := true, state := .master, refLost := false, relockTo := none } }
  else { s with dtm := { s.dtm.noPort with role := false, state := .acquiring } }

/-- One D24 cycle of an idle part: datum time counts, at a rate changed by one part in 2^20 while an offset is being
absorbed (R354, R377). -/
def Dtm.tick (d : Dtm) : Dtm :=
  let due := d.time.toNat % 16 = 15
  let t := halfFrac (d.time + 1) d.frac
  let (t, slew) :=
    if due && 2 ≤ d.slew then (t + 2, d.slew - 2) else if due && d.slew ≤ -2 then (t - 2, d.slew + 2) else (t, d.slew)
  { d with time := BitVec.ofInt 64 (t / 131072), frac := BitVec.ofInt 16 (t % 131072 / 2), slew := slew }

end Sys2Proof.Machine
end

