-- ==== Sys2Proof/Machine/LumouxPorts.lean ====
section
/-! DEFINITION. Lumoux ports: light, training, the identity exchange, flits and their replay (R317 to R338, R344). -/
namespace Sys2Proof.Machine

/-- Flits flow on the port (R321). -/
def Port.up (p : Port) : Bool := p.state == .linked || p.state == .secure || p.state == .isolated

/-! Light and lanes (R320, R322) -/

/-- LASER_LOST: the four ports of input i. -/
def laserLost (i : Nat) (s : State) : State :=
  if !(s.port (4 * i)).light || !s.awake then s
  else
    let ns := List.range' (4 * i) 4
    let s := ns.foldl (fun s n => s.setPort n { (s.port n).flag 5 with light := false }) s
    let s := ns.foldl (fun s n => if (s.port n).state == .off then s else s.dropLink n) s
    s.raisePort .stat Codes.lxLaserLost (4 * i)

def execLaserLost (i : Fin 8) (s : State) : Outcome := .next (laserLost i.val s)

/-- LASER_RETURN; in reset light changes nothing (R497). -/
def laserReturn (i : Nat) (s : State) : State :=
  s.whenAwake (fun s => (List.range' (4 * i) 4).foldl (fun s n => s.retrainPort n { s.port n with light := true }) s)

def execLaserReturn (i : Fin 8) (s : State) : Outcome := .next (laserReturn i.val s)

/-- RECEIVE_SIGNAL: with light, a port that is DOWN begins TRAINING. -/
def receiveSignal (n : Nat) (s : State) : State := s.whenAwake (fun s => s.retrainPort n { s.port n with signal := true })

def execReceiveSignal (n : Fin 32) (s : State) : Outcome := .next (receiveSignal n.val s)

/-- LANE_LOCK_LOSS. -/
def laneLockLoss (n lane : Nat) (s : State) : State :=
  let p := s.port n
  if p.state == .training || p.up then
    (s.setPort n { p with signal := false, lanes := clrBit p.lanes lane }).dropLink n
  else s

def execLaneLockLoss (n : Fin 32) (lane : Fin 8) (s : State) : Outcome := .next (laneLockLoss n.val lane.val s)

/-! The identity exchange (R334 to R338, R344, R441) -/

/-- Byte strings compared from byte 0 (R335). -/
def bytesLt : List Byte → List Byte → Bool
  | [], [] => false
  | [], _ => true
  | _, [] => false
  | a :: s, b :: t => if a = b then bytesLt s t else decide (a.toNat < b.toNat)

/-- The transcript T: SHAKE256 of both ANNOUNCE payloads, the lower key id's first (R335). -/
def transcriptOf (mine peer : Announce) : List Byte :=
  if bytesLt mine.keyId peer.keyId then Config.shake256 (announceWire mine ++ announceWire peer) 64
  else Config.shake256 (announceWire peer ++ announceWire mine) 64

/-- Send this device's ANNOUNCE on port n (R334). -/
def State.sendAnnounce (s : State) (n : Nat) : State := (s.queueAnnounce n).pumpPort n

/-- The generation in use, or MRAM safe mode, gives the port no calibration record (R463, R466). -/
def Nvm.lxUntrained (v : Nvm) (n : Nat) : Bool :=
  v.safe || (match v.genInUse with | some g => (SMap.get none g.lx n).isNone | none => true)

/-- The calibration of port n is bound to its peer's key id, once that is known (R463, R471). -/
def State.lxCalibrate (s : State) (n : Nat) (key : List Byte) : State :=
  { s with nvm := { s.nvm with lxCal := SMap.set none s.nvm.lxCal n (some { tag := sub key 0 32 }) } }

/-- Training of port n has produced calibration (R463, R471, R473). -/
def State.lxTrained (s : State) (n : Nat) : State :=
  { s with nvm := { s.nvm with calDirty := s.nvm.calDirty || s.nvm.lxUntrained n } }.lxCalibrate n []

/-- TRAINING_DONE: the port enters LINKED and announces itself. -/
def trainingDone (n : Nat) (s : State) : State :=
  let p := s.port n
  if p.state == .training && s.clk.refin then
    ((s.setPort n { p with state := .linked, lanes := 0xFF }).lxTrained n).sendAnnounce n
  else s

def execTrainingDone (n : Fin 32) (s : State) : Outcome := .next (trainingDone n.val s)

/-- The roster admits the announced key with its kind (R338, R441). -/
def State.rosterAdmits (s : State) (a : Announce) : Bool :=
  keyIdOf a.pubKey == a.keyId &&
    (match s.sec.roster with
     | some r => r.entries.any (fun e => e.key == a.pubKey && e.kind == a.kind.toNat)
     | none => s.isBridge && a.kind == 2)

/-- An endpoint is attached under another key (R344). -/
def State.endpointTaken (s : State) (n : Nat) (a : Announce) : Bool :=
  (List.range 32).any (fun m => m != n && (s.port m).state == .secure && (s.port m).peerKind = 2
    && (s.port m).peerNum = fld a.number 0 12 && (s.port m).peerKey != a.keyId)

/-- The port becomes ISOLATED (R338, R344, R440), with its code where a rule gives one; what waited on it looks for
another port (R321, R343). -/
def State.isolate (s : State) (n : Nat) (code : Option (Code × Nat)) : State :=
  let p := s.port n
  let s := s.setPort n p.isolated
  let s := if p.state == .secure then s.leftSecure else s
  let s := s.redirect State.lost p.waiting
  match code with
  | some (c, bit) => (s.setPort n ((s.port n).flag bit)).raisePort .stat c n
  | none => s

/-- The checks a peer meets; none: it is accepted. -/
def State.peerCheck (s : State) (n : Nat) (a : Announce) (sigOk : Bool) : Option (Option (Code × Nat)) :=
  if !sigOk then some (some (Codes.lxPeerMismatch, 3))
  else if a.kind == 2 && !s.isBridge then some (some (Codes.lxNotBridge, 4))
  else if !s.rosterAdmits a then some (some (Codes.lxPeerMismatch, 3))
  else if a.kind == 2 && s.endpointTaken n a then some none
  else none

/-- The signature of an ANNOUNCE (R334). -/
def announceSigned (a : Announce) : Bool :=
  Config.slhVerify true a.pubKey (ascii "BLK-LX-ANN1" ++ announceBytes a) a.signature

/-- What a KEYX signature covers (R335). -/
def keyxMessage (ct tr : List Byte) : List Byte := ascii "BLK-LX-KEYX1" ++ ct ++ tr

/-- Encapsulate to the peer's key and send KEYX on port n (R335). -/
def State.sendKeyx (s : State) (n : Nat) (mine peer : Announce) : State :=
  let (rnd, s) := s.drbgDraw 32
  let ct := Config.kemCt peer.ek rnd
  let tr := transcriptOf mine peer
  let p := s.port n
  (s.setPort n { p with kem := { p.kem with ss := Config.kemSs peer.ek rnd } }).put n
    { src := s.ownSrc, dst := 0, tag := 0, body := .keyx ct tr (Config.identitySign (keyxMessage ct tr)) }

/-- ANNOUNCE: a verified peer is answered with KEYX, and in SECURE begins the rekey it asks for (R337). A module in error or
without identity verifies and keys nothing (R445, R453). -/
def announceArrive (n : Nat) (a : Announce) (s : State) : State :=
  if !(s.port n).up then s
  else
    let s := s.setPort n ((s.port n).free 0 (flitsOf 53032))
    let p := s.port n
    if p.state == .isolated || !s.hasIdentity then s
    else match s.peerCheck n a (announceSigned a) with
      | some c => s.isolate n c
      | none =>
        let s := if p.state == .secure && !p.rekey then (s.setPort n { p with rekey := true }).sendAnnounce n else s
        let s := (s.setPort n { s.port n with peerAnnounce := some a }).lxCalibrate n a.keyId
        match (s.port n).myAnnounce with
        | none => s
        | some mine => s.sendKeyx n mine a

def execAnnounce (n : Fin 32) (a : Announce) (_sig : Verdict) (s : State) : Outcome := .next (announceArrive n.val a s)

/-- The 72 bytes K of a session: the secret of the lower key id's ciphertext first (R335). -/
def sessionKey (low : Bool) (ownSs peerSs transcript : List Byte) : List Byte :=
  Config.shake256 (ascii "BLK-LX-SESSION" ++ (if low then ownSs ++ peerSs else peerSs ++ ownSs) ++ transcript) 72

/-- Keys and salts of one side from K (R335): `low` says that its key id is the lower one. -/
def keysOf (low : Bool) (k : List Byte) : LinkKeys :=
  let a := (sub k 0 32, sub k 64 4)
  let b := (sub k 32 32, sub k 68 4)
  let (t, r) := if low then (a, b) else (b, a)
  { txKey := t.1, rxKey := r.1, txSalt := t.2, rxSalt := r.2 }

/-- The port enters SECURE under its peer's announcement (R338). -/
def Port.secure (p : Port) (a : Announce) (k : LinkKeys) : Port :=
  { p with
    state := .secure, keys := k, peerKind := a.kind.toNat, peerPort := a.port.toNat, peerNum := fld a.number 0 12
    peerValid := a.number != 0xFFFF, peerKey := a.keyId, kem := {}, myAnnounce := none, peerAnnounce := none }

/-- KEYX (R335, R337, R338): it verifies when its signature does and its transcript is this side's own. -/
def keyxArrive (n : Nat) (ct transcript sig : List Byte) (s : State) : State :=
  if !(s.port n).up then s
  else
    let s := s.setPort n ((s.port n).free 0 (flitsOf 51488))
    let p := s.port n
    match p.peerAnnounce, p.myAnnounce with
    | some a, some mine =>
      if !(p.state == .linked || p.state == .secure) || !s.hasIdentity then s
      else match s.peerCheck n a (Config.slhVerify true a.pubKey (keyxMessage ct transcript) sig
          && transcript == transcriptOf mine a) with
        | some c => s.isolate n c
        | none =>
          let low := bytesLt mine.keyId a.keyId
          let k := keysOf low (sessionKey low p.kem.ss (Config.kemDecaps p.kem.dk ct) transcript)
          if p.state == .secure then
            s.setPort n { p.secure a p.keys with nextKeys := some k }.switchKeys
          else (s.setPort n (p.secure a k)).sendLinkstate.retryHeld
    | _, _ => s

def execKeyx (n : Fin 32) (ciphertext transcript signature : List Byte) (s : State) : Outcome :=
  .next (keyxArrive n.val ciphertext transcript signature s)

/-- REKEY: the operation, or a transaction count of 2^32 (R337). -/
def rekey (n : Nat) (s : State) : State :=
  let p := s.port n
  if p.state == .secure && !p.rekey then (s.setPort n { p with rekey := true }).sendAnnounce n else s

def execRekey (n : Fin 32) (s : State) : Outcome := .next (rekey n.val s)

/-- REKEY_TIMEOUT. -/
def rekeyTimeout (n : Nat) (s : State) : State := if (s.port n).rekey then s.dropLink n else s

def execRekeyTimeout (n : Fin 32) (s : State) : Outcome := .next (rekeyTimeout n.val s)

/-- KEY_PHASE_GRACE_END. -/
def keyPhaseGraceEnd (n : Nat) (s : State) : State := s.setPort n { s.port n with oldKeys := none }

def execKeyPhaseGraceEnd (n : Fin 32) (s : State) : Outcome := .next (keyPhaseGraceEnd n.val s)

/-- RETRAIN: the link is dropped and trains again. -/
def retrain (n : Nat) (s : State) : State :=
  let p := s.port n
  if p.state == .off then s else s.dropLink n

def execRetrain (n : Fin 32) (s : State) : Outcome := .next (retrain n.val s)

/-! Flits (R323 to R326) -/

/-- A LINK flit leaves port n, its CRC over the number of the DATA flit that follows (R324, R325). -/
def State.sendLink (s : State) (n : Nat) (o : LinkOps) (seq : W16) : State := s.emit (.flit n (linkFlitOf o seq))

/-- A nak with the next expected number (R326). -/
def State.sendNak (s : State) (n : Nat) (q : W16) : State :=
  s.sendLink n { ack := false, nak := true, replay := false, credit := false, ackSeq := 0, seq := q, credits := [] }
    (s.port n).txSeq

/-- Codewords that the outer code corrected, or could not correct, are counted (R319). -/
def State.fecSeen (s : State) (n : Nat) (fec : Fec) : State :=
  let p := s.port n
  let p := if fec.ue = 0 then p else p.flag 2
  s.setPort n { p with
    cntFecCe := BitVec.ofNat 64 (satAdd 64 p.cntFecCe.toNat fec.ce)
    cntFecUe := BitVec.ofNat 64 (satAdd 64 p.cntFecUe.toNat fec.ue) }

/-- A bad flit is counted and asks for a replay (R319, R326). -/
def State.badFlit (s : State) (n : Nat) : State :=
  let p := s.port n
  (s.setPort n { p with cntCrc := BitVec.ofNat 64 (satAdd 64 p.cntCrc.toNat 1), nak := some p.rxSeq }).sendNak n p.rxSeq

/-- The flit fails its checks (R319, R324). -/
def Port.flitBad (p : Port) (f : Flit) (fec : Fec) : Bool := fec.bad || fec.ue != 0 || flitCrc f p.rxSeq != f.crc

/-- The bytes of a good DATA flit join those of its transaction, which is whole after its eot flit (R323, R328). -/
def Port.collect (p : Port) (f : Flit) : Port :=
  let vc := f.vc.val
  let bs := (if f.sot then [] else SMap.get [] p.rxBytes vc) ++ f.payload.take (f.fill.toNat + 1)
  if f.eot then { p with rxBytes := SMap.set [] p.rxBytes vc [], rxWhole := p.rxWhole ++ [(vc, bs)] }
  else { p with rxBytes := SMap.set [] p.rxBytes vc bs }

/-- DATA_FLIT: a good flit in order takes its number; after a bad one every flit is discarded until the replay. -/
def dataFlit (n : Nat) (f : Flit) (fec : Fec) (s : State) : State :=
  if !(s.port n).up then s else
  let s := s.fecSeen n fec
  let p := s.port n
  if p.nak.isSome then s
  else if p.flitBad f fec then s.badFlit n
  else if f.kind.val != 1 then s
  else
    let p := p.collect f
    s.setPort n { p with
      rxSeq := p.rxSeq + 1, unreported := p.unreported + 1, cntRx := BitVec.ofNat 64 (satAdd 64 p.cntRx.toNat 1)
      rxUsed := p.rxUsed.modify f.vc.val (· + 1) }

def execDataFlit (n : Fin 32) (f : Flit) (fec : Fec) (s : State) : Outcome := .next (dataFlit n.val f fec s)

/-- Acknowledged flits and transactions leave the replay buffer (R326). -/
def Port.acked (p : Port) (seq : W16) : Port :=
  let left := (p.txSeq - (seq + 1)).toNat
  if left ≤ p.replay.length then
    { p with replay := p.replay.drop (p.replay.length - left)
             inFlight := p.inFlight.filter (fun e => decide (2 ^ 15 ≤ (seq - e.1).toNat)) }
  else p

/-- Credit comes back (R325, R328). -/
def Port.credited (p : Port) (cs : List Nat) : Port :=
  { p with txSpent := p.txSpent.zipIdx.map (fun (c, v) => c - cs.getD v 0) }

/-- A nak: the flits from its number are sent again behind a replay; a sixteenth of one number drops the link (R326). -/
def State.onNak (s : State) (n : Nat) (seq : W16) : State :=
  let p := s.port n
  let k := match p.nakSeen with
    | some (m, c) => if m = seq then c + 1 else 1
    | none => 1
  if 16 ≤ k then s.dropLink n
  else
    let again := p.replay.drop (p.replay.length - (p.txSeq - seq).toNat)
    ((s.setPort n { p with
      nakSeen := some (seq, k), cntReplay := BitVec.ofNat 64 (satAdd 64 p.cntReplay.toNat 1)
      cntTx := BitVec.ofNat 64 (satAdd 64 p.cntTx.toNat again.length) }).sendLink n
        { ack := false, nak := false, replay := true, credit := false, ackSeq := 0, seq := seq, credits := [] } seq).emitFlits
      n again

/-- LINK_FLIT: what its payload says (R325). -/
def linkFlit (n : Nat) (f : Flit) (fec : Fec) (s : State) : State :=
  if !(s.port n).up then s else
  let s := s.fecSeen n fec
  let p := s.port n
  let ops := linkOpsOf f.payload
  if p.nak.isSome && !(f.kind.val = 2 && ops.replay && p.nak == some ops.seq && !p.flitBad f fec) then s
  else if p.flitBad f fec then s.badFlit n
  else if f.kind.val != 2 then s
  else
    let p := { p with nak := if ops.replay then none else p.nak }
    let p := if ops.ack then p.acked ops.ackSeq else p
    let p := if ops.credit then p.credited ops.credits else p
    let s := s.setPort n p
    let s := if ops.nak then s.onNak n ops.seq else s
    s.pumpPort n

def execLinkFlit (n : Fin 32) (f : Flit) (ended : Nat × Nat) (bad : Bool) (s : State) : Outcome :=
  .next (linkFlit n.val f { ce := ended.1, ue := ended.2, bad := bad } s)

/-- ACK_REPORT. -/
def ackReport (n : Nat) (s : State) : State :=
  let p := s.port n
  if p.up && (0 < p.unreported || p.owed.any (0 < ·)) then
    (s.setPort n { p with unreported := 0, owed := List.replicate 8 0 }).sendLink n
      { ack := true, nak := false, replay := false, credit := true, ackSeq := p.rxSeq - 1, seq := 0, credits := p.owed }
      p.txSeq
  else s

def execAckReport (n : Fin 32) (s : State) : Outcome := .next (ackReport n.val s)

/-- NAK_REPEAT. -/
def nakRepeat (n : Nat) (s : State) : State :=
  match (s.port n).nak with
  | some q => s.sendNak n q
  | none => s

def execNakRepeat (n : Fin 32) (s : State) : Outcome := .next (nakRepeat n.val s)

/-- REPLAY_LIMIT: a flit is unacknowledged for 1 ms. -/
def replayLimit (n : Nat) (s : State) : State :=
  let p := s.port n
  if p.up && (!p.replay.isEmpty || p.nakSeen.any (fun x => 16 ≤ x.2)) then s.dropLink n else s

def execReplayLimit (n : Fin 32) (s : State) : Outcome := .next (replayLimit n.val s)

end Sys2Proof.Machine
end

