-- ==== Sys2Proof/Machine/Stage4.lean ====
section
/-! DEFINITION. The functions of vector stage 4 (R74): special values exactly, elsewhere the part's own table, of which the
spec gives only that it lies within 2 ulp of the exact value (log entry 5). -/
namespace Sys2Proof.Machine

/-- a < |x| on exact values, the bound given as numerator and denominator. -/
def absGt (x : W32) (n d : Nat) : Bool :=
  match dec32 x with
  | .fin _ m e => let (a, b) := scaleRat m 1 e; n * b < a * d
  | .inf _ => true
  | .nan => false

def absGe (x : W32) (n d : Nat) : Bool :=
  match dec32 x with
  | .fin _ m e => let (a, b) := scaleRat m 1 e; n * b ≤ a * d
  | .inf _ => true
  | .nan => false

def isNeg32 (x : W32) : Bool := bitOf x 31

/-! Magnitudes of the functions as fractions, to better than one part in 2^60 -/

/-- Fraction bits of the fixed-point work. -/
def fixBits : Nat := 256

/-- ln 2 and 2/√π with 192 fraction bits. -/
def ln2Fix : Nat := 4350955369971217654477563090224794165364344896676135745069
def twoOverSqrtPiFix : Nat := 7082950827949419406546779429796514218173736946937360083502

/-- n/d in fixed point. -/
def toFix (q : Nat × Nat) : Nat := (q.1 <<< fixBits) / q.2

/-- Σ r^i / i! for i from 0 to k in fixed point, by Horner's rule: t holds the part of the sum above k. -/
def expSeries (r : Nat) : Nat → Nat → Nat
  | 0, t => t
  | k + 1, t => expSeries r k ((1 <<< fixBits) + ((r * t) >>> fixBits) / (k + 1))

/-- e^x for a fixed-point x ≥ 0: a fraction. -/
def expPos (x : Nat) : Nat × Nat :=
  let l := ln2Fix <<< (fixBits - 192)
  let k := x / l
  ((expSeries (x - k * l) 80 (1 <<< fixBits)) <<< k, 1 <<< fixBits)

/-- Σ s^(2i+1)/(2i+1) in fixed point for i from 0; t is the next power, j its exponent. -/
def atanhSeries (z : Nat) : Nat → Nat → Nat → Nat
  | 0, _, _ => 0
  | k + 1, t, j => t / j + atanhSeries z k ((t * z) >>> fixBits) (j + 2)

/-- log (n/d) for n/d in [1/2, 2), as a fixed-point magnitude; the sign is that of n − d. -/
def logNear (n d : Nat) : Nat :=
  let a := if n < d then d - n else n - d
  let s := (a <<< fixBits) / (n + d)
  2 * atanhSeries ((s * s) >>> fixBits) 90 s 1

/-- |log (m · 2^e)|. -/
def logMag (m : Nat) (e : Int) : Nat × Nat :=
  let (a, b) := scaleRat m 1 e
  let k := floorLog2 a b
  let (a, b) := scaleRat a b (-k)
  let (k, b) := if 7 * b < 5 * a then (k + 1, 2 * b) else (k, b)
  let g : Int := if a < b then -(logNear a b : Int) else logNear a b
  (((k * (ln2Fix <<< (fixBits - 192) : Nat)) + g).natAbs, 1 <<< fixBits)

/-- Partial sums of Σ (−z)^n / (n! (2n + 1)): p is the n-th power over n!, positive. -/
def erfSeries (z : Nat) : Nat → Nat → Nat → Int
  | 0, _, _ => 0
  | k + 1, n, p =>
    (if n % 2 = 0 then ((p / (2 * n + 1) : Nat) : Int) else -((p / (2 * n + 1) : Nat) : Int))
      + erfSeries z k (n + 1) (((p * z) >>> fixBits) / (n + 1))

/-- |f(x)| of function fn for x = m · 2^e with sign neg, away from the special values. -/
def stage4Mag (fn : Nat) (neg : Bool) (m : Nat) (e : Int) : Nat × Nat :=
  let q := scaleRat m 1 e
  match fn with
  | 1 => let (a, b) := expPos (toFix q); if neg then (b, a) else (a, b)
  | 2 => logMag m e
  | 3 =>
    let (m, e) := if e % 2 = 0 then (m, e) else (2 * m, e - 1)
    scaleRat (isqrtFrom ((1 <<< 320) / m) 160 0) 1 (-(e / 2) - 160)
  | 4 => let (a, b) := expPos (toFix (2 * q.1, q.2)); (a - b, a + b)
  | 5 =>
    let x := toFix q
    let z := (x * x) >>> fixBits
    (q.1 * (erfSeries z 160 0 (1 <<< fixBits)).toNat * twoOverSqrtPiFix, q.2 <<< (fixBits + 192))
  | _ => (q.2, q.1)

/-- Sign of f(x). -/
def stage4Neg (fn : Nat) (neg : Bool) (m : Nat) (e : Int) : Bool :=
  match fn with
  | 2 => let (a, b) := scaleRat m 1 e; a < b
  | 4 => neg
  | 5 => neg
  | 6 => neg
  | _ => false

/-- y, of sign neg, lies within 2 ulp of the magnitude n/d, an ulp being that of n/d in FP32 (R74). -/
def within2Ulp (neg : Bool) (n d : Nat) (y : W32) : Bool :=
  match dec32 y with
  | .fin s k f =>
    let (a, b) := scaleRat k 1 f
    let dist := if a * d < n * b then n * b - a * d else a * d - n * b
    let (u, v) := scaleRat 2 1 (max (floorLog2 n d - 23) (-149))
    (s == neg || k = 0) && decide ((dist <<< 60 + n * b) * v ≤ (u * b * d) <<< 60)
  | _ => false

/-- A table's value where it lies within 2 ulp, else the exact value rounded once: so the result always does. -/
def stage4Bounded (fn : Nat) (x y : W32) : W32 :=
  match dec32 x with
  | .fin s m e =>
    let (n, d) := stage4Mag fn s m e
    let neg := stage4Neg fn s m e
    if within2Ulp neg n d y then y else round32Rat neg n d
  | _ => fpNaN

/-- Stage 4 in FP32 (R74). -/
def stage4 (fn : Nat) (x : W32) : W32 :=
  let f := fun y => stage4Bounded fn x y
  if fn = 0 then x
  else if isNaN32 x then fpNaN
  else match fn with
    | 1 => if isZero32 x then fpOne
           else if isNeg32 x then (if absGt x 103973 1000 then fpZero else f (Config.expTable x))
           else if absGt x 887228 10000 then fpInf false else f (Config.expTable x)
    | 2 => if isZero32 x then fpInf true
           else if isNeg32 x then fpNaN
           else if isInf32 x then fpInf false
           else if x = fpOne then fpZero else f (Config.logTable x)
    | 3 => if isZero32 x then fpInf (isNeg32 x)
           else if isNeg32 x then fpNaN
           else if isInf32 x then fpZero else f (Config.rsqrtTable x)
    | 4 => if isZero32 x then x
           else if absGe x 9011 1000 then (if isNeg32 x then 0xBF800000#32 else fpOne) else f (Config.tanhTable x)
    | 5 => if isZero32 x then x
           else if absGe x 3922 1000 then (if isNeg32 x then 0xBF800000#32 else fpOne) else f (Config.erfTable x)
    | 6 => if isZero32 x then fpInf (isNeg32 x)
           else if isInf32 x then (if isNeg32 x then 0x80000000#32 else 0) else f (Config.recipTable x)
    | _ => x

end Sys2Proof.Machine
end

