-- ==== Sys2Proof/Machine/ComputeUnits.lean ====
section
/-! DEFINITION. Compute units: the matrix engine, tiles, checksums and the vector pipeline (R50 to R80, R105, R181, R501). -/
namespace Sys2Proof.Machine

/-! Fields of CU_CFG, CU_VPROG and descriptors (R59, R79) -/

def Cu.opClass (c : Cu) : Nat := fld c.cfg 0 2
def Cu.fmtA (c : Cu) : Fmt := Fmt.ofCodeD (fld c.cfg 2 4)
def Cu.fmtB (c : Cu) : Fmt := Fmt.ofCodeD (fld c.cfg 6 4)
def Cu.fmtOut (c : Cu) : Fmt := Fmt.ofCodeD (fld c.cfg 10 4)
def Cu.gIn (c : Cu) : Nat := gszOf (fld c.cfg 14 2)
def Cu.nbA (c : Cu) : Nat := fld c.cfg 16 5 + 1
def Cu.nbB (c : Cu) : Nat := fld c.cfg 21 5 + 1
def Cu.gOut (c : Cu) : Nat := gszOf (fld c.cfg 26 2)
def Cu.nbOut (c : Cu) : Nat := fld c.cfg 28 5 + 1
def Cu.setM (c : Cu) : Nat := fld c.cfg 33 2
def Cu.bf16Lanes (c : Cu) : Bool := bitOf c.cfg 35
def Cu.yEn (c : Cu) : Bool := bitOf c.cfg 40
def Cu.s2Op (c : Cu) : Nat := fld c.vprog 0 3
def Cu.s2Src (c : Cu) : Nat := fld c.vprog 3 3
def Cu.s3Op (c : Cu) : Nat := fld c.vprog 6 3
def Cu.s3Src (c : Cu) : Nat := fld c.vprog 9 3
def Cu.s4Fn (c : Cu) : Nat := fld c.vprog 12 3
def Cu.s5Op (c : Cu) : Nat := fld c.vprog 15 3
def Cu.s5Emit (c : Cu) : Nat := fld c.vprog 18 2
def Cu.cBcast (c : Cu) : Bool := bitOf c.vprog 20
def Cu.rowLen (c : Cu) : Nat := fld c.vprog 32 24
def Cu.tol (c : Cu) : Nat := fld c.abftCtl 0 6

def TileDesc.tile (d : TileDesc) : Nat := fld d.word 0 5
def TileDesc.cont (d : TileDesc) : Bool := bitOf d.word 5
def TileDesc.retire (d : TileDesc) : Bool := bitOf d.word 6
def TileDesc.setEnd (d : TileDesc) : Bool := bitOf d.word 7
def TileDesc.groups (d : TileDesc) : Nat := fld d.word 8 16

def Cu.tile (c : Cu) (t : Nat) : Tile := SMap.get {} c.tiles t
def Cu.setTile (c : Cu) (t : Nat) (x : Tile) : Cu := { c with tiles := SMap.set {} c.tiles t x }

/-- Set a bit of CU_FAULT. -/
def Cu.flag (c : Cu) (b : Nat) : Cu := { c with fault := setBit c.fault b }

/-- A sparse array of n entries given by their index. -/
def SMap.ofFn {α : Type} [DecidableEq α] (d : α) (n : Nat) (f : Nat → α) : SMap α :=
  ((List.range n).map (fun k => (k, f k))).filter (fun e => e.2 != d)

/-- The CU takes part in the array's work (R77, R121). -/
def State.cuLive (s : State) (p n : Nat) : Bool :=
  let c := s.cu p n
  s.tokensMove && (c.run == .live || c.run == .faulted) && s.gatesOpen (.cu p n)

/-- Raise a code at a CU (R414). -/
def State.raiseCu (s : State) (cls : FClass) (code : Code) (p n : Nat) : State :=
  s.raise cls code 1 (unitKey p n) (s.cu p n).abftLoc

/-- Every set is poisoned once the CU is FAULTED: what it still emits leaves poisoned (R77). -/
def Cu.enterFaulted (c : Cu) (d : Option TileDesc) : Cu :=
  { c with run := .faulted, engine := none, faultDesc := d, sets := c.sets.map (fun q => { q with poison := true })
           vec := { c.vec with rowPoison := true, block := c.vec.block.map (fun x => { x with poison := true }) } }

/-- OPERAND_SHAPE or TILE_STATE (R58, R61, R77): a containment action, which cancels waiting orders of class 0 (R368,
R370). -/
def State.cuFaulted (s : State) (p n : Nat) (code : Code) (bit : Nat) (d : Option TileDesc) : State :=
  let s := s.contain
  (s.setCu p n (((s.cu p n).enterFaulted d).flag bit)).raiseCu .cont code p n

/-! Output: a row of values as the tokens of a row stream (R69, R75, R501) -/

/-- A token of up to 128 bytes; `fill` completes it. -/
def tokenOf (bs fill : List Byte) (poison : Bool) : VIn :=
  vOfBytes (bs ++ fill.take (128 - bs.length)) poison false

/-- One grouped block as tokens: header, then element tokens filled with zero bytes (R69, R501). -/
def blockTokens (f : Fmt) (g nb : Nat) (xs : List W32) (poison : Bool) : List VIn :=
  let q := quantRow f g nb xs
  let pad := fun (k : Nat) (bs : List Byte) => bs ++ List.replicate (k - bs.length) 0
  let hdr := q.s2 ++ pad 32 q.s1 ++ pad 32 q.z
  tokenOf hdr (List.replicate 128 0) poison
    :: (chunksOf 128 q.elem).map (fun b => tokenOf b (List.replicate 128 0) poison)

/-- Plain elements as tokens; the positions a row leaves over in its last token are free (R69). -/
def plainTokens (f : Fmt) (xs : List VLane) (fill : List Byte) : List VIn :=
  (chunksOf (if f == .bf16 then 64 else 32) xs).map (fun b =>
    let q := quantRow f 1 1 (b.map (·.v))
    tokenOf q.elem fill (b.any (·.poison)))

def markLast : List VIn → List VIn
  | [] => []
  | [t] => [{ t with last := true }]
  | t :: ts => t :: markLast ts

/-- Tokens of the elements stage 6 holds, a whole block or the end of a row (R75). -/
def State.packBlock (s : State) (f : Fmt) (g nb : Nat) (xs : List VLane) : List VIn × State :=
  if f.grouped then (blockTokens f g nb (xs.map (·.v)) (xs.any (·.poison)), s)
  else
    let per := if f == .bf16 then 64 else 32
    if xs.length % per = 0 then (plainTokens f xs [], s)
    else
      let (fill, s) := s.freeBytes 16
      (plainTokens f xs fill, s)

/-- Elements of an output block, or of an output token where the format has no groups. -/
def Cu.blockLen (c : Cu) : Nat :=
  if c.fmtOut.grouped then c.gOut * c.nbOut else if c.fmtOut == .bf16 then 64 else 32

/-- The CU's vector output enters its switch at channel 0x22, its scalar output at 0x11 (R106). -/
def State.cuEmitV (s : State) (p n : Nat) (ts : List VIn) : State :=
  ts.foldl (fun s t => s.pushLink p (cuSite n) 0 0x22
    (.v (mkV t.data (fld (s.cu p n).cfg 36 4) t.poison t.last))) s

def State.cuEmitS (s : State) (p n : Nat) (t : SIn) : State :=
  s.pushLink p (cuSite n) 1 0x11 (.s (mkS t.value t.tag (fld (s.cu p n).cfg 36 4) t.poison))

/-- Nothing emitted earlier still waits for the switch. -/
def State.cuOutFree (s : State) (p n : Nat) : Bool :=
  ((s.sw p (cuSite n)).inQ 0 0x22).link.isEmpty && ((s.sw p (cuSite n)).inQ 1 0x11).link.isEmpty

/-! Tile operations (R53 to R62) -/

/-- Tokens of an operand stream, as a port takes them. -/
structure Take where
  st : OperandSt
  rest : List VIn
  poison : Bool
  bad : Bool
  last : Bool

/-- K steps per element token: L lanes of w bits (R55). -/
def stepsPerToken (l w : Nat) : Nat := 1024 / (w * l)

/-- Take the tokens one K step needs from a port of L lanes; none where one has not arrived (R55 to R58). -/
def takeOperand (f : Fmt) (l nb g : Nat) (st : OperandSt) (k total : Nat) (inq : List VIn) : Option Take :=
  let per := stepsPerToken l f.width
  if st.token.isSome && st.used < per then
    some { st := { st with used := st.used + 1 }, rest := inq, poison := false, bad := false, last := false }
  else
    let start := f.grouped && k % g = 0
    let nS2 := if start && st.groupsLeft = 0 then 4 * l / 128 else 0
    let nS1 := if start then 1 else 0
    if inq.length < nS2 + nS1 + 1 then none
    else
      let hdr := inq.take (nS2 + nS1)
      let s2b := (inq.take nS2).flatMap VIn.bytes
      let s1b := ((inq.drop nS2).take nS1).flatMap VIn.bytes
      match inq.drop (nS2 + nS1) with
      | [] => none
      | e :: rest =>
        let st := if nS2 = 0 then st else
          { st with s2 := (List.range l).map (fun r => BitVec.ofNat 32 (leAt s2b (4 * r) 4)), groupsLeft := nb }
        let st := if nS1 = 0 then st else
          { st with s1 := sub s1b 0 l, z := sub s1b l l, groupsLeft := st.groupsLeft - 1 }
        let isFinal := total ≤ k + per
        some { st := { st with token := some e.data, used := 1 }, rest := rest
               poison := hdr.any (·.poison) || e.poison
               bad := hdr.any (·.last) || e.last != isFinal, last := e.last || hdr.any (·.last) }

/-- Term of lane r of the K step in hand (R40 step 1, R55). -/
def OperandSt.term (f : Fmt) (l : Nat) (st : OperandSt) (r : Nat) : Fp :=
  let w := f.width
  let n := fld (st.token.getD 0) (w * (l * (st.used - 1) + r)) w
  if f.grouped then decTerm f n (st.z.getD r 0) else decElem f n

/-- Scale product of a lane in the checksum unit (R65): 1.0 for BF16. -/
def OperandSt.wOf (f : Fmt) (st : OperandSt) (r : Nat) : W32 :=
  if f.grouped then round32 ((decS1 (st.s1.getD r 0)).mul (dec32 (st.s2.getD r 0))) else fpOne

/-- Checksums of one K step (R65). -/
def Tile.checksum (t : Tile) (pa pb : List W32) : Tile :=
  let u := fpSum pa
  let ua := fpSum (pa.map fpAbs)
  let v := fpSum pb
  let va := fpSum (pb.map fpAbs)
  { t with
    cr := SMap.ofFn 0 32 (fun j => fpAdd (SMap.get 0 t.cr j) (fpMul u (pb.getD j 0)))
    mr := SMap.ofFn 0 32 (fun j => fpAdd (SMap.get 0 t.mr j) (fpMul ua (fpAbs (pb.getD j 0))))
    cc := SMap.ofFn 0 64 (fun i => fpAdd (SMap.get 0 t.cc i) (fpMul (pa.getD i 0) v))
    mc := SMap.ofFn 0 64 (fun i => fpAdd (SMap.get 0 t.mc i) (fpMul (fpAbs (pa.getD i 0)) va)) }

/-- K steps of a descriptor: groups of G, or blocks of 32 for BF16 (R59). -/
def Cu.steps (c : Cu) (d : TileDesc) : Nat := d.groups * (if c.fmtA.grouped then c.gIn else 32)

/-- A tile joins the retire set in formation (R62). -/
def Cu.joinSet (c : Cu) (t : Nat) (setEnd poison : Bool) : Cu :=
  match c.sets.getLast? with
  | some q =>
    if q.complete then
      { c with sets := c.sets ++ [{ tiles := [t], complete := setEnd, poison := poison }] }
    else { c with sets := c.sets.dropLast ++
      [{ q with tiles := q.tiles ++ [t], complete := setEnd, poison := q.poison || poison }] }
  | none => { c with sets := [{ tiles := [t], complete := setEnd, poison := poison }] }

/-- Members of the retire set in formation. -/
def Cu.openMembers (c : Cu) : Nat :=
  match c.sets.getLast? with
  | some q => if q.complete then 0 else q.tiles.length
  | none => 0

/-- Next descriptor: the list from its start over and over, or what the sequencer handed over (R181). -/
def Cu.nextDesc (c : Cu) : Option TileDesc :=
  if c.seq then c.seqDescs.head? else (c.program.drop (c.next % max 1 c.program.length)).head?

def Cu.takeDesc (c : Cu) : Cu :=
  if c.seq then { c with seqDescs := c.seqDescs.drop 1 }
  else { c with next := (c.next + 1) % max 1 c.program.length }

/-- A tile register (R54). -/
def Cu.putReg (c : Cu) (k : Bool) (x : SMap W32) : Cu := if k then { c with reg1 := x } else { c with reg0 := x }

/-- What the next operation's register is prepared with: zeros, or the tile that operation continues (R54). -/
def Cu.prepared (c : Cu) : SMap W32 :=
  match c.nextDesc with
  | some d => if d.cont then (c.tile d.tile).acc else []
  | none => []

/-- The end of a tile operation: write-back, HELD or RETIRING, and the other tile register (R54, R60). -/
def Cu.endOperation (c : Cu) (e : Engine) : Cu :=
  let t := e.desc.tile
  let x := c.tile t
  let x := { x with acc := e.reg, poison := x.poison || e.poison, st := if e.desc.retire then .retiring else .held }
  let c := { (c.setTile t x).putReg c.curReg e.reg with engine := none, curReg := !c.curReg, lastA := false, lastB := false }
  let c := c.putReg c.curReg c.prepared
  if e.desc.retire then
    { c.joinSet t e.desc.setEnd x.poison with
      writeback := c.writeback ++ [t], cntRetired := c.cntRetired + 1 }
  else c

/-- Products, group boundary and checksums of the K step whose terms the engine holds (R40 to R43, R53, R65). -/
def Cu.kStepCompute (c : Cu) (e : Engine) : Cu :=
  let fa := c.fmtA
  let fb := c.fmtB
  let ta := (List.range 64).map (e.a.term fa 64)
  let tb := (List.range 32).map (e.b.term fb 32)
  let ta' := fun i => ta.getD i (.fin false 0 0)
  let tb' := fun j => tb.getD j (.fin false 0 0)
  let k := e.kDone
  let e := if fa.grouped then
      let ga := SMap.ofFn {} 2048 (fun x => (SMap.get {} e.gacc x).addProduct (ta' (x / 32)) (tb' (x % 32)))
      if (k + 1) % c.gIn = 0 then
        { e with gacc := [], reg := SMap.ofFn 0 2048 (fun x =>
          groupBoundary (SMap.get 0 e.reg x) (SMap.get {} ga x) (e.a.s1.getD (x / 32) 0) (e.a.s2.getD (x / 32) 0)
            (e.b.s1.getD (x % 32) 0) (e.b.s2.getD (x % 32) 0)) }
      else { e with gacc := ga }
    else { e with reg := SMap.ofFn 0 2048 (fun x =>
      round32 ((dec32 (SMap.get 0 e.reg x)).add ((ta' (x / 32)).mul (tb' (x % 32))))) }
  let e := { e with kDone := k + 1 }
  let pa := (List.range 64).map (fun i => fpMul (e.a.wOf fa i) (round32 (ta' i)))
  let pb := (List.range 32).map (fun j => fpMul (e.b.wOf fb j) (round32 (tb' j)))
  let t := e.desc.tile
  let c := { c.setTile t ((c.tile t).checksum pa pb) with engine := some e, cntKstep := c.cntKstep + 1 }
  if c.steps e.desc ≤ k + 1 then c.endOperation e else c

/-- FAULTED: one token of each operand stream is discarded; at the ends of both the owed tile is retired poisoned (R77).
With no descriptor at hand nothing is owed, and the tokens are discarded all the same. A tile retired so does not count in
CU_CNT_RETIRED, and its checksums are compared as any other's (log entry 99). -/
def Cu.kStepFaulted (c : Cu) : Cu :=
  let c := if c.faultDesc.isNone && c.seq then { c with faultDesc := c.seqDescs.head?, seqDescs := c.seqDescs.drop 1 } else c
  match c.faultDesc with
  | none => { c with inA := c.inA.drop 1, inB := c.inB.drop 1 }
  | some d =>
    let a := if c.lastA then c.inA else c.inA.drop 1
    let b := if c.lastB then c.inB else c.inB.drop 1
    let la := c.lastA || (c.inA.head?.map (·.last)).getD false
    let lb := c.lastB || (c.inB.head?.map (·.last)).getD false
    let c := { c with inA := a, inB := b, lastA := la, lastB := lb }
    if la && lb then
      let t := d.tile
      let c := { c.setTile t { c.tile t with poison := true, st := if d.retire then .retiring else .held } with
                 lastA := false, lastB := false }
      let full := c.setM ≤ c.openMembers
      let c := if d.retire then c.joinSet t (d.setEnd || full) true else c
      let c := if d.retire then { c with writeback := c.writeback ++ [t] } else c
      if c.seq then { c with faultDesc := c.seqDescs.head?, seqDescs := c.seqDescs.drop 1 }
      else { c with faultDesc := (c.program.drop (c.next % max 1 c.program.length)).head?
                    next := (c.next + 1) % max 1 c.program.length }
    else c

/-- K_STEP. Where a token it needs has not arrived, the call is one stalled D0 cycle (R57). -/
def kStep (p n : Nat) (scaleSeen : Bool) (s : State) : State :=
  let c := s.cu p n
  if !s.cuLive p n || c.opClass != 1 then s
  else if c.run == .faulted then s.setCu p n c.kStepFaulted
  else match c.engine with
    | none => s
    | some e =>
      let total := c.steps e.desc
      let ta := takeOperand c.fmtA 64 c.nbA c.gIn e.a e.kDone total c.inA
      let tb := takeOperand c.fmtB 32 c.nbB c.gIn e.b e.kDone total c.inB
      match ta, tb with
      | some x, some y =>
        let c := { c with inA := x.rest, inB := y.rest, lastA := c.lastA || x.last, lastB := c.lastB || y.last }
        if x.bad || y.bad || scaleSeen then
          (s.setCu p n c).cuFaulted p n Codes.operandShape 2 (some e.desc)
        else
          let e := { e with a := x.st, b := y.st, poison := e.poison || x.poison || y.poison }
          s.setCu p n (c.kStepCompute e)
      | _, _ =>
        s.setCu p n { c with cntStallA := if ta.isNone then c.cntStallA + 1 else c.cntStallA
                             cntStallB := if tb.isNone then c.cntStallB + 1 else c.cntStallB }

def execKStep (p : Fin 4) (cu : Fin 256) (scaleSeen : Bool) (s : State) : Outcome :=
  .next (kStep p.val cu.val scaleSeen s)

/-- set_end as R62 allows it. -/
def Cu.setEndOk (c : Cu) (d : TileDesc) : Bool :=
  if !d.retire then !d.setEnd
  else if d.setEnd then c.openMembers = c.setM else c.openMembers ≤ c.setM

/-- The engine with a tile register zeroed, or loaded with the tile's contents (R54, R60). The register in use is
`Engine.reg` while the operation runs; the other is prepared for the operation after it. -/
def Cu.beginOperation (c : Cu) (d : TileDesc) : Cu :=
  let x := c.tile d.tile
  let x : Tile := if d.cont then { x with st := .active }
    else { st := .active, poison := x.poison }
  let e : Engine := { desc := d, reg := if d.cont then x.acc else [] }
  let c := { c.takeDesc.setTile d.tile x with engine := some e, lastA := false, lastB := false }
  (c.putReg c.curReg e.reg).putReg (!c.curReg) c.prepared

/-- TILE_OPERATION_START: an operation has not started before a token of its streams is there (R64). -/
def tileOperationStart (p n : Nat) (s : State) : State :=
  let c := s.cu p n
  if !s.cuLive p n || c.run == .faulted || c.opClass != 1 || c.engine.isSome || (c.inA.isEmpty && c.inB.isEmpty) then s
  else match c.nextDesc with
    | none => s
    | some d =>
      if !c.setEndOk d then (s.setCu p n c.takeDesc).cuFaulted p n Codes.tileState 3 (some d)
      else match d.cont, (c.tile d.tile).st with
        | false, .free => s.setCu p n (c.beginOperation d)
        | true, .held => s.setCu p n (c.beginOperation d)
        | false, .retiring => s
        | _, _ => (s.setCu p n c.takeDesc).cuFaulted p n Codes.tileState 3 (some d)

def execTileOperationStart (p : Fin 4) (cu : Fin 256) (s : State) : Outcome := .next (tileOperationStart p.val cu.val s)

/-! Checksum comparison and readout (R62, R66, R68) -/

/-- 2^−t as an exact value. -/
def tolOf (t : Nat) : Fp := .fin false 1 (-(t : Int))

/-- |sum − check| > magnitude · 2^−t, where every value that enters is finite (R66). -/
def lineFails (xs : List W32) (chk mag : W32) (t : Nat) : Bool :=
  let sum := fpSum xs
  xs.all isFin32 && isFin32 sum && isFin32 chk && isFin32 mag
    && ((dec32 mag).mul (tolOf t)).lt (dec32 (fpAbs (fpSub sum chk)))

/-- Failing rows and columns of a tile (R66). -/
def Tile.failing (x : Tile) (t : Nat) : List Nat × List Nat :=
  let at_ := fun (i j : Nat) => SMap.get 0 x.acc (32 * i + j)
  ((List.range 64).filter (fun i =>
      lineFails ((List.range 32).map (at_ i)) (SMap.get 0 x.cc i) (SMap.get 0 x.mc i) t),
   (List.range 32).filter (fun j =>
      lineFails ((List.range 64).map (fun i => at_ i j)) (SMap.get 0 x.cr j) (SMap.get 0 x.mr j) t))

/-- CU_ABFT_LOC (R80). -/
def abftWord (tile : Nat) (rows cols : List Nat) : W64 :=
  mkWord 64 [(0, 5, tile), (5, 6, rows.headD 0), (11, 1, b2n !rows.isEmpty), (12, 5, cols.headD 0),
    (17, 1, b2n !cols.isEmpty), (18, 7, rows.length), (25, 6, cols.length)]

/-- A tile's comparison is done: its set knows it, and is poisoned where the tile is or the comparison failed. -/
def Cu.compared (c : Cu) (t : Nat) (bad : Bool) : Cu :=
  { c with writeback := c.writeback.erase t
           sets := c.sets.map (fun q => if q.tiles.contains t && !q.compared.contains t then
             { q with compared := q.compared ++ [t], poison := q.poison || bad || (c.tile t).poison } else q) }

/-- CHECKSUM_COMPARISON; of a tile that FAULTED retires too (log entry 99). -/
def checksumComparison (p n t : Nat) (s : State) : State :=
  let c := s.cu p n
  if !s.cuLive p n || !c.writeback.contains t then s
  else
    let (rows, cols) := (c.tile t).failing c.tol
    if rows.isEmpty && cols.isEmpty then s.setCu p n (c.compared t false)
    else
      let c := (c.compared t true).flag 0
      let c := if c.abftHeld then c else { c with abftLoc := abftWord t rows cols, abftHeld := true }
      (s.setCu p n c).raiseCu .cont Codes.abftMismatch p n

def execChecksumComparison (p : Fin 4) (cu : Fin 256) (tile : Fin 32) (s : State) : Outcome :=
  .next (checksumComparison p.val cu.val tile.val s)

/-- Row i of a retire set: row i of each member in turn (R62). -/
def Cu.setRow (c : Cu) (q : RetireSet) (i : Nat) : List VLane :=
  q.tiles.flatMap (fun t => (List.range 32).map (fun j =>
    { v := SMap.get 0 (c.tile t).acc (32 * i + j), poison := q.poison }))

/-- One output row through stage 6 (R75). -/
def State.packRow (s : State) (c : Cu) (row : List VLane) : List VIn × State :=
  let (ts, s) := (chunksOf c.blockLen row).foldl (fun (acc : List VIn × State) b =>
    let (t, s) := acc.2.packBlock c.fmtOut c.gOut c.nbOut b
    (acc.1 ++ t, s)) ([], s)
  (markLast ts, s)

/-- RETIRE_SET_READOUT: the oldest complete set whose members are compared, its 64 rows in order. -/
def retireSetReadout (p n : Nat) (s : State) : State :=
  let c := s.cu p n
  if !s.cuLive p n || c.readout.isSome then s
  else match c.sets with
    | [] => s
    | q :: qs =>
      if !q.complete || !q.tiles.all q.compared.contains then s
      else if !s.cuOutFree p n then s.setCu p n { c with cntStallOut := c.cntStallOut + 1 }
      else
        let s := s.setCu p n { c with sets := qs, readout := some q }
        (List.range 64).foldl (fun s i =>
          let (ts, s) := s.packRow c (c.setRow q i)
          s.cuEmitV p n ts) s

def execRetireSetReadout (p : Fin 4) (cu : Fin 256) (s : State) : Outcome := .next (retireSetReadout p.val cu.val s)

/-- READOUT_COMPLETE: once the switch has taken every token of the readout, its tiles are FREE (R60). Their poison stays
until a reconfiguration or a step restart (R76, R401). -/
def readoutComplete (p n : Nat) (s : State) : State :=
  let c := s.cu p n
  match c.readout with
  | some q =>
    if s.cuLive p n && s.cuOutFree p n then
      s.setCu p n { q.tiles.foldl (fun c t => c.setTile t { poison := (c.tile t).poison }) c with readout := none }
    else s
  | none => s

def execReadoutComplete (p : Fin 4) (cu : Fin 256) (s : State) : Outcome := .next (readoutComplete p.val cu.val s)

/-- The sets of a tile that is retiring leave poisoned. -/
def Cu.poisonSets (c : Cu) (t : Nat) : Cu :=
  { c with sets := c.sets.map (fun q => if q.tiles.contains t then { q with poison := true } else q) }

/-- One word of a tile: HELD, as the scrub finds it, or RETIRING, as the comparison and the readout that are due read
it (R63; log entry 109). -/
def State.scrubWord (s : State) (p n t : Nat) (e : EccKind) : State :=
  let c := s.cu p n
  let retiring := (c.tile t).st == .retiring
  if (c.tile t).st != .held && !retiring then s
  else match e with
    | .clean => s
    | .ce => (s.setCu p n ({ c with accCe := c.accCe + 1 }.flag 6)).raiseCu .corr Codes.accCorrected p n
    | .ue =>
      let c := (c.setTile t { c.tile t with poison := true }).flag 1
      (s.setCu p n (if retiring then c.poisonSets t else c)).raiseCu .cont Codes.accUncorrectable p n

/-- The clock of CU n runs: neither Idle nor the thermal trip nor a gate has stopped it (R386, R387, R393). -/
def State.cuClocked (s : State) (p n : Nat) : Bool := s.awake && !s.arrayStopped && s.gatesOpen (.cu p n)

/-- ACCUMULATOR_SCRUB: what the scrub finds in the words of HELD tiles, and the reads that are due in those of RETIRING
ones (log entry 109). -/
def accumulatorScrub (p n : Nat) (errs : List (Nat × EccKind)) (s : State) : State :=
  if s.img.state == .held || !s.cuClocked p n then s else errs.foldl (fun s e => s.scrubWord p n e.1 e.2) s

def execAccumulatorScrub (p : Fin 4) (cu : Fin 256) (errs : List (Fin 32 × Fin 1024 × EccKind)) (s : State) : Outcome :=
  .next (accumulatorScrub p.val cu.val (errs.map (fun e => (e.1.val, e.2.2))) s)

/-! The vector pipeline (R69 to R76) -/

/-- Round an exact result once to the lane format (R31, R70). -/
def roundLane (bf : Bool) (x : Fp) : W32 :=
  if !bf then round32 x
  else match x with
    | .nan => fpNaN
    | .inf sg => fpInf sg
    | .fin sg m e =>
      let (a, b) := scaleRat m 1 e
      let (q, E) := roundRat 8 (-133) a b
      round32 (.fin sg q E)

/-- Stage 1: an element decoded to the lane format (R34, R70). An exact value beyond the FP32 range is an infinity; one
within it saturates at the largest BF16 (R38). -/
def stage1 (bf : Bool) (f : Fmt) (n : Nat) (s1 : Byte) (s2 : W32) (z : Byte) : W32 :=
  let x := if f.grouped then ((decTerm f n z).mul (decS1 s1)).mul (dec32 s2) else decElem f n
  if !bf then round32 x
  else match x with
    | .fin sg m e =>
      let w := roundLane true (.fin sg m e)
      if isInf32 (round32 x) then fpInf sg
      else if isInf32 w then (if sg then 0xFF7F0000#32 else 0x7F7F0000#32) else w
    | _ => round32 x

/-- What a row-stream token does to its decoder; `bad` where the framing does not match the program. -/
structure Decoded where
  dec : RowDec
  bad : Bool

/-- Groups in the block in hand (R501). -/
def blockGroups (rowLen g nb rowPos : Nat) : Nat :=
  if rowLen = 0 then nb else min nb (cdiv rowLen g - rowPos / g)

/-- Take one token of a row stream into its decoder (R69, R501). -/
def RowDec.take (d : RowDec) (bf : Bool) (f : Fmt) (g nb rowLen : Nat) (t : VIn) : Decoded :=
  let bs := t.bytes
  let lanes := if bf then 64 else 32
  let push := fun (d : RowDec) (es : List VLane) (last : Bool) =>
    let parts := chunksOf lanes es
    { d with beats := d.beats ++ parts.zipIdx.map (fun (b, i) => { lanes := b, last := last && i + 1 == parts.length }) }
  if !f.grouped then
    let per := 1024 / f.width
    let es := (unpackElems f.width bs).map (fun n => ({ v := stage1 bf f n 0 0 0, poison := t.poison } : VLane))
    let es := if rowLen = 0 then es else es.take (rowLen - d.rowPos)
    let ends := rowLen != 0 && rowLen ≤ d.rowPos + per
    if rowLen != 0 && t.last != ends then { dec := d, bad := true }
    else { dec := push { d with rowPos := if t.last then 0 else d.rowPos + per } es t.last, bad := false }
  else if !d.inBlock then
    { dec := { d with inBlock := true, s2 := BitVec.ofNat 32 (leAt bs 0 4), s1 := sub bs 4 32, z := sub bs 36 32
                      hdrPoison := t.poison, blkPos := 0 }
      bad := t.last }
  else
    let per := 1024 / f.width
    let ng := blockGroups rowLen g nb d.rowPos
    let span := ng * g
    let codes := (unpackElems f.width bs).zipIdx
    let es := (codes.filter (fun (_, i) => d.blkPos + i < span && (rowLen = 0 || d.rowPos + d.blkPos + i < rowLen))).map
      (fun (n, i) =>
        let q := (d.blkPos + i) / g
        ({ v := stage1 bf f n (d.s1.getD q 0) d.s2 (d.z.getD q 0), poison := t.poison || d.hdrPoison } : VLane))
    let atEnd := span ≤ d.blkPos + per
    let ends := rowLen != 0 && atEnd && rowLen ≤ d.rowPos + span
    if rowLen != 0 && t.last != ends then { dec := d, bad := true }
    else
      let d' := if t.last then { d with inBlock := false, blkPos := 0, rowPos := 0 }
        else if atEnd then { d with inBlock := false, blkPos := 0, rowPos := d.rowPos + span }
        else { d with blkPos := d.blkPos + per }
      { dec := push d' es t.last, bad := false }

/-- The program uses P, or Q, in stage 2 or 3. -/
def Cu.uses (c : Cu) (src : Nat) : Bool := (c.s2Op == 1 && c.s2Src == src) || (c.s3Op != 0 && c.s3Src == src)
def Cu.needsQ (c : Cu) : Bool := c.uses 3
def Cu.needsP (c : Cu) : Bool := c.uses 2 || c.needsQ

/-- Stage 2 or 3 source value for a lane. -/
def Cu.srcVal (c : Cu) (code : Nat) (x y : W32) (l : Nat) : W32 :=
  match code with
  | 0 => y
  | 1 =>
    let k := SMap.get 0 c.vconst (if c.cBcast then 0 else l % 32)
    if c.bf16Lanes then roundBf16 k else round32 (dec32 k)
  | 2 => (c.vec.p.map (·.value)).getD 0
  | 3 => (c.vec.q.map (·.value)).getD 0
  | _ => x

/-- Stage 2 (R71). -/
def Cu.stage2 (c : Cu) (x y : W32) (l : Nat) : W32 :=
  if c.s2Op = 1 then roundLane c.bf16Lanes ((dec32 x).mul (dec32 (c.srcVal c.s2Src x y l))) else x

/-- Stage 3 (R71). -/
def Cu.stage3 (c : Cu) (x y : W32) (l : Nat) : W32 :=
  let v := c.srcVal c.s3Src x y l
  let r := roundLane c.bf16Lanes
  match c.s3Op with
  | 1 => r ((dec32 x).add (dec32 v))
  | 2 => r ((dec32 x).add (dec32 v).neg)
  | 3 => r ((dec32 v).add (dec32 x).neg)
  | 4 => r (dec32 (fpMax x v))
  | 5 => r (dec32 (fpMin x v))
  | _ => x

/-- Stages 2 to 4 of one lane; a NaN stays canonical. -/
def Cu.lane (c : Cu) (x y : VLane) (l : Nat) : VLane :=
  let usesY := c.yEn && ((c.s2Op == 1 && c.s2Src == 0) || (c.s3Op != 0 && c.s3Src == 0))
  let v := c.stage3 (c.stage2 x.v y.v l) y.v l
  let v := if c.s4Fn = 0 then v else
    (if c.bf16Lanes then roundLane true (dec32 (stage4 c.s4Fn v)) else stage4 c.s4Fn v)
  { v := v, poison := x.poison || (usesY && y.poison) || (c.vec.p.map (·.poison)).getD false
              || (c.vec.q.map (·.poison)).getD false || c.run == .faulted }

/-- Stage 5 of one beat (R73): the pairwise tree, absent lanes left out. -/
def stage5Beat (op : Nat) (bf : Bool) (xs : List W32) : W32 :=
  let depth := if bf then 6 else 5
  match op with
  | 1 => treeFold fpAdd depth xs
  | 2 => treeFold fpAdd depth (xs.map (fun x => fpMul x x))
  | 3 => treeFold fpMax depth xs
  | 4 => treeFold fpMax depth (xs.map fpAbs)
  | _ => 0

/-- Add a beat's result into the row accumulator (R73). -/
def stage5Acc (op : Nat) (acc : Option W32) (t : W32) : W32 :=
  if op = 1 || op = 2 then fpAdd (acc.getD fpZero) t else fpMax (acc.getD (fpInf true)) t

/-- Take k elements of stream Y that lie in one row, ending it exactly where X does (R71).
none: not arrived. -/
def takeY (k : Nat) (xLast : Bool) (bs : List Beat) : Option (List VLane × List Beat × Bool) :=
  let flat := bs.flatMap (fun b => b.lanes.zipIdx.map (fun (l, i) => (l, b.last && i + 1 == b.lanes.length)))
  let got := flat.take k
  let early := (got.dropLast).any (·.2)
  if early then some (got.map (·.1), [], true)
  else if got.length < k then (if (got.getLast?.map (·.2)).getD false then some (got.map (·.1), [], true) else none)
  else
    let yLast := (got.getLast?.map (·.2)).getD false
    let rest := (flat.drop k).map (fun (l, e) => ({ lanes := [l], last := e } : Beat))
    some (got.map (·.1), rest, yLast != xLast)

/-- The row of the beat in hand ends: scalar result, ordinal, and the check for a third scalar (R72, R73, R105). With
s5_op none there is no result to emit, whatever s5_emit says (log entry 85). -/
def State.rowEnd (s : State) (p n : Nat) : State :=
  let c := s.cu p n
  let v := c.vec
  let s := if c.s5Emit = 0 || c.s5Op = 0 then s
    else s.cuEmitS p n { value := v.acc.getD 0, tag := BitVec.ofNat 8 v.ordinal, poison := v.rowPoison }
  let third := v.p.isSome && v.q.isSome && (c.inS.head?.map (fun t => t.tag == BitVec.ofNat 8 v.ordinal)).getD false
  let s := s.setCu p n { c with vec := { v with
    ordinal := v.ordinal + 1, p := none, q := none, acc := none, rowPoison := c.run == .faulted, outPos := 0 } }
  if third && c.run != .faulted then s.cuFaulted p n Codes.operandShape 2 none else s

/-- In FAULTED a row that ends early is made up to the elements its program owes, poisoned and of free value (R77); a row
that has none left to carry its last flag gets one (log entry 99). -/
def State.owedLanes (s : State) (p n got : Nat) (last : Bool) : List VLane × State :=
  let c := s.cu p n
  if last && c.run == .faulted then
    let k := max (c.rowLen - (c.vec.outPos + got)) (if got = 0 && c.vec.block.isEmpty then 1 else 0)
    ((List.range k).map (fun i => { v := (Config.freeValue (s.free + i)).setWidth 32, poison := true }), { s with free := s.free + k })
  else ([], s)

/-- Elements that leave stage 5 enter stage 6; whole blocks and the end of a row are emitted (R75). -/
def State.stage6 (s : State) (p n : Nat) (xs : List VLane) (last : Bool) : State :=
  let c := s.cu p n
  if c.s5Emit = 1 then s
  else
    let (more, s) := s.owedLanes p n xs.length last
    let s := s.setCu p n { c with vec := { c.vec with outPos := c.vec.outPos + xs.length } }
    let c := s.cu p n
    let xs := xs ++ more
    let all := c.vec.block ++ xs
    let parts := chunksOf c.blockLen all
    let out := if last then parts else parts.filter (fun b => b.length == c.blockLen)
    let keep := if last then [] else (parts.filter (fun b => b.length != c.blockLen)).flatten
    let (ts, s) := out.foldl (fun (acc : List VIn × State) b =>
      let (t, s) := acc.2.packBlock c.fmtOut c.gOut c.nbOut b
      (acc.1 ++ t, s)) ([], s)
    (s.setCu p n { s.cu p n with vec := { (s.cu p n).vec with block := keep } }).cuEmitV p n
      (if last then markLast ts else ts)

/-- One beat through stages 2 to 6. Y reads as +0 where the CU takes no stream Y (log entry 85). -/
def State.beatRun (s : State) (p n : Nat) (b : Beat) (ys : List VLane) : State :=
  let c := s.cu p n
  let xs := b.lanes.zipIdx.map (fun (x, l) => c.lane x (ys.getD l { v := 0, poison := false }) l)
  let v := c.vec
  let acc := if c.s5Op = 0 then v.acc else
    some (stage5Acc c.s5Op v.acc (stage5Beat c.s5Op c.bf16Lanes (xs.map (·.v))))
  let s := s.setCu p n { c with vec := { v with acc := acc, rowPoison := v.rowPoison || xs.any (·.poison) } }
  let s := s.stage6 p n xs b.last
  if b.last then s.rowEnd p n else s

/-- The elements that may enter stages 2 and 3 do so: their scalars are there, and Y where it is read (R72). -/
def State.vecAdvance (s : State) (p n : Nat) : Nat → State
  | 0 => s
  | fuel + 1 =>
    let c := s.cu p n
    match c.vec.x.beats with
    | [] => s
    | b :: bs =>
      let faulted := c.run == .faulted
      if !faulted && ((c.needsP && c.vec.p.isNone) || (c.needsQ && c.vec.q.isNone)) then s
      else if c.yEn && !faulted then
        match takeY b.lanes.length b.last c.vec.y.beats with
        | none => s
        | some (ys, rest, bad) =>
          if bad then
            let s := s.cuFaulted p n Codes.operandShape 2 none
            let c := s.cu p n
            let s := s.setCu p n { c with vec := { c.vec with x := { c.vec.x with beats := bs } } }
            (s.beatRun p n b []).vecAdvance p n fuel
          else
            let s := s.setCu p n { c with vec := { c.vec with x := { c.vec.x with beats := bs }
                                                              y := { c.vec.y with beats := rest } } }
            (s.beatRun p n b ys).vecAdvance p n fuel
      else
        let s := s.setCu p n { c with vec := { c.vec with x := { c.vec.x with beats := bs } } }
        (s.beatRun p n b []).vecAdvance p n fuel

/-- FAULTED: a token of stream X is consumed to the end of its row, whatever it holds (R77). -/
def RowDec.takeFaulted (d : RowDec) (r : Decoded) (t : VIn) : RowDec :=
  if !r.bad then r.dec
  else if t.last then { d with inBlock := false, blkPos := 0, rowPos := 0, beats := d.beats ++ [{ lanes := [], last := true }] }
  else d

/-- OPERAND_SHAPE in the pipeline; what waits in it goes on as in FAULTED (R77). -/
def State.vecFaulted (s : State) (p n : Nat) : State :=
  let s := s.cuFaulted p n Codes.operandShape 2 none
  s.vecAdvance p n ((s.cu p n).vec.x.beats.length)

/-- ROW_STREAM_TOKEN: the oldest token of stream X or Y enters the pipeline; while an output waits for its
switch the call is one stalled D0 cycle. -/
def rowStreamToken (p n : Nat) (streamY : Bool) (s : State) : State :=
  let c := s.cu p n
  if !s.cuLive p n || c.opClass != 2 then s
  else if !s.cuOutFree p n then s.setCu p n { c with cntStallOut := c.cntStallOut + 1 }
  else if streamY then
    match c.inB with
    | [] => s.setCu p n { c with cntStallB := c.cntStallB + 1 }
    | t :: ts =>
      let c := { c with inB := ts }
      if c.run == .faulted then s.setCu p n c
      else
        let r := c.vec.y.take c.bf16Lanes c.fmtB c.gIn c.nbB c.rowLen t
        if r.bad then (s.setCu p n c).vecFaulted p n
        else (s.setCu p n { c with vec := { c.vec with y := r.dec } }).vecAdvance p n (c.vec.x.beats.length)
  else
    match c.inA with
    | [] => s.setCu p n { c with cntStallA := c.cntStallA + 1 }
    | t :: ts =>
      let c := { c with inA := ts }
      let r := c.vec.x.take c.bf16Lanes c.fmtA c.gIn c.nbA c.rowLen t
      if r.bad then
        let c := { c with vec := { c.vec with x := c.vec.x.takeFaulted r t } }
        let s := s.setCu p n c
        if c.run == .faulted then s.vecAdvance p n c.vec.x.beats.length else s.vecFaulted p n
      else (s.setCu p n { c with vec := { c.vec with x := r.dec } }).vecAdvance p n r.dec.beats.length

def execRowStreamToken (p : Fin 4) (cu : Fin 256) (streamY : Bool) (s : State) : Outcome :=
  .next (rowStreamToken p.val cu.val streamY s)

/-- SCALAR_INPUT_ARRIVAL: the oldest scalar becomes P or Q of the row in hand; its tag must be the row's (R72, R105).
A value the row in hand does not lack stays in the input. -/
def scalarInputArrival (p n : Nat) (s : State) : State :=
  let c := s.cu p n
  if !s.cuLive p n || c.opClass != 2 then s
  else match c.inS with
    | [] => s
    | t :: ts =>
      if c.run == .faulted then s.setCu p n { c with inS := ts }
      else
        let own := t.tag == BitVec.ofNat 8 c.vec.ordinal
        let toP := c.vec.p.isNone
        let toQ := !toP && c.vec.q.isNone && (c.needsQ || own)
        if !toP && !toQ then s
        else if !own then (s.setCu p n { c with inS := ts }).vecFaulted p n
        else
          let v := if toP then { c.vec with p := some t } else { c.vec with q := some t }
          (s.setCu p n { c with inS := ts, vec := v }).vecAdvance p n c.vec.x.beats.length

def execScalarInputArrival (p : Fin 4) (cu : Fin 256) (s : State) : Outcome := .next (scalarInputArrival p.val cu.val s)

end Sys2Proof.Machine
end

