-- ==== Sys2Proof/Machine/MemoryUnits.lean ====
section
/-! DEFINITION. Memory units: narrow view, generators, accumulation, queues, row commands, credits and scrubbing
(R81 to R102, R192, R238). -/
namespace Sys2Proof.Machine

/-! Codes of an MU -/

/-- The MU reads RUNNING: configured, not drained, and the array runs (R102, R149). -/
def State.muRunning (s : State) (p n : Nat) : Bool := (s.mu p n).run == .live && s.tokensMove

/-- The MU takes part in the array's work. -/
def State.muLive (s : State) (p n : Nat) : Bool := s.muRunning p n && s.gatesOpen (.mu p n)

/-- The clock of MU n runs: neither Idle nor the thermal trip nor a gate has stopped it (R386, R387, R393). -/
def State.muClocked (s : State) (p n : Nat) : Bool := s.awake && !s.arrayStopped && s.gatesOpen (.mu p n)

/-! Narrow view (R84) -/

/-- NARROW_READ: the word, or the code of the access. -/
def narrowRead (p n off size : Nat) (ups : List Upset) (s : State) : State :=
  if !s.awake then s
  else if !s.muClocked p n then s.emit (.code Codes.clkGated)
  else if size != 8 || off % 8 != 0 then s.emit (.code Codes.refused)
  else
    let s := s.strikes ups
    let ue := SMap.get .clean (s.mu p n).ecc (off / 8) == .ue
    let (bs, _, s) := s.muRead p n off 8
    let s := s.emit (.value (BitVec.ofNat 64 (leNat bs)))
    s.emit (.code (if ue then Codes.muUncorrectable else Codes.ok))

def execNarrowRead (p : Fin 4) (mu : Fin 256) (off : BitVec 22) (size : Nat) (ups : List Upset) (s : State) : Outcome :=
  .next (narrowRead p.val mu.val off.toNat size ups s)

/-- NARROW_WRITE. -/
def narrowWrite (p n off size : Nat) (v : W64) (s : State) : State :=
  let m := s.mu p n
  if !s.awake then s
  else if !s.muClocked p n then s.emit (.code Codes.clkGated)
  else if size != 8 || off % 8 != 0 || ((m.regionOf (off / 512)).isSome && s.muRunning p n) then
    (s.setMu p n (m.flag 9)).emit (.code Codes.refused)
  else (s.muWrite p n off (leBytes 8 v.toNat) false).emit (.code Codes.ok)

def execNarrowWrite (p : Fin 4) (mu : Fin 256) (off : BitVec 22) (size : Nat) (value : W64) (s : State) : Outcome :=
  .next (narrowWrite p.val mu.val off.toNat size value s)

/-! Generators (R87 to R90, R192) -/

def Mu.ag (m : Mu) (a : Nat) : AgSt := SMap.get {} m.ags a
def Mu.setAg (m : Mu) (a : Nat) (x : AgSt) : Mu := { m with ags := SMap.set {} m.ags a x }

def AgSt.word (g : AgSt) (k : Nat) : W64 := g.words.getD k 0
def AgSt.baseLine (g : AgSt) : Nat := fld (g.word 0) 0 16
def AgSt.region (g : AgSt) : Nat := fld (g.word 0) 16 4
def AgSt.isWrite (g : AgSt) : Bool := bitOf (g.word 0) 20
def AgSt.path (g : AgSt) : Nat := fld (g.word 0) 21 2
def AgSt.levels (g : AgSt) : Nat := fld (g.word 0) 23 3 + 1
def AgSt.xpBits (g : AgSt) : Nat := 4 * 2 ^ fld (g.word 0) 26 2
def AgSt.xpRows (g : AgSt) : Nat := if bitOf (g.word 0) 28 then 32 else 64
def AgSt.wrapEn (g : AgSt) : Bool := bitOf (g.word 0) 29
def AgSt.wrapLo (g : AgSt) : Int := fld (g.word 0) 32 16
def AgSt.wrapHi (g : AgSt) : Int := fld (g.word 0) 48 16
def AgSt.count (g : AgSt) (l : Nat) : Nat := fld (g.word (l + 1)) 0 16 + 1
def AgSt.stride (g : AgSt) (l : Nat) : Int := sfld (g.word (l + 1)) 32 17
def AgSt.chan (g : AgSt) : Nat := fld (g.word 7) 0 8
def AgSt.lastLvl (g : AgSt) : Nat := fld (g.word 7) 8 3
def AgSt.startTag (g : AgSt) : Nat := fld (g.word 7) 12 8
def AgSt.contrib (g : AgSt) : Nat := fld (g.word 7) 20 8
def AgSt.hoBm (g : AgSt) : Nat := fld g.handoff 0 16
def AgSt.hoInc (g : AgSt) : Nat := fld g.handoff 16 8
def AgSt.hoEn (g : AgSt) : Bool := bitOf g.handoff 24
def AgSt.seqDrv (g : AgSt) : Bool := bitOf g.handoff 25
def AgSt.adv (g : AgSt) : Int := sfld g.handoff 32 16
def AgSt.advPeriod (g : AgSt) : Nat := fld g.handoff 48 8

/-- Addresses of a walk (R88). -/
def AgSt.total (g : AgSt) : Nat := ((List.range g.levels).map g.count).foldl (· * ·) 1

/-- Index of level l at position k of the walk, level 0 fastest (R88). -/
def AgSt.index (g : AgSt) (l k : Nat) : Nat :=
  k / ((List.range l).map g.count).foldl (· * ·) 1 % g.count l

/-- Line address at position k, before and after the wrap window; none where no wrap step ever ends (R88). -/
def AgSt.lineAt (g : AgSt) (k : Nat) : Option Int :=
  let a := (List.range g.levels).foldl (fun (a : Int) l => a + (g.index l k : Int) * g.stride l) g.base
  if !g.wrapEn || (g.wrapLo ≤ a && a < g.wrapHi) then some a
  else if g.wrapLo < g.wrapHi then some (g.wrapLo + (a - g.wrapLo) % (g.wrapHi - g.wrapLo))
  else none

/-- Position k completes an iteration of level last_lvl: every level below is at its end (R88). -/
def AgSt.lastAt (g : AgSt) (k : Nat) : Bool :=
  (List.range (min g.lastLvl g.levels)).all (fun l => g.index l k + 1 == g.count l)

/-- The address lies in the bound region, both lines of it on the direct path (R88). -/
def RegSt.holdsLine (r : RegSt) (a : Int) (two : Bool) : Bool :=
  let lo : Int := 8 * (r.baseRow : Int)
  let hi : Int := lo + 8 * (r.rows : Int)
  r.rows != 0 && lo ≤ a && a + (if two then 1 else 0) < hi

/-- A pop or push generator of a STASH region; a pop. -/
def Mu.onStash (m : Mu) (a : Nat) : Bool := (m.reg (m.ag a).region).kind == 2
def Mu.isPop (m : Mu) (a : Nat) : Bool := m.onStash a && !(m.ag a).isWrite

/-- Another walk holds the STASH region the generator is bound to (R165). -/
def Mu.regionHeld (m : Mu) (a : Nat) : Bool :=
  let g := m.ag a
  (m.reg g.region).kind == 2 &&
    (List.range 4).any (fun b => b != a && (m.ag b).busy && (m.ag b).region == g.region)

/-- A walk may start: the array takes work, the region is open, the generator is not stopped (R88, R149, R404), and a
WEIGHT region is not read ahead of the boundary (R17). -/
def State.mayWalk (s : State) (p n a : Nat) : Bool :=
  let g := (s.mu p n).ag a
  s.inputsOpen && (s.mu p n).run == .live && !s.siteDraining p (muSite n) && !g.busy && !g.stopped
    && !(s.mu p n).regionHeld a && !(g.seqDrv && g.seqBases.isEmpty)
    && !(s.weightsHeld && !g.isWrite && ((s.mu p n).reg g.region).kind == 1)

/-- Generator b goes before a where both could start a walk of one STASH region: a pop before a push, then the lower
number (R165). -/
def Mu.goesBefore (m : Mu) (b a : Nat) : Bool :=
  b != a && m.onStash a && (m.ag b).region == (m.ag a).region
    && ((m.isPop b && !m.isPop a) || (m.isPop b == m.isPop a && b < a))

/-- The generator may start a walk and no pending walk goes before it. -/
def State.mayStart (s : State) (p n a : Nat) : Bool :=
  let m := s.mu p n
  s.mayWalk p n a && !(List.range 4).any (fun b => m.goesBefore b a && 0 < (m.ag b).pending && s.mayWalk p n b)

/-- The walk begins (R88, R192). -/
def AgSt.begin (g : AgSt) : AgSt :=
  let base : Int :=
    if g.seqDrv then (g.seqBases.headD 0 : Nat)
    else if g.advPeriod = 0 then g.baseLine
    else (g.baseLine : Int) + ((g.walk % g.advPeriod : Nat) : Int) * g.adv
  { g with busy := true, idx := 0, moved := 0, base := base, dead := false, lines := []
           seqBases := if g.seqDrv then g.seqBases.drop 1 else g.seqBases }

def State.startWalk (s : State) (p n a : Nat) : State :=
  let m := s.mu p n
  s.setMu p n (m.setAg a (m.ag a).begin)

/-- Generators that an event tag starts: pops first, then by number (R89, R165). -/
def Mu.tagged (m : Mu) (t : Nat) : List Nat :=
  let hit := (List.range 4).filter (fun a => !(m.ag a).words.isEmpty && (m.ag a).startTag == t)
  hit.filter m.isPop ++ hit.filter (fun a => !m.isPop a)

/-- Every generator of the tag can still count the event; a sixteenth waits in its switch queue (R89). -/
def Mu.eventRoom (m : Mu) (t : Nat) : Bool := (m.tagged t).all (fun a => (m.ag a).pending < 15)

/-- GENERATOR_START_EVENT: the control event at the head of the MU's input starts each generator of its tag, or is
counted (R89). -/
def generatorStartEvent (p n : Nat) (s : State) : State :=
  let m := s.mu p n
  match m.events with
  | [] => s
  | t :: ts =>
    if !s.muLive p n || !m.eventRoom t then s
    else
      let s := s.setMu p n { m with events := ts }
      (m.tagged t).foldl (fun s a =>
        if s.mayStart p n a && ((s.mu p n).ag a).pending = 0 then s.startWalk p n a
        else
          let m := s.mu p n
          s.setMu p n (m.setAg a { m.ag a with pending := (m.ag a).pending + 1 })) s

def execGeneratorStartEvent (p : Fin 4) (mu : Fin 256) (s : State) : Outcome :=
  .next (generatorStartEvent p.val mu.val s)

/-- PENDING_WALK_START. -/
def pendingWalkStart (p n a : Nat) (s : State) : State :=
  let m := s.mu p n
  if s.mayStart p n a && 0 < (m.ag a).pending then
    (s.setMu p n (m.setAg a { m.ag a with pending := (m.ag a).pending - 1 })).startWalk p n a
  else s

def execPendingWalkStart (p : Fin 4) (mu : Fin 256) (a : Fin 4) (s : State) : Outcome :=
  .next (pendingWalkStart p.val mu.val a.val s)

/-- Tokens a generator sends into its switch. -/
def State.agEmit (s : State) (p n chan : Nat) (ts : List VIn) : State :=
  ts.foldl (fun s t => s.pushLink p (muSite n) 0 chan (.v (mkV t.data (s.mu p n).epoch t.poison t.last))) s

/-- The position in the walk advances. -/
def State.agAdvance (s : State) (p n a : Nat) (addr : Int) : State :=
  let m := s.mu p n
  let g := m.ag a
  s.setMu p n (m.setAg a { g with idx := g.idx + 1, moved := g.moved + 1, addr := (addr % 65536).toNat })

/-- Free data for a token that no memory row gives. -/
def State.freeToken (s : State) (last : Bool) : VIn × State :=
  let (bs, s) := s.freeBytes 16
  (vOfBytes bs true last, s)

/-- Tokens of one transpose block (R90): element e of line i is the term of K step e for lane i, under R55. Poison of
any line is poison of every token (log entry 89). -/
def xpTokens (w rows : Nat) (lines : List (List Byte)) (poison last : Bool) : List VIn :=
  let vals := lines.map leNat
  let e := 512 / w
  let bits := (List.range e).foldl (fun (acc : Nat) k =>
    acc + (vals.zipIdx.foldl (fun (b : Nat) (v, i) => b + (v / 2 ^ (w * k) % 2 ^ w) * 2 ^ (w * i)) 0) * 2 ^ (w * rows * k)) 0
  let n := rows / 2
  (List.range n).map (fun t =>
    { data := BitVec.ofNat 1024 (bits / 2 ^ (1024 * t)), poison := poison, last := last && t + 1 == n })

/-- AG_BOUNDS (R88): the rest of the walk goes on without memory, and the generator then stops. -/
def State.agBounds (s : State) (p n a : Nat) : State :=
  let m := s.mu p n
  let g := m.ag a
  (s.setMu p n (m.setAg a { g with dead := true, stopped := true })).raiseMu Codes.agBounds p n g.region (some 0)

/-- One read address on the direct path. -/
def State.directRead (s : State) (p n a : Nat) (line : Int) : State :=
  let g := (s.mu p n).ag a
  if !s.roomIn p (muSite n) 0 g.chan then s
  else
    let last := g.lastAt g.idx
    let s := if g.dead || ((s.mu p n).reg g.region).holdsLine line true then s else s.agBounds p n a
    let (t, s) : VIn × State :=
      if ((s.mu p n).ag a).dead then s.freeToken last
      else
        let (bs, bad, s) := s.muRead p n (64 * line.toNat) 128
        (vOfBytes bs bad last, s)
    (s.agEmit p n g.chan [t]).agAdvance p n a line

/-- One write address on the direct path. -/
def State.directWrite (s : State) (p n a : Nat) (line : Int) : State :=
  let m := s.mu p n
  let g := m.ag a
  match g.input with
  | [] => s
  | t :: ts =>
    let s := s.setMu p n (m.setAg a { g with input := ts })
    let s := if g.dead || (m.reg g.region).holdsLine line true then s else s.agBounds p n a
    let s := if ((s.mu p n).ag a).dead then s else s.muWrite p n (64 * line.toNat) t.bytes t.poison
    s.agAdvance p n a line

/-- One line of a transpose block; the block's last line sends its tokens (R90). -/
def State.transposeRead (s : State) (p n a : Nat) (line : Int) : State :=
  let g := (s.mu p n).ag a
  if g.lines.length + 1 = g.xpRows && !s.roomIn p (muSite n) 0 g.chan then s
  else
    let s := if g.dead || ((s.mu p n).reg g.region).holdsLine line false then s else s.agBounds p n a
    let (x, s) : XpLine × State :=
      if ((s.mu p n).ag a).dead then
        let (bs, s) := s.freeBytes 8
        ({ bytes := bs, poison := true }, s)
      else
        let (bs, bad, s) := s.muRead p n (64 * line.toNat) 64
        ({ bytes := bs, poison := bad }, s)
    let lines := g.lines ++ [x]
    let full := lines.length = g.xpRows
    let m := s.mu p n
    let s := s.setMu p n (m.setAg a { m.ag a with lines := if full then [] else lines })
    let s := if full then
        s.agEmit p n g.chan (xpTokens g.xpBits g.xpRows (lines.map (·.bytes)) (lines.any (·.poison)) (g.lastAt g.idx))
      else s
    s.agAdvance p n a line

/-- Elements of a row stream as an MU counts them (R501): value and poison of each. -/
def segElements (r : RegSt) (ts : List VIn) : List VLane :=
  let f := Fmt.ofCodeD r.inFmt
  let d := ts.foldl (fun (d : RowDec) t => (d.take false f (gszOf r.inGsz) (r.inBpg + 1) 0 { t with last := false }).dec)
    ({} : RowDec)
  d.beats.flatMap (·.lanes)

/-- Buffer rows of a REDUCE region: its first rows − park_rows rows (R91). -/
def RegSt.bufRows (r : RegSt) : Nat := r.rows - r.parkRows

/-- Rows a segment touches. -/
def segRows (first elems : Nat) : List Nat := List.range' first (cdiv elems 128)

/-- The segment stays inside the buffer rows (R91). -/
def RegSt.segFits (r : RegSt) (first elems : Nat) : Bool :=
  r.baseRow ≤ first && first + cdiv elems 128 ≤ r.baseRow + r.bufRows

/-- One row stream of an accumulate walk is taken whole; one that does not fit is discarded (R91). -/
def State.accumulateTake (s : State) (p n a : Nat) (line : Int) : State :=
  let m := s.mu p n
  let g := m.ag a
  match g.input.findIdx? (·.last) with
  | none => s
  | some i =>
    let ts := g.input.take (i + 1)
    let s := s.setMu p n (m.setAg a { g with input := g.input.drop (i + 1) })
    let s := if g.dead || (m.reg g.region).holdsLine line false then s else s.agBounds p n a
    let s :=
      if ((s.mu p n).ag a).dead then s
      else
        let row := (line / 8).toNat
        let r := (s.mu p n).reg g.region
        if !r.segFits row (segElements r ts).length then s.raiseMu Codes.accumBounds p n g.region (some 10)
        else
          let m := s.mu p n
          s.setMu p n { m with segs := m.segs ++
            [{ region := g.region, contrib := g.contrib, firstRow := row, tokens := ts, gen := some a }] }
    s.agAdvance p n a line

/-- GENERATOR_ADDRESS: the next address of a walk and its token, line or row stream. STASH walks move whole frames
(PUSH_WALK, POP_WALK). The spec gives the transpose path no write direction and the accumulate path no read direction:
such a walk stands still (log entry 89). -/
def generatorAddress (p n a : Nat) (ups : List Upset) (s : State) : State :=
  let g := (s.mu p n).ag a
  if !s.muLive p n || !g.busy || g.total ≤ g.idx || ((s.mu p n).reg g.region).kind = 2 then s
  else match g.lineAt g.idx with
    | none => s
    | some line =>
      let s := s.strikes ups
      match g.path, g.isWrite with
      | 0, false => s.directRead p n a line
      | 0, true => s.directWrite p n a line
      | 1, false => s.transposeRead p n a line
      | 2, true => s.accumulateTake p n a line
      | _, _ => s

def execGeneratorAddress (p : Fin 4) (mu : Fin 256) (a : Fin 4) (ups : List Upset) (s : State) : Outcome :=
  .next (generatorAddress p.val mu.val a.val ups s)

/-- WALK_END: every address has been issued and every segment of the walk applied; the done add is made (R192). -/
def walkEnd (p n a : Nat) (s : State) : State :=
  let m := s.mu p n
  let g := m.ag a
  if !s.muLive p n || !g.busy || g.idx < g.total || m.segs.any (fun x => x.gen == some a)
      || (m.reg g.region).parked.any (fun x => x.gen == some a) then s
  else
    let s := s.setMu p n (m.setAg a { g with busy := false, dead := false, walk := g.walk + 1, stepWalks := g.stepWalks + 1 })
    if g.hoEn then s.bmkAdd g.hoBm (BitVec.ofNat 32 g.hoInc) else s

/-! Accumulation (R91, R92, R238) -/

/-- Add a segment into its buffer rows (R91); contribution 0 of a numbered region is added to +0 (R92). -/
def State.segAdd (s : State) (p n : Nat) (r : RegSt) (x : Segment) : State :=
  let es := segElements r x.tokens
  let fresh := r.order && x.contrib = 0
  (chunksOf 128 es).zipIdx.foldl (fun s (part, i) =>
    let row := x.firstRow + i
    let (bs, bad, s) := s.muRead p n (512 * row) (4 * part.length)
    let old := (chunksOf 4 bs).map (fun b => (BitVec.ofNat 32 (leNat b) : W32))
    let new := part.zipIdx.map (fun (e, j) => fpAdd (if fresh then fpZero else old.getD j 0) e.v)
    s.muWrite p n (512 * row) (new.flatMap (fun v => leBytes 4 v.toNat)) (bad || part.any (·.poison))) s

/-- Rows the segment touches. -/
def Segment.rows (x : Segment) (r : RegSt) : List Nat := segRows x.firstRow (segElements r x.tokens).length

/-- Park rows a segment needs: four tokens a row. -/
def Segment.parkNeed (x : Segment) : Nat := cdiv x.tokens.length 4

/-- Free park rows of a REDUCE region, ascending: its last park_rows rows that no parked segment holds (R91). -/
def RegSt.parkFree (g : RegSt) : List Nat :=
  (List.range' (g.baseRow + g.bufRows) g.parkRows).filter (fun row => !g.parked.any (fun q => q.park.contains row))

/-- An early segment goes into the first free park rows, four tokens a row, each row written whole; its tokens' flags
go to the tag store (R92, R99; log entry 58). -/
def State.parkSegment (s : State) (p n : Nat) (x : Segment) : State :=
  let rows := (((s.mu p n).reg x.region).parkFree).take x.parkNeed
  let s := rows.zipIdx.foldl (fun s (row, i) =>
    let ts := (x.tokens.drop (4 * i)).take 4
    let bs := ts.flatMap VIn.bytes
    let s := s.muWrite p n (512 * row) (bs ++ List.replicate (512 - bs.length) 0) false
    let m := s.mu p n
    s.setMu p n (ts.zipIdx.foldl (fun m (v, j) =>
      m.setTag (4 * row + j) { last := v.last, poison := v.poison, epoch := m.epoch }) m)) s
  let m := s.mu p n
  let g := m.reg x.region
  s.setMu p n (m.setReg x.region { g with parked := g.parked ++ [{ x with park := rows }] })

/-- The tokens of a parked segment, read back from its park rows. -/
def State.unparkTokens (s : State) (p n : Nat) (x : Segment) : List VIn × State :=
  (List.range x.tokens.length).foldl (fun (acc : List VIn × State) i =>
    let row := x.park.getD (i / 4) 0
    let (bs, bad, s) := acc.2.muRead p n (512 * row + 128 * (i % 4)) 128
    let tag := SMap.get {} (s.mu p n).tags (4 * row + i % 4)
    (acc.1 ++ [vOfBytes bs (bad || tag.poison) tag.last], s)) ([], s)

/-- A HOLD target already written in the step (R238): the AU that owns the region of its piece. -/
def State.holdWritten (s : State) (p n r : Nat) : Option Nat :=
  (s.cfg.regions.find? (fun g => g.pieces.any (fun q =>
    q.rPlat == p && q.rMu == n && q.rReg == r && s.adj.partials.any (·.1 == q.item)))).map (·.au)

/-- HOLD_ROUND, raised by AU g (R238, R262). -/
def State.holdRound (s : State) (g : Nat) : State :=
  (s.setAu g { s.au g with fault := setBit (s.au g).fault 2 }).raise .cont Codes.holdRound 5 g s.adj.exch

/-- The round completes once every buffer row holds its ncontrib + 1 contributions (R92, R238); in arrival order a row may
have got more by then. -/
def State.roundCheck (s : State) (p n r : Nat) : State :=
  let m := s.mu p n
  let g := m.reg r
  if (List.range g.bufRows).all (fun i => g.ncontrib + 1 ≤ SMap.get 0 g.applied (g.baseRow + i)) then
    let dup := s.holdWritten p n r
    let s := s.setMu p n (m.setReg r { g with applied := [], roundDone := g.roundDone || dup.isNone })
    let s := match dup with
      | some a => s.holdRound a
      | none => s
    if g.doneEn then s.bmkAdd g.doneBm 1 else s
  else s

/-- Apply a segment and count it at its rows. -/
def State.segApply (s : State) (p n : Nat) (x : Segment) : State :=
  let r := (s.mu p n).reg x.region
  let s := s.segAdd p n r x
  let m := s.mu p n
  let g := m.reg x.region
  let ap := (x.rows r).foldl (fun ap row => SMap.set 0 ap row (SMap.get 0 ap row + 1)) g.applied
  (s.setMu p n (m.setReg x.region { g with applied := ap })).roundCheck p n x.region

/-- A numbered segment that repeats or exceeds its region's numbers (R92); a region in arrival order checks no number
(log entry 89). -/
def RegSt.orderBad (g : RegSt) (x : Segment) : Bool :=
  g.order && (g.ncontrib < x.contrib
    || (x.rows g).any (fun row => x.contrib < SMap.get 0 g.applied row)
    || g.parked.any (fun q => q.contrib == x.contrib && (q.rows g).any ((x.rows g).contains ·)))

/-- The segment's turn has come at each of its rows (R92). -/
def RegSt.orderReady (g : RegSt) (x : Segment) : Bool :=
  !g.order || (x.rows g).all (fun row => SMap.get 0 g.applied row == x.contrib)

/-- Rows of credit a remote segment returns once it is applied or discarded (R91, R97). -/
def State.freeRows (s : State) (p n r k : Nat) : State :=
  let m := s.mu p n
  s.setMu p n (m.setReg r { m.reg r with freed := (m.reg r).freed + k })

/-- A segment meets its region: discarded, applied, or parked. none: no park row is free and it must wait. -/
def State.segAccept (s : State) (p n : Nat) (x : Segment) : Option State :=
  let g := (s.mu p n).reg x.region
  let back := fun (s : State) => if x.gen.isNone then s.freeRows p n x.region x.parkNeed else s
  if g.orderBad x then some ((back s).raiseMu Codes.accumOrder p n x.region (some 3))
  else if g.orderReady x then some (back (s.segApply p n x))
  else if g.parkFree.length < x.parkNeed then none
  else some (s.parkSegment p n x)

/-- ACCUMULATE_SEGMENT: the oldest segment a generator of the MU has taken. -/
def accumulateSegment (p n : Nat) (s : State) : State :=
  let m := s.mu p n
  match m.segs with
  | [] => s
  | x :: xs =>
    if !s.muLive p n then s
    else match (s.setMu p n { m with segs := xs }).segAccept p n x with
      | some t => t
      | none => s

def execAccumulateSegment (p : Fin 4) (mu : Fin 256) (s : State) : Outcome := .next (accumulateSegment p.val mu.val s)

/-- PARKED_SEGMENT_APPLY: the oldest parked segment of region r whose turn has come. -/
def parkedSegmentApply (p n r : Nat) (s : State) : State :=
  let m := s.mu p n
  let g := m.reg r
  match g.parked.find? g.orderReady with
  | none => s
  | some x =>
    if !s.muLive p n then s
    else
      let s := s.setMu p n (m.setReg r { g with parked := g.parked.erase x })
      let (ts, s) := s.unparkTokens p n x
      let s := s.segApply p n { x with tokens := ts }
      if x.gen.isNone then s.freeRows p n r x.parkNeed else s

def execParkedSegmentApply (p : Fin 4) (mu : Fin 256) (r : Fin 16) (s : State) : Outcome :=
  .next (parkedSegmentApply p.val mu.val r.val s)

/-! Deep queues (R94, R110) -/

/-- Byte offset of token slot k of a FIFO region. -/
def RegSt.slotOff (g : RegSt) (k : Nat) : Nat := 512 * g.baseRow + 128 * (k % (4 * max 1 g.rows))

/-- A token enters a FIFO region: two lines and its tag (R94). -/
def State.fifoPut (s : State) (p n r : Nat) (t : VIn) (epoch : Nat) : State :=
  let m := s.mu p n
  let g := m.reg r
  let off := g.slotOff g.hi
  let m := m.writeWide off t.bytes false
  let m := m.setTag (off / 128) { last := t.last, poison := t.poison, epoch := epoch }
  s.setMu p n (m.setReg r { g with hi := g.hi + 1 })

/-- The oldest token leaves a FIFO region; a row read to its end is freed in a window (R97). -/
def State.fifoTake (s : State) (p n r : Nat) : VIn × State :=
  let g := (s.mu p n).reg r
  let off := g.slotOff g.lo
  let (bs, bad, s) := s.muRead p n off 128
  let m := s.mu p n
  let tag := SMap.get {} m.tags (off / 128)
  let g := m.reg r
  let freed := if g.window && (g.lo + 1) % 4 = 0 then g.freed + 1 else g.freed
  (vOfBytes bs (bad || tag.poison) tag.last, s.setMu p n (m.setReg r { g with lo := g.lo + 1, freed := freed }))

def RegSt.fifoFull (g : RegSt) : Bool := 4 * g.rows ≤ g.hi - g.lo
def RegSt.fifoEmpty (g : RegSt) : Bool := g.hi ≤ g.lo

/-- Region bound to queue k of an MU site by SW_QBIND (R110). -/
def Sw.queueRegion (w : Sw) (k : Nat) : Option Nat :=
  if bitOf w.qbind (8 * k + 4) then some (fld w.qbind (8 * k) 4) else none

/-- QUEUE_TOKEN_IN. -/
def queueTokenIn (p n k : Nat) (s : State) : State :=
  let m := s.mu p n
  match (s.sw p (muSite n)).queueRegion k, SMap.get [] m.qin k with
  | some r, t :: ts =>
    if !s.muLive p n || (m.reg r).fifoFull then s
    else (s.setMu p n { m with qin := SMap.set [] m.qin k ts }).fifoPut p n r t m.epoch
  | _, _ => s

def execQueueTokenIn (p : Fin 4) (mu : Fin 256) (k : Fin 2) (s : State) : Outcome := .next (queueTokenIn p.val mu.val k.val s)

/-- QUEUE_TOKEN_OUT: QO0 is channel 0x25, QO1 0x27. -/
def queueTokenOut (p n k : Nat) (s : State) : State :=
  match (s.sw p (muSite n)).queueRegion k with
  | none => s
  | some r =>
    let chan := 0x25 + 2 * k
    if !s.muLive p n || ((s.mu p n).reg r).fifoEmpty || !s.roomIn p (muSite n) 0 chan then s
    else
      let (t, s) := s.fifoTake p n r
      s.agEmit p n chan [t]

def execQueueTokenOut (p : Fin 4) (mu : Fin 256) (k : Fin 2) (s : State) : Outcome :=
  .next (queueTokenOut p.val mu.val k.val s)

/-! Row commands (R95) -/

/-- A row command touches a row of a region. -/
def Mu.touchesRegion (m : Mu) (first k : Nat) : Bool :=
  (List.range 16).any (fun r => let g := m.reg r; g.rows != 0 && g.baseRow < first + k && first < g.baseRow + g.rows)

/-- MU_CMD refuses (R95); a command the image issues at an event is held to the same bounds. -/
def State.rowCmdRefused (s : State) (p n : Nat) (c : RowCmd) (byEvent : Bool) : Bool :=
  let m := s.mu p n
  m.cmd.isSome || c.rows = 0 || 8192 < c.dst + c.rows || (c.copy && 8192 < c.src + c.rows)
    || (!byEvent && s.muRunning p n && (m.touchesRegion c.dst c.rows || (c.copy && m.touchesRegion c.src c.rows)))

/-- The rows of a COPY lie in a WEIGHT region that the running step has yet to adjust (R17; log entry 88). -/
def State.copyHeld (s : State) (p n : Nat) (c : RowCmd) : Bool :=
  s.weightsHeld && c.copy && (List.range c.rows).any (fun i =>
    match (s.mu p n).regionOf (c.src + i) with
    | some r => ((s.mu p n).reg r).kind == 1
    | none => false)

/-- FILL or COPY of whole rows with their poison (R95, R99); one of the image waits where its weights do. -/
def State.rowCommand (s : State) (p n : Nat) (c : RowCmd) (byEvent : Bool) : State :=
  if !s.awake then s
  else if !s.muClocked p n then (if byEvent then s else s.emit (.code Codes.clkGated))
  else if s.rowCmdRefused p n c byEvent then
    (if byEvent then s else s.setMu p n { s.mu p n with cmdResult := Codes.refused })
  else if byEvent && s.copyHeld p n c then s
  else
    let (rows, s) : List (List Byte × Bool) × State :=
      if c.copy then
        (List.range c.rows).foldl (fun (acc : List (List Byte × Bool) × State) i =>
          let (bs, bad, s) := acc.2.muRead p n (512 * (c.src + i)) 512
          (acc.1 ++ [(bs, bad)], s)) ([], s)
      else
        let w := leBytes 8 (s.mu p n).fillPat.toNat
        (List.replicate c.rows ((List.replicate 64 w).flatten, false), s)
    let s := s.setMu p n { s.mu p n with cmd := some c }
    rows.zipIdx.foldl (fun s (x, i) => s.muWrite p n (512 * (c.dst + i)) x.1 x.2) s

def execFill (p : Fin 4) (mu : Fin 256) (dst : BitVec 13) (rows : BitVec 14) (byEvent : Bool) (s : State) : Outcome :=
  .next (s.rowCommand p.val mu.val { copy := false, dst := dst.toNat, src := 0, rows := rows.toNat } byEvent)

def execCopy (p : Fin 4) (mu : Fin 256) (dst src : BitVec 13) (rows : BitVec 14) (byEvent : Bool) (s : State) : Outcome :=
  .next (s.rowCommand p.val mu.val { copy := true, dst := dst.toNat, src := src.toNat, rows := rows.toNat } byEvent)

/-- ROW_COMMAND_DONE. -/
def rowCommandDone (p n : Nat) (s : State) : State :=
  let m := s.mu p n
  if m.cmd.isSome && s.muClocked p n then s.setMu p n { m with cmd := none, cmdResult := Codes.ok } else s

def execRowCommandDone (p : Fin 4) (mu : Fin 256) (s : State) : Outcome := .next (rowCommandDone p.val mu.val s)

/-! Credits and remote writes (R96 to R98) -/

/-- Grant k rows of credit: the window's count, and the sender's benchmark (R97). -/
def State.grant (s : State) (p n r k : Nat) : State :=
  let m := s.mu p n
  let g := m.reg r
  let s := s.setMu p n (m.setReg r { g with granted := g.granted + BitVec.ofNat 32 k, freed := 0 })
  if k = 0 then s
  else if g.cbmLocal then s.bmkAdd g.cbmIndex (BitVec.ofNat 32 k)
  else s.request (BitVec.ofNat 16 g.cbmDev) true .bmkAdd
    (.bmk (BitVec.ofNat 16 g.cbmIndex) 1 (BitVec.ofNat 32 k))

/-- The window's credit size (R97). -/
def RegSt.creditSize (g : RegSt) : Nat := if g.kind = 6 then g.parkRows else g.rows

/-- The window holds no data. -/
def RegSt.windowEmpty (g : RegSt) : Bool := if g.kind = 6 then g.parked.isEmpty else g.fifoEmpty

/-- CREDIT_RETURN; none while the step has failed (R404). -/
def creditReturn (p n r : Nat) (s : State) : State :=
  let g := (s.mu p n).reg r
  if s.muLive p n && !s.stepFailed && g.window && (g.kind = 4 || g.kind = 6) && 0 < g.freed
      && (g.retBatch + 1 ≤ g.freed || g.windowEmpty) then s.grant p n r g.freed
  else s

def execCreditReturn (p : Fin 4) (mu : Fin 256) (r : Fin 16) (s : State) : Outcome :=
  .next (creditReturn p.val mu.val r.val s)

/-- The window region that a byte range of an MU lies in (R96). -/
def Mu.windowOf (m : Mu) (off len : Nat) : Option Nat :=
  match m.regionOf (off / 512) with
  | some r => let g := m.reg r
    if g.window && (off + len - 1) / 512 < g.baseRow + g.rows then some r else none
  | none => none

/-- Rows a byte range touches. -/
def rowSpan (off len : Nat) : Nat := if len = 0 then 0 else (off + len - 1) / 512 - off / 512 + 1

/-- The write would pass the credit granted (R96), modulo 2^32. -/
def RegSt.overCredit (g : RegSt) (k : Nat) : Bool := decide ((g.granted - g.received).toNat < k)

/-- A remote write of bytes into a window, or the code that discards it (R96). A row written whole into a QUEUE
window is four tokens (log entry 34). -/
def State.remoteWrite (s : State) (p n off : Nat) (bs : List Byte) (poison : Bool) : State × Code :=
  let (sb, s) := s.takeSpine
  let poison := poison || sb
  let s := s.muPoisonIn p n poison
  let m := s.mu p n
  match m.windowOf off bs.length with
  | none => ((s.raiseMu Codes.winAddr p n ((m.regionOf (off / 512)).getD 0) (some 2)), Codes.winAddr)
  | some r =>
    let g := m.reg r
    let k := rowSpan off bs.length
    if g.kind = 6 then (s.raiseMu Codes.winAddr p n r (some 2), Codes.winAddr)
    else if g.overCredit k then (s.raiseMu Codes.creditOverrun p n r (some 1), Codes.creditOverrun)
    else
      let m := m.writeWide off bs poison
      let g := m.reg r
      let m := if g.kind = 4 then
          (List.range (4 * k)).foldl (fun m i =>
              m.setTag (4 * (off / 512) + i) { last := false, poison := poison, epoch := m.epoch }) m
        else m
      let g := { g with
        received := g.received + BitVec.ofNat 32 k
        hi := if g.kind = 4 then g.hi + 4 * k else g.hi
        freed := if g.kind = 4 then g.freed else g.freed + k }
      (s.setMu p n (m.setReg r g), Codes.ok)

/-- A remote contribution segment (R91, R92, R349). One that has credit and finds no free park row, because segments of
this device hold them, is counted as received, discarded, and raises CREDIT_OVERRUN (log entry 89). -/
def State.remoteSegment (s : State) (p n off contrib : Nat) (ts : List VIn) : State × Code :=
  let (sb, s) := s.takeSpine
  let ts := if sb then ts.map (fun t => { t with poison := true }) else ts
  let s := s.muPoisonIn p n (ts.any (·.poison))
  let m := s.mu p n
  let row := off / 512
  let k := cdiv (128 * ts.length) 512
  match m.regionOf row with
  | none => (s.raiseMu Codes.winAddr p n 0 (some 2), Codes.winAddr)
  | some r =>
    let g := m.reg r
    if !g.window || g.kind != 6 then (s.raiseMu Codes.winAddr p n r (some 2), Codes.winAddr)
    else if g.overCredit k then (s.raiseMu Codes.creditOverrun p n r (some 1), Codes.creditOverrun)
    else
      let s := s.setMu p n (m.setReg r { g with received := g.received + BitVec.ofNat 32 k })
      let x : Segment := { region := r, contrib := contrib, firstRow := row, tokens := ts, gen := none }
      if !g.segFits row (segElements g ts).length then
        ((s.freeRows p n r k).raiseMu Codes.accumBounds p n r (some 10), Codes.accumBounds)
      else if g.orderBad x then
        ((s.freeRows p n r k).raiseMu Codes.accumOrder p n r (some 3), Codes.accumOrder)
      else match s.segAccept p n x with
        | some t => (t, Codes.ok)
        | none => (s.raiseMu Codes.creditOverrun p n r (some 1), Codes.creditOverrun)

/-! Scrubbing (R100) -/

/-- SCRUB_ROW: bank row k of every bank, which are rows 16k to 16k + 15 (R81). -/
def scrubRow (p n : Nat) (ups : List Upset) (s : State) : State :=
  if !s.muClocked p n then s else
  let s := s.strikes ups
  let k := (s.mu p n).scrubRow
  let s := (List.range 16).foldl (fun s i => s.muCheck p n (512 * (16 * k + i)) 512 .scrub) s
  let m := s.mu p n
  s.setMu p n { m with scrubRow := (k + 1) % 512, scrubPasses := if k = 511 then m.scrubPasses + 1 else m.scrubPasses }

def execScrubRow (p : Fin 4) (mu : Fin 256) (ups : List Upset) (s : State) : Outcome := .next (scrubRow p.val mu.val ups s)

/-- SCRUB_LATE. -/
def scrubLate (p n : Nat) (s : State) : State :=
  let m := s.mu p n
  if s.muClocked p n then s.setMu p n { m with scrubLate := satAdd 16 m.scrubLate 1 } else s

def execScrubLate (p : Fin 4) (mu : Fin 256) (s : State) : Outcome := .next (scrubLate p.val mu.val s)

end Sys2Proof.Machine
end

