-- ==== Sys2Proof/Machine/Traverse.lean ====
section
/-! DEFINITION. The traverse: arrival and departure of tokens, deadlock detection and spill, drains (R103 to R128). -/
namespace Sys2Proof.Machine

/-! Routes (R106, R107, R114, R127) -/

/-- Outputs of a network at a switch. -/
def outChans : Net → Nat
  | .vector => 48 | .scalar => 20 | .control => 12

/-- Route entry of output o: its source and whether it is driven (R127). -/
def Sw.route (w : Sw) (net o : Nat) : Option Nat :=
  let k := (if net = 0 then 0 else if net = 1 then 12 else 17) + o / 4
  let e := fld (SMap.get 0 w.routes k) (16 * (o % 4)) 16
  if e / 256 % 2 = 1 then some (e % 256) else none

/-- Fan-out of an input: the outputs whose source it is (R107). -/
def Sw.fanOut (w : Sw) (net : Net) (i : Nat) : List Nat :=
  (List.range (outChans net)).filter (fun o => w.route (netNum net) o == some i)

/-- Tracks of a direction in a network. -/
def tracks : Net → Nat
  | .vector => 8 | .scalar => 4 | .control => 2

/-- The neighbouring site in direction 0 N, 1 E, 2 S, 3 W, inside the plat (R106). -/
def neighbour (site dir : Nat) : Option Nat :=
  let y := site / 32
  let x := site % 32
  match dir with
  | 0 => if y = 0 then none else some (site - 32)
  | 1 => if x = 31 then none else some (site + 1)
  | 2 => if y = 15 then none else some (site + 32)
  | _ => if x = 0 then none else some (site - 1)

/-- The facing site across the east-west edge, and across the north-south edge (R114). -/
def facingEW (p site : Nat) : Option (Nat × Nat) :=
  let x := site % 32
  if p % 2 = 0 && x = 31 then some (p + 1, site - 31)
  else if p % 2 = 1 && x = 0 then some (p - 1, site + 31) else none

def facingNS (p site : Nat) : Option (Nat × Nat) :=
  let y := site / 32
  if p < 2 && y = 15 then some (p + 2, site - 480)
  else if 2 ≤ p && y = 0 then some (p - 2, site + 480) else none

/-- Where an output leads. -/
inductive Dest where
  | link (p site net chan : Nat)
  | cuA (n : Nat) | cuB (n : Nat) | cuS (n : Nat)
  | gen (n chan : Nat) | qi (n k : Nat) | events (n : Nat)
  | nowhere
  deriving DecidableEq, Repr

/-- Destination of output o of a site's switch (R106). A CU has no use for an event token: one that a route brings to it is
taken and ends there (log entry 91). -/
def destOf (p site : Nat) (net : Net) (o : Nat) : Dest :=
  let t := tracks net
  let nn := netNum net
  let cross := fun (f : Option (Nat × Nat)) => match f with
    | some (q, x) => Dest.link q x nn o
    | none => .nowhere
  let n := site / 2
  if o < 4 * t then
    match neighbour site (o / t) with
    | some x => .link p x nn ((o / t + 2) % 4 * t + o % t)
    | none => .nowhere
  else match net with
    | .vector =>
      if 0x28 ≤ o && o ≤ 0x2B then cross (facingEW p site)
      else if o = 0x2C || o = 0x2D then cross (facingNS p site)
      else if siteIsCu site then (if o = 0x20 then .cuA n else if o = 0x21 then .cuB n else .nowhere)
      else if o ≤ 0x23 then .gen n o
      else if o = 0x24 then .qi n 0
      else if o = 0x26 then .qi n 1 else .nowhere
    | .scalar =>
      if o = 0x10 then (if siteIsCu site then .cuS n else .nowhere)
      else if o = 0x12 then cross (facingEW p site)
      else if o = 0x13 then cross (facingNS p site) else .nowhere
    | .control =>
      if o = 0x08 then (if siteIsCu site then .nowhere else .events n)
      else if o = 0x0A then cross (facingEW p site)
      else if o = 0x0B then cross (facingNS p site) else .nowhere

/-- The output can accept a token now (R107); a unit port when the unit takes one. -/
def State.destFree (s : State) (p : Nat) (unitReady : Bool) (t : Tok) : Dest → Bool
  | .link q x net c => s.roomIn q x net c
  | .qi n k => unitReady && (SMap.get [] (s.mu p n).qin k).isEmpty
  | .events n => unitReady && (s.mu p n).events.isEmpty && (match t with
    | .c e => (s.mu p n).eventRoom e.tag.toNat
    | _ => true)
  | .nowhere => true
  | _ => unitReady

/-- A token enters a unit: its poison and a parity failure on the last link show in the unit's fault bits (R76, R102). -/
def Cu.takeFlags (c : Cu) (poison parityBad : Bool) : Cu :=
  let c := if poison then { c.flag 4 with cntPoison := c.cntPoison + 1 } else c
  if parityBad then c.flag 5 else c
def Mu.takeFlags (m : Mu) (poison parityBad : Bool) : Mu :=
  let m := if poison then m.poisonIn else m
  if parityBad then m.flag 8 else m

/-- The generator of an MU whose traverse channel this is (R106). -/
def Mu.genOf (m : Mu) (chan : Nat) : Option Nat :=
  (List.range 4).find? (fun a => !(m.ag a).words.isEmpty && (m.ag a).chan == chan && (m.ag a).isWrite)

/-- Deliver a token to an output's destination. -/
def State.deliver (s : State) (p : Nat) (bad : Bool) (t : Tok) (d : Dest) : State :=
  match d, t with
  | .link q x net c, t => s.pushLink q x net c t
  | .cuA n, .v v => let c := s.cu p n
    s.setCu p n ({ c with inA := c.inA ++ [{ vIn v with poison := v.poison || bad }] }.takeFlags v.poison bad)
  | .cuB n, .v v => let c := s.cu p n
    s.setCu p n ({ c with inB := c.inB ++ [{ vIn v with poison := v.poison || bad }] }.takeFlags v.poison bad)
  | .cuS n, .s v => let c := s.cu p n
    s.setCu p n ({ c with inS := c.inS ++ [{ sIn v with poison := v.poison || bad }] }.takeFlags v.poison bad)
  | .gen n chan, .v v =>
    let m := s.mu p n
    (match m.genOf chan with
     | some a => s.setMu p n ((m.setAg a { m.ag a with
         input := (m.ag a).input ++ [{ vIn v with poison := v.poison || bad }] }).takeFlags v.poison bad)
     | none => s)
  | .qi n k, .v v =>
    let m := s.mu p n
    let q := SMap.get [] m.qin k ++ [{ vIn v with poison := v.poison || bad }]
    s.setMu p n ({ m with qin := SMap.set [] m.qin k q }.takeFlags v.poison bad)
  | .events n, .c v => let m := s.mu p n; s.setMu p n { m with events := m.events ++ [v.tag.toNat] }
  | _, _ => s

/-! Spill (R118 to R120) -/

def Sw.spillMu (w : Sw) : Nat := fld w.spill 0 8
def Sw.spillRegion (w : Sw) : Nat := fld w.spill 8 4
def Sw.spillEn (w : Sw) : Bool := bitOf w.spill 12

/-- A token as its SPILL slot holds it, and back. -/
def spillIn : Tok → VIn
  | .v t => vIn t
  | .s t => { data := BitVec.ofNat 1024 (t.value.toNat + 2 ^ 32 * t.tag.toNat), poison := t.poison, last := false }
  | .c t => { data := BitVec.ofNat 1024 t.tag.toNat, poison := false, last := false }

def spillOut (net epoch : Nat) (v : VIn) : Tok :=
  if net = 0 then .v (mkV v.data epoch v.poison v.last)
  else .s (mkS (BitVec.ofNat 32 (fld v.data 0 32)) (BitVec.ofNat 8 (fld v.data 32 8)) epoch v.poison)

/-- A spilling queue with room takes the head of its SPILL region before any arriving token (R119). -/
def State.unspill (s : State) (p site net chan : Nat) : State :=
  let w := s.sw p site
  let g := (s.mu p w.spillMu).reg w.spillRegion
  if w.spilling == some (net, chan) && (w.inQ net chan).q.length < 8 && !g.fifoEmpty then
    let (v, s) := s.fifoTake p w.spillMu w.spillRegion
    let w := s.sw p site
    let q := w.inQ net chan
    s.setSw p site { w.setIn net chan { q with q := q.q ++ [spillOut net w.epoch v] } with
                     spillTokens := w.spillTokens - 1 }
  else s

/-! Arrival (R112, R113) -/

/-- TRV_DLD_LOG of a plat. -/
def State.dldLog (s : State) (p : Nat) : W64 := (s.plat p).dldLog

/-- An occurrence at a switch: a record only for the first of its code until its bit is cleared (R113). -/
def State.raiseSw (s : State) (code : Code) (p site bit : Nat) : State :=
  let w := s.sw p site
  if bitOf w.fault bit then
    let latch := s.adj.inStep && !s.flt.first.valid
    let f := s.flt.count .cont
    let f := if latch then
        { f with first := { code := code, srcKind := 3, srcInst := siteKey p site, valid := true } } else f
    ({ s with flt := f, adj := { s.adj with kFault := true } }).stepFail
  else (s.setSw p site { w with fault := setBit w.fault bit }).raise .cont code 3 (siteKey p site) (s.dldLog p)

/-- What an arriving token becomes: forwarded, discarded as stale, or failing parity (R112). -/
inductive Arrived where
  | pass (t : Tok)
  | parity (t : Option Tok)
  | stale
  deriving DecidableEq, Repr

/-- The checks of R112 in their order. -/
def Sw.judge (w : Sw) (net : Net) (chan : Nat) (t : Tok) : Arrived :=
  let withEpoch : Tok → Tok := fun t => match t with
    | .v a => .v (mkV a.data w.epoch true a.last)
    | .s a => .s (mkS a.value a.tag w.epoch true)
    | .c a => .c a
  if !hparOk t then (match t with
    | .c _ => .parity none
    | t => .parity (some (withEpoch t)))
  else if tokEpoch t != w.epoch then .stale
  else if (w.fanOut net chan).isEmpty then .stale
  else if !dparOk t then .parity (some (tokPoisoned t))
  else .pass t

/-- A token joins its queue, or the tail of the SPILL region when its queue is full (R119). -/
def State.enqueue (s : State) (p site net chan : Nat) (t : Tok) : State :=
  let w := s.sw p site
  let q := w.inQ net chan
  if q.q.length < 8 then s.setSw p site (w.setIn net chan { q with q := q.q ++ [t] })
  else
    let s := s.setSw p site { w with spillTokens := w.spillTokens + 1 }
    s.fifoPut p w.spillMu w.spillRegion (spillIn t) w.epoch

/-- The queue, or its SPILL region, has room for one more token. -/
def State.mayEnqueue (s : State) (p site net chan : Nat) : Bool :=
  let w := s.sw p site
  (w.inQ net chan).q.length < 8
    || (w.spilling == some (net, chan) && !((s.mu p w.spillMu).reg w.spillRegion).fifoFull)

/-- A bridge counts tokens that fail parity on arrival from it (R127). -/
def State.bridgeParity (s : State) (p net chan : Nat) : State :=
  if bridgeChan net chan then
    let e := if net = 0 then (if chan ≤ 0x2B then 0 else 1) else if net = 1 then chan - 0x12 else chan - 0x0A
    let x := s.plat p
    s.setPlat p { x with parErr := SMap.set 0 x.parErr e (satAdd 16 (SMap.get 0 x.parErr e) 1) }
  else s

/-- TOKEN_ARRIVAL: the oldest token under way into an input, with the damage it took on its link. -/
def tokenArrival (p site : Nat) (net : Net) (chan : Nat) (flips : Tok) (s : State) : State :=
  let nn := netNum net
  let w := s.sw p site
  let q := w.inQ nn chan
  match q.link with
  | [] => s
  | t :: ts =>
    if !s.tokensMove || !s.gatesOpen (.sw p site) || w.run == .unconfigured || !s.mayEnqueue p site nn chan then s
    else
      let s := s.setSw p site (w.setIn nn chan { q with link := ts })
      match w.judge net chan (tokFlip t flips) with
      | .pass t => s.enqueue p site nn chan t
      | .stale =>
        let w := s.sw p site
        (s.setSw p site { w with cntStale := w.cntStale + 1 }).raiseSw Codes.staleToken p site 0
      | .parity o =>
        let w := s.sw p site
        let s := (s.setSw p site { w with cntParity := w.cntParity + 1 }).bridgeParity p nn chan
        let s := match o with
          | some t => if (w.fanOut net chan).isEmpty then s else s.enqueue p site nn chan t
          | none => s
        s.raiseSw Codes.tokenParity p site 1

def execTokenArrival (p : Fin 4) (site : Fin 512) (net : Net) (chan : Fin 64) (flips : Tok) (s : State) : Outcome :=
  .next (tokenArrival p.val site.val net chan.val flips s)

/-! Departure (R107) and the closing of boundary inputs (R121) -/

/-- Site and plat that feed an input over a link; none for a unit's or plat control's input. -/
def sourceSite (p site : Nat) (net : Net) (chan : Nat) : Option (Nat × Nat) :=
  let t := tracks net
  if chan < 4 * t then (neighbour site (chan / t)).map (fun x => (p, x))
  else if bridgeChan (netNum net) chan then
    (match net with
     | .vector => if chan ≤ 0x2B then facingEW p site else facingNS p site
     | .scalar => if chan = 0x12 then facingEW p site else facingNS p site
     | .control => if chan = 0x0A then facingEW p site else facingNS p site)
  else none

/-- The input is fed from outside the set its switch is drained with: a bridge, or a switch of another region (R121). -/
def State.boundary (s : State) (p site : Nat) (net : Net) (chan : Nat) : Bool :=
  bridgeChan (netNum net) chan || (match sourceSite p site net chan with
    | some (q, x) => !bitOf (s.sw p site).drainSet (s.sw q x).cregion
    | none => false)

/-- TOKEN_DEPARTURE: the head token leaves on every output of its fan-out, or not at all. -/
def tokenDeparture (p site : Nat) (net : Net) (chan : Nat) (unitReady parityBad : Bool) (s : State) : State :=
  let nn := netNum net
  let w := s.sw p site
  let q := w.inQ nn chan
  let outs := (w.fanOut net chan).map (destOf p site net)
  match q.q with
  | [] => s
  | t :: ts =>
    if !s.tokensMove || !s.gatesOpen (.sw p site) || !(w.run == .running || w.run == .draining) || outs.isEmpty
        || !outs.all (s.destFree p unitReady t) then s
    else
      let close := w.run == .draining && net == .vector && tokLast t && s.boundary p site net chan
      let s := s.setSw p site (w.setIn nn chan
        { q with q := ts, blocked := false, passed := true, passedLast := tokLast t, closed := q.closed || close })
      let s := outs.foldl (fun s d => s.deliver p parityBad t d) s
      s.unspill p site nn chan

def execTokenDeparture (p : Fin 4) (site : Fin 512) (net : Net) (chan : Fin 64) (unitReady unitParityBad : Bool)
    (s : State) : Outcome :=
  .next (tokenDeparture p.val site.val net chan.val unitReady unitParityBad s)

/-! The deadlock detector (R117 to R120) -/

/-- QUEUE_BLOCKED: the queue has been full for W D0 cycles without a dequeue (R117). -/
def queueBlocked (p site : Nat) (net : Net) (chan : Nat) (s : State) : State :=
  let w := s.sw p site
  let q := w.inQ (netNum net) chan
  if 8 ≤ q.q.length && s.tokensMove then s.setSw p site (w.setIn (netNum net) chan { q with blocked := true }) else s

def execQueueBlocked (p : Fin 4) (site : Fin 512) (net : Net) (chan : Fin 64) (s : State) : Outcome :=
  .next (queueBlocked p.val site.val net chan.val s)

def nodePlat : CycleNode → Nat
  | .queue p _ _ _ => p.val | .unit p _ => p.val

/-- The channel is an input from the site's CU or MU (R106); control channel 0x09 is plat control's. -/
def unitSource (net : Net) (chan : Nat) : Bool :=
  match net with
  | .vector => 0x20 ≤ chan && chan ≤ 0x27
  | .scalar => chan == 0x11
  | .control => false

/-- The source of an input queue as a member of a cycle: the queue its link's output reads, or the site's unit. -/
def State.sourceNode (s : State) (p site : Nat) (net : Net) (chan : Nat) (n : CycleNode) : Bool :=
  match sourceSite p site net chan with
  | none => (match n with
    | .unit q x => unitSource net chan && q.val == p && x.val == site
    | _ => false)
  | some (sp, sx) =>
    let t := tracks net
    let o := if chan < 4 * t then (chan / t + 2) % 4 * t + chan % t else chan
    (match n with
     | .queue q x m c => q.val == sp && x.val == sx && m == net && (s.sw sp sx).route (netNum net) o == some c.val
     | .unit .. => false)

/-- Another switch of the plat still spills into the region (R118, R119). -/
def State.spillHeld (s : State) (p site mu region : Nat) : Bool :=
  s.sws.any (fun e => e.1 / 512 == p && e.1 % 512 != site && e.2.spilling.isSome
    && e.2.spillMu == mu && e.2.spillRegion == region)

/-- Queues of a plat that spill now (R127). -/
def State.spillsNow (s : State) (p : Nat) : Nat := (s.sws.filter (fun e => e.1 / 512 == p && e.2.spilling.isSome)).length

/-- A candidate victim (R118). -/
def State.candidate (s : State) (cycle : List CycleNode) (n : CycleNode) : Bool :=
  match n with
  | .unit .. => false
  | .queue p site net chan =>
    let w := s.sw p.val site.val
    let g := (s.mu p.val w.spillMu).reg w.spillRegion
    net != .control && 8 ≤ (w.inQ (netNum net) chan.val).q.length
      && w.spillEn && cycle.any (s.sourceNode p.val site.val net chan.val)
      && ((g.fifoEmpty && w.spilling.isNone && !s.spillHeld p.val site.val w.spillMu w.spillRegion) || (w.spilling == some (netNum net, chan.val) && !g.fifoFull))

def nodeRank : CycleNode → Nat
  | .queue p site net chan => ((p.val * 512 + site.val) * 4 + netNum net) * 256 + chan.val
  | .unit p site => ((p.val * 512 + site.val) * 4 + 3) * 256

/-- The victim: the smallest plat, site, network and channel (R118). -/
def State.victim (s : State) (cycle : List CycleNode) : Option CycleNode :=
  (cycle.filter (s.candidate cycle)).foldl (fun (b : Option CycleNode) n => match b with
    | none => some n
    | some m => if nodeRank n < nodeRank m then some n else b) none

/-- The output leads to a unit of the site. -/
def Dest.atUnit : Dest → Bool
  | .link .. => false | .nowhere => false | _ => true

/-- The unit of a site cannot go on for want of a token at this port of its switch: a CU whose port holds none, a walk that
writes, an empty QUEUE region. -/
def State.unitLacks (s : State) (p : Nat) (d : Dest) : Bool :=
  match d with
  | .cuA n => s.cuLive p n && (s.cu p n).inA.isEmpty
  | .cuB n => s.cuLive p n && (s.cu p n).inB.isEmpty
  | .cuS n => s.cuLive p n && (s.cu p n).inS.isEmpty
  | .gen n o => (List.range 4).any (fun a => let g := (s.mu p n).ag a; g.busy && g.isWrite && g.chan == o)
  | .qi n k => (match (s.sw p (muSite n)).queueRegion k with
    | some r => ((s.mu p n).reg r).fifoEmpty
    | none => false)
  | _ => false

/-- Member a of a cycle waits on member b (R117, R120): a blocked queue on a full queue downstream or on the unit that
does not take its head; an empty queue on its source; a unit on an input it lacks, or on a full queue that takes its
output. -/
def State.waitsOn (s : State) (a b : CycleNode) : Bool :=
  match a with
  | .queue p x net c =>
    let i := (s.sw p.val x.val).inQ (netNum net) c.val
    if i.q.isEmpty then i.link.isEmpty && s.sourceNode p.val x.val net c.val b
    else i.blocked && (((s.sw p.val x.val).fanOut net c.val).map (destOf p.val x.val net)).any (fun d => match d, b with
      | .link q y nn k, .queue r z m e => r.val == q && z.val == y && netNum m == nn && e.val == k && !s.roomIn q y nn k
      | d, .unit r z => d.atUnit && r == p && z == x
      | _, _ => false)
  | .unit p x => (match b with
    | .unit .. => false
    | .queue r z net c =>
      let i := (s.sw r.val z.val).inQ (netNum net) c.val
      r == p && z == x
        && ((i.q.isEmpty && i.link.isEmpty
              && (((s.sw r.val z.val).fanOut net c.val).map (destOf r.val z.val net)).any (s.unitLacks r.val))
            || (8 ≤ i.q.length && unitSource net c.val)))

/-- The member is a blocked queue (R117). -/
def State.memberBlocked (s : State) (n : CycleNode) : Bool :=
  match n with
  | .queue p x net c => ((s.sw p.val x.val).inQ (netNum net) c.val).blocked
  | .unit .. => false

/-- The members form a cycle: each waits on the next, the last on the first, and some queue is blocked; the plat's detector
is the one of the lowest plat on it (R117). -/
def State.cycleSeen (s : State) (p : Nat) (cycle : List CycleNode) : Bool :=
  cycle.any s.memberBlocked && cycle.all (fun n => p ≤ nodePlat n) && cycle.any (fun n => nodePlat n == p)
    && (cycle.zip (cycle.drop 1 ++ cycle.take 1)).all (fun e => s.waitsOn e.1 e.2)

/-- DEADLOCK_RESOLUTION. A victim that spills already goes on, without a new start. Without a candidate the first queue
of the cycle shows SPILL_EXHAUSTED (R120; log entry 91). -/
def deadlockResolution (p : Nat) (cycle : List CycleNode) (s : State) : State :=
  if !(s.plat p).dldEn || !s.tokensMove || !s.cycleSeen p cycle then s
  else match s.victim cycle with
    | some (.queue vp vs net chan) =>
      let w := s.sw vp.val vs.val
      let nn := netNum net
      if w.spilling.isSome then s.setSw vp.val vs.val (w.setIn nn chan.val { w.inQ nn chan.val with blocked := false })
      else
      let w := { w with spilling := some (nn, chan.val), fault := setBit w.fault 3 }
      let s := s.setSw vp.val vs.val (w.setIn nn chan.val { w.inQ nn chan.val with blocked := false })
      let x := s.plat p
      let log := mkWord 64 [(0, 9, vs.val), (9, 2, vp.val), (11, 2, nn), (13, 8, chan.val),
        (21, 8, min cycle.length 255), (29, 1, 1)]
      let s := s.setPlat p { x with dldLog := log, dldSpills := x.dldSpills + 1 }
      s.raise .corr Codes.deadlockSpill 3 (siteKey vp.val vs.val) log
    | _ =>
      (match cycle.find? (fun n => match n with | .queue .. => true | _ => false) with
       | some (.queue q x _ _) =>
         let w := s.sw q.val x.val
         (s.setSw q.val x.val { w with fault := setBit w.fault 2 }).raise .cont Codes.spillExhausted 3
           (siteKey q.val x.val) (s.dldLog p)
       | _ => s)

def execDeadlockResolution (p : Fin 4) (cycle : List CycleNode) (s : State) : Outcome :=
  .next (deadlockResolution p.val cycle s)

/-- SPILL_END (R119). -/
def spillEnd (p site : Nat) (s : State) : State :=
  let w := s.sw p site
  if w.spilling.isSome && ((s.mu p w.spillMu).reg w.spillRegion).fifoEmpty then
    s.setSw p site { w with spilling := none, spillTokens := 0 }
  else s

def execSpillEnd (p : Fin 4) (site : Fin 512) (s : State) : Outcome := .next (spillEnd p.val site.val s)

/-! Draining (R121 to R123) -/

def Cfg.configured (c : Cfg) (p site : Nat) : Bool := (SMap.get 0xFF c.siteMap (siteKey p site)) != 0xFF

/-- Sites of plat p whose configuration region is in the mask. -/
def State.sitesOf (s : State) (p : Nat) (mask : W16) : List Nat :=
  (List.range 512).filter (fun x =>
    let w := s.sw p x
    w.run != .unconfigured && mask.toNat.testBit w.cregion)

/-- Inputs of a switch: every channel that a route reads. -/
def Sw.inputs (w : Sw) : List (Net × Nat) :=
  [Net.vector, .scalar, .control].flatMap (fun net =>
    ((List.range (outChans net)).filterMap (w.route (netNum net))).eraseDups.map (fun i => (net, i)))

/-- Close at once the boundary inputs R121 closes at once. -/
def State.closeInputs (s : State) (p site : Nat) : State :=
  let w := s.sw p site
  s.setSw p site ((w.inputs.filter (fun (net, i) => s.boundary p site net i)).foldl (fun w (net, i) =>
    let q := w.inQ (netNum net) i
    let now := net != .vector || !q.passed || (q.q.isEmpty && q.link.isEmpty && q.passedLast)
    if now then w.setIn (netNum net) i { q with closed := true } else w) w)

/-- Set the result of the last TRV_DRAIN_CMD. -/
def State.drainCode (s : State) (p : Nat) (c : Code) : State := s.setPlat p { s.plat p with drainResult := c }

/-- Regions of the mask enter DRAINING. -/
def State.beginDrain (s : State) (p : Nat) (mask : W16) : State :=
  let sites := s.sitesOf p mask
  let s := sites.foldl (fun s x => s.setSw p x { s.sw p x with run := .draining, drainSet := mask }) s
  let s := s.setPlat p { s.plat p with draining := (s.plat p).draining ||| mask
                                       timedOut := (s.plat p).timedOut &&& ~~~mask }
  sites.foldl (fun s x => s.closeInputs p x) s

/-- DRAIN: REFUSED for a region already DRAINING or DRAINED (R123); a command completes when it has drained, one of no
region at once (log entry 91). -/
def State.drainOrder (s : State) (p : Nat) (mask : W16) : State × Option Code :=
  let x := s.plat p
  if (mask &&& (x.draining ||| x.drained)) != 0 then (s.drainCode p Codes.refused, some Codes.refused)
  else if mask = 0 then (s.drainCode p Codes.ok, some Codes.ok)
  else ((s.beginDrain p mask).drainCode p Codes.ok, none)

/-- Regions of the mask are reopened, epochs unchanged (R123). -/
def State.reopen (s : State) (p : Nat) (mask : W16) : State :=
  let sites := s.sitesOf p mask
  let s := sites.foldl (fun s x =>
    let w := s.sw p x
    let s := s.setSw p x { w with run := .running
                                  ins := SMap.mapVals {} (fun _ q => { q with closed := false }) w.ins }
    if siteIsCu x then
      (let c := s.cu p (x / 2)
       if c.run == .drained then s.setCu p (x / 2) { c with run := .live } else s)
    else
      (let m := s.mu p (x / 2)
       if m.run == .drained then s.setMu p (x / 2) { m with run := .live } else s)) s
  s.setPlat p { s.plat p with drained := (s.plat p).drained &&& ~~~mask, draining := (s.plat p).draining &&& ~~~mask
                              timedOut := (s.plat p).timedOut &&& ~~~mask }

/-- Regions of plat p that a partial load in progress replaces: they stay DRAINED (R152). -/
def State.replacing (s : State) (p : Nat) : W16 :=
  if s.img.partialBusy then BitVec.ofNat 16 (fld s.img.partialMask (16 * p) 16) else 0

/-- RESUME (R123); a region that a partial load replaces is refused (R152; log entry 91). -/
def State.resumeOrder (s : State) (p : Nat) (mask : W16) : State × Code :=
  if (mask &&& ~~~(s.plat p).drained) != 0 || (mask &&& s.replacing p) != 0 then (s.drainCode p Codes.refused, Codes.refused)
  else ((s.reopen p mask).drainCode p Codes.ok, Codes.ok)

/-- A TRV_DRAIN_CMD word: op 0 DRAIN, op 1 RESUME; the others are reserved and refused. -/
def State.drainWord (s : State) (p : Nat) (w : W64) : State × Option Code :=
  let mask : W16 := BitVec.ofNat 16 (fld w 16 16)
  match fld w 0 2 with
  | 0 => s.drainOrder p mask
  | 1 => let (s, c) := s.resumeOrder p mask; (s, some c)
  | _ => (s.drainCode p Codes.refused, some Codes.refused)

/-- Effect of a DRAIN command on its target plat (R362). -/
def drainEff (w : CmdWord) (s : State) : State × Option Reply :=
  if 4 ≤ w.desc.target.toNat then (s, some { code := Codes.refused })
  else
    let (s, c) := s.drainWord w.desc.target.toNat (w.payWord 0)
    (s, c.map (fun c => { code := c }))

/-- DRAIN by TRV_DRAIN_CMD or as a command. -/
def drain (p : Nat) (mask : W16) (via : Via) (s : State) : State :=
  match via with
  | .reg path => s.writeBy path (.trv p) (fun s => (s.drainOrder p mask).1)
  | .cmd o =>
    let o := rowOrder o p 0 64 (mask.toNat * 65536)
    s.cmdArrive opDrain o 0 (fun _ => drainEff { opcode := opDrain, desc := o.desc })

def execDrain (p : Fin 4) (mask : W16) (via : Via) (s : State) : Outcome := .next (drain p.val mask via s)

def resume (p : Nat) (mask : W16) (via : Via) (s : State) : State :=
  match via with
  | .reg path => s.writeBy path (.trv p) (fun s => (s.resumeOrder p mask).1)
  | .cmd o =>
    let o := rowOrder o p 0 64 (1 + mask.toNat * 65536)
    s.cmdArrive opDrain o 0 (fun _ => drainEff { opcode := opDrain, desc := o.desc })

def execResume (p : Fin 4) (mask : W16) (via : Via) (s : State) : Outcome := .next (resume p.val mask via s)

/-- A unit holds nothing of its streams (R121). -/
def State.unitQuiet (s : State) (p site : Nat) : Bool :=
  if siteIsCu site then
    let c := s.cu p (site / 2)
    c.engine.isNone && c.writeback.isEmpty && c.readout.isNone && c.inA.isEmpty && c.inB.isEmpty && c.inS.isEmpty
      && c.vec.x.beats.isEmpty && c.vec.y.beats.isEmpty && c.vec.block.isEmpty && !c.sets.any (·.complete)
  else
    let m := s.mu p (site / 2)
    m.segs.isEmpty && m.qin.isEmpty && m.events.isEmpty && (List.range 4).all (fun a => !(m.ag a).busy)
      && (List.range 2).all (fun k => match (s.sw p site).queueRegion k with
        | some r => (m.reg r).fifoEmpty
        | none => true)

/-- The conditions of R121 step 5 at a site. -/
def State.siteQuiet (s : State) (p site : Nat) : Bool :=
  let w := s.sw p site
  w.spilling.isNone && w.ins.all (fun e => e.2.q.isEmpty && e.2.link.isEmpty) && s.unitQuiet p site

/-- Every boundary input of a site is closed (R121, R122). -/
def State.siteClosed (s : State) (p site : Nat) : Bool :=
  let w := s.sw p site
  (w.inputs.filter (fun (net, i) => s.boundary p site net i)).all (fun (net, i) => (w.inQ (netNum net) i).closed)

/-- Drain commands whose regions are all drained complete. -/
def State.completeDrains (s : State) (p : Nat) (code : Code) (f : W16 → Bool) : State :=
  (s.cmd.held.filter (fun h => h.started && h.word.opcode == opDrain && h.word.desc.target.toNat == p
      && f (BitVec.ofNat 16 (fld (h.word.payWord 0) 16 16)))).foldl (fun s h => s.complete h.id { code := code }) s

/-- The mask is that of a drain order whose regions are draining (R121): no region of it drains under another. -/
def State.drainOf (s : State) (p : Nat) (mask : W16) : Bool :=
  mask != 0 && mask &&& ~~~(s.plat p).draining == 0
    && (s.sitesOf p (s.plat p).draining).all (fun i => let d := (s.sw p i).drainSet; d &&& mask == 0 || d == mask)

/-- DRAIN_COMPLETE: 64 quiet D0 cycles have passed. -/
def drainComplete (p : Nat) (mask : W16) (s : State) : State :=
  let x := s.plat p
  let sites := s.sitesOf p mask
  if !s.drainOf p mask || !sites.all (fun i => s.siteQuiet p i && s.siteClosed p i) then s
  else
    let s := sites.foldl (fun s i =>
      let s := s.setSw p i { s.sw p i with run := .drained }
      if siteIsCu i then
        (let c := s.cu p (i / 2)
         if c.run == .live then s.setCu p (i / 2) { c with run := .drained } else s)
      else
        (let m := s.mu p (i / 2)
         if m.run == .live then s.setMu p (i / 2) { m with run := .drained } else s)) s
    let s := s.setPlat p { s.plat p with draining := x.draining &&& ~~~mask, drained := x.drained ||| mask }
    s.completeDrains p Codes.ok (fun m => m &&& ~~~(s.plat p).drained == 0)

def execDrainComplete (p : Fin 4) (mask : W16) (s : State) : Outcome := .next (drainComplete p.val mask s)

/-- DRAIN_TIMEOUT: the regions stay DRAINING (R122); in STOPPING the restart sequence begins (R411). -/
def drainTimeout (p : Nat) (mask : W16) (s : State) : State :=
  let x := s.plat p
  let late := mask &&& x.draining &&& ~~~x.timedOut
  if late = 0 || !s.drainOf p mask then s
  else
    let s := s.setPlat p { x with timedOut := x.timedOut ||| late }
    let s := s.completeDrains p Codes.drainTimeout (fun m => m &&& late != 0)
    let s := s.raise .cont Codes.drainTimeout 4 p (s.plat p).dmaFaultLoc
    if s.img.state == .stopping && !s.stepFailed then s.enterFailed else s

def execDrainTimeout (p : Fin 4) (mask : W16) (s : State) : Outcome := .next (drainTimeout p.val mask s)

end Sys2Proof.Machine
end

