-- ==== Sys2Proof/Machine/Clocks.lean ====
section
/-! DEFINITION. Clocks, gates, the frequency meter, power states, temperature and the adaptive-voltage bus
(R375 to R395, R486, R487). -/
namespace Sys2Proof.Machine

/-! Faults of this chapter carry CLK_FAULT_LOC or PWR_TEMP (R414) -/

/-- PWR_TEMP (R395). -/
def Pwr.tempWord (p : Pwr) : W64 := mkWord 64 [(0, 16, p.temp.toNat), (16, 7, p.sensor), (32, 16, p.peakTemp.toNat)]

def Clk.flag (c : Clk) (b : Nat) : Clk := { c with fault := setBit c.fault b }

/-! PLLs (R378 to R381) -/

/-- PLL_LOCK_FAIL: only with the reference present. -/
def pllLockFail (d : Nat) (s : State) : State :=
  if (s.pll d).coasts || !s.awake then s
  else
    let loc := mkWord 64 [(0, 5, d), (5, 1, 1)]
    let s := { s with clk := { s.clk.flag 2 with faultLoc := loc, pll := SMap.set .unlocked s.clk.pll d .unlocked } }
    s.meterJudge.raise .fatal Codes.pllLockFail 8 0 loc

def execPllLockFail (d : Fin 25) (s : State) : Outcome := .next (pllLockFail d.val s)

/-- A reference is present for the PLLs to lock to (R377, R380). -/
def State.refPresent (s : State) : Bool :=
  match s.dtm.state with
  | .holdover => s.dtmNow.relockTo == some .locked || (s.dtmNow.relockTo == some .localRef && s.clk.refin)
  | .locked => true
  | _ => s.clk.refin

/-- PLL_RELOCK: every coasting PLL has reached nominal; a relock from HOLDOVER takes effect (R358, R380). -/
def pllRelock (s : State) : State :=
  if !(List.range 25).any (fun d => (s.pll d).coasts) || !s.refPresent then s
  else
    let s := { s.setPlls (fun p => if p.coasts then .locked else p) with dtm := s.dtmNow }
    match s.dtm.state, s.dtm.relockTo with
    | .holdover, some .locked =>
      let s := s.stepRecovered
      { s with dtm := { s.dtm with state := .locked, refLost := false, relockTo := none } }
    | .holdover, some x => { s with dtm := { s.dtm.noPort with state := x, refLost := false, relockTo := none } }
    | _, _ => s

def execPllRelock (s : State) : Outcome := .next (pllRelock s)

/-- Contents of every DRAM module are gone (R381). -/
def Dram.forget (d : Dram) : Dram := { d with mem := [], poison := [], err := [] }

/-- REFIN_LOST: the lane clocks stop, so every link drops; the PLLs coast where the local input was selected. -/
def refinLost (s : State) : State :=
  if !s.clk.refin then s
  else
    let s := { s with clk := { s.clk.flag 1 with refin := false }, dram := s.dram.forget, adj := { s.adj with factors := [] } }
    let s := if s.dtm.state == .locked || s.dtm.state == .holdover then s.meterJudge else s.coast
    let s := (List.range 32).foldl (fun s n =>
      let p := s.port n
      if p.state == .training || p.up then (s.setPort n { p with signal := false }).dropLink n else s) s
    s.raise .fatal Codes.refinLost 8 0 s.clk.faultLoc

def execRefinLost (s : State) : Outcome := .next (refinLost s)

/-- LOCAL_INPUT_PRESENT: the lane clocks run again, and ports with light and signal train (R381). -/
def localInputPresent (s : State) : State :=
  if s.clk.refin || !s.awake then s
  else
    let s := { s with clk := { s.clk with refin := true } }
    (List.range 32).foldl (fun s n => s.retrainPort n (s.port n)) s

def execLocalInputPresent (s : State) : Outcome := .next (localInputPresent s)

/-! Gates (R384 to R386) -/

/-- Gates of a domain; 0: no gate tree (R375, R385). -/
def gatesOf (d : Nat) : Nat :=
  if d < 4 then 17 else if 8 ≤ d && d < 12 then 1 else if 12 ≤ d && d < 16 then 3 else if 16 ≤ d && d < 20 then 9 else 0

def Clk.treeMode (c : Clk) (d : Nat) : Bool := bitOf c.gateMode d

/-- Gate g of domain d is open (CLK_GATE_STATUS, R395): neither closed by command nor stopped in automatic mode. -/
def Clk.isOpen (c : Clk) (d g : Nat) : Bool := !c.isClosed d g && !SMap.get false c.stopped (32 * d + g)

/-- A write of CLK_GATE_MODE (R384): a domain that changes mode starts with every gate open. -/
def gatingModeWrite (v : W64) (s : State) : State := s.whenAwake fun s =>
  let mode := (List.range 25).foldl (fun (m : BitVec 25) d => if gatesOf d ≠ 0 && bitOf v d then setBit m d else m) 0
  let changed := fun d => bitOf mode d != s.clk.treeMode d
  { s with clk := { s.clk with
      gateMode := mode
      closed := s.clk.closed.filter (fun e => !changed (e.1 / 32))
      stopped := s.clk.stopped.filter (fun e => !changed (e.1 / 32)) } }

def execGatingModeWrite (value : W64) (s : State) : Outcome := .next (gatingModeWrite value s)

/-- A route of plat p crosses one of its bridges in a configured region (R385). -/
def State.bridgeUsed (s : State) (p : Nat) : Bool :=
  (List.range 512).any (fun x => s.cfg.configured p x && [Net.vector, .scalar, .control].any (fun net =>
    (List.range (outChans net)).any (fun o => ((s.sw p x).route (netNum net) o).isSome &&
      (match destOf p x net o with | .link q _ _ _ => q != p | _ => false))))

/-- Region r of plat p is configured and not DRAINED. -/
def State.regionBusy (s : State) (p r : Nat) : Bool :=
  (List.range 512).any (fun x => s.cfg.configured p x && (s.sw p x).cregion == r) && !bitOf (s.plat p).drained r

/-- A child gate is busy (R385). -/
def State.gateBusy (s : State) (d g : Nat) : Bool :=
  if d < 4 then s.regionBusy d (g - 1)
  else if d < 16 then
    (if g = 1 then (s.au (d - 12)).phase != 0
     else s.mon.digest.isSome || s.mon.job.isSome || s.mon.restore.isSome || s.loadBusy)
  else (s.port (8 * (d - 16) + (g - 1))).state != .off

/-- An accepted timed command runs (R366). -/
def State.timedWindow (s : State) : Bool := s.cmd.held.any (fun h => h.timed && h.started)

/-- A block of a domain has work (R384, R385): what would make its gate busy, an MU command of its region, and for gate 0
the work of anything under it, plat DMA and bridges among them (log entry 103). -/
def State.blockBusy (s : State) (d g : Nat) : Bool :=
  if g = 0 then
    (List.range (gatesOf d)).any (fun k => k != 0 && s.gateBusy d k) || (8 ≤ d && d < 12 && s.bridgeUsed (d - 8))
      || (d < 4 && (let x := s.plat d
                    !(x.active.isEmpty && x.hq.isEmpty && x.waitingDma.isEmpty) || (List.range 256).any (fun n => (s.mu d n).cmd.isSome)))
  else s.gateBusy d g || (d < 4 && (List.range 256).any (fun n => (s.mu d n).cmd.isSome && (s.sw d (muSite n)).cregion + 1 == g))

/-- CLK_GATE_STATUS shows the gate open (R395): not closed, and not stopped in automatic mode without work. -/
def State.gateShows (s : State) (d g : Nat) : Bool := s.clk.isOpen d g || (!s.clk.isClosed d g && s.blockBusy d g)

/-- The domain's clock runs at gate 0 (CLK_DOM_STATUS.running, R395). -/
def State.domRuns (s : State) (d : Nat) : Bool := s.domPowered d && s.gateShows d 0

/-- IDLE_CLOCK_STOP: a block of a domain in automatic mode that has no work (R382, R384). -/
def idleClockStop (d block : Nat) (s : State) : State :=
  if s.awake && block < gatesOf d && !s.clk.treeMode d && !s.blockBusy d block then
    { s with clk := { s.clk with stopped := SMap.set false s.clk.stopped (32 * d + block) true } }
  else s

def execIdleClockStop (d : Fin 25) (block : Nat) (s : State) : Outcome := .next (idleClockStop d.val block s)

/-- CLOCK_WAKE. -/
def clockWake (d block : Nat) (s : State) : State :=
  if block < 32 then { s with clk := { s.clk with stopped := SMap.set false s.clk.stopped (32 * d + block) false } } else s

def execClockWake (d : Fin 25) (block : Nat) (s : State) : Outcome := .next (clockWake d.val block s)

/-- Blocks that have found work meanwhile are stopped no more (R384). -/
def State.wakeBusy (s : State) : State :=
  { s with clk := { s.clk with stopped := s.clk.stopped.filter (fun e => !s.blockBusy (e.1 / 32) (e.1 % 32)) } }

/-- The table of R386, row by row; closing a root would stop its domain, which no timed window permits (R382). -/
def State.gateRefused (s : State) (d g : Nat) (open_ : Bool) : Bool :=
  if gatesOf d ≤ g || !s.clk.treeMode d then true
  else if open_ then g != 0 && s.clk.isClosed d 0
  else if g = 0 then
    (List.range (gatesOf d)).any (fun k => k != 0 && !s.clk.isClosed d k)
      || (8 ≤ d && d < 12 && s.bridgeUsed (d - 8)) || s.timedWindow
  else s.gateBusy d g

/-- CLK_GATE_CMD. -/
def State.gateCmd (s : State) (d g : Nat) (open_ : Bool) : State := s.whenAwake fun s =>
  if s.gateRefused d g open_ then { s with clk := { s.clk with gateResult := Codes.refused } }
  else State.meterJudge { s with clk := { s.clk with
      gateResult := Codes.ok, closed := SMap.set false s.clk.closed (32 * d + g) (!open_) } }

def gateOpen (d g : Nat) (s : State) : State := s.gateCmd d g true
def execGateOpen (d gate : BitVec 5) (s : State) : Outcome := .next (gateOpen d.toNat gate.toNat s)

def gateClose (d g : Nat) (s : State) : State := s.gateCmd d g false
def execGateClose (d gate : BitVec 5) (s : State) : Outcome := .next (gateClose d.toNat gate.toNat s)

/-! Frequency meter (R383) -/

/-- A write of CLK_FMETER_CTL. -/
def fmeterStart (v : W64) (s : State) : State := s.whenAwake fun s =>
  let c := { s.clk with meas := fld v 0 5, ref := fld v 5 5, gate := BitVec.ofNat 32 (fld v 32 32) }
  let ok := (c.meas ≤ 24 || c.meas = 30) && (c.ref ≤ 24 || c.ref = 30 || c.ref = 31) && c.gate != 0
  let c := if bitOf v 31 then { c with measuring := ok, count := 0, done := !ok, aborted := !ok } else c
  State.meterJudge { s with clk := c }

def execFmeterStart (value : W64) (s : State) : Outcome := .next (fmeterStart value s)

/-- FMETER_DONE: the gate ends, or its reference stops or coasts. -/
def fmeterDone (count : BitVec 48) (refStopped : Bool) (s : State) : State :=
  let stopped := refStopped || s.meterRefGone
  if s.clk.measuring then
    { s with clk := { s.clk with measuring := false, done := true, aborted := stopped, count := if stopped then 0 else count } }
  else s

def execFmeterDone (count : BitVec 48) (refStopped : Bool) (s : State) : Outcome := .next (fmeterDone count refStopped s)

/-! Power states (R387, R388) -/

/-- The condition of the Drained state (R387). -/
def State.drainedNow (s : State) : Bool :=
  (s.img.state == .held || s.img.state == .ready) && !s.img.partialBusy
    && (List.range 4).all (fun p => (s.plat p).active.isEmpty && (s.plat p).hq.isEmpty && (s.plat p).waitingDma.isEmpty)
    && s.mon.job.isNone && s.mon.restore.isNone && s.mon.digest.isNone && !s.cmd.held.any (·.timed)

def State.pwrResult (s : State) (c : Code) : State := { s with pwr := { s.pwr with result := c } }

/-- PWR_CMD op IDLE. The transition shows in PWR_STATE.moving until the next tick (log entry 103). -/
def idle (s : State) : State := s.whenAwake fun s =>
  if s.pwr.state == .drained && s.drainedNow then
    State.pwrResult (State.meterJudge { s with
      pwr := { s.pwr with state := .idle, moving := true }, dram := { s.dram with selfRefresh := true } }) Codes.ok
  else s.pwrResult Codes.refused

def execIdle (s : State) : Outcome := .next (idle s)

/-- PWR_CMD op WAKE. -/
def wake (s : State) : State := s.whenAwake fun s =>
  if s.pwr.state == .idle then
    ({ s with pwr := { s.pwr with state := .drained, moving := true }, dram := { s.dram with selfRefresh := false } }).pwrResult Codes.ok
  else s.pwrResult Codes.ok

def execWake (s : State) : Outcome := .next (wake s)

/-- POWER_STATE_CHANGE between Active and Drained. -/
def powerStateChange (s : State) : State :=
  if s.pwr.state == .idle || !s.awake then s
  else { s with pwr := { s.pwr with state := if s.drainedNow then .drained else .active } }

def execPowerStateChange (s : State) : Outcome := .next (powerStateChange s)

/-- A write of PWR_LIMIT (R390). -/
def pwrLimitWrite (v : W64) (s : State) : State := s.whenAwake fun s =>
  let x := min (fld v 0 32) 2500000
  if s.img.loaded && x < s.pwr.admittedSum.toNat then s.pwrResult Codes.refused
  else ({ s with pwr := { s.pwr with limit := BitVec.ofNat 32 x } }).pwrResult Codes.ok

def execPwrLimitWrite (value : W64) (s : State) : Outcome := .next (pwrLimitWrite value s)

/-! Telemetry (R391, R486, R487) -/

/-- Nominal voltage times maximum current of a rail in mW; VDD_CORE at its commanded value (R487). -/
def Pwr.railMax (p : Pwr) (r : Nat) : Nat :=
  match r with
  | 0 => p.vddCore.toNat * 3000 / 1000
  | 1 => 800 * 400
  | 2 => 1100 * 60
  | 3 => 1200 * 240
  | _ => 1800 * 5

/-- One poll of the rails in mW: voltage times current of a rail that answers; a rail in an outage counts at its
maximum (R487), one that misses a poll as at the last one it answered (log entry 103). -/
def Pwr.poll (p : Pwr) (rails : List RailSample) (answered : BitVec 5) : Pwr :=
  let p := { p with
    outage := p.outage &&& ~~~answered
    rails := (rails.take 5).zipIdx.foldl (fun (m : SMap Nat) (x : RailSample × Nat) =>
      if bitOf answered x.2 then SMap.set 0 m x.2 (x.1.mv.toNat * x.1.ma.toNat / 1000) else m) p.rails }
  let sum := (List.range 5).foldl (fun a r => a + if bitOf p.outage r then p.railMax r else SMap.get 0 p.rails r) 0
  { p with polls := (p.polls ++ [sum]).drop (p.polls.length - 9) }

/-- The mean of the last ten polls, which 1 ms holds (R391, R486). -/
def Pwr.mean (p : Pwr) : Nat := p.polls.foldl (· + ·) 0 / max 1 p.polls.length

/-- RAIL_POLL, every 100 µs (R391, R486). -/
def railPoll (rails : List RailSample) (answered : BitVec 5) (s : State) : State := s.whenAwake fun s =>
  let p := s.pwr.poll rails answered
  let total := p.mean
  let isAbove := s.img.loaded && !p.above && decide (p.admittedSum.toNat < total)
  let p := { p with
    avg := BitVec.ofNat 32 total, peak := BitVec.ofNat 32 (max p.peak.toNat total), above := p.above || isAbove
    fault := if isAbove then setBit p.fault 2 else p.fault }
  let s := { s with pwr := p }
  if isAbove then s.raise .stat Codes.pwrOver 8 0 p.tempWord else s

def execRailPoll (rails : List RailSample) (answered : BitVec 5) (s : State) : Outcome := .next (railPoll rails answered s)

/-- What the manufacturing data ask of VDD_CORE at the hottest reading, within 0.600 to 0.750 V (R485, R486). -/
def Pwr.vddWanted (p : Pwr) : Int := max 600000 (min 750000 (Config.vddTarget p.temp))

/-- VDD_CORE_ADJUST: from step 6 of start-up, a step of at most 5 mV towards what is wanted (R486). -/
def vddCoreAdjust (step : Int) (s : State) : State :=
  let want := s.pwr.vddWanted
  let new := s.pwr.vddCore + step
  if 6 ≤ s.nvm.phase && 600000 ≤ new && new ≤ 750000 && step.natAbs ≤ 5000 && (new - want).natAbs < (s.pwr.vddCore - want).natAbs then
    { s with pwr := { s.pwr with vddCore := new } }
  else s

def execVddCoreAdjust (stepUv : Int) (s : State) : Outcome := .next (vddCoreAdjust stepUv s)

/-- AVS_FAIL. -/
def avsFail (s : State) : State := s.whenAwake fun s => s.raise .fatal Codes.avsFail 8 0 s.pwr.tempWord

def execAvsFail (s : State) : Outcome := .next (avsFail s)

/-- AVS_TELEMETRY, once per outage. -/
def avsTelemetry (r : Nat) (s : State) : State :=
  if bitOf s.pwr.outage r || !s.awake then s
  else ({ s with pwr := { s.pwr with outage := setBit s.pwr.outage r } }).raise .stat Codes.avsTelemetry 8 0 s.pwr.tempWord

def execAvsTelemetry (rail : Fin 5) (s : State) : Outcome := .next (avsTelemetry rail.val s)

/-! Temperature (R392, R393) -/

/-- The hottest reading and its sensor. -/
def hottest (ts : List Int) : Option (Int × Nat) :=
  ts.zipIdx.foldl (fun (b : Option (Int × Nat)) x => match b with
    | none => some x
    | some y => if y.1 < x.1 then some x else b) none

/-- TEMPERATURE_SAMPLE: the readings in 1/16 °C, in the order of the sensor numbers. Of its two codes the fatal one is
recorded first (R415). -/
def temperatureSample (ts : List Int) (s : State) : State := s.whenAwake fun s =>
  match hottest (ts.take 96) with
  | none => s
  | some (t, i) =>
    let p := s.pwr
    let hot := decide (115 * 16 ≤ t)
    let trip := hot && !(p.tripped && p.tripOut)
    let warn := decide ((p.warn : Int) * 16 ≤ t) && !p.warned
    let cool := decide (t ≤ ((p.warn : Int) - 5) * 16)
    let p := { p with
      temp := BitVec.ofInt 16 t, sensor := i
      peakTemp := if p.peakTemp.toInt < t then BitVec.ofInt 16 t else p.peakTemp
      warned := (p.warned || warn) && !cool
      tripped := p.tripped || trip
      tripOut := (hot || p.tripOut) && decide (110 * 16 ≤ t)
      fault := (if trip then fun f => setBit f 1 else id) (if warn then setBit p.fault 0 else p.fault) }
    let s := { s with pwr := p }
    let s := if trip then s.meterJudge.raise .fatal Codes.thermTrip 8 0 p.tempWord else s
    if warn then s.raise .stat Codes.thermWarn 8 0 p.tempWord else s

def execTemperatureSample (temps : List Int) (s : State) : Outcome := .next (temperatureSample temps s)

end Sys2Proof.Machine
end

