-- ==== Sys2Proof/Machine/Stash.lean ====
section
/-! DEFINITION. The backsight stash: push and pop walks, spill and refill of frames (R93, R161 to R169, R180, R282). -/
namespace Sys2Proof.Machine

def AgSt.layerTag (g : AgSt) : Nat := fld g.stash 0 16
def AgSt.frameTokens (g : AgSt) : Nat := fld g.stash 16 16
def AgSt.mbCount (g : AgSt) : Nat := fld g.stash 32 16
def AgSt.descending (g : AgSt) : Bool := bitOf g.stash 48

/-- Micro-batch index of the n-th walk of the step (R163, R164), for a walk below mb_count. -/
def AgSt.mbIndex (g : AgSt) : Nat := if g.descending then g.mbCount - 1 - g.stepWalks else g.stepWalks

/-- Rows of a frame of t data tokens (R161). -/
def frameRows (t : Nat) : Nat := cdiv (128 * t + 72) 512

/-- Physical row of row count c of a STASH region (R93). -/
def RegSt.stashRow (g : RegSt) (c : Nat) : Nat := g.baseRow + c % max 1 g.rows

def RegSt.heldRows (g : RegSt) : Nat := g.hi - g.lo
def RegSt.freeRows (g : RegSt) : Nat := g.rows - g.heldRows

/-- The 64-byte header (R162). -/
def stashHeader (g : AgSt) (step : Step) : List Byte :=
  leBytes 2 g.layerTag ++ leBytes 2 (b2n (bitOf g.stash 49) + 2 * b2n (bitOf g.stash 50)) ++ leBytes 4 g.mbIndex
    ++ leBytes 4 (128 * g.frameTokens) ++ leBytes 4 (frameRows g.frameTokens) ++ leBytes 6 step.toNat
    ++ List.replicate 42 0

/-- Bytes of a frame: header, data, padding, trailer (R161). -/
def stashFrameBytes (g : AgSt) (step : Step) (ts : List VIn) : List Byte :=
  let k := frameRows g.frameTokens
  let body := stashHeader g step ++ ts.flatMap VIn.bytes
  body ++ List.replicate (512 * k - 8 - body.length) 0 ++ leBytes 4 k ++ leBytes 4 0

/-- Row i of a frame holds bytes of a poisoned token (R163). -/
def frameRowPoison (ts : List VIn) (i : Nat) : Bool :=
  ts.zipIdx.any (fun (t, j) => t.poison && 64 + 128 * j < 512 * (i + 1) && 512 * i < 64 + 128 * j + 128)

/-- The stash reserve of a region (R282). -/
def State.reserveOf (s : State) (p n r : Nat) : Option DramRange :=
  s.cfg.layout.find? (fun x => x.kind == 3 && x.plat == p && x.mu == n && x.region == r)

/-- frame_rows in the header of the bottom frame, and whether that row is poisoned. -/
def State.bottomFrame (s : State) (p n r : Nat) : Nat × Bool :=
  let m := s.mu p n
  let g := m.reg r
  let row := g.stashRow g.lo
  (leAt (m.sram.read (512 * row) 64) 12 4, m.rowPoison row)

/-- Frames of a region that the plat's engine is moving (R166, R167). -/
def State.stashMoves (s : State) (p n r : Nat) : List StashMove :=
  ((s.plat p).waitingDma ++ (s.plat p).active.map (·.job)).filterMap (fun j => match j.frame with
    | some f => if f.mu == n && f.region == r then some f else none
    | none => none)

/-- A refill in progress writes a row at or above a row count (R93, R167). -/
def State.refilling (s : State) (p n r first : Nat) : Bool :=
  (s.stashMoves p n r).any (fun f => !f.spill && first < f.count + f.rows)

/-- A frame is handed to the stash service of the engine (R186). -/
def State.moveFrame (s : State) (p n r : Nat) (spill : Bool) (count rows : Nat) (x : DramRange) : State :=
  let g := (s.mu p n).reg r
  let f : StashMove := { mu := n, region := r, spill := spill, count := count, rows := rows, baseRow := g.baseRow
                         size := max 1 g.rows, reserve := x.base }
  s.setPlat p { s.plat p with waitingDma := (s.plat p).waitingDma ++ [{ src := .stash, index := 0, frame := some f }] }

/-- Rows that the push in progress on a region needs. -/
def Mu.pushNeeds (m : Mu) (r : Nat) : Nat :=
  match (List.range 4).find? (fun a => (m.ag a).busy && (m.ag a).region == r && (m.ag a).isWrite) with
  | some a => frameRows (m.ag a).frameTokens
  | none => 0

/-- The generator has moved its whole walk. -/
def State.agFinish (s : State) (p n a : Nat) (input : List VIn) : State :=
  let m := s.mu p n
  let g := m.ag a
  s.setMu p n (m.setAg a { g with idx := g.total, moved := g.total, input := input })

def State.setReg (s : State) (p n r : Nat) (f : RegSt → RegSt) : State :=
  let m := s.mu p n
  s.setMu p n (m.setReg r (f (m.reg r)))

/-- PUSH_WALK: with all its tokens there, a push writes its frame, or waits for rows, or overflows (R163, R168). -/
def pushWalk (p n a : Nat) (ups : List Upset) (s : State) : State :=
  let g := (s.mu p n).ag a
  let r := g.region
  let reg := (s.mu p n).reg r
  if !s.muLive p n || !g.busy || g.total ≤ g.idx || reg.kind != 2 || !g.isWrite || g.input.length < g.total then s
  else
    let s := s.strikes ups
    let ts := g.input.take g.total
    let rest := g.input.drop g.total
    let k := frameRows g.frameTokens
    if g.mbCount ≤ g.stepWalks then (s.agFinish p n a rest).raiseMu Codes.stashFrame p n r none
    else if k ≤ reg.freeRows then
      let bytes := stashFrameBytes g s.stepIndex ts
      let s := (List.range k).foldl (fun s i =>
        s.muWrite p n (512 * reg.stashRow (reg.hi + i)) (sub bytes (512 * i) 512) (frameRowPoison ts i)) s
      (s.setReg p n r (fun x => { x with hi := x.hi + k, pushed := x.pushed + 1, waiting := false })).agFinish p n a rest
    else
      let s := s.muCheck p n (512 * reg.stashRow reg.lo) 64
      let (fr, bad) := s.bottomFrame p n r
      let room := match s.reserveOf p n r with
        | some x => x.len / 512 - reg.lo
        | none => 0
      if (s.reserveOf p n r).isNone || (!bad && room < fr) then
        ((s.setReg p n r (fun x => { x with overflow := true, waiting := false })).agFinish p n a rest).raiseMu
          Codes.stashOverflow p n r none
      else s.setReg p n r (fun x => { x with waiting := true })

def execPushWalk (p : Fin 4) (mu : Fin 256) (a : Fin 4) (ups : List Upset) (s : State) : Outcome :=
  .next (pushWalk p.val mu.val a.val ups s)

/-- Poisoned tokens in the framing a pop owes. -/
def State.poisonFrame (s : State) (g : AgSt) : Nat → List VIn × State
  | 0 => ([], s)
  | k + 1 =>
    let (ts, s) := s.poisonFrame g k
    let (t, s) := s.freeToken (g.lastAt k)
    (ts ++ [t], s)

/-- The header a pop expects: layer, micro-batch, length, rows and step; flags and reserved bytes are not compared. No
header holds the index mb_count − 1 − n of a walk n past the last (R164). -/
def headerMatches (g : AgSt) (step : Step) (h : List Byte) : Bool :=
  (!g.descending || g.stepWalks < g.mbCount) && leAt h 0 2 == g.layerTag && leAt h 4 4 == g.mbIndex && leAt h 8 4 == 128 * g.frameTokens
    && leAt h 12 4 == frameRows g.frameTokens && leAt h 16 6 == step.toNat

/-- POP_WALK: a frame is read from the top and its data tokens are sent (R164); a pop that finds no frame counts in popped
too (log entry 100). -/
def popWalk (p n a : Nat) (ups : List Upset) (s : State) : State :=
  let g := (s.mu p n).ag a
  let r := g.region
  let reg := (s.mu p n).reg r
  let k := frameRows g.frameTokens
  if !s.muLive p n || !g.busy || g.total ≤ g.idx || reg.kind != 2 || g.isWrite
      || !((s.sw p (muSite n)).inQ 0 g.chan).link.isEmpty then s
  else
    let s := s.strikes ups
    let took := fun (s : State) => (s.setReg p n r (fun x => { x with hi := x.hi - k, popped := x.popped + 1 }))
    let poisoned := fun (s : State) =>
      let (ts, s) := s.poisonFrame g g.frameTokens
      (s.agEmit p n g.chan ts).agFinish p n a g.input
    if s.refilling p n r (reg.hi - k) || (reg.heldRows < k && reg.lo != 0 && !reg.overflow) then s
    else if reg.heldRows < k then
      let s := poisoned (s.setReg p n r (fun x => { x with popped := x.popped + 1 }))
      if reg.overflow then s else s.raiseMu Codes.lifoUnderflow p n r (some 4)
    else if reg.overflow then poisoned (took s)
    else
      let start := reg.hi - k
      let rows := (List.range k).map (fun i => reg.stashRow (start + i))
      let (bytes, s) := rows.foldl (fun (acc : List Byte × State) row =>
        let (bs, _, s) := acc.2.muRead p n (512 * row) 512
        (acc.1 ++ bs, s)) ([], s)
      let bad := rows.map (s.mu p n).rowPoison
      if headerMatches g s.stepIndex (sub bytes 0 64) then
        let ts := (List.range g.frameTokens).map (fun j =>
          let o := 64 + 128 * j
          vOfBytes (sub bytes o 128) (bad.getD (o / 512) false || bad.getD ((o + 127) / 512) false) (g.lastAt j))
        ((took s).agEmit p n g.chan ts).agFinish p n a g.input
      else (poisoned (took s)).raiseMu Codes.stashFrame p n r none

def execPopWalk (p : Fin 4) (mu : Fin 256) (a : Fin 4) (ups : List Upset) (s : State) : Outcome :=
  .next (popWalk p.val mu.val a.val ups s)

/-- STASH_SPILL: the engine takes up the bottom frame, while a push of the region waits for rows (R166). A frame it cannot
read is the engine's fault; its detail names the stash service as DMA_FAULT_LOC does (R414; log entry 100). -/
def stashSpill (p n r : Nat) (ups : List Upset) (s : State) : State :=
  let reg := (s.mu p n).reg r
  if !s.arrayRuns || reg.kind != 2 || !reg.waiting || reg.noSpill || (s.mu p n).pushNeeds r ≤ reg.freeRows
      || !(s.stashMoves p n r).isEmpty then s
  else match s.reserveOf p n r with
    | none => s
    | some x =>
      let s := s.strikes ups
      let s := s.muCheck p n (512 * reg.stashRow reg.lo) 64
      let (fr, bad) := s.bottomFrame p n r
      if bad || fr = 0 || reg.heldRows < fr then
        (s.setReg p n r (fun g => { g with noSpill := true })).raise .cont Codes.stashFrame 4 p 0
      else if x.len / 512 < reg.lo + fr then s
      else s.moveFrame p n r true reg.lo fr x

def execStashSpill (p : Fin 4) (mu : Fin 256) (r : Fin 16) (ups : List Upset) (s : State) : Outcome :=
  .next (stashSpill p.val mu.val r.val ups s)

/-- A spilled frame is in the reserve: DRAIN_BOTTOM (R93, R166). -/
def State.frameSpilled (s : State) (p : Nat) (f : StashMove) : State :=
  s.setReg p f.mu f.region (fun g => { g with
    lo := g.lo + f.rows, reserve := g.reserve ++ [f.rows], reserveFrames := g.reserveFrames + 1, spills := satAdd 16 g.spills 1 })

/-- A pop of the region has begun in the step; a push is active on it. -/
def Mu.popBegun (m : Mu) (r : Nat) : Bool :=
  (m.reg r).popped != 0 || (List.range 4).any (fun a => (m.ag a).busy && (m.ag a).region == r && !(m.ag a).isWrite)
def Mu.pushActive (m : Mu) (r : Nat) : Bool :=
  (List.range 4).any (fun a => (m.ag a).busy && (m.ag a).region == r && (m.ag a).isWrite)

/-- frame_rows in the trailer of the reserve's top frame (R161, R167). -/
def State.reserveTop (s : State) (p : Nat) (x : DramRange) (bottom : Nat) : Nat × State :=
  let (bs, _, s) := s.dramRead (.stash (Fin.ofNat 4 p)) (x.base + 512 * bottom - 8) 4
  (leNat bs, s)

/-- STASH_REFILL: the engine takes up the reserve's top frame, whose rows count as held from here on (R93, R167). -/
def stashRefill (p n r : Nat) (ups : List Upset) (s : State) : State :=
  let m := s.mu p n
  let reg := m.reg r
  if !s.arrayRuns || reg.kind != 2 || reg.reserve.isEmpty || !m.popBegun r || m.pushActive r
      || !(s.stashMoves p n r).isEmpty then s
  else match s.reserveOf p n r with
    | none => s
    | some x =>
      let (fr, s) := (s.strikes ups).reserveTop p x reg.lo
      if reg.freeRows < fr then s
      else if reg.lo < fr then s.raiseMu Codes.lifoUnderflow p n r (some 4)
      else
        (s.moveFrame p n r false (reg.lo - fr) fr x).setReg p n r (fun g => { g with
          lo := g.lo - fr, reserve := g.reserve.dropLast, reserveFrames := g.reserveFrames - 1 })

def execStashRefill (p : Fin 4) (mu : Fin 256) (r : Fin 16) (ups : List Upset) (s : State) : Outcome :=
  .next (stashRefill p.val mu.val r.val ups s)

end Sys2Proof.Machine
end

