-- ==== Sys2Proof/Machine/Dma.lean ====
section
/-! DEFINITION. Plat DMA and triggers (R183 to R191, R199, R200). -/
namespace Sys2Proof.Machine

/-! Descriptors (R183) -/

def DmaDesc.runRows (d : DmaDesc) : Nat := fld d.w2 0 32
def DmaDesc.runs (d : DmaDesc) : Nat := fld d.w2 32 32
def DmaDesc.srcStride (d : DmaDesc) : Int := sfld d.w3 0 32
def DmaDesc.dstStride (d : DmaDesc) : Int := sfld d.w3 32 32
def DmaDesc.srcAdv (d : DmaDesc) : Int := sfld d.w4 0 32
def DmaDesc.advPeriod (d : DmaDesc) : Nat := fld d.w4 32 16
def DmaDesc.doneBm (d : DmaDesc) : Nat := fld d.w4 48 16
def DmaDesc.doneInc (d : DmaDesc) : Nat := fld d.w5 0 8
def DmaDesc.remote (d : DmaDesc) : Bool := bitOf d.w5 8
def DmaDesc.ext (d : DmaDesc) : Bool := bitOf d.w5 9
def DmaDesc.dstDev (d : DmaDesc) : Nat := fld d.w5 16 12
def DmaDesc.cbm (d : DmaDesc) : Nat := fld d.w5 32 16
def DmaDesc.rows (d : DmaDesc) : Nat := d.runRows * d.runs

def DmaJob.rows (j : DmaJob) : Nat := match j.frame with | some f => f.rows | none => j.desc.rows

/-- Row k of a frame in its MU, and in the reserve (R93, R282). -/
def StashMove.muRow (f : StashMove) (p k : Nat) : Nat := muBase p f.mu + 512 * (f.baseRow + (f.count + k) % f.size)
def StashMove.reserveRow (f : StashMove) (k : Nat) : Nat := f.reserve + 512 * (f.count + k)

/-- A row's address as data space has it; one below 0 lies outside data space (R481). -/
def rowAddr (a : Int) : Nat := if a < 0 then 2 ^ 64 else a.toNat

/-- Source address of row k of a descriptor: the program entry's advance, then run and row (R183). -/
def DmaJob.descSrc (j : DmaJob) (k : Nat) : Nat :=
  let d := j.desc
  let adv : Int := if j.src == .program && d.advPeriod != 0 then ((j.firing % d.advPeriod : Nat) : Int) * d.srcAdv else 0
  let run : Int := (k / max 1 d.runRows : Nat)
  rowAddr ((d.w0.toNat : Int) + 512 * (adv + run * d.srcStride + ((k % max 1 d.runRows : Nat) : Int)))

def DmaJob.descDst (j : DmaJob) (k : Nat) : Nat :=
  let d := j.desc
  let run : Int := (k / max 1 d.runRows : Nat)
  rowAddr ((d.w1.toNat : Int) + 512 * (run * d.dstStride + ((k % max 1 d.runRows : Nat) : Int)))

/-- Source and destination of row k of a job of plat p. -/
def DmaJob.srcOf (j : DmaJob) (p k : Nat) : Nat :=
  match j.frame with
  | some f => if f.spill then f.muRow p k else f.reserveRow k
  | none => j.descSrc k
def DmaJob.dstOf (j : DmaJob) (p k : Nat) : Nat :=
  match j.frame with
  | some f => if f.spill then f.reserveRow k else f.muRow p k
  | none => j.descDst k

/-- Bytes of the row of a job that goes to dst: 512, or what is left of a staged chunk (log entry 37). -/
def DmaJob.bytesAt (j : DmaJob) (dst : Nat) : Nat :=
  if j.len = 0 then 512 else min 512 (j.desc.w1.toNat + j.len - dst)

/-- Sources in the order of R186. -/
def dmaRank : DmaSrc → Nat
  | .stash => 0 | .seqr => 1 | .program => 2 | .host => 3

/-- Who asks, for R270 and R277. -/
def dmaUser (p : Nat) : DmaSrc → DramUser
  | .host => .hostDma (Fin.ofNat 4 p) | .stash => .stash (Fin.ofNat 4 p) | _ => .platDma (Fin.ofNat 4 p)

/-- Rows of an MU that plat DMA reaches: free rows and WEIGHT, HOLD and STAGE regions (R184, whose free rows R85 does not
name; log entry 89). -/
def Mu.dmaRow (m : Mu) (row : Nat) : Bool :=
  match m.regionOf row with
  | none => true
  | some r => (m.reg r).kind == 1 || (m.reg r).kind == 3 || (m.reg r).kind == 7

/-- A GENERAL range holds the address. -/
def State.inGeneral (s : State) (a : Nat) : Bool :=
  match s.rangeOf a with
  | some r => r.kind == 6
  | none => false

/-- Permitted reads of the engine of plat p (R184, R277). An address that is not that of a row is none of them (log entry
98), but for the sequencer's staged chunks. -/
def State.dmaReadOk (s : State) (p : Nat) (src : DmaSrc) (a : Nat) : Bool :=
  (a % 512 == 0 || src == .seqr) && match muOf a with
  | some (q, n, o) => (s.mu q n).dmaRow (o / 512)
  | none => isDram a && s.dramReadOk (dmaUser p src) a && (src != .seqr || s.inGeneral a)

/-- Permitted writes of the engine of plat p (R184, R277): rows (log entry 98), on another device only by a remote write. -/
def State.dmaWriteOk (s : State) (p : Nat) (src : DmaSrc) (d : DmaDesc) (a : Nat) : Bool :=
  (a % 512 == 0 || src == .seqr) && match muOf a with
  | some (q, n, o) =>
    if d.remote then
      (if d.ext then true
       else q != p && (match (s.mu q n).windowOf o 512 with
         | some r => ((s.mu q n).reg r).kind != 6
         | none => false))
    else !d.ext && q == p && (s.mu q n).dmaRow (o / 512)
  | none => !d.remote && !d.ext && isDram a && s.dramWriteOk (dmaUser p src) a && (src != .seqr || s.inGeneral a)

/-- Kind of the region that a data-space address lies in; 0: none. -/
def State.kindAt (s : State) (a : Nat) : Nat :=
  match muOf a with
  | some (p, n, o) => (match (s.mu p n).regionOf (o / 512) with
    | some r => ((s.mu p n).reg r).kind
    | none => 0)
  | none => 0

/-- A row of a job may move (R184, R277): its source is read, its destination written, and no held gradient leaves for
DRAM while a step runs (R18; log entry 90). The stash service moves the frames it was handed. -/
def State.dmaRowOk (s : State) (p : Nat) (j : DmaJob) (src dst : Nat) : Bool :=
  let e := j.bytesAt dst - 1
  j.frame.isSome || (s.dmaReadOk p j.src src && s.dmaWriteOk p j.src j.desc dst
    && (j.len = 0 || (s.dmaReadOk p j.src (src + e) && s.dmaWriteOk p j.src j.desc (dst + e)))
    && !(s.adj.inStep && s.kindAt src == 3 && isDram dst))

/-- A local write that completes with REFUSED: into the staging range during a load (R143), spilled frames too, or by
the host into a locked range (R295). -/
def State.dmaRefuses (s : State) (j : DmaJob) (dst : Nat) : Bool :=
  !j.desc.remote && ((j.src == .host && s.bankLocked dst) || (s.loadBusy && (muOf dst).isNone && s.inStaging dst))

/-! The engine (R185 to R188) -/

/-- The engine runs for a source: configured, and for the array's own sources no failed step (R147, R404). -/
def State.dmaRuns (s : State) (src : DmaSrc) : Bool :=
  (s.img.state == .ready || s.img.state == .running || s.img.state == .stopping)
    && (if src == .host then !(s.flt.stepState == .failed || s.flt.stepState == .quiescing) else !s.stepFailed)

/-- The waiting descriptor that starts next: by source, then by arrival; the host queue is not kept waiting for
256 rows (R186). -/
def State.nextJob (s : State) (p : Nat) : Option DmaJob :=
  let x := s.plat p
  let host := (x.hq.head?).map (fun d => ({ src := .host, index := 0, desc := d } : DmaJob))
  let cand := x.waitingDma ++ host.toList
  let ok := cand.filter (fun j => s.dmaRuns j.src)
  if 255 ≤ x.sinceHost && host.isSome && s.dmaRuns .host then host
  else ok.foldl (fun (b : Option DmaJob) j => match b with
    | none => some j
    | some c => if dmaRank j.src < dmaRank c.src then some j else b) none

/-- DMA_DESCRIPTOR_START. -/
def dmaDescriptorStart (p : Nat) (s : State) : State :=
  if !s.gatesOpen (.dma p) then s else
  match s.nextJob p with
  | none => s
  | some j =>
    let x := s.plat p
    let x := if j.src == .host then { x with hq := x.hq.drop 1 } else { x with waitingDma := x.waitingDma.erase j }
    s.setPlat p { x with active := x.active ++ [{ id := x.nextDma, job := j }], nextDma := x.nextDma + 1 }

def execDmaDescriptorStart (p : Fin 4) (s : State) : Outcome := .next (dmaDescriptorStart p.val s)

/-- A run may start: its credit benchmark stands high enough for the whole run (R188). -/
def State.runCredit (s : State) (p : Nat) (a : DmaActive) : Bool :=
  let d := a.job.desc
  !d.remote || a.rowsIssued % max 1 d.runRows != 0
    || decide (d.runRows ≤ ((s.bmk d.cbm).count - SMap.get 0 (s.plat p).sent d.cbm).toNat)

/-- The next row of the array's own work reads a WEIGHT region that the running step has yet to adjust (R17). -/
def State.rowWaits (s : State) (p : Nat) (a : DmaActive) : Bool :=
  s.weightsHeld && (a.job.src == .program || a.job.src == .seqr) && s.kindAt (a.job.srcOf p a.rowsIssued) == 1

/-- The descriptor of a source that it serves: the oldest with rows left (R186), where its next row can be issued. -/
def State.issueOf (s : State) (p : Nat) (src : DmaSrc) : Option DmaActive :=
  match (s.plat p).active.find? (fun a => a.job.src == src && !a.failed && a.rowsIssued < a.job.rows) with
  | some a => if s.dmaRuns src && s.runCredit p a && !s.rowWaits p a then some a else none
  | none => none

/-- A host descriptor waits to be started, and none of the host's has rows left. -/
def State.hostStartDue (s : State) (p : Nat) : Bool :=
  !(s.plat p).hq.isEmpty && s.dmaRuns .host
    && !(s.plat p).active.any (fun a => a.job.src == .host && !a.failed && a.rowsIssued < a.job.rows)

/-- The descriptor whose row is issued next (R186); none while the host queue's share is due and its descriptor has
still to start. -/
def State.nextIssue (s : State) (p : Nat) : Option DmaActive :=
  let rest := [DmaSrc.stash, .seqr, .program, .host].findSome? (s.issueOf p)
  if (s.plat p).sinceHost < 255 then rest
  else match s.issueOf p .host with
    | some a => some a
    | none => if s.hostStartDue p then none else rest

def Plat.setActive (x : Plat) (a : DmaActive) : Plat :=
  { x with active := x.active.map (fun b => if b.id == a.id then a else b) }

/-- A started descriptor fails: nothing further is written for it and no done add is made. -/
def State.dmaFail (s : State) (p : Nat) (a : DmaActive) : State :=
  let x := s.plat p
  s.setPlat p { x with active := x.active.map (fun b => if b.id == a.id then { b with failed := true } else b) }

/-- DMA_ADDR (R184) with the descriptor it shows (R200). -/
def State.dmaAddrCode (s : State) (p rank index : Nat) : State :=
  let x := s.plat p
  let loc := mkWord 64 [(0, 2, rank), (2, 16, index)]
  (s.setPlat p { x with dmaFault := setBit x.dmaFault 0, dmaFaultLoc := loc }).raise .cont Codes.dmaAddr 4 p loc

/-- DMA_ADDR of a started descriptor. -/
def State.dmaAddr (s : State) (p : Nat) (a : DmaActive) : State :=
  (s.dmaFail p a).dmaAddrCode p (dmaRank a.job.src) a.job.index

/-- REFUSED: the descriptor ends, and a host descriptor shows the code (R143, R295). -/
def State.dmaRefused (s : State) (p : Nat) (a : DmaActive) : State :=
  let s := s.dmaFail p a
  if a.job.src == .host then s.setPlat p { s.plat p with hqResult := Codes.refused } else s

/-! Memory group controllers (R185, R268) -/

/-- Memory groups whose channels hold the row at a data-space address. -/
def State.rowGroups (s : State) (a : Nat) : List Nat :=
  if (muOf a).isSome then [] else ((burstsOf a 512).filterMap (fun b => (s.dramMap b).map (fun m => m.1 / 4))).eraseDups

/-- Requests that the controller of memory group g holds. -/
def State.mgLoad (s : State) (g : Nat) : Nat :=
  (List.range 4).foldl (fun k p => k + ((s.plat p).reqs.filter (fun r => r.served && r.groups.contains g)).length) 0

/-- The controllers of some groups have room: fewer than 256 requests each. -/
def State.mgRoom (s : State) (gs : List Nat) : Bool := gs.all (fun g => s.mgLoad g < 256)

/-- A request that waits in its engine takes its places once they are free. -/
def State.serveRow (s : State) (p : Nat) (r : RowReq) : State :=
  if r.served || !s.mgRoom r.groups then s
  else
    let k := s.dram.arrivals
    State.setPlat { s with dram := { s.dram with arrivals := k + 1 } } p { s.plat p with
      reqs := (s.plat p).reqs.map (fun q => if q.id == r.id then { q with served := true, arrived := k } else q) }

/-- Places that have become free are taken, plat by plat, oldest request first (log entry 90). -/
def State.serveRows (s : State) : State :=
  (List.range 4).foldl (fun s p => (s.plat p).reqs.foldl (fun s r => s.serveRow p r) s) s

/-- ROW_REQUEST_ISSUE; with 512 requests outstanding the call is one full D0 cycle (R185). -/
def rowRequestIssue (p : Nat) (s : State) : State :=
  let x := s.plat p
  if !s.gatesOpen (.dma p) then s else
  match s.nextIssue p with
  | none => s
  | some a =>
    if 512 ≤ x.reqs.length then s.setPlat p { x with cntFull := x.cntFull + 1 }
    else
      let k := a.rowsIssued
      let src := a.job.srcOf p k
      let dst := a.job.dstOf p k
      let d := a.job.desc
      if s.dmaRefuses a.job dst then s.dmaRefused p a
      else if !s.dmaRowOk p a.job src dst then s.dmaAddr p a
      else
        let sent := if d.remote && k % max 1 d.runRows = 0 then
            SMap.set 0 x.sent d.cbm (SMap.get 0 x.sent d.cbm + BitVec.ofNat 32 d.runRows) else x.sent
        let groups := (s.rowGroups src ++ (if d.remote then [] else s.rowGroups dst)).eraseDups
        let x := x.setActive { a with rowsIssued := k + 1 }
        State.setPlat { s with dram := { s.dram with arrivals := s.dram.arrivals + 1 } } p { x with
          reqs := x.reqs ++ [{ id := x.nextDma, owner := a.id, src := src, dst := dst, groups := groups, served := s.mgRoom groups
                               arrived := s.dram.arrivals }]
          nextDma := x.nextDma + 1, sent := sent
          sinceHost := if a.job.src == .host then 0 else x.sinceHost + 1 }

def execRowRequestIssue (p : Fin 4) (s : State) : Outcome := .next (rowRequestIssue p.val s)

/-- A row request ends; its owner counts a row that has moved. -/
def State.rowFinished (s : State) (p : Nat) (r : RowReq) (moved : Bool) : State :=
  let x := s.plat p
  let x := { x with reqs := x.reqs.filter (fun q => q.id != r.id), cntRows := if moved then x.cntRows + 1 else x.cntRows }
  (s.setPlat p { x with active := x.active.map (fun a =>
    if a.id == r.owner && moved then { a with rowsDone := a.rowsDone + 1 } else a) }).serveRows

/-- The owner of a row request. -/
def Plat.ownerOf (x : Plat) (r : RowReq) : Option DmaActive := x.active.find? (fun a => a.id == r.owner)

/-- A row has reached its destination; one that was poisoned shows in DMA_FAULT.src_poison (R200). -/
def State.rowCopied (s : State) (p : Nat) (r : RowReq) (bad : Bool) : State :=
  (if bad then s.setPlat p { s.plat p with dmaFault := setBit (s.plat p).dmaFault 1 } else s).rowFinished p r true

/-- The row has been read: it is written at its destination or sent there (R184, R187). A failed step sends no row to
another MU or device (R404). -/
def State.rowMove (s : State) (p : Nat) (r : RowReq) (a : DmaActive) : State :=
  let (bs, dirty, s) := s.spaceRead (dmaUser p a.job.src) r.src (a.job.bytesAt r.dst)
  let bad := dirty || r.spoiled
  let d := a.job.desc
  if d.remote && s.stepFailed then s.rowFinished p r false
  else if d.remote && d.ext then
    let s := s.setPlat p { s.plat p with
      reqs := (s.plat p).reqs.map (fun q => if q.id == r.id then { q with sent := true, spoiled := bad } else q) }
    s.request (BitVec.ofNat 16 d.dstDev) true (.dmaRow p r.id) (.rwrite (BitVec.ofNat 64 r.dst) bs bad)
  else if d.remote then
    match muOf r.dst with
    | some (q, n, o) =>
      let (s, c) := s.remoteWrite q n o bs bad
      if c = Codes.ok then s.rowCopied p r bad else (s.dmaFail p a).rowFinished p r false
    | none => s.rowFinished p r false
  else (s.spaceWrite (dmaUser p a.job.src) r.dst bs bad).rowCopied p r bad

/-- Rows of DRAM that a request reads or writes. -/
def RowReq.spans (r : RowReq) : List (Nat × Nat) :=
  ([r.src, r.dst].filter isDram).map (fun a => (a / 128 * 128, a + 512))

/-- Two requests share a DRAM burst. -/
def RowReq.shares (r q : RowReq) : Bool := r.spans.any (fun a => q.spans.any (fun b => decide (a.1 < b.2) && decide (b.1 < a.2)))

/-- No earlier request that the controllers hold shares a burst with this one (R268). -/
def State.rowFirst (s : State) (r : RowReq) : Bool :=
  (List.range 4).all (fun p => (s.plat p).reqs.all (fun q => !q.served || q.sent || r.arrived ≤ q.arrived || !r.shares q))

/-- ROW_REQUEST_DONE: a row that its controllers hold ends, those of one burst in the order in which they came (R268). What R143, R277 and R295 close meanwhile is not written. -/
def rowRequestDone (p ix : Nat) (ups : List Upset) (s : State) : State :=
  let x := s.plat p
  match x.reqs[ix]? with
  | none => s
  | some r =>
    match x.ownerOf r with
    | none => s.setPlat p { x with reqs := x.reqs.filter (fun q => q.id != r.id) }
    | some a =>
      let r := ((s.serveRows.plat p).reqs[ix]?).getD r
      let s := s.serveRows
      if !s.gatesOpen (.dma p) || r.sent || !r.served || !s.rowFirst r || !(s.img.state == .ready || s.tokensMove) then s
      else
        let s := s.strikes ups
        if a.failed then s.rowFinished p r false
        else if s.dmaRefuses a.job r.dst then (s.dmaRefused p a).rowFinished p r false
        else if !s.dmaRowOk p a.job r.src r.dst then (s.dmaAddr p a).rowFinished p r false
        else s.rowMove p r a

def execRowRequestDone (p : Fin 4) (ix : Nat) (ups : List Upset) (s : State) : Outcome :=
  .next (rowRequestDone p.val ix ups s)

/-- A descriptor whose rows are all at their destination, or that failed and has none outstanding. -/
def Plat.finished (x : Plat) (a : DmaActive) : Bool :=
  if a.failed then !x.reqs.any (fun r => r.owner == a.id) else a.job.rows ≤ a.rowsDone

/-- The descriptor that completes next: done adds to one benchmark keep the start order (R187). -/
def Plat.nextComplete (x : Plat) : Option DmaActive :=
  x.active.find? (fun a => x.finished a && !x.active.any (fun b =>
    b.id < a.id && !x.finished b && b.job.desc.doneInc != 0 && b.job.desc.doneBm == a.job.desc.doneBm && a.job.desc.doneInc != 0))

/-- The effect of a completion on the plat, its benchmark and the region of a frame. A descriptor that failed has not
completed. -/
def State.dmaComplete (s : State) (p : Nat) (a : DmaActive) : State :=
  let x := s.plat p
  let s := s.setPlat p { x with
    active := x.active.filter (fun b => b.id != a.id)
    hqDone := if a.job.src == .host && !a.failed then x.hqDone + 1 else x.hqDone }
  let s := match a.job.frame with
    | some f => if f.spill && !a.failed then s.frameSpilled p f else s
    | none => s
  if a.failed || a.job.desc.doneInc = 0 then s
  else s.bmkAdd a.job.desc.doneBm (BitVec.ofNat 32 a.job.desc.doneInc)

/-- Credit benchmarks the image's program entries of a plat name (R188). -/
def Cfg.dmaEntries (c : Cfg) (p : Nat) : List DmaDesc :=
  ((SMap.get [] c.platProg p).filter (fun e => fld (e.getD 0 0) 0 8 == 1)).map (fun e =>
    { w0 := e.getD 1 0, w1 := e.getD 2 0, w2 := e.getD 3 0, w3 := e.getD 4 0, w4 := e.getD 5 0, w5 := e.getD 6 0 })

/-- A run of a host descriptor writes into a range closed to host writes (R254, R295). -/
def State.pushClosed (s : State) (d : DmaDesc) : Bool :=
  (List.range d.runs).any (fun k =>
    let lo := (d.w1.toNat : Int) + 512 * ((k : Int) * d.dstStride)
    s.hostClosed.any (fun r => decide (lo < r.2) && decide ((r.1 : Int) < lo + 512 * d.runRows)))

/-- DMA_HQ_PUSH (R188, R200, R254, R295). -/
def dmaHqPush (p : Nat) (go : Bool) (s : State) : State :=
  let x := s.plat p
  if !go then s
  else
    let w := fun i => x.hqDesc.getD i 0
    let d : DmaDesc := { w0 := w 0, w1 := w 1, w2 := w 2, w3 := w 3, w4 := w 4, w5 := w 5 }
    if s.img.state == .held || s.pwr.state == .idle then s.setPlat p { x with hqResult := Codes.notReady }
    else if 16 ≤ x.hq.length || (d.remote && !(s.cfg.dmaEntries p).any (fun e => e.remote && e.cbm == d.cbm))
        || s.pushClosed d then
      s.setPlat p { x with hqResult := Codes.refused }
    else s.setPlat p { x with hq := x.hq ++ [d], hqResult := Codes.ok }

def execDmaHqPush (p : Fin 4) (go : Bool) (s : State) : Outcome :=
  .next (s.whenAwake (fun s => if s.accessGated (.dma p.val) 0x070 then s.emit (.code Codes.clkGated)
    else dmaHqPush p.val go (s.woken (.dma p.val))))

/-! Triggers (R189, R190) -/

/-- A TRIGGER entry of PLAT_PROGRAM. -/
structure Trigger where
  bm : Nat
  dma : Bool
  event : Bool
  seq : Bool
  tag : Nat
  thr0 : W32
  inc : W32
  dmaIx : Nat
  site : Nat
  seqIx : Nat
  deriving DecidableEq, Repr

def Cfg.triggers (c : Cfg) (p : Nat) : List Trigger :=
  ((SMap.get [] c.platProg p).filter (fun e => fld (e.getD 0 0) 0 8 == 2)).map (fun e =>
    let a := e.getD 1 0
    let b := e.getD 2 0
    { bm := fld a 0 16, dma := bitOf a 16, event := bitOf a 17, seq := bitOf a 18, tag := fld a 24 8
      thr0 := BitVec.ofNat 32 (fld a 32 32), inc := BitVec.ofNat 32 (fld b 0 32), dmaIx := fld b 32 16
      site := fld b 48 9, seqIx := fld (e.getD 3 0) 0 16 })

/-- Starts the sequencer holds or has been asked for. -/
def Plat.seqLoad (x : Plat) : Nat := x.seqReq.length + x.seqPend.length

/-- The trigger is satisfied and its actions are possible now: no event goes into a region being drained (R121), and
a start beyond the 15 pending ones waits (R197). -/
def State.triggerReady (s : State) (p t : Nat) (g : Trigger) : Bool :=
  reached (s.bmk g.bm).count (SMap.get 0 (s.plat p).thr t)
    && !(g.event && s.siteDraining p g.site)
    && !(g.seq && 16 ≤ (s.plat p).seqLoad + b2n (s.plat p).seqRun.isSome)

/-- TRIGGER_FIRE: one firing of trigger t; a lower trigger that is ready goes first (R190). -/
def triggerFire (p t : Nat) (s : State) : State :=
  let ts := s.cfg.triggers p
  match ts[t]? with
  | none => s
  | some g =>
    if !s.inputsOpen || !s.gatesOpen (.dma p) || !s.triggerReady p t g || ((ts.take t).zipIdx.any (fun (h, i) => s.triggerReady p i h)) then s
    else
      let x := s.plat p
      let x := if g.dma then
          match (s.cfg.dmaEntries p)[g.dmaIx]? with
          | some d =>
            let f := SMap.get 0 x.firings g.dmaIx
            { x with waitingDma := x.waitingDma ++ [{ src := .program, index := g.dmaIx, desc := d, firing := f }]
                     firings := SMap.set 0 x.firings g.dmaIx (f + 1) }
          | none => x
        else x
      let s := s.setPlat p x
      let s := if g.event then s.injectEvent p g.site g.tag else s
      let x := s.plat p
      let x := if g.seq then { x with seqReq := x.seqReq ++ [g.seqIx] } else x
      s.setPlat p { x with
        thr := SMap.set 0 x.thr t (SMap.get 0 x.thr t + g.inc)
        fired := SMap.set 0 x.fired t (SMap.get 0 x.fired t + 1) }

def execTriggerFire (p : Fin 4) (t : Fin 1024) (s : State) : Outcome := .next (triggerFire p.val t.val s)

end Sys2Proof.Machine
end

