-- ==== Sys2Proof/Machine/Sequencer.lean ====
section
/-! DEFINITION. The tile sequencer (R195 to R198), and the two events that let a macro run go on: the end of a
walk (R192) and the completion of a DMA descriptor (R187). -/
namespace Sys2Proof.Machine

/-- A macro-instruction (R195). -/
structure Macro where
  op : Nat
  endFlag : Bool
  cu : Nat
  feedA : Nat
  feedB : Nat
  out : Nat
  mLive : Nat
  nLive : Nat
  aBase : Nat
  bBase : Nat
  cBase : Nat
  m : Nat
  n : Nat
  k : Nat
  kChunk : Nat
  doneBm : Nat
  deriving DecidableEq, Repr

def macroOf (e : List W64) : Macro :=
  let w := fun i => e.getD i 0
  { op := fld (w 0) 0 8, endFlag := bitOf (w 0) 8, cu := fld (w 0) 16 8, feedA := fld (w 0) 24 8, feedB := fld (w 0) 32 8
    out := fld (w 0) 40 8, mLive := fld (w 0) 48 8, nLive := fld (w 0) 56 8
    aBase := (w 1).toNat, bBase := (w 2).toNat, cBase := (w 3).toNat, m := fld (w 4) 0 32, n := fld (w 4) 32 32
    k := fld (w 5) 0 32, kChunk := fld (w 5) 32 16, doneBm := fld (w 5) 48 16 }

def State.macroAt (s : State) (p ix : Nat) : Option Macro := ((SMap.get [] s.cfg.seqProg p)[ix]?).map macroOf

/-- Tokens of an operand stream of g groups on a port of l lanes (R55). -/
def streamTokens (f : Fmt) (l nb gsize g : Nat) : Nat :=
  let elems := g * (gsize / max 1 (stepsPerToken l f.width))
  if f.grouped then cdiv g nb * (4 * l / 128) + g + elems else elems

/-- K steps of one group: G, or 32 for BF16 (R59). -/
def groupSteps (f : Fmt) (g : Nat) : Nat := if f.grouped then g else 32

def up (n k : Nat) : Nat := cdiv n k * k

/-- Tokens of a readout of one tile: 64 rows of 32 elements (R62, R69). -/
def readoutTokens (c : Cu) : Nat := 64 * (if c.fmtOut.grouped then 2 else 1)

/-- Sizes of a macro's operands in bytes: chunk and panel of A and of B, and a C tile (R195). -/
structure SeqSizes where
  chunkA : Nat
  chunkB : Nat
  panelA : Nat
  panelB : Nat
  tileC : Nat
  chunks : Nat
  deriving DecidableEq, Repr

def seqSizes (c : Cu) (q : Macro) : SeqSizes :=
  let gs := groupSteps c.fmtA c.gIn
  let tot := q.k / max 1 gs
  { chunkA := 128 * streamTokens c.fmtA 64 c.nbA gs q.kChunk, chunkB := 128 * streamTokens c.fmtB 32 c.nbB gs q.kChunk
    panelA := up (128 * streamTokens c.fmtA 64 c.nbA gs tot) 512, panelB := up (128 * streamTokens c.fmtB 32 c.nbB gs tot) 512
    tileC := up (128 * readoutTokens c) 512, chunks := tot / max 1 q.kChunk }

/-- First row of the STAGE region that generator AG0 of an MU is bound to. -/
def State.stageRow (s : State) (p n : Nat) : Nat := ((s.mu p n).reg ((s.mu p n).ag 0).region).baseRow

/-- Offset in an MU of slot t of half h of a STAGE region: slots of len bytes lie end to end (log entry 37). -/
def stageSlot (row0 live h t len : Nat) : Nat := 512 * row0 + (h * live + t) * len

/-- One staging transfer: bytes [a, a + len) into slot t of half h, and how many they are. -/
def stageDesc (p n row0 live h t a len : Nat) : DmaDesc × Nat :=
  ({ w0 := BitVec.ofNat 64 a, w1 := BitVec.ofNat 64 (muBase p n + stageSlot row0 live h t len)
     w2 := mkWord 64 [(0, 32, cdiv len 512), (32, 32, 1)] }, len)

/-- Base line of the staged bytes. -/
def stageLine (row0 live h t len : Nat) : Nat := stageSlot row0 live h t len / 64

/-- Multiples of step below n, from start. -/
def stepsFrom (start n step : Nat) : List Nat :=
  (List.range (cdiv (n - start) (max 1 step))).map (fun i => start + i * max 1 step)

/-- Column tiles of one n pass: np of R197, R198. -/
def Macro.np (q : Macro) : Nat := if q.mLive * q.nLive ≤ 32 then q.nLive else 32 / max 1 q.mLive

/-- Row tiles and column tiles live in a pass. -/
def Macro.liveA (q : Macro) : Nat := min q.mLive (q.m / 64)
def Macro.liveB (q : Macro) : Nat := min q.np (q.n / 32)

/-- Descriptor word of row tile mi and column tile nj in chunk c (R197). -/
def seqDescWord (q : Macro) (m0 p0 mi nj c nc : Nat) : W64 :=
  let last := c + 1 == nc
  mkWord 64 [(0, 5, (mi - m0) * q.np + (nj - p0)), (5, 1, b2n (c != 0)), (6, 1, b2n last), (7, 1, b2n last),
    (8, 16, q.kChunk)]

/-- Jobs of one n pass: for each chunk its staging, then its tile operations; after the last chunk each retired
tile is copied out (R197). -/
def State.passJobs (s : State) (p : Nat) (q : Macro) (m0 n0 p0 : Nat) : List SeqJob :=
  let z := seqSizes (s.cu p q.cu) q
  let mt := q.m / 64
  let nt := q.n / 32
  let ms := (List.range (min q.mLive (mt - m0))).map (m0 + ·)
  let ns := (List.range (min q.np (min (n0 + q.nLive) nt - p0))).map (p0 + ·)
  let liveA := q.liveA
  let liveB := q.liveB
  let rowA := s.stageRow p q.feedA
  let rowB := s.stageRow p q.feedB
  let rowC := s.stageRow p q.out
  let srcA := fun (i c : Nat) => q.aBase + i * z.panelA + c * z.chunkA
  let srcB := fun (j c : Nat) => q.bBase + j * z.panelB + c * z.chunkB
  let chunk := fun (c : Nat) =>
    let h := c % 2
    SeqJob.move (ms.map (fun i => stageDesc p q.feedA rowA liveA h (i - m0) (srcA i c) z.chunkA)
        ++ ns.map (fun j => stageDesc p q.feedB rowB liveB h (j - p0) (srcB j c) z.chunkB))
      :: ms.flatMap (fun i => ns.flatMap (fun j =>
        let lineA := stageLine rowA liveA h (i - m0) z.chunkA
        let lineB := stageLine rowB liveB h (j - p0) z.chunkB
        let word := seqDescWord q m0 p0 i j c z.chunks
        if c + 1 = z.chunks then
          [SeqJob.op word lineA lineB (some (8 * rowC)),
           SeqJob.move [({ w0 := BitVec.ofNat 64 (muBase p q.out + 512 * rowC)
                           w1 := BitVec.ofNat 64 (q.cBase + (i * nt + j) * z.tileC)
                           w2 := mkWord 64 [(0, 32, z.tileC / 512), (32, 32, 1)] }, z.tileC)]]
        else [SeqJob.op word lineA lineB none]))
  (List.range z.chunks).flatMap chunk ++ [SeqJob.pass (p0 != n0) (ms.length * z.panelA)]

/-- Jobs of a macro-instruction (R197). -/
def State.macroJobs (s : State) (p : Nat) (q : Macro) : List SeqJob :=
  (stepsFrom 0 (q.m / 64) q.mLive).flatMap (fun m0 =>
    (stepsFrom 0 (q.n / 32) q.nLive).flatMap (fun n0 =>
      (stepsFrom n0 (min (n0 + q.nLive) (q.n / 32)) q.np).flatMap (fun p0 => s.passJobs p q m0 n0 p0)))
    ++ [SeqJob.done]

/-- Every sequencer transfer of the plat is at its destination. -/
def Plat.seqMovesDone (x : Plat) : Bool :=
  !x.waitingDma.any (fun j => j.src == .seqr) && !x.active.any (fun a => a.job.src == .seqr)

/-- The driven generator of an MU has no walk in hand. -/
def Mu.feedIdle (m : Mu) : Bool := !(m.ag 0).busy && (m.ag 0).pending = 0 && (m.ag 0).seqBases.isEmpty

/-- A driven walk: its base, and a start of it (R192, R197). -/
def State.driveWalk (s : State) (p n line : Nat) : State :=
  let m := s.mu p n
  let g := m.ag 0
  s.setMu p n (m.setAg 0 { g with seqBases := g.seqBases ++ [line], pending := min 15 (g.pending + 1) })

/-- Hand out the first job. -/
def State.seqIssue (s : State) (p : Nat) (q : Macro) (ix : Nat) : SeqJob → State
  | .move ds =>
    let js := ds.map (fun d => ({ src := .seqr, index := ix, desc := d.1, len := d.2 } : DmaJob))
    s.setPlat p { s.plat p with waitingDma := (s.plat p).waitingDma ++ js }
  | .op w a b o =>
    let c := s.cu p q.cu
    let s := s.setCu p q.cu { c with seqDescs := c.seqDescs ++ [{ word := w }] }
    let s := (s.driveWalk p q.feedA a).driveWalk p q.feedB b
    match o with
    | some l => s.driveWalk p q.out l
    | none => s
  | _ => s

/-- The first job has ended. -/
def State.seqJobDone (s : State) (p : Nat) (q : Macro) : SeqJob → Bool
  | .move _ => (s.plat p).seqMovesDone
  | .op _ _ _ o => (s.mu p q.feedA).feedIdle && (s.mu p q.feedB).feedIdle && (o.isNone || (s.mu p q.out).feedIdle)
  | _ => true

/-- The run goes on as far as it can without waiting. Fuel bounds the jobs handed out at once. -/
def seqStep (p : Nat) : Nat → State → State
  | 0, s => s
  | fuel + 1, s =>
    match (s.plat p).seqRun with
    | none => s
    | some r =>
      match s.macroAt p r.macro_ with
      | none => s.setPlat p { s.plat p with seqRun := none }
      | some q =>
        match r.jobs with
        | [] => s.setPlat p { s.plat p with seqRun := none }
        | j :: js =>
          if !r.issued then
            seqStep p fuel ((s.setPlat p { s.plat p with seqRun := some { r with issued := true } }).seqIssue p q r.macro_ j)
          else if !s.seqJobDone p q j then s
          else
            let x := s.plat p
            let s := match j with
              | .pass extra bytes => s.setPlat p { x with
                  seqPasses := x.seqPasses + 1
                  seqExtra := if extra then x.seqExtra + 1 else x.seqExtra
                  seqExtraBytes := if extra then x.seqExtraBytes + BitVec.ofNat 64 bytes else x.seqExtraBytes
                  seqRun := some { r with jobs := js, issued := false } }
              | .done =>
                let s := s.setPlat p { x with seqMacros := x.seqMacros + 1 }
                let s := s.bmkAdd q.doneBm 1
                let x := s.plat p
                if q.endFlag then s.setPlat p { x with seqRun := none }
                else match s.macroAt p (r.macro_ + 1) with
                  | some q2 => s.setPlat p { x with seqRun := some { macro_ := r.macro_ + 1, jobs := s.macroJobs p q2 } }
                  | none => s.setPlat p { x with seqRun := none }
              | _ => s.setPlat p { x with seqRun := some { r with jobs := js, issued := false } }
            seqStep p fuel s

def State.seqAdvance (s : State) (p : Nat) : State := if s.arrayRuns then seqStep p 64 s else s

/-- A run begins at a macro-instruction. -/
def State.seqBegin (s : State) (p ix : Nat) : State :=
  match s.macroAt p ix with
  | none => s
  | some q =>
    (s.setPlat p { s.plat p with seqRun := some { macro_ := ix, jobs := s.macroJobs p q } }).seqAdvance p

/-- SEQUENCER_START: the oldest start a trigger has asked for begins, or is held as pending (R197). -/
def sequencerStart (p ix : Nat) (s : State) : State :=
  let x := s.plat p
  if !s.inputsOpen || !s.gatesOpen (.dma p) || x.seqReq.head? != some ix then s
  else if x.seqRun.isSome then
    (if x.seqPend.length < 15 then s.setPlat p { x with seqReq := x.seqReq.drop 1, seqPend := x.seqPend ++ [ix] } else s)
  else (s.setPlat p { x with seqReq := x.seqReq.drop 1 }).seqBegin p ix

def execSequencerStart (p : Fin 4) (ix : BitVec 16) (s : State) : Outcome := .next (sequencerStart p.val ix.toNat s)

/-- SEQUENCER_PENDING_START. -/
def sequencerPendingStart (p : Nat) (s : State) : State :=
  let x := s.plat p
  match x.seqPend with
  | [] => s
  | ix :: rest =>
    if !s.inputsOpen || !s.gatesOpen (.dma p) || x.seqRun.isSome then s
    else (s.setPlat p { x with seqPend := rest }).seqBegin p ix

def execSequencerPendingStart (p : Fin 4) (s : State) : Outcome := .next (sequencerPendingStart p.val s)

/-- WALK_END, after which a macro run that waited for the walk goes on. -/
def execWalkEnd (p : Fin 4) (mu : Fin 256) (a : Fin 4) (s : State) : Outcome :=
  .next ((walkEnd p.val mu.val a.val s).seqAdvance p.val)

/-- DESCRIPTOR_COMPLETE, after which a macro run that waited for the transfer goes on. -/
def descriptorComplete (p : Nat) (s : State) : State :=
  match (s.plat p).nextComplete with
  | none => s
  | some a => (s.dmaComplete p a).seqAdvance p

def execDescriptorComplete (p : Fin 4) (s : State) : Outcome := .next (descriptorComplete p.val s)

end Sys2Proof.Machine
end

