-- ==== Sys2Proof/Machine/Restart.lean ====
section
/-! DEFINITION. The step-restart actions (R215, R254, R406) and the clearing of an attempt. -/
namespace Sys2Proof.Machine

/-- Switch queues and bridge buffers emptied, every spill ended, pending cycles cleared (R406). An input that had passed
part of a stream counts as having passed its last flag, so that a later drain closes it (log entry 91). -/
def Sw.restart (w : Sw) : Sw :=
  { w with spilling := none, spillTokens := 0
           ins := SMap.mapVals {} (fun _ q => { q with link := [], q := [], blocked := false, passedLast := true }) w.ins }

/-- Tiles FREE, pipeline empty, FAULTED left, descriptor list at its first (R181, R406). -/
def Cu.restart (c : Cu) : Cu :=
  { c with run := if c.run == .faulted then .live else c.run
           tiles := [], engine := none, curReg := false, reg0 := [], reg1 := [], writeback := [], sets := [], readout := none
           lastA := false, lastB := false, faultDesc := none, next := 0, seqDescs := []
           vec := {}, inA := [], inB := [], inS := [] }

/-- Walks stopped, counts 0 (R406); a generator that AG_BOUNDS stopped stays so (R88). -/
def AgSt.restart (g : AgSt) : AgSt :=
  { g with busy := false, pending := 0, moved := 0, idx := 0, walk := 0, stepWalks := 0, seqBases := [], dead := false
           lines := [], input := [] }

/-- Counts, parked segments and windows (R406). -/
def RegSt.restart (g : RegSt) : RegSt := { a := g.a, b := g.b }

/-- Rows of the tier-0 copies of an MU (R284). -/
def State.tier0Row (s : State) (p n row : Nat) : Bool :=
  s.cfg.regions.any (fun r => r.tier == 0 &&
    [r.stateOff, r.stateOffB].any (fun a =>
      let (_, _, _, e) := regionPlanes (s.flagsOf r) r a
      match muOf a with
      | some (q, m, o) => q == p && m == n && o / 512 ≤ row && row < cdiv (o + (e - a)) 512
      | none => false))

/-- The poisoned row is filled with zeros by a restart (R406). -/
def State.restartFills (s : State) (p n row : Nat) : Bool :=
  let m := s.mu p n
  let kind := match m.regionOf row with
    | some r => (m.reg r).kind
    | none => 0
  kind != 1 && kind != 3 && !s.tier0Row p n row

def State.restartMu (s : State) (p n : Nat) (m : Mu) : Mu :=
  let rows := (m.poison.map (·.1)).filter (s.restartFills p n)
  let m := rows.foldl (fun m r => m.writeWide (512 * r) (List.replicate 512 0) false) m
  { m with events := [], qin := [], segs := []
           regions := SMap.mapVals {} (fun _ g => g.restart) m.regions
           ags := SMap.mapVals {} (fun _ g => g.restart) m.ags }

/-- Initial thresholds of the triggers of a plat (R190). -/
def Cfg.thr0s (c : Cfg) (p : Nat) : SMap W32 := SMap.setList 0 [] 0 ((c.triggers p).map (·.thr0))

/-- Plat DMA, sequencer and triggers; host-queue descriptors go on (R191, R406). -/
def Plat.restart (x : Plat) (thr : SMap W32) : Plat :=
  let keep := x.active.filter (fun a => a.job.src == .host)
  { x with
    active := keep, reqs := x.reqs.filter (fun r => keep.any (fun a => a.id == r.owner))
    waitingDma := x.waitingDma.filter (fun j => j.src == .host)
    sent := [], firings := [], thr := thr, fired := [], seqReq := [], seqPend := [], seqRun := none }

/-- Initial thresholds of the stream entries (R348). -/
def Cfg.streams0 (c : Cfg) : SMap StreamSt := SMap.setList {} [] 0 (c.plan.streams.map (fun e => { thr := e.thr0 }))

/-- AUs idle, coefficients as the table has them (R234); the step counter is kept. -/
def Au.restart (a : Au) : Au :=
  { a with phase := 0, parked := [], live := [], passDone := false, sums := [], chunk := [], region := 0, piece := 0
           pos := 0, lastIndex := none }

/-- The attempt of a step is forgotten; coefficient entries, freeze bits, bank differences and the norm of the last
sealed step stay (R252, R255, R262). -/
def Adj.restart (a : Adj) : Adj :=
  { a with inStep := false, sealSent := none, gateSent := none, commitSent := none, recs := [], sealed := false
           gateOk := false, kFault := false, partials := [], gatherBad := false, trust := []
           pass2 := false, fresh := true }

/-- Some row of a WEIGHT region is poisoned (R406). -/
def State.weightPoisoned (s : State) : Bool :=
  s.mus.any (fun e => e.2.poison.any (fun q => match e.2.regionOf q.1 with
    | some r => (e.2.reg r).kind == 1
    | none => false))

/-- The step-restart actions but for the working copies (R406). -/
def State.restartUnits (s : State) : State :=
  let s1 := { s with
    cus := SMap.mapVals {} (fun _ c => c.restart) s.cus
    mus := SMap.mapVals {} (fun k m => s.restartMu (k / 256) (k % 256) m) s.mus
    sws := SMap.mapVals {} (fun _ w => w.restart) s.sws
    plats := (List.range 4).foldl (fun (m : SMap Plat) p => SMap.set {} m p ((s.plat p).restart (s.cfg.thr0s p))) s.plats
    aus := SMap.mapVals {} (fun _ a => a.restart) s.aus
    lxg := { s.lxg with streams := s.cfg.streams0, sent := [] }
    adj := s.adj.restart }
  s1.restoreBmks

/-- The step-restart actions (R148, R406): `start` at START, where the copies are always regenerated. -/
def State.restartActions (s : State) (start : Bool) : State :=
  let regen := start || s.adj.pass2 || s.weightPoisoned
  let s := s.restartUnits
  if regen then s.regenAll else s

/-- Every configuration region stands DRAINED (R149, R411). -/
def State.allDrained (s : State) : State :=
  (List.range 4).foldl (fun s p =>
    let sites := s.sitesOf p 0xFFFF
    let mask : W16 := sites.foldl (fun m i => setBit m (s.sw p i).cregion) 0
    let s := sites.foldl (fun s i =>
      let s := s.setSw p i { s.sw p i with run := .drained }
      if siteIsCu i then s.setCu p (i / 2) { s.cu p (i / 2) with run := .drained }
      else s.setMu p (i / 2) { s.mu p (i / 2) with run := .drained }) s
    s.setPlat p { s.plat p with draining := 0, drained := mask }) s

end Sys2Proof.Machine
end

