-- ==== Sys2Proof/Machine/ImageParse.lean ====
section
/-! DEFINITION. Reading a Preast image out of its bytes (R129 to R138) and writing it into the part (R144, R153). -/
namespace Sys2Proof.Machine

/-! Sections and items (R129 to R134) -/

/-- A section with its table entry (R131). -/
structure Sect where
  ix : Nat
  typ : Nat
  plat : Nat
  rsv : Nat
  count : Nat
  off : Nat
  len : Nat
  data : List Byte
  deriving DecidableEq, Repr

/-- An image: its header fields and sections (R130). -/
structure Image where
  bytes : List Byte
  kind : Nat
  len : Nat
  svn : Nat
  tableOff : Nat
  mask : W64
  baseId : List Byte
  layoutId : List Byte
  sects : List Sect
  deriving DecidableEq, Repr

/-- Bytes of the signature block (R129). -/
def sigBytes : Nat := 29824

/-- Entry i of the section table. -/
def sectAt (im : List Byte) (table i : Nat) : Sect :=
  let o := table + 32 * i
  let off := leAt im (o + 8) 8
  let len := leAt im (o + 16) 8
  { ix := i, typ := leAt im o 2, plat := byteAt im (o + 2), rsv := byteAt im (o + 3) + leAt im (o + 24) 8
    count := leAt im (o + 4) 4, off := off, len := len, data := (im.drop off).take len }

def imageOf (im : List Byte) : Image :=
  let t := leAt im 0x1C 4
  { bytes := im, kind := leAt im 0x0A 2, len := leAt im 0x10 8, svn := leAt im 0x20 4, tableOff := t
    mask := BitVec.ofNat 64 (leAt im 0x28 8), baseId := sub im 0x30 64, layoutId := sub im 0x80 64
    sects := (List.range (min 256 (leAt im 0x18 4))).map (sectAt im t) }

/-- The signed content (R137). -/
def Image.signed (im : Image) : List Byte := im.bytes.take (im.len - sigBytes)

/-- The image identity (R137). -/
def Image.identity (im : Image) : List Byte :=
  let ds := (chunksOf 0x100000 im.signed).zipIdx.flatMap (fun (c, i) =>
    Config.shake256 (ascii "BLK-IMG-CHUNK" ++ leBytes 8 i ++ c) 64)
  Config.shake256 (ascii "BLK-IMG-ROOT" ++ leBytes 8 im.signed.length ++ ds) 64

/-- The key slot that the signature block names (R138). -/
def Image.keySlot (im : Image) : Nat := byteAt im.bytes (im.len - sigBytes + 8)

/-- An item of a register-image section: its plat, unit or site, words, section and index (R134). -/
structure Item where
  plat : Nat
  words : List W64
  bytes : List Byte
  sect : Nat
  ix : Nat
  deriving DecidableEq, Repr

def Item.w (u : Item) (k : Nat) : W64 := u.words.getD k 0
def Item.u (u : Item) (o k : Nat) : Nat := leAt u.bytes o k

/-- Items of a section type, `size` bytes each, after a head of `head` bytes. -/
def Image.items (im : Image) (typ size : Nat) (head : Nat := 0) : List Item :=
  (im.sects.filter (fun x => x.typ == typ)).flatMap (fun x =>
    (chunksOf size (x.data.drop head)).zipIdx.map (fun (b, i) =>
      { plat := x.plat, words := wordsOf b, bytes := b, sect := x.ix, ix := i }))

def Image.find (im : Image) (typ plat : Nat) : Option Sect := im.sects.find? (fun x => x.typ == typ && x.plat == plat)
def Image.data (im : Image) (typ : Nat) : List Byte := ((im.find typ 0xFF).map (·.data)).getD []

def Image.switches (im : Image) : List Item := im.items 2 192
def Image.cus (im : Image) : List Item := im.items 3 320
def Image.tiles (im : Image) (p : Nat) : List W64 := ((im.find 4 p).map (fun x => wordsOf x.data)).getD []
def Image.mus (im : Image) : List Item := im.items 5 528
def Image.platItems (im : Image) : List Item := im.items 6 64
def Image.seqItems (im : Image) : List Item := im.items 7 64
def Image.benchmarks (im : Image) : List Item := im.items 8 24
def Image.params (im : Image) : List Item := im.items 10 128
def Image.ranges (im : Image) : List Item := im.items 11 64 64
def Image.timings (im : Image) : List Item := im.items 13 32 64

/-- The site of a SWITCH item; the unit of a CU or MU item. -/
def Item.site (u : Item) : Nat := fld (u.w 0) 0 9
def Item.unit (u : Item) : Nat := fld (u.w 0) 0 8

/-! Tables (R135, R136, R225, R235, R236, R274, R346) -/

def timingOf (d : List Byte) (es : List Item) : Timing :=
  { stepDt := leAt d 0 8, boundaryDt := leAt d 8 8
    entries := es.map (fun e => { opcode := e.u 0 2, cls := e.u 2 2, unitBytes := e.u 4 4, base := e.u 8 8
                                  perUnit := e.u 16 8, max := e.u 24 8 }) }

def copyOf (w : W64) : CopyDesc :=
  { fmt := fld w 0 4, gsz := fld w 4 2, bpg := fld w 6 5, en := bitOf w 11, axis := bitOf w 12, plat := fld w 13 2
    mu := fld w 15 8, region := fld w 23 4, gather := bitOf w 27 }

def regionOf (u : Item) : Region :=
  { rule := u.u 1 1, tier := u.u 2 1, au := u.u 3 1, trustGroup := u.u 4 2, sparse := bitOf (u.w 0) 48
    frozen := bitOf (u.w 0) 49, elements := u.u 8 8, matCols := u.u 0x10 4, ownerDev := u.u 0x14 2
    stateOff := u.u 0x18 8, stateOffB := u.u 0x20 8, copy0 := copyOf (u.w 5), copy1 := copyOf (u.w 6)
    mapBase := u.u 0x38 8, precond := u.w 8, betaF := BitVec.ofNat 32 (u.u 0x48 4), pieces := [] }

def pieceOf (u : Item) : Piece :=
  { item := u.ix, rPlat := u.u 1 1, rMu := u.u 2 1, rReg := u.u 3 1, hPlat := u.u 4 1, hMu := u.u 5 1, hReg := u.u 6 1
    eEn := bitOf (u.w 0) 56, raw := bitOf (u.w 0) 57, e0 := u.u 8 8, n := u.u 0x10 4, gFmt := u.u 0x14 1
    eFmt := u.u 0x15 1, gsz := u.u 0x16 1, bpg := u.u 0x17 1 }

/-- REGION items, each with the PIECE items that follow it (R235). -/
def regionsOf (us : List Item) : List Region :=
  us.foldl (fun rs u =>
    if u.u 0 1 = 1 then rs ++ [regionOf u]
    else match rs.getLast? with
      | some r => rs.dropLast ++ [{ r with pieces := r.pieces ++ [pieceOf u] }]
      | none => rs) []

def planOf (d : List Byte) : Plan :=
  let ns := leAt d 8 2
  let nt := leAt d 10 2
  { dev := leAt d 0 2, rset := leAt d 2 2, shard := leAt d 4 2, shards := leAt d 6 2
    portMask := BitVec.ofNat 32 (leAt d 12 4)
    credit := (List.range 8).map (fun i => leAt d (16 + 2 * i) 2)
    weights := (List.range 3).map (fun i => byteAt d (32 + i))
    seals := (List.range ns).map (fun k =>
      let o := 64 + 8 * k
      { dev := leAt d o 2, rset := leAt d (o + 2) 2, shard := leAt d (o + 4) 2 })
    streams := (List.range nt).map (fun k =>
      let e := sub d (64 + 8 * ns + 64 * k) 64
      { mode := leAt e 0 1, contrib := leAt e 1 1, dstDev := leAt e 2 2, bm := leAt e 4 2, doneBm := leAt e 6 2
        src := leAt e 8 8, dst := leAt e 16 8, tokens := leAt e 24 4, thr0 := BitVec.ofNat 32 (leAt e 28 4)
        inc := BitVec.ofNat 32 (leAt e 32 4), doneInc := leAt e 36 1, spread := leAt e 37 1 % 2 = 1
        cbm := leAt e 38 2, srcAdv := toSigned 32 (leAt e 40 4), advPeriod := leAt e 44 2 }) }

def rangeOfItem (u : Item) : DramRange :=
  { kind := u.u 0 1, gran := u.u 1 1, chans := u.u 2 2, base := u.u 8 8, len := u.u 16 8, local0 := u.u 24 8
    plat := u.u 32 1, mu := u.u 33 1, region := u.u 34 1, buddyDev := u.u 36 2 }

/-- Entries of a plat's section as words. -/
def entriesOf (us : List Item) (p : Nat) : List (List W64) := (us.filter (fun u => u.plat == p)).map (·.words)

/-- SITE_MAP: the configuration region of each configured site (R133). -/
def siteMapOf (im : Image) : SMap Nat :=
  (List.range 4).foldl (fun m p =>
    match im.find 1 p with
    | none => m
    | some x => x.data.zipIdx.foldl (fun m (b, i) =>
        if bitOf b 7 then SMap.set 0xFF m (siteKey p i) (b.toNat % 16) else m) m) []

/-- The tables of a full image. -/
def cfgOf (im : Image) : Cfg :=
  let pp := (List.range 4).map (entriesOf im.platItems)
  let sq := (List.range 4).map (entriesOf im.seqItems)
  { siteMap := siteMapOf im
    timing := timingOf (im.data 13) im.timings
    budget := (List.range 16).map (fun i => leAt (im.data 14) (4 * i) 4)
    rules := (chunksOf 128 (im.data 9)).map wordsOf
    regions := regionsOf im.params
    plan := planOf (im.data 12)
    layout := im.ranges.map rangeOfItem
    platProg := SMap.setList [] [] 0 pp
    seqProg := SMap.setList [] [] 0 sq
    bmkInit := im.benchmarks.map (fun u => (fld (u.w 0) 0 16, u.w 1, u.w 2)) }

/-! Writing units (R144) -/

/-- A CU as its item sets it; counts since image load begin again (R79, R134). -/
def Cu.configure (c : Cu) (u : Option Item) (tiles : List W64) (epoch : Nat) : Cu :=
  let w := fun (k : Nat) => (match u with | some u => u.w k | none => 0 : W64)
  let seq := bitOf (w 0) 8
  let desc := w 36
  { c.restart with
    run := .live, cfg := putFld (w 1) 36 4 epoch, vprog := w 2, abftCtl := w 3
    vconst := SMap.setList 0 [] 0 ((List.range 32).map (fun k => BitVec.ofNat 32 (fld (w (4 + k)) 0 32)))
    seq := seq
    program := if seq || u.isNone then [] else ((tiles.drop (fld desc 0 32)).take (fld desc 32 32)).map (fun d => { word := d })
    cntKstep := 0, cntRetired := 0, abftHeld := false }

/-- A generator as its item and the plat program set it (R87, R180, R192); all-zero words bind none. -/
def agOf (ws : List W64) (stash handoff : W64) : AgSt :=
  { words := if ws.all (· == 0) then [] else ws, stash := stash, handoff := handoff }

/-- The word that an entry of type t of a plat program gives a generator. -/
def agEntry (es : List (List W64)) (t n a : Nat) : W64 :=
  match es.find? (fun e => fld (e.getD 0 0) 0 8 == t && fld (e.getD 1 0) 0 8 == n && fld (e.getD 1 0) 8 8 == a) with
  | some e => e.getD 2 0
  | none => 0

/-- An MU as its item sets it: its SRAM stays, its regions and generators begin empty (R144). -/
def Mu.configure (m : Mu) (u : Option Item) (es : List (List W64)) (n epoch : Nat) : Mu :=
  let w := fun (k : Nat) => (match u with | some u => u.w k | none => 0 : W64)
  { m with
    run := .live, epoch := epoch, cmd := none, events := [], qin := [], segs := []
    regions := SMap.setList {} [] 0 ((List.range 16).map (fun r => ({ a := w (2 + 2 * r), b := w (3 + 2 * r) } : RegSt)))
    ags := SMap.setList {} [] 0 ((List.range 4).map (fun a =>
      agOf ((List.range 8).map (fun k => w (34 + 8 * a + k))) (agEntry es 3 n a) (agEntry es 4 n a))) }

/-- A switch as its item sets it (R127, R134). -/
def Sw.configure (x : Sw) (u : Option Item) (epoch : Nat) (run : SwRun) : Sw :=
  let w := fun (k : Nat) => (match u with | some u => u.w k | none => 0 : W64)
  { x with
    run := run, epoch := epoch, cregion := fld (w 1) 4 4, spill := w 2, qbind := w 3
    routes := SMap.setList 0 [] 0 ((List.range 20).map (fun k => w (4 + k)))
    ins := [], spilling := none, spillTokens := 0 }

/-- Write one site and its unit. -/
def State.configureSite (s : State) (im : Image) (es : List (List W64)) (p site epoch : Nat) (drained : Bool) : State :=
  let n := site / 2
  let s := s.setSw p site ((s.sw p site).configure (im.switches.find? (fun u => u.plat == p && u.site == site)) epoch
    (if drained then .drained else .running))
  if siteIsCu site then
    let c := (s.cu p n).configure (im.cus.find? (fun u => u.plat == p && u.unit == n)) (im.tiles p) epoch
    s.setCu p n (if drained then { c with run := .drained } else c)
  else
    let m := (s.mu p n).configure (im.mus.find? (fun u => u.plat == p && u.unit == n)) es n epoch
    s.setMu p n (if drained then { m with run := .drained } else m)

/-- Plat state at a full load: no drain, epochs, thresholds, counts since image load. TRV_DLD_CTL.window stays as it
stands, since no part of an image holds it (R117, log entry 96). -/
def Plat.configure (x : Plat) (c : Cfg) (p : Nat) : Plat :=
  let regs := ((c.siteMap.filter (fun e => e.1 / 512 == p)).map (·.2)).eraseDups
  { x.restart (c.thr0s p) with
    draining := 0, drained := 0, timedOut := 0, epochs := regs.foldl (fun m r => SMap.set 0 m r 1) []
    dldSpills := 0, hqDone := 0, seqPasses := 0, waitPeak := x.waits.length }

/-- PWR_LEAK (R395, R459). -/
def State.leak (s : State) : W32 := if s.nvm.mfgBad then 0xFFFFFFFF else Config.leakMw

/-- Checked sum of a budget (R389). -/
def State.budgetSum (s : State) (b : List Nat) : Nat :=
  let g := fun i => b.getD i 0
  (List.range 10).foldl (fun a i => a + g (1 + i)) 0 + max (g 11) s.leak.toNat

def State.admitBudget (s : State) (b : List Nat) : State :=
  { s with pwr := { s.pwr with
    admitted := BitVec.ofNat 32 (b.getD 0 0), admittedSum := BitVec.ofNat 32 (s.budgetSum b), above := false, peak := 0
    tripped := false } }

/-- Benchmarks at image load: items' objects, every other benchmark zero (R144 step 3). -/
def initialBmks (init : List (Nat × W64 × W64)) : SMap Bmk :=
  init.foldl (fun m (i, lo, hi) => SMap.set {} m i
    { count := BitVec.ofNat 32 (fld lo 0 32), thr := BitVec.ofNat 32 (fld lo 32 32), mode := BitVec.ofNat 32 (fld hi 0 32) }) []

/-- Freeze bits at image load (R235, R254). -/
def frozenBits (rs : List Region) : BitVec 4096 :=
  rs.zipIdx.foldl (fun f (r, i) => if r.frozen then setBit f i else f) 0

/-- Everything a full load writes (R144). -/
def State.install (s : State) (im : Image) : State :=
  let c := cfgOf im
  let s := { s with
    cfg := c, bmks := initialBmks c.bmkInit
    cus := SMap.mapVals {} (fun _ x => x.clear) s.cus
    mus := SMap.mapVals {} (fun _ x => { x.clear with regions := [], ags := [] }) s.mus
    sws := SMap.mapVals {} (fun _ x => { x.clear with routes := [], spill := 0, qbind := 0, cregion := 0 }) s.sws
    plats := (List.range 4).foldl (fun (m : SMap Plat) p => SMap.set {} m p ((s.plat p).configure c p)) s.plats
    aus := SMap.mapVals {} (fun _ a => { a.restart with precond := 0, peak := 0 }) s.aus
    lxg := { s.lxg with streams := c.streams0 }
    adj := { s.adj.restart with freeze := frozenBits c.regions, freezeNext := [], coefs := [], dbits := 0 }
    img := { s.img with state := .ready, loaded := true, cfgId := im.identity, fullId := im.identity
                        layoutId := im.layoutId, stopAtBoundary := false, stopDrained := false, partialMask := 0 }
    sec := { s.sec with loadedSvn := BitVec.ofNat 32 im.svn } }
  (c.siteMap.foldl (fun s (k, _) =>
    s.configureSite im (SMap.get [] c.platProg (k / 512)) (k / 512) (k % 512) 1 false) s).admitBudget c.budget

/-! Partial reconfiguration (R124, R153) -/

/-- Sites that a PARTIAL image replaces: those of the regions of its mask. -/
def State.replaced (s : State) (mask : W64) : List (Nat × Nat) :=
  (s.cfg.siteMap.filter (fun e => bitOf mask (16 * (e.1 / 512) + e.2))).map (fun e => (e.1 / 512, e.1 % 512))

/-- Sites next to a site by a track or a bridge (R106, R114). -/
def neighbours (p site : Nat) : List (Nat × Nat) :=
  ((List.range 4).filterMap (neighbour site)).map (fun x => (p, x)) ++ (facingEW p site).toList ++ (facingNS p site).toList

/-- The epoch of a partial reconfiguration, if one exists (R124). -/
def State.nextEpoch (s : State) (mask : W64) : Option Nat :=
  let m := s.replaced mask
  let top := m.foldl (fun e (p, x) => max e (s.sw p x).epoch) 0
  let near := (m.flatMap (fun (p, x) => neighbours p x)).filter (fun q => !m.contains q && s.cfg.configured q.1 q.2)
  let held := near.flatMap (fun (p, x) =>
    (s.cfg.siteMap.filter (fun e => e.1 / 512 == p && e.2 == SMap.get 0xFF s.cfg.siteMap (siteKey p x))).map
      (fun e => (s.sw (e.1 / 512) (e.1 % 512)).epoch)) ++ near.map (fun (p, x) => (s.sw p x).epoch)
  ((List.range 16).map (fun i => (top + 1 + i) % 16)).find? (fun e => e != 0 && !held.contains e)

/-- Everything a partial reconfiguration writes (R153). A plat's program or macro list is replaced where the image
holds its section. -/
def State.installPartial (s : State) (im : Image) (e : Nat) : State :=
  let m := s.replaced im.mask
  let c := s.cfg
  let tm := timingOf (im.data 13) im.timings
  let budget := (List.range 16).map (fun i => leAt (im.data 14) (4 * i) 4)
  let pp := (List.range 4).foldl (fun pp p => if (im.find 6 p).isSome then SMap.set [] pp p (entriesOf im.platItems p) else pp) c.platProg
  let sq := (List.range 4).foldl (fun sq p => if (im.find 7 p).isSome then SMap.set [] sq p (entriesOf im.seqItems p) else sq) c.seqProg
  let c := { c with timing := tm, budget := budget, platProg := pp, seqProg := sq }
  let s := { s with cfg := c }
  let s := (List.range 4).foldl (fun s p =>
    let regs := (m.filter (fun q => q.1 == p)).map (fun q => SMap.get 0xFF c.siteMap (siteKey p q.2))
    let x := s.plat p
    let x := { x with epochs := regs.foldl (fun mm r => SMap.set 0 mm r e) x.epochs }
    s.setPlat p (if (im.find 6 p).isSome then { x with thr := c.thr0s p, fired := [], firings := [] } else x)) s
  let s := m.foldl (fun s (p, x) => s.configureSite im (entriesOf im.platItems p) p x e true) s
  let id := im.identity
  let s := { s with img := { s.img with
    cfgId := Config.shake256 (ascii "BLK-IMG-CHAIN" ++ s.img.cfgId ++ id) 64
    layoutId := Config.shake256 (ascii "BLK-IMG-LAYOUT-CHAIN" ++ s.img.layoutId ++ im.layoutId) 64 } }
  s.admitBudget budget

end Sys2Proof.Machine
end

