-- ==== Sys2Proof/Machine/ImageCheck.lean ====
section
/-! DEFINITION. The checks of an image load (R140 to R142). Within one check the failure reported is the first by the
order of its rules here, then of the section table and the items (log entry 40). -/
namespace Sys2Proof.Machine

/-- A failed check (R140, R155). -/
structure LoadFail where
  code : Code
  check : Nat
  plat : Nat := 0xFF
  sect : Nat := 0xFFFF
  item : Nat := 0
  deriving DecidableEq, Repr

/-- The first failure of a list. -/
def firstOf (fs : List (Option LoadFail)) : Option LoadFail := fs.findSome? id

/-- The first item for which a condition is broken. -/
def firstBad (check : Nat) (us : List Item) (bad : Item → Bool) (code : Code := Codes.imageStruct) : Option LoadFail :=
  (us.find? bad).map (fun u => { code := code, check := check, plat := u.plat, sect := u.sect, item := u.ix })

/-- A section as a whole fails. -/
def sectBad (check : Nat) (im : Image) (typ plat : Nat) (bad : Bool) (code : Code := Codes.imageStruct) (item : Nat := 0) :
    Option LoadFail :=
  if bad then some { code := code, check := check, plat := plat, sect := ((im.find typ plat).map (·.ix)).getD 0xFFFF
                     item := item } else none

/-! Check 1 (R129, R130, R138) -/

/-- Parts of the image: header, table, sections that are not empty, signature block. -/
def Image.parts (im : Image) : List (Nat × Nat) :=
  [(0, 256), (im.tableOff, im.tableOff + 32 * im.sects.length), (im.len - sigBytes, im.len)]
    ++ (im.sects.filter (fun x => x.len != 0)).map (fun x => (x.off, x.off + x.len))

/-- Parts in order leave only zero bytes between them and do not overlap. -/
def partsOk (im : List Byte) : Nat → List (Nat × Nat) → Bool
  | _, [] => true
  | pos, (a, b) :: t => pos ≤ a && allZero ((im.drop pos).take (a - pos)) && partsOk im b t

def check1 (im : Image) (kind stageLen : Nat) : Bool :=
  let b := im.bytes
  let full := kind = 1
  let e := im.len - sigBytes
  let n := leAt b 0x18 4
  sub b 0 8 == ascii "PREASTIM" && leAt b 8 2 == 1 && im.kind == kind && leAt b 0x0C 2 == 0x9600 && byteAt b 0x0E == 0x20
    && byteAt b 0x0F == 0 && leAt b 0x24 4 == 0 && allZero (sub b 0xC0 64)
    && (!full || (im.mask == 0 && allZero im.baseId))
    && im.len ≤ stageLen && stageLen ≤ 0x40000000 && im.len ≤ b.length && 256 + sigBytes ≤ im.len
    && 1 ≤ n && n ≤ 256 && im.tableOff % 8 == 0 && 256 ≤ im.tableOff && im.tableOff + 32 * n ≤ e
    && im.sects.all (fun x => x.off % 64 == 0 && x.off + x.len ≤ e)
    && partsOk b 0 (sortBy (·.1) im.parts)
    && sub b e 8 == ascii "PRSTSIG1" && byteAt b (e + 9) == 1 && allZero (sub b (e + 10) 22)

/-! Check 4 (R131, R132) -/

/-- Item size of a type with fixed items. -/
def itemSize : Nat → Option Nat
  | 1 => some 512 | 2 => some 192 | 3 => some 320 | 4 => some 8 | 5 => some 528 | 6 => some 64 | 7 => some 64
  | 8 => some 24 | 9 => some 128 | 10 => some 128 | 14 => some 64 | _ => none

/-- item_count and length fit the type (R131, R189, R225, R235). -/
def Sect.sizeOk (x : Sect) : Bool :=
  match itemSize x.typ with
  | some k => x.len == x.count * k && (match x.typ with
    | 1 => x.count == 1 | 14 => x.count == 1 | 9 => x.count == 64 | 10 => x.count ≤ 65536 | 6 => x.count ≤ 4096
    | _ => true)
  | none =>
    64 ≤ x.len && (match x.typ with
    | 11 => let c := leAt x.data 0 4; 1 ≤ c && c ≤ 256 && x.count == c && x.len == 64 + 64 * c
    | 12 => let a := leAt x.data 8 2
            let b := leAt x.data 10 2
            1 ≤ a && a ≤ 4096 && b ≤ 16384 && x.count == a + b && x.len == 64 + 8 * a + 64 * b
    | 13 => let c := leAt x.data 0x10 4; c ≤ 4096 && x.count == c && x.len == 64 + 32 * c
    | _ => false)

/-- Sections of a type that a scope may hold: least and most, FULL and PARTIAL (R132). -/
def presence (full : Bool) : Nat → Nat × Nat
  | 1 => if full then (1, 1) else (0, 0)
  | 8 => if full then (0, 1) else (0, 0)
  | 9 => if full then (1, 1) else (0, 0)
  | 10 => if full then (1, 1) else (0, 0)
  | 11 => if full then (1, 1) else (0, 0)
  | 12 => if full then (1, 1) else (0, 0)
  | 13 => (1, 1)
  | 14 => (1, 1)
  | _ => (0, 1)

/-- Bits a register-image word may carry, word by word (R134 with R79, R102, R127). -/
def routeMask : Nat := 0x01FF01FF01FF01FF
def agMask : List Nat := [0xFFFFFFFF3FFFFFFF] ++ List.replicate 6 0x0001FFFF0000FFFF ++ [0x0FFFF7FF]
def wordMask : Nat → List Nat
  | 2 => [0x1FF, 0xFF, 0x1FFF, 0x1F1F] ++ List.replicate 20 routeMask
  | 3 => [0x1FF, 2 ^ 41 - 1, 0x00FFFFFF001FFFFF, 0x3F] ++ List.replicate 32 0xFFFFFFFF ++ [2 ^ 64 - 1, 0, 0, 0]
  | 4 => [0xFFFFFF]
  | 5 => [0xFF, 0xF] ++ (List.replicate 16 [2 ^ 60 - 1, 2 ^ 59 - 1]).flatten ++ (List.replicate 4 agMask).flatten
  | 8 => [0xFFFF, 2 ^ 64 - 1, 2 ^ 64 - 1]
  | _ => []

def maskOk (ws : List W64) (ms : List Nat) : Bool :=
  (ws.zip ms).all (fun (w, m) => w.toNat &&& (2 ^ 64 - 1 - m) == 0)

/-- Bytes lo to hi − 1 of an item are 0. -/
def Item.zero (u : Item) (lo hi : Nat) : Bool := allZero (sub u.bytes lo (hi - lo))

/-- Reserved fields of a plat program entry, those of its register words with them (R180, R183, R189, R200). -/
def platReserved (u : Item) : Bool :=
  !u.zero 1 8 || (match u.u 0 1 with
    | 1 => !u.zero 0x38 0x40 || !u.zero 0x36 0x38 || u.u 0x31 1 / 4 != 0 || u.u 0x32 2 / 4096 != 0
    | 2 => !u.zero 0x1A 0x40 || u.u 0x0A 1 / 8 != 0 || u.u 0x16 2 / 512 != 0
    | 3 => !u.zero 0x0A 0x10 || !u.zero 0x18 0x40 || fld (u.w 2) 51 13 != 0
    | 4 => !u.zero 0x0A 0x10 || !u.zero 0x18 0x40 || fld (u.w 2) 26 6 != 0 || fld (u.w 2) 56 8 != 0
    | _ => false)

/-- Reserved fields of a PARAM_REGIONS item (R235, R236, R259). -/
def paramReserved (u : Item) : Bool :=
  match u.u 0 1 with
  | 1 => u.u 6 1 / 4 != 0 || !u.zero 7 8 || !u.zero 0x4C 0x80 || (u.w 5).toNat / 2 ^ 28 != 0 || (u.w 6).toNat / 2 ^ 28 != 0
      || (u.w 8).toNat / 2 ^ 38 != 0
  | 2 => u.u 7 1 / 4 != 0 || !u.zero 0x18 0x80
  | _ => false

/-- Reserved fields of the Lumoux plan (R346). -/
def planReserved (d : List Byte) : Bool :=
  let ns := leAt d 8 2
  let nt := leAt d 10 2
  !allZero (sub d 0x23 29) || (List.range ns).any (fun k => leAt d (64 + 8 * k + 6) 2 != 0)
    || (List.range nt).any (fun k =>
      let o := 64 + 8 * ns + 64 * k
      byteAt d (o + 37) / 2 != 0 || !allZero (sub d (o + 46) 18))

def check4 (im : Image) : Option LoadFail :=
  let full := im.kind = 1
  let sc (x : Sect) : LoadFail := { code := Codes.imageStruct, check := 4, plat := x.plat, sect := x.ix }
  let scope := im.sects.find? (fun x =>
    x.typ = 0 || 14 < x.typ || x.rsv != 0 || (if x.typ ≤ 7 then 3 < x.plat else x.plat != 0xFF)
      || (presence full x.typ).2 < (im.sects.filter (fun y => y.ix ≤ x.ix && y.typ == x.typ && y.plat == x.plat)).length || !x.sizeOk)
  let missing := (List.range 15).findSome? (fun t =>
    ((if t ≤ 7 then List.range 4 else [0xFF]).find? (fun p =>
      t != 0 && (im.sects.filter (fun y => y.typ == t && y.plat == p)).length < (presence full t).1)))
  let words := fun t us => firstBad 4 us (fun u => !maskOk u.words (wordMask t))
  firstOf [scope.map sc, missing.map (fun p => { code := Codes.imageStruct, check := 4, plat := p }),
    words 2 im.switches, words 3 im.cus, words 4 (im.items 4 8), words 5 im.mus, words 8 im.benchmarks,
    firstBad 4 im.platItems platReserved, firstBad 4 im.seqItems (fun u => !u.zero 0x30 0x40 || u.u 1 1 / 2 != 0),
    (im.sects.find? (fun x => x.typ == 1 && x.data.any (fun b => fld b 4 3 != 0))).map sc,
    firstBad 4 im.params paramReserved,
    firstBad 4 im.ranges (fun u => !u.zero 4 8 || !u.zero 0x23 0x24 || !u.zero 0x26 0x40),
    sectBad 4 im 11 0xFF (!allZero (sub (im.data 11) 4 (if (im.find 11 0xFF).isSome then 60 else 0))),
    sectBad 4 im 12 0xFF ((im.find 12 0xFF).isSome && planReserved (im.data 12)),
    sectBad 4 im 13 0xFF (!allZero (sub (im.data 13) 0x14 44)),
    sectBad 4 im 14 0xFF (!allZero (sub (im.data 14) 48 16))]

/-! Check 5: field values -/

/-- An item repeats the unit, site or index of an earlier one. -/
def repeats (us : List Item) (key : Item → Nat) (u : Item) : Bool :=
  us.any (fun v => v.plat == u.plat && key v == key u && (v.sect < u.sect || (v.sect == u.sect && v.ix < u.ix)))

def fmtBad (c : Nat) : Bool := 8 < c

/-- Operand pairings of the matrix engine (R39). -/
def pairBad (a b : Fmt) : Bool := a == .fp32 || b == .fp32 || a.width != b.width || a.grouped != b.grouped

/-- CU fields (R25, R39, R75, R134; log entry 85 for a stage 5 operation that nothing emits); `site` says whether the item's site may hold it. -/
def cuBad (tiles : Nat) (c : Cu) (u : Item) : Bool :=
  c.opClass == 3 || fmtBad (fld c.cfg 2 4) || fmtBad (fld c.cfg 6 4) || fmtBad (fld c.cfg 10 4)
    || fld c.cfg 14 2 == 3 || fld c.cfg 26 2 == 3 || fld (u.w 1) 36 4 != 0
    || 1 < c.s2Op || 4 < c.s2Src || 5 < c.s3Op || 3 < c.s3Src || 6 < c.s4Fn || 4 < c.s5Op || 2 < c.s5Emit
    || (c.opClass == 1 && (pairBad c.fmtA c.fmtB || (c.fmtOut.grouped && 32 * (c.setM + 1) % c.gOut != 0)))
    || (if c.seq then u.w 36 != 0 || c.setM != 0
        else c.opClass == 1 && tiles < fld (u.w 36) 0 32 + fld (u.w 36) 32 32)

/-- MU fields (R25, R86, R106, R170). -/
def muBad (m : Mu) : Bool :=
  let rs := (List.range 16).map m.reg
  let used := rs.filter (fun r => r.rows != 0)
  let ags := ((List.range 4).map m.ag).filter (fun g => !g.words.isEmpty)
  let stashBad := fun (g : AgSt) =>
    let r := m.reg g.region
    r.kind == 2 && r.rows != 0 && (g.path != 0 || g.frameTokens == 0 || g.mbCount == 0
      || (g.isWrite && (g.total != g.frameTokens || r.rows < frameRows g.frameTokens))
      || (!g.isWrite && !ags.any (fun h => h.isWrite && h.region == g.region && h.layerTag == g.layerTag
        && h.frameTokens == g.frameTokens)))
  used.any (fun r => r.kind == 0 || 7 < r.kind || 8192 < r.baseRow + r.rows
      || (r.window && (r.kind == 2 || r.kind == 5)) || (r.kind == 6 && (r.parkRows == 0 || r.rows ≤ r.parkRows)))
    || rs.any (fun r => fmtBad r.inFmt || r.inGsz == 3)
    || used.zipIdx.any (fun (r, i) => used.zipIdx.any (fun (q, j) =>
      i < j && r.baseRow < q.baseRow + q.rows && q.baseRow < r.baseRow + r.rows))
    || 1 < (ags.filter (fun g => g.path == 1)).length
    || ags.any (fun g => g.path == 3 || 6 < g.levels || g.chan < 0x20 || 0x23 < g.chan || stashBad g)
    || ags.zipIdx.any (fun (g, i) => ags.zipIdx.any (fun (h, j) => i < j && g.chan == h.chan))

/-- Plat program entries (R183, R188, R189). -/
def platBad (t : State) (p : Nat) (u : Item) : Bool :=
  let es := SMap.get [] t.cfg.platProg p
  let same := fun (k : Nat) => (es.filter (fun e => fld (e.getD 0 0) 0 8 == k
    && fld (e.getD 1 0) 0 16 == fld (u.w 1) 0 16)).length
  match u.u 0 1 with
  | 1 => (u.w 1).toNat % 512 != 0 || (u.w 2).toNat % 512 != 0 || u.u 0x18 4 == 0 || 8192 < u.u 0x18 4
      || u.u 0x1C 4 == 0 || 65536 < u.u 0x1C 4
  | 2 => u.u 8 2 / 16384 != p || BitVec.ofNat 32 (u.u 0x10 4) == (0 : W32)
      || (t.cfg.dmaEntries p).length ≤ u.u 0x14 2 || (SMap.get [] t.cfg.seqProg p).length ≤ u.u 0x18 2
  | 3 => 3 < u.u 9 1 || 1 < same 3
  | 4 => 3 < u.u 9 1 || 1 < same 4
  | _ => true

/-- Counts of a plat program (R188, R189). -/
def platCountsBad (t : State) (p : Nat) : Bool :=
  2048 < (t.cfg.dmaEntries p).length || 1024 < (t.cfg.triggers p).length
    || 64 < (((t.cfg.dmaEntries p).filter (·.remote)).map (·.cbm)).eraseDups.length

/-- A macro run from index i meets its end flag. -/
def macroEnds (t : State) (p i : Nat) : Bool :=
  ((SMap.get [] t.cfg.seqProg p).drop i).any (fun e => (macroOf e).endFlag)

/-- The STAGE region of an MU's generator AG0 holds so many bytes, and the sequencer drives it (R196). -/
def stageOk (t : State) (p n len : Nat) : Bool :=
  let g := (t.mu p n).ag 0
  let r := (t.mu p n).reg g.region
  r.kind == 7 && len ≤ 512 * r.rows && g.seqDrv

/-- Macro-instructions (R195, R196 but for DRAM). -/
def seqBad (t : State) (p : Nat) (u : Item) : Bool :=
  let q := macroOf u.words
  let c := t.cu p q.cu
  let z := seqSizes c q
  let gs := groupSteps c.fmtA c.gIn
  q.op != 1 || q.mLive == 0 || 32 < q.mLive || q.nLive == 0 || q.m % 64 != 0 || q.n % 32 != 0 || q.k % gs != 0
    || q.kChunk == 0 || (c.fmtA.grouped && q.kChunk % c.nbA != 0) || (c.fmtB.grouped && q.kChunk % c.nbB != 0)
    || q.k % (q.kChunk * gs) != 0 || !c.seq || c.opClass != 1
    || !stageOk t p q.feedA (2 * q.liveA * z.chunkA)
    || !stageOk t p q.feedB (2 * q.liveB * z.chunkB) || !stageOk t p q.out (2 * z.tileC)

/-- BENCHMARK items (R134, R202). -/
def bmkBad (us : List Item) (u : Item) : Bool :=
  armBad (BitVec.ofNat 32 (fld (u.w 2) 0 32)) || fld (u.w 2) 32 32 != 0 || repeats us (fun v => (v.w 0).toNat) u

/-- A referenced rule row (R227). -/
def ruleBad (c : Cfg) (r : Nat) : Bool :=
  let w := c.ruleWord r 0
  let fl := rowFlags w
  let mBad := fun (en : Bool) (code : Nat) => en && code != 0 && code != 1 && code != 2 && code != 5
  let st := fun i => !c.sched r i
  let k := c.coef r
  fld w 24 8 != 0 || fld (c.ruleWord r 1) 17 15 != 0 || (List.range 13).any (fun i => c.ruleWord r (19 + i) != 0)
    || fld w 5 2 ≥ 2 || mBad fl.m1En (fld w 9 4) || mBad fl.m2En (fld w 13 4)
    || (((fl.m1En && fl.m1Fmt.grouped) || (fl.m2En && fl.m2Fmt.grouped)) && fld w 17 2 == 3)
    || (List.range 17).any (fun i => st i && !isFin32 (k i))
    || (fl.denEn && st 8 && !fpLt fpZero (k 8)) || (fl.clipEn && st 12 && !fpLt fpZero (k 12))
    || (fl.trust && ((st 13 && fpLt (k 13) fpZero) || (st 13 && st 14 && fpLt (k 14) (k 13)) || (st 15 && !fpLt fpZero (k 15))))

/-- TIMING_TABLE entries (R135). -/
def timingBad (us : List Item) (u : Item) : Bool :=
  u.u 24 8 < u.u 8 8 || (u.u 4 4 == 0 && u.u 16 8 != 0) || us.any (fun v => v.ix < u.ix && v.u 0 4 == u.u 0 4)

/-- Reserved format and group codes of PARAM_REGIONS (R25). -/
def paramCodesBad (u : Item) : Bool :=
  match u.u 0 1 with
  | 1 => [copyOf (u.w 5), copyOf (u.w 6)].any (fun d => fmtBad d.fmt || d.gsz == 3)
  | 2 => fmtBad (u.u 0x14 1) || fmtBad (u.u 0x15 1) || 2 < u.u 0x16 1
  | _ => false

/-- Sites the image may configure: those of its SITE_MAP, or the replaced ones; t is the part as it would be. -/
def State.imageSites (s : State) (im : Image) (t : State) : List (Nat × Nat) :=
  if im.kind = 1 then t.cfg.siteMap.map (fun e => (e.1 / 512, e.1 % 512)) else s.replaced im.mask

/-- Check 5: field values. R56 leaves no field value to refuse, and PARTIAL items outside the replaced regions are those of
SWITCH, CU and MU sections (log entry 62). -/
def check5 (s t : State) (im : Image) : Option LoadFail :=
  let sites := s.imageSites im t
  let plats := List.range 4
  let noSwitch := sites.find? (fun (p, x) => !im.switches.any (fun u => u.plat == p && u.site == x))
  let used := (t.cfg.regions.map (·.rule)).eraseDups
  firstOf [
    firstBad 5 im.switches (fun u => !sites.contains (u.plat, u.site) || fld (u.w 1) 0 4 != 0
      || fld (u.w 1) 4 4 != SMap.get 0xFF t.cfg.siteMap (siteKey u.plat u.site) || repeats im.switches Item.site u),
    noSwitch.map (fun (p, x) => { code := Codes.imageStruct, check := 5, plat := p
                                  sect := ((im.find 1 p).map (·.ix)).getD 0xFFFF, item := x }),
    firstBad 5 im.cus (fun u => !sites.contains (u.plat, cuSite u.unit) || repeats im.cus Item.unit u
      || cuBad (im.tiles u.plat).length (({} : Cu).configure (some u) (im.tiles u.plat) 0) u),
    firstBad 5 (im.items 4 8) (fun u => fld (u.w 0) 8 16 == 0),
    firstBad 5 im.mus (fun u => !sites.contains (u.plat, muSite u.unit) || repeats im.mus Item.unit u || u.w 1 != 0
      || muBad (t.mu u.plat u.unit)),
    firstBad 5 im.platItems (fun u => platBad t u.plat u),
    plats.findSome? (fun p => sectBad 5 im 6 p (platCountsBad t p)),
    firstBad 5 im.seqItems (fun u => seqBad t u.plat u),
    plats.findSome? (fun p => sectBad 5 im 7 p ((t.cfg.triggers p).any (fun g => g.seq && !macroEnds t p g.seqIx))),
    firstBad 5 im.benchmarks (bmkBad im.benchmarks),
    (if im.kind = 1 then (used.find? (fun r => r < 64 && ruleBad t.cfg r)).bind (fun r => sectBad 5 im 9 0xFF true Codes.imageStruct r)
     else none),
    firstBad 5 im.params paramCodesBad,
    firstBad 5 im.timings (timingBad im.timings),
    sectBad 5 im 14 0xFF (t.cfg.budget.getD 0 0 < (List.range 11).foldl (fun a i => a + t.cfg.budget.getD (1 + i) 0) 0)]

/-! Check 6: routes and bindings (R111, R128) -/

/-- Generator port x of an MU site as an input, or as an output (R106). -/
def State.genPort (t : State) (p site x : Nat) (out : Bool) : Bool :=
  let m := t.mu p (site / 2)
  (List.range 4).any (fun a => !(m.ag a).words.isEmpty && (m.ag a).chan == x && (m.ag a).isWrite == out)

/-- A channel exists at a site as an output (`out`) or as an input (R106, R111, R114). -/
def State.chanOk (t : State) (p site : Nat) (net : Net) (c : Nat) (out : Bool) : Bool :=
  let cu := siteIsCu site
  let y := site / 32
  let x := site % 32
  let ew := (facingEW p site).isSome
  let ns := (facingNS p site).isSome
  if c < 4 * tracks net then (neighbour site (c / tracks net)).isSome
  else match net with
    | .vector =>
      if c = 0x20 || c = 0x21 then (if cu then out else t.genPort p site c out)
      else if c = 0x22 then (if cu then !out else t.genPort p site c out)
      else if c = 0x23 then !cu && t.genPort p site c out
      else if c = 0x24 || c = 0x26 then !cu && out
      else if c = 0x25 || c = 0x27 then !cu && !out
      else if 0x28 ≤ c && c ≤ 0x2B then ew
      else (c = 0x2C || c = 0x2D) && ns
    | .scalar =>
      if c = 0x10 then cu && out else if c = 0x11 then cu && !out
      else if c = 0x12 then ew else c = 0x13 && ns && x % 2 = 0
    | .control =>
      if c = 0x08 then out else if c = 0x09 then !out
      else if c = 0x0A then ew && y % 2 = 0 else c = 0x0B && ns && x % 4 = 0

/-- The bridge that a channel crosses is up (R128). -/
def State.bridgeOk (t : State) (p : Nat) (net : Net) (c : Nat) : Bool :=
  !bridgeChan (netNum net) c ||
    bitOf (t.plat p).bridgeUp (if c ≤ 0x2B && net == .vector || c = 0x12 && net == .scalar || c = 0x0A && net == .control then 0 else 1)

/-- Every route of a site: network, output and source. -/
def Sw.allRoutes (w : Sw) : List (Net × Nat × Nat) :=
  [Net.vector, .scalar, .control].flatMap (fun net =>
    (List.range (outChans net)).filterMap (fun o => (w.route (netNum net) o).map (fun i => (net, o, i))))

/-- A route entry that R111 or R128 rejects; `inside` says which sites it may join. -/
def State.routeBad (t : State) (inside : Nat × Nat → Bool) (p site : Nat) (r : Net × Nat × Nat) : Bool :=
  let (net, o, i) := r
  let far := fun (c : Nat) => sourceSite p site net c
  !t.chanOk p site net o true || !t.chanOk p site net i false || !t.bridgeOk p net o || !t.bridgeOk p net i
    || [o, i].any (fun c => match far c with
      | some (q, x) => !inside (q, x) || (t.sw q x).epoch != (t.sw p site).epoch
      | none => false)
    || (match destOf p site net o with
      | .link q x nn c => !((t.sw q x).allRoutes.any (fun e => netNum e.1 == nn && e.2.2 == c))
      | _ => false)

/-- Bindings of a switch (R111). -/
def State.bindBad (t : State) (p site : Nat) : Bool :=
  let w := t.sw p site
  let qBad := fun k => match w.queueRegion k with
    | some r => siteIsCu site || ((t.mu p (site / 2)).reg r).kind != 4
    | none => false
  qBad 0 || qBad 1 || (w.spillEn && (!((site :: (List.range 4).filterMap (neighbour site)).contains (muSite w.spillMu))
    || ((t.mu p w.spillMu).reg w.spillRegion).kind != 5))

def check6 (s t : State) (im : Image) : Option LoadFail :=
  let sites := s.imageSites im t
  let inside := fun (q : Nat × Nat) => sites.contains q
  firstOf [
    firstBad 6 im.switches (fun u => t.bindBad u.plat u.site
      || (t.sw u.plat u.site).allRoutes.any (t.routeBad inside u.plat u.site)),
    (if im.kind != 1 && (s.nextEpoch im.mask).isNone then some { code := Codes.imageEpoch, check := 6 } else none)]

/-! Check 7: tile programs (R141) -/

/-- Walk of a descriptor list: tile states, who left each tile HELD, the set in hand and its last descriptor. -/
structure Walk where
  st : List TileSt := List.replicate 32 .free
  held : List Nat := List.replicate 32 0
  set : List Nat := []
  last : Nat := 0

/-- One descriptor: its code where it fails. -/
def Walk.step (w : Walk) (setM k : Nat) (d : TileDesc) : Except Code Walk :=
  let t := d.tile
  let st := w.st.getD t .free
  if d.setEnd && !d.retire then .error Codes.imageStruct
  else if !d.cont && st == .held then .error Codes.accTiles
  else if !d.cont && st == .retiring then .error Codes.imageStruct
  else if d.cont && st != .held then .error Codes.imageStruct
  else if !d.retire then .ok { w with st := w.st.set t .held, held := w.held.set t k }
  else
    let set := w.set ++ [t]
    if (d.setEnd && set.length != setM + 1) || setM + 1 < set.length then
      .error Codes.imageStruct
    else if d.setEnd then .ok { w with st := set.foldl (fun s x => s.set x .free) w.st, set := [] }
    else .ok { w with st := w.st.set t .retiring, set := set, last := k }

def walkList (setM : Nat) : Nat → Walk → List TileDesc → Option (Code × Nat)
  | _, w, [] =>
    let ends := ((List.range 32).filter (fun t => w.st.getD t .free == .held)).map (fun t => w.held.getD t 0)
      ++ (if w.set.isEmpty then [] else [w.last])
    match ends with
    | [] => none
    | e :: es => some (Codes.imageStruct, es.foldl min e)
  | k, w, d :: ds => match w.step setM k d with
    | .error c => some (c, k)
    | .ok w => walkList setM (k + 1) w ds

def check7 (t : State) (im : Image) : Option LoadFail :=
  im.cus.findSome? (fun u =>
    let c := t.cu u.plat u.unit
    if c.seq || c.opClass != 1 then none
    else (walkList c.setM 0 {} c.program).map (fun (code, k) =>
      { code := code, check := 7, plat := u.plat, sect := u.sect, item := u.unit + 256 * k }))

/-! Check 8: DRAM_LAYOUT, LUMOUX_PLAN, PARAM_REGIONS -/

/-- Two intervals meet. -/
def meets (a b : Nat × Nat) : Bool := a.1 < a.2 && b.1 < b.2 && a.1 < b.2 && b.1 < a.2

/-- Footprint of a range on a channel (R276). -/
def DramRange.foot (r : DramRange) (n : Nat) : Nat × Nat :=
  if r.chans.testBit n then (r.local0, r.local0 + r.len / max 1 r.chanList.length) else (0, 0)

/-- Footprint of the staging range on channel n (R273, R276). -/
def State.stageFoot (s : State) (n : Nat) : Nat × Nat :=
  let cs := s.upChans
  match cs.findIdx? (· == n) with
  | none => (0, 0)
  | some i =>
    let c := cs.length
    let b := s.img.stageBase.toNat
    let l := s.img.stageLen.toNat
    if l = 0 then (0, 0) else
    let k0 := b / 4096
    let k1 := (b + l - 1) / 4096
    let first := k0 + (i + c - k0 % c) % c
    let last := k1 - (k1 % c + c - i) % c
    if k1 < first then (0, 0)
    else (first / c * 4096, if last = k1 then last / c * 4096 + (b + l - 1) % 4096 + 1 else (last / c + 1) * 4096)

/-- The staging range meets a range, in data space or in footprint (R140, R276). -/
def State.meetsStage (s : State) (r : DramRange) : Bool :=
  meets (r.base, r.base + r.len) (s.img.stageBase.toNat, s.img.stageBase.toNat + s.img.stageLen.toNat)
    || r.chanList.any (fun n => meets (r.foot n) (s.stageFoot n))

/-- Memory group g holds tier-1 state (R278). -/
def Cfg.tier1In (c : Cfg) (g : Nat) : Bool := c.regions.any (fun r => r.tier == 1 && r.au == g)

/-- The range lies on a channel of memory group g. -/
def DramRange.onGroup (r : DramRange) (g : Nat) : Bool := (List.range 4).any (fun k => r.chans.testBit (4 * g + k))

/-- A range that R266, R274, R275, R276, R278 or R282 rejects; the bank rules are those of groups that hold tier-1 state. -/
def State.rangeBad (s t : State) (i : Nat) (r : DramRange) : Bool :=
  let g := 2 ^ r.gran
  let cs := r.chanList
  let others := t.cfg.layout.zipIdx.filter (fun e => e.2 < i)
  r.kind == 0 || 6 < r.kind || r.gran < 9 || 16 < r.gran || cs.isEmpty || r.base % g != 0 || r.local0 % g != 0
    || r.len == 0 || r.len % (cs.length * g) != 0 || 0x040000000000 < r.base + r.len
    || cs.any (fun n => !s.fenced (4112 + n)
        && ((s.chan n).state == .absent || (s.chan n).state == .failed || (s.chan n).state == .mismatch))
    || cs.any (fun n => !s.fenced (4112 + n) && (s.chan n).bytes < (r.foot n).2)
    || (if r.kind == 3 then 3 < r.plat || 15 < r.region || ((t.mu r.plat r.mu).reg r.region).kind != 2
          || others.any (fun e => e.1.kind == 3 && e.1.plat == r.plat && e.1.mu == r.mu && e.1.region == r.region)
        else r.plat != 0 || r.mu != 0 || r.region != 0)
    || (r.kind != 4 && r.buddyDev != 0)
    || s.meetsStage r
    || others.any (fun e => meets (r.base, r.base + r.len) (e.1.base, e.1.base + e.1.len)
        || cs.any (fun n => meets (r.foot n) (e.1.foot n)))
    || ((r.kind == 1 || r.kind == 2) && (List.range 4).any (fun g => t.cfg.tier1In g && r.onGroup g && !(r.chans == 0xF <<< (4 * g)
        && (t.cfg.layout.filter (fun q => q.kind == r.kind && q.onGroup g)).length == 1
        && t.cfg.layout.any (fun q => q.kind == 3 - r.kind && q.chans == r.chans && q.len == r.len && q.gran == r.gran))))

/-- LUMOUX_PLAN (R347). -/
def State.planBad (t : State) : Bool :=
  let p := t.cfg.plan
  let sets := (p.seals.map (·.rset)).eraseDups
  let flits := [flitsOf 65536, flitsOf 256, flitsOf 256, flitsOf 65536, flitsOf 65536, flitsOf 65536, flitsOf 65536,
    flitsOf 262144]
  let rowsOk := fun (e : StreamEntry) => (List.range (max 1 e.advPeriod)).all (fun f =>
    (List.range (cdiv e.tokens 4)).all (fun i =>
      let a : Int := (e.src : Int) + 512 * ((f : Int) * (if e.advPeriod = 0 then 0 else e.srcAdv) + i)
      0 ≤ a && t.dmaReadOk 0 .program a.toNat))
  !p.seals.any (fun e => e.dev == p.dev) || p.shards ≤ p.shard
    || sets.any (fun r =>
      let es := p.seals.filter (fun e => e.rset == r)
      es.length != p.shards || !(List.range p.shards).all (fun k => es.any (fun e => e.shard == k)))
    || (p.credit.zip flits).any (fun (c, f) => c < f) || 8192 < p.credit.foldl (· + ·) 0 || p.weights.any (· == 0)
    || p.streams.any (fun e => e.tokens == 0 || 512 < e.tokens || e.inc == 0 || (e.mode != 1 && e.mode != 2)
        || (e.spread && e.mode == 2) || !rowsOk e)
    || 256 < ((p.streams.map (·.cbm)).eraseDups).length

/-- A region of an MU of the new configuration. -/
def State.regAt (t : State) (p n r : Nat) : RegSt := if 3 < p || 15 < r then {} else (t.mu p n).reg r

/-- End of a region's planes that begin at base (R279). -/
def State.planesEnd (t : State) (r : Region) (base : Nat) : Nat := (regionPlanes (t.flagsOf r) r base).2.2.2

/-- A working copy (R236, R237). -/
def State.copyBad (t : State) (r : Region) (d : CopyDesc) : Bool :=
  d.en && (
    let f := Fmt.ofCodeD d.fmt
    let g := t.regAt d.plat d.mu d.region
    let span := gszOf d.gsz * (d.bpg + 1)
    d.fmt == 0 || g.kind != 1
      || (if r.sparse then d.axis || r.matCols % span != 0 else r.matCols == 0 || r.elements % r.matCols != 0)
      || (r.matCols != 0 && (
        let nr := r.elements / r.matCols
        let ps := if d.axis then planesOf f (gszOf d.gsz) (d.bpg + 1) r.matCols nr
          else planesOf f (gszOf d.gsz) (d.bpg + 1) nr r.matCols
        512 * g.rows < (planeAt 0 ps).len)))

/-- Both copies of a tier-0 region lie wholly in STAGE regions no generator is bound to (R284). -/
def State.tier0Bad (t : State) (r : Region) : Bool :=
  [r.stateOff, r.stateOffB].any (fun a =>
    match muOf a with
    | none => true
    | some (p, n, o) =>
      let m := t.mu p n
      match m.regionOf (o / 512) with
      | none => true
      | some k => (m.reg k).kind != 7 || 512 * ((m.reg k).baseRow + (m.reg k).rows) < o + (t.planesEnd r a - a)
          || (List.range 4).any (fun g => !(m.ag g).words.isEmpty && (m.ag g).region == k))

/-- REGION conditions (R235, R237, R278, R281, R284). -/
def State.regionBad (t : State) (r : Region) : Bool :=
  let fl := t.flagsOf r
  let bank := t.cfg.layout.find? (fun x => x.kind == 1 && x.chans == 0xF <<< (4 * r.au))
  let span := fl.gsz * fl.nb
  let grouped := (fl.m1En && fl.m1Fmt.grouped) || (fl.m2En && fl.m2Fmt.grouped)
  63 < r.rule || 2 < r.tier || 3 < r.au || 4095 < r.trustGroup || (r.tier != 2 && r.ownerDev != 0)
    || (r.tier != 0 && r.stateOffB != 0)
    || (r.sparse && (fl.trust || (grouped && r.matCols % span != 0)))
    || (r.tier == 2 && (!r.pieces.isEmpty || !t.cfg.plan.seals.any (fun e => e.dev == r.ownerDev)))
    || (r.tier == 1 && (match bank with
        | none => true
        | some b => b.len < t.planesEnd r r.stateOff))
    || (r.tier == 0 && t.tier0Bad r)
    || (r.tier != 2 && fl.precond != r.pieces.any (·.raw))
    || t.copyBad r r.copy0 || t.copyBad r r.copy1
    || (r.sparse && r.tier != 2 && !t.cfg.layout.any (fun x => x.kind == 5 && x.base ≤ r.mapBase
        && r.mapBase + 2 * cdiv (r.elements / max 1 r.matCols) 8 ≤ x.base + x.len))

/-- Where pieces that follow one another from element 0 end; none: a gap or an overlap. -/
def piecesEnd (ps : List Piece) : Option Nat :=
  (sortBy (·.e0) ps).foldl (fun (acc : Option Nat) p => match acc with
    | some e => if p.e0 = e then some (e + p.n) else none
    | none => none) (some 0)

/-- The pieces of a tier-0 or tier-1 region cover its elements, or its slots, without gap or overlap: those its AU reads,
and the raw ones where it has any (R237, R258, log entry 23). -/
def piecesBad (r : Region) : Bool :=
  let raws := r.pieces.filter (·.raw)
  r.tier != 2 && ([r.pieces.filter (fun p => !p.raw)] ++ (if raws.isEmpty then [] else [raws])).any (fun ps =>
    match piecesEnd ps with
    | none => true
    | some e => !r.sparse && e != r.elements)

/-- PIECE conditions (R235, R237). -/
def State.pieceBad (t : State) (r : Region) (p : Piece) : Bool :=
  let src := t.regAt p.rPlat p.rMu p.rReg
  let dst := t.regAt p.hPlat p.hMu p.hReg
  let h := t.holdAt r p
  let k := pieceElems r p
  let need := h.g.at_.elem - h.base + h.g.at_.len + (if p.eEn then h.e0.at_.len + h.e1.at_.len else 0)
  src.kind != 6 || dst.kind != 3 || (p.gFmt != 2 && p.gFmt != 3) || (p.eEn && p.eFmt != 6 && p.eFmt != 7) || 31 < p.bpg
    || t.cfg.allPieces.any (fun q => q.item < p.item && q.rPlat == p.rPlat && q.rMu == p.rMu && q.rReg == p.rReg)
    || 512 * dst.rows < need || 128 * (src.rows - src.parkRows) < k

/-- State planes of two regions of one bank overlap (R279). -/
def State.regionsOverlap (t : State) (r q : Region) : Bool :=
  r.tier == 1 && q.tier == 1 && r.au == q.au
    && meets (r.stateOff, t.planesEnd r r.stateOff) (q.stateOff, t.planesEnd q q.stateOff)

/-- Order and counts of PARAM_REGIONS items (R235): pieces still owed by the region in hand; none: malformed. -/
def paramOrder : List Item → Nat → Nat → Option Nat
  | [], 0, _ => none
  | [], _, last => some last
  | u :: us, owed, last =>
    if u.u 0 1 = 1 then (if owed = 0 then paramOrder us (u.u 0x16 2) u.ix else some last)
    else if u.u 0 1 = 2 && 0 < owed then paramOrder us (owed - 1) last
    else some u.ix

def check8 (s t : State) (im : Image) : Option LoadFail :=
  if im.kind != 1 then
    if t.cfg.layout.any s.meetsStage then some { code := Codes.imageStruct, check := 8 }
    else plats.findSome? (fun p => (im.seqItems.filter (fun u => u.plat == p)).findSome? (fun u =>
      if seqDramBad p u then some { code := Codes.imageStruct, check := 8, plat := p, sect := u.sect, item := u.ix } else none))
  else
    let at_ := fun (k : Option Nat) => k.bind (fun i => sectBad 8 im 10 0xFF true Codes.imageStruct i)
    let owner := fun (r : Region) => ((im.params.filter (fun u => u.u 0 1 == 1))[(t.cfg.regions.findIdx? (· == r)).getD 0]?).map (·.ix)
    firstOf [
      firstBad 8 im.ranges (fun u => s.rangeBad t u.ix (rangeOfItem u)),
      sectBad 8 im 12 0xFF t.planBad,
      at_ (paramOrder im.params 0 0),
      sectBad 8 im 10 0xFF (4096 < t.cfg.regions.length),
      at_ ((t.cfg.regions.find? (fun r => t.regionBad r || piecesBad r)).bind owner),
      at_ (t.cfg.regions.findSome? (fun r => (r.pieces.find? (t.pieceBad r)).map (·.item))),
      at_ ((t.cfg.regions.zipIdx.find? (fun (r, i) => t.cfg.regions.zipIdx.any (fun (q, j) => j < i && t.regionsOverlap r q))).bind
        (fun e => owner e.1)),
      plats.findSome? (fun p => (im.seqItems.filter (fun u => u.plat == p)).findSome? (fun u =>
        if seqDramBad p u then some { code := Codes.imageStruct, check := 8, plat := p, sect := u.sect, item := u.ix } else none))]
where
  plats : List Nat := List.range 4
  /-- DRAM conditions of R196. -/
  seqDramBad (p : Nat) (u : Item) : Bool :=
    let q := macroOf u.words
    let z := seqSizes (t.cu p q.cu) q
    let rs := [(q.aBase, q.m / 64 * z.panelA), (q.bBase, q.n / 32 * z.panelB), (q.cBase, q.m / 64 * (q.n / 32) * z.tileC)]
    rs.any (fun (a, l) => 0x040000000000 < a + l
      || t.cfg.layout.any (fun x => (x.kind == 1 || x.kind == 2) && meets (a, a + l) (x.base, x.base + x.len)))

/-! Check 9: the fence map (R142, R419) -/

/-- An entry for a CU or an MU also fences the switch of its site (R142). -/
def State.switchFenced (s : State) (p site : Nat) : Bool :=
  s.fenced (2048 + siteKey p site) || s.fenced ((if siteIsCu site then 0 else 1024) + unitKey p (site / 2))

/-- The image uses an MU (R142). -/
def State.muUsed (t : State) (im : Image) (p n : Nat) : Bool :=
  let m := t.mu p n
  (List.range 16).any (fun r => (m.reg r).rows != 0) || (List.range 4).any (fun a => !(m.ag a).words.isEmpty)
    || (t.sw p (muSite n)).queueRegion 0 != none || (t.sw p (muSite n)).queueRegion 1 != none
    || im.switches.any (fun u => u.plat == p && (t.sw p u.site).spillEn && (t.sw p u.site).spillMu == n)

def check9 (s t : State) (im : Image) : Option LoadFail :=
  if s.flt.fence.lost then some { code := Codes.fenced, check := 9 }
  else
    let bad := fun us f => firstBad 9 us f Codes.fenced
    let full := im.kind = 1
    firstOf [
      bad im.switches (fun u => (!(t.sw u.plat u.site).allRoutes.isEmpty && s.switchFenced u.plat u.site)
        || ((t.sw u.plat u.site).spillEn && s.fenced (1024 + unitKey u.plat (t.sw u.plat u.site).spillMu))),
      bad im.cus (fun u => (t.cu u.plat u.unit).opClass != 0 && s.fenced (unitKey u.plat u.unit)),
      bad im.mus (fun u => t.muUsed im u.plat u.unit && s.fenced (1024 + unitKey u.plat u.unit)),
      bad im.switches (fun u => !siteIsCu u.site && t.muUsed im u.plat (u.site / 2)
        && s.fenced (1024 + unitKey u.plat (u.site / 2))),
      (if full then bad im.params (fun u => u.u 0 1 == 1 && u.u 2 1 == 1 && s.fenced (4096 + u.u 3 1)) else none),
      (if full then bad im.ranges (fun u => (rangeOfItem u).chanList.any (fun c => s.fenced (4112 + c))) else none),
      (if full then sectBad 9 im 12 0xFF ((List.range 32).any (fun n => bitOf t.cfg.plan.portMask n && s.fenced (4128 + n)))
        Codes.fenced else none)]

/-! Check 10 (R389) -/

def check10 (s t : State) (im : Image) : Option LoadFail :=
  let b := t.cfg.budget
  let g := fun i => b.getD i 0
  let l := s.pwr.limit.toNat
  sectBad 10 im 14 0xFF (l < g 0 || l < t.budgetSum b || (List.range 4).any (fun i => 520000 < g (1 + i))
    || (List.range 4).any (fun i => 40000 < g (5 + i)) || 270000 < g 9 || 70000 < g 10) Codes.imagePower

/-- The message an image's signature is over, and the signature (R138). -/
def Image.sigMessage (im : Image) : List Byte := ascii "BLK-IMG-SIG1" ++ im.identity
def Image.signature (im : Image) : List Byte := sub im.bytes (im.len - sigBytes + 0x20) (Config.sigLen false)

/-- Check 2 (R138, R140): the slot is enrolled, its key verifies the signature, and the security version is not too
low; a poisoned staged burst cannot match the signature, and a module in error verifies none (R445). -/
def State.check2 (s : State) (im : Image) (poisoned : Bool) : Bool :=
  s.sec.state != .error && !poisoned && 1 ≤ im.keySlot && im.keySlot ≤ 7 && (SMap.get {} s.sec.slots im.keySlot).st == 1
    && s.sec.imgSvn.toNat ≤ im.svn
    && Config.slhVerify false (SMap.get {} s.sec.slots im.keySlot).key im.sigMessage im.signature

/-- Checks 1 to 10 in order (R140): the first failure, or the part as the image makes it. -/
def State.checkImage (s : State) (im : Image) (full poisoned : Bool) : Except LoadFail State :=
  if !check1 im (if full then 1 else 2) s.img.stageLen.toNat then .error { code := Codes.imageStruct, check := 1 }
  else if !s.check2 im poisoned then .error { code := Codes.imageSig, check := 2 }
  else if !full && im.baseId != s.img.cfgId then .error { code := Codes.imageBase, check := 3 }
  else match check4 im with
    | some f => .error f
    | none =>
      let t := if full then s.install im else s.installPartial im ((s.nextEpoch im.mask).getD 0)
      match firstOf [check5 s t im, check6 s t im, check7 t im, check8 s t im, check9 s t im, check10 s t im] with
      | some f => .error f
      | none => .ok t

end Sys2Proof.Machine
end

