-- ==== Sys2Proof/Machine/Monuments.lean ====
section
/-! DEFINITION. Monuments, restores, buddy slots and closure checks (R288 to R316). -/
namespace Sys2Proof.Machine

/-! The body (R288 to R291) -/

/-- REGION items with their item numbers (R235). -/
def Cfg.regionItems (c : Cfg) : List (Nat × Region) :=
  (c.regions.foldl (fun (acc : Nat × List (Nat × Region)) r => (acc.1 + 1 + r.pieces.length, acc.2 ++ [(acc.1, r)]))
    (0, [])).2

/-- Segments of a monument of S(m) in order, with their lengths and sources (R288). -/
def State.rawSegs (s : State) (m : Nat) : List MonSeg :=
  let rs := s.cfg.regionItems
  let tierSeg := fun (tier kind : Nat) => (rs.filter (fun e => e.2.tier == tier)).map (fun (i, r) =>
    let b := s.stateBase r m
    let (_, _, _, e) := regionPlanes (s.flagsOf r) r b
    ({ kind := kind, item := i, off := 0, len := e - b, src := b } : MonSeg))
  s.cfg.regions.flatMap (fun r => (r.pieces.filter (·.eEn)).map (fun p =>
      let h := ((s.holdAt r p).err m).at_
      ({ kind := 1, item := p.item, off := 0, len := h.len, src := h.elem } : MonSeg)))
    ++ [{ kind := 2, item := 0, off := 0, len := 8192, src := 0 }, { kind := 3, item := 0, off := 0, len := 512, src := 0 }]
    ++ (rs.filter (fun e => e.2.sparse && e.2.tier != 2)).map (fun (i, r) =>
      ({ kind := 4, item := i, off := 0, len := cdiv (r.elements / max 1 r.matCols) 8, src := r.mapBase } : MonSeg))
    ++ tierSeg 0 5 ++ tierSeg 1 6

def up4096 (n : Nat) : Nat := cdiv n 4096 * 4096

/-- Segments placed one after another from an offset (R289). -/
def placeSegs : Nat → List MonSeg → List MonSeg
  | _, [] => []
  | o, g :: t => { g with off := o } :: placeSegs (up4096 (o + g.len)) t

def State.monSegs (s : State) (m : Nat) : List MonSeg :=
  let raw := s.rawSegs m
  placeSegs (up4096 (256 + 32 * raw.length)) raw

def segsEnd (segs : List MonSeg) : Nat := match segs.getLast? with | some g => g.off + g.len | none => 0

/-- The segment table (R290). -/
def segTable (segs : List MonSeg) : List Byte :=
  segs.flatMap (fun g => leBytes 1 g.kind ++ leBytes 3 0 ++ leBytes 4 g.item ++ leBytes 8 g.off ++ leBytes 8 g.len
    ++ leBytes 8 g.src)

/-- The manifest, padded to its multiple of 4,096 bytes (R289). -/
def State.manifest (s : State) (m : Nat) (segs : List MonSeg) : List Byte :=
  let p := s.cfg.plan
  let h := ascii "BLKMONM1" ++ leBytes 2 1 ++ leBytes 2 (p.dev % 4096) ++ leBytes 2 p.shard ++ leBytes 2 p.rset
    ++ leBytes 8 m ++ leBytes 8 s.mon.seed0.toNat ++ leBytes 8 s.mon.seed1.toNat ++ leBytes 4 segs.length ++ leBytes 4 0
    ++ leBytes 8 (segsEnd segs) ++ leBytes 8 0 ++ s.img.layoutId ++ s.img.fullId ++ leBytes 64 0 ++ segTable segs
  h ++ List.replicate (up4096 h.length - h.length) 0

/-- RULE_TABLE and AU_FREEZE as bytes (R288). -/
def Cfg.ruleBytes (c : Cfg) : List Byte := sub (c.rules.flatMap (fun r => r.flatMap (fun w => leBytes 8 w.toNat))) 0 8192
def freezeBytes (f : BitVec 4096) : List Byte := leBytes 512 f.toNat

/-- Bytes of one part of the body that lie in [lo, hi), read as `u`. -/
def State.segBytes (s : State) (u : DramUser) (j : MonJob) (g : MonSeg) (lo hi : Nat) : List Byte × Bool × State :=
  let a := max lo g.off
  let n := min hi (g.off + g.len) - a
  if g.kind = 2 then (sub j.rule (a - g.off) n, false, s)
  else if g.kind = 3 then (sub j.freeze (a - g.off) n, false, s)
  else s.spaceRead u (g.src + (a - g.off)) n

/-- Bytes [lo, hi) of the body: the manifest, the segments, zeros between them (R289). -/
def State.bodyBytes (s : State) (u : DramUser) (j : MonJob) (lo hi : Nat) : List Byte × Bool × State :=
  let head := (j.head.drop lo).take (hi - lo)
  let (bs, bad, s) := (j.segs.filter (fun g => max lo g.off < min hi (g.off + g.len))).foldl
    (fun (acc : List Byte × Bool × State) g =>
      let (b, p, s) := acc.2.2.segBytes u j g lo hi
      (sub acc.1 0 (max lo g.off - lo) ++ b, acc.2.1 || p, s)) (head, false, s)
  (sub bs 0 (hi - lo), bad, s)

/-- Digest of chunk i (R291). -/
def monChunkDigest (i : Nat) (bs : List Byte) : List Byte := Config.shake256 (ascii "BLK-MON-CHUNK" ++ leBytes 8 i ++ bs) 64

/-- Root of a body (R291). -/
def monRootOf (len : Nat) (ds : List (List Byte)) : List Byte :=
  Config.shake256 (ascii "BLK-MON-ROOT" ++ leBytes 8 len ++ ds.flatten) 64

/-- The signed record of a capture (R292, R293). -/
def State.monRecord (s : State) (j : MonJob) : List Byte :=
  let r := ascii "BLKMONR1" ++ leBytes 2 1 ++ leBytes 1 2 ++ leBytes 1 0 ++ sub j.head 0x0A 4 ++ leBytes 8 j.step
    ++ leBytes 8 j.len ++ leBytes 4 j.total ++ leBytes 28 0 ++ monRootOf j.len j.digests ++ sub j.head 0x40 128
    ++ sub s.lxg.ownKeyId 0 64
  r ++ Config.identitySign (ascii "BLK-MON-SIG1" ++ r)

/-! Shipping (R299 to R302) -/

def State.setJob (s : State) (j : Option MonJob) : State := { s with mon := { s.mon with job := j } }

/-- Ports of a mask in service, ascending (R299). -/
def State.monPorts (s : State) (mask : W32) : List Nat := (List.range 32).filter (fun n => bitOf mask n && s.inService n)

/-- Send a frame of a stream on the ((i mod p) + 1)-th port of its mask; with none in service it is lost (R299). -/
def State.monSend (s : State) (mask : W32) (i : Nat) (dst : W16) (kind : Nat) (f : MonFrame) : State :=
  match s.monPorts mask with
  | [] => s
  | p :: ps => s.put ((p :: ps).getD (i % (ps.length + 1)) p) { src := s.ownSrc, dst := dst, tag := 0, body := .mon kind f }

/-- An ACK, on the port its frame came by (R299). -/
def State.monAck (s : State) (rx : Rx) (f : MonFrame) (index : W32) (status : Byte) : State :=
  let a : MonFrame := { f with status := status, index := index, payload := [], digest := List.replicate 64 0 }
  s.put rx.port.val { src := s.ownSrc, dst := rx.src, tag := 0, body := .mon 4 a }

/-- Index of a RECORD in ACK frames (R301). -/
abbrev ackRecord : Nat := 0xFFFFFFFF

/-- Send the frame of an entry of the flight: a CHUNK or the RECORD. -/
def State.monShip (s : State) (j : MonJob) (e : MonSent) : State :=
  if e.index = ackRecord then
    s.monSend j.mask 0 j.dst 2 { status := 0, srcDev := j.src, index := 0, step := BitVec.ofNat 64 j.step
                                 payload := e.bytes, digest := List.replicate 64 0 }
  else
    s.monSend j.mask e.index j.dst 1 { status := 0, srcDev := j.src, index := BitVec.ofNat 32 e.index
                                       step := BitVec.ofNat 64 j.step, payload := e.bytes, digest := e.digest }

/-- The monument is abandoned (R297, R298, R302, R304): an ABANDON frame, a status record, the lock released. -/
def State.monAbandon (s : State) (code : Code) : State :=
  match s.mon.job with
  | none => s
  | some j =>
    let s := s.monSend j.mask 0 j.dst 3 { status := 0, srcDev := j.src, index := 0, step := BitVec.ofNat 64 j.step
                                          payload := [], digest := List.replicate 64 0 }
    let s := (s.raise .stat code 10 0 s.monStatus).setJob none
    if j.own then s.monEnd code j.step else s

/-- Bytes of a record (R292). -/
def recordLen : Nat := 50176

/-- The record of a stream: a capture's once it is signed, a stored monument's from its slot (R303). -/
def State.jobRecord (s : State) (j : MonJob) : Option (List Byte) × Bool × State :=
  if j.own then (j.record, false, s)
  else
    let (bs, bad, s) := s.spaceRead .monument (j.base - 0xF000) recordLen
    (some bs, bad, s)

/-- The RECORD goes out once every chunk is acknowledged and the record is signed (R302). -/
def State.tryRecord (s : State) : State :=
  match s.mon.job with
  | some j =>
    if j.next = j.total && j.flight.isEmpty && !j.recordOut then
      match s.jobRecord j with
      | (none, _, s) => s
      | (some r, bad, s) =>
        if bad then s.monAbandon Codes.monPoison
        else
          let e : MonSent := { index := ackRecord, bytes := r, digest := [] }
          (s.setJob (some { j with recordOut := true, record := some r, flight := [e] })).monShip j e
    else s
  | none => s

/-- A closure digest of the same S(n) takes the bytes a capture has read up to hi (R308). -/
def State.shareRead (s : State) (j : MonJob) (hi : Nat) (bad : Bool) : State :=
  if j.own && s.mon.digest == some j.step then
    { s with mon := { s.mon with digestRead := max s.mon.digestRead hi, digestBad := s.mon.digestBad || bad } }
  else s

/-- The digest engines run: no gate over one is closed, and neither Idle nor the trip has stopped them (R386, R387,
R393). -/
def State.digestRuns (s : State) : Bool :=
  !s.arrayStopped && (List.range 4).all (fun g => !s.clk.isClosed (12 + g) 0 && !s.clk.isClosed (12 + g) 2)

/-- CHUNK_READ: the next chunk is read, digested and sent while the window has room (R302). -/
def chunkRead (ups : List Upset) (s : State) : State :=
  match s.mon.job with
  | none => s
  | some j =>
    if j.next < j.total && j.flight.length < j.window && s.digestRuns then
      let s := s.strikes ups
      let lo := j.next * 0x100000
      let hi := min j.len (lo + 0x100000)
      let (bs, bad, s) := if j.own then s.bodyBytes .monument j lo hi else s.spaceRead .monument (j.base + lo) (hi - lo)
      let s := s.shareRead j hi bad
      if bad then s.monAbandon Codes.monPoison
      else
        let d := monChunkDigest j.next bs
        let e : MonSent := { index := j.next, bytes := bs, digest := d }
        let j := { j with next := j.next + 1, flight := j.flight ++ [e], digests := j.digests ++ [d] }
        (s.setJob (some j)).monShip j e
    else s

def execChunkRead (ups : List Upset) (s : State) : Outcome := .next (chunkRead ups s)

/-- RECORD_SIGNATURE: the signature is made after the last chunk digest (R293). -/
def recordSignature (s : State) : State :=
  if !s.hasIdentity then s else
  match s.mon.job with
  | some j =>
    if j.own && j.next = j.total && j.record.isNone then (s.setJob (some { j with record := some (s.monRecord j) })).tryRecord
    else s
  | none => s

def execRecordSignature (s : State) : Outcome := .next (recordSignature s)

/-- A frame of the flight is sent again. -/
def State.monResend (s : State) (j : MonJob) (e : MonSent) : State :=
  let e' := { e with sends := e.sends + 1, retry := false }
  (s.setJob (some { j with flight := j.flight.map (fun x => if x.index == e.index then e' else x) })).monShip j e'

/-- RETRY_RESEND: 1 ms after a RETRY; a seventeenth resend abandons the monument (R302). -/
def retryResend (index : W32) (s : State) : State :=
  match s.mon.job with
  | some j =>
    (match j.flight.find? (fun e => e.index == index.toNat && e.retry) with
     | some e => if 17 ≤ e.sends then s.monAbandon Codes.monSinkFail else s.monResend j e
     | none => s)
  | none => s

def execRetryResend (index : W32) (s : State) : Outcome := .next (retryResend index s)

/-- SILENCE_RESEND: 10 ms without an acknowledgement (R302). -/
def silenceResend (index : W32) (s : State) : State :=
  match s.mon.job with
  | some j =>
    (match j.flight.find? (fun e => e.index == index.toNat && !e.retry && decide (e.sends ≤ 16)) with
     | some e => s.monResend j e
     | none => s)
  | none => s

def execSilenceResend (index : W32) (s : State) : Outcome := .next (silenceResend index s)

/-- RESEND_LIMIT: 100 ms without an acknowledgement of a seventeenth send (R302). -/
def resendLimit (index : W32) (s : State) : State :=
  match s.mon.job with
  | some j =>
    if j.flight.any (fun e => e.index == index.toNat && !e.retry && decide (17 ≤ e.sends)) then s.monAbandon Codes.monSinkFail
    else s
  | none => s

def execResendLimit (index : W32) (s : State) : Outcome := .next (resendLimit index s)

/-- The restore in progress ends with a code (R310, R311). -/
def State.restoreEnd (s : State) (r : Restore) (code : Code) : State :=
  ({ s with mon := { s.mon with restore := none, restoreBad := code != Codes.ok, boundary := false } }).monEnd code (r.step.getD 0)

/-- The effect of an ACK addressed to this device (R302). -/
def State.onAck (s : State) (rx : Rx) (f : MonFrame) : State :=
  match s.mon.job with
  | none =>
    (match s.mon.restore with
     | some r => if r.from_ == some f.srcDev && r.peer == rx.src && f.status != 0 then s.restoreEnd r Codes.monSinkFail else s
     | none => s)
  | some j =>
    if f.srcDev != j.src || f.step.toNat != j.step || rx.src != j.dst then s
    else match j.flight.find? (fun e => e.index == f.index.toNat) with
      | none => s
      | some e =>
        if f.status = 1 then
          s.setJob (some { j with flight := j.flight.map (fun x => if x.index == e.index then { x with retry := true } else x) })
        else if f.status != 0 then s.monAbandon Codes.monSinkFail
        else
          let j := { j with flight := j.flight.filter (fun x => x.index != e.index) }
          let s := match j.bm with
            | some b => s.bmkAdd b 1
            | none => s
          if e.index = ackRecord then
            let root := sub ((j.record).getD []) 0x40 64
            let s := s.setJob none
            if j.own then ({ s with mon := { s.mon with root := root } }).monEnd Codes.ok j.step else s
          else
            let s := s.setJob (some j)
            ({ s with mon := { s.mon with acked := s.mon.acked + 1 } }).tryRecord

/-- ACK_FRAME. -/
def ackFrame (rx : Rx) (f : MonFrame) (s : State) : State :=
  s.take rx (.mon 4 f) (fun s rx => s.onAck rx f)

def execAckFrame (rx : Rx) (f : MonFrame) (s : State) : Outcome := .next (ackFrame rx f s)

/-! Operations of MON_CMD (R294, R298, R309, R316) -/

/-- A scope of debug is unlocked (R452). -/
def State.debugOpen (s : State) : Bool := s.sec.fwDebug || s.sec.scan

/-- A rejected operation shows its code and step once (R316). -/
def State.monReject (s : State) (code : Code) (step : Nat) : State × Option Code :=
  ({ s with mon := { s.mon with result := code, resultStep := step } }, some code)

/-- The engine holds a monument or a restore. -/
def State.monBusy (s : State) : Bool := s.mon.job.isSome || s.mon.restore.isSome

/-- Fields of MON_CTL and MON_SINK (R316). -/
def Mon.window (m : Mon) : Nat := fld m.ctl 8 6
def Mon.mask (m : Mon) : W32 := BitVec.ofNat 32 (fld m.ctl 16 32)
def Mon.progress (m : Mon) : Option Nat := if bitOf m.ctl 15 then some (fld m.ctl 48 16) else none
def Mon.toDevice (m : Mon) : Bool := bitOf m.sink 0
def Mon.sinkId (m : Mon) : W16 :=
  if m.toDevice then BitVec.ofNat 16 (fld m.sink 4 12) else BitVec.ofNat 16 (0x8000 + fld m.sink 16 12)

/-- S(m) is intact (R294). -/
def State.stateHeld (s : State) (m : Nat) : Bool :=
  let c := s.stepIndex.toNat
  m + 1 == c || (m + 2 == c && s.mon.pass2Step != some c && s.mon.boundary)

/-- CAPTURE of step m (R294). -/
def State.captureOp (s : State) (m : Nat) : State × Option Code :=
  if s.img.state == .held then s.monReject Codes.notReady m
  else if !(s.img.state == .ready || s.img.state == .running) || s.debugOpen then s.monReject Codes.refused m
  else if s.monBusy then s.monReject Codes.monBusy m
  else if !s.stateHeld m then s.monReject Codes.monStateGone m
  else if (s.monPorts s.mon.mask).isEmpty then s.monReject Codes.monSinkFail m
  else
    let segs := s.monSegs m
    let j : MonJob := {
      own := true, step := m, src := s.cfg.plan.dev % 4096, dst := s.mon.sinkId, mask := s.mon.mask
      window := s.mon.window, bm := s.mon.progress, head := s.manifest m segs, segs := segs, rule := s.cfg.ruleBytes
      freeze := freezeBytes s.adj.freeze, base := 0, len := segsEnd segs }
    ({ s with mon := { s.mon with
        job := some j, result := Codes.ok, resultStep := m, acked := 0, total := j.total } }, none)

/-- RESTORE (R309). -/
def State.restoreOp (s : State) (newest : Bool) (m : Nat) : State × Option Code :=
  if s.img.state != .ready then s.monReject Codes.refused m
  else if s.monBusy then s.monReject Codes.monBusy m
  else
    let k := s.mon
    let r : Restore := {
      step := if newest || !k.toDevice then none else some m
      from_ := if k.toDevice then some (fld k.sink 32 12) else none
      peer := k.sinkId, mask := k.mask }
    if k.toDevice && (s.monPorts k.mask).isEmpty then s.monReject Codes.monSinkFail m
    else
      let s := { s with mon := { k with restore := some r, result := Codes.ok, resultStep := m, acked := 0, total := 0 } }
      match r.from_ with
      | none => (s, none)
      | some d =>
        (s.monSend r.mask 0 r.peer 5 { status := 0, srcDev := d, index := 0
                                       step := BitVec.ofNat 64 (if newest then 2 ^ 48 - 1 else m)
                                       payload := [], digest := List.replicate 64 0 }, none)

/-- ABORT (R298): a monument or a restore in progress is abandoned. -/
def State.monAbortOp (s : State) : State × Option Code :=
  if s.img.state == .held then s.monReject Codes.notReady s.mon.resultStep
  else
    let s := { s with mon := { s.mon with result := Codes.ok, resultStep := s.mon.stepNow } }
    match s.mon.restore with
    | some r => (s.restoreEnd r Codes.monAbandoned, some Codes.ok)
    | none => (s.monAbandon Codes.monAbandoned, some Codes.ok)

/-- A MON_CMD word. -/
def State.monWord (s : State) (w : W64) : State × Option Code :=
  let m := fld w 16 48
  if s.pwr.state == .idle then s.monReject Codes.notReady m else
  match fld w 0 2 with
  | 0 => s.captureOp m
  | 1 => s.restoreOp (bitOf w 2) m
  | 2 => s.monAbortOp
  | _ => s.monReject Codes.refused m

def monEff (w : CmdWord) (s : State) : State × Option Reply :=
  let (s, c) := s.monWord (w.payWord 0)
  (s, c.map (fun c => { code := c }))

/-- Size of a MON order: body_len for CAPTURE and RESTORE (R362). -/
def State.monSize (s : State) (w : W64) : Nat := if fld w 0 2 < 2 then segsEnd (s.monSegs (fld w 16 48)) else 0

/-- A MON command by MON_CMD or as an order (R316, R362); the size that timing tables charge is the body's length. -/
def monVia (w : W64) (via : Via) (s : State) : State :=
  match via with
  | .reg path => s.writeBy path .glb (fun s => (s.monWord w).1)
  | .cmd o =>
    let o := rowOrder o 0 0 64 w.toNat
    s.cmdArrive opMon o (s.monSize w) (fun _ => monEff { opcode := opMon, desc := o.desc })

def capture (via : Via) (step : Step) (s : State) : State := monVia (mkWord 64 [(16, 48, step.toNat)]) via s
def execCapture (via : Via) (step : Step) (s : State) : Outcome := .next (capture via step s)

def restore (via : Via) (newest : Bool) (step : Step) (s : State) : State :=
  monVia (mkWord 64 [(0, 2, 1), (2, 1, b2n newest), (16, 48, step.toNat)]) via s
def execRestore (via : Via) (newest : Bool) (step : Step) (s : State) : Outcome := .next (restore via newest step s)

def monumentAbort (via : Via) (s : State) : State := monVia 2 via s
def execMonumentAbort (via : Via) (s : State) : Outcome := .next (monumentAbort via s)

/-- MON_BANK_WAIT: pass 2 still waits for the lock at T_s + step_dt (R297). -/
def monBankWait (s : State) : State :=
  if s.bankWaits && decide (s.adj.ts.toNat + s.cfg.timing.stepDt ≤ s.dtm.time.toNat) then
    s.raise .cont Codes.monBankWait 10 0 s.monStatus
  else s

def execMonBankWait (s : State) : Outcome := .next (monBankWait s)

/-! Restores (R310) and buddy slots (R303) -/

/-- Every digest of a body of c chunks, if each has come. -/
def allDigests (got : SMap (List Byte)) (c : Nat) : Option (List (List Byte)) :=
  let ds := SMap.getList [] got 0 c
  if ds.all (fun d => !d.isEmpty) then some ds else none

/-- The record names this root, step and length (R292, R303, R310). -/
def recordMatches (rec : List Byte) (step len : Nat) (got : SMap (List Byte)) : Bool :=
  match allDigests got (cdiv len 0x100000) with
  | none => false
  | some ds => sub rec 0x40 64 == monRootOf len ds && leAt rec 0x10 8 == step && leAt rec 0x18 8 == len

/-- The message a record's signature is over (R293). -/
def recordMessage (rec : List Byte) : List Byte := ascii "BLK-MON-SIG1" ++ rec.take 0x140

/-- A device's key of the peer-key table verifies a record's signature (R293, R303, R310), unless the module is in error (R445). -/
def State.recordSigned (s : State) (rec : List Byte) : Bool :=
  s.sec.state != .error && match s.rosterKey (sub rec 0x100 64) 1 with
  | some k => Config.slhVerify true k (recordMessage rec) (sub rec 0x140 (Config.sigLen true))
  | none => false

/-- Compare the manifest bytes of a chunk with what this image gives for step m (R310). -/
def State.manifestCheck (s : State) (m i : Nat) (bs : List Byte) : Option Code :=
  let segs := s.monSegs m
  let lo := i * 0x100000
  let hi := lo + bs.length
  let tab := segTable segs
  let a := max lo 256
  let n := min hi (256 + tab.length) - a
  if i = 0 && sub bs 0x40 64 != s.img.layoutId then some Codes.monImage
  else if i = 0 && (sub bs 0 8 != ascii "BLKMONM1" || leAt bs 0x10 8 != m || leAt bs 0x0C 2 != s.cfg.plan.shard || leAt bs 0x28 4 != segs.length || leAt bs 0x30 8 != segsEnd segs) then
    some Codes.monLayout
  else if bs.length != min (segsEnd segs) (lo + 0x100000) - lo then some Codes.monLayout
  else if sub bs (a - lo) n != (tab.drop (a - 256)).take n then some Codes.monLayout
  else if segs.any (fun g => g.kind == 2 && max lo g.off < min hi (g.off + g.len)
      && sub bs (max lo g.off - lo) (min hi (g.off + g.len) - max lo g.off)
        != sub s.cfg.ruleBytes (max lo g.off - g.off) (min hi (g.off + g.len) - max lo g.off)) then some Codes.monLayout
  else none

/-- Write the segments of a chunk to their places (R310). -/
def State.restoreWrite (s : State) (m i : Nat) (bs : List Byte) : State :=
  let lo := i * 0x100000
  let hi := lo + bs.length
  ((s.monSegs m).filter (fun g => g.kind != 2 && max lo g.off < min hi (g.off + g.len))).foldl (fun s g =>
    let a := max lo g.off
    let b := sub bs (a - lo) (min hi (g.off + g.len) - a)
    if g.kind = 3 then { s with adj := { s.adj with freeze := BitVec.ofNat 4096 (leNat b) } }
    else s.spaceWrite .monument (g.src + (a - g.off)) b false) s

/-- A chunk of the restore in progress; one that comes before the manifest is asked for again (log entry 41). -/
def State.restoreChunk (s : State) (rx : Rx) (f : MonFrame) (r : Restore) : State :=
  let i := f.index.toNat
  if monChunkDigest i f.payload != f.digest || (i != 0 && r.seed.isNone) then s.monAck rx f f.index 1
  else
    let m := f.step.toNat
    match s.manifestCheck m i f.payload with
    | some c => (s.monAck rx f f.index 2).restoreEnd { r with step := some m } c
    | none =>
      let s := s.restoreWrite m i f.payload
      let seed := if i = 0 then some (BitVec.ofNat 64 (leAt f.payload 0x18 8), BitVec.ofNat 64 (leAt f.payload 0x20 8)) else r.seed
      let r := { r with step := some m, seed := seed, got := SMap.set [] r.got i f.digest }
      ({ s with mon := { s.mon with
        restore := some r, acked := r.got.length, total := cdiv (segsEnd (s.monSegs m)) 0x100000 } }).monAck rx f f.index 0

/-- The record of the restore in progress (R310). -/
def State.restoreRecord (s : State) (rx : Rx) (f : MonFrame) (r : Restore) : State :=
  let m := f.step.toNat
  match r.seed with
  | none => s.monAck rx f (BitVec.ofNat 32 ackRecord) 1
  | some (a, b) =>
    if !recordMatches f.payload m (segsEnd (s.monSegs m)) r.got then
      (s.monAck rx f (BitVec.ofNat 32 ackRecord) 2).restoreEnd r Codes.monRoot
    else if !s.recordSigned f.payload then
      (s.monAck rx f (BitVec.ofNat 32 ackRecord) 2).restoreEnd r Codes.monSignature
    else
      let s := (List.range 4).foldl (fun s g => s.setAu g { s.au g with step := BitVec.ofNat 48 (m + 1) }) s
      let s := { s with mon := { s.mon with seed0 := a, seed1 := b, boundary := false, pass2Step := none } }
      (s.monAck rx f (BitVec.ofNat 32 ackRecord) 0).restoreEnd r Codes.ok

/-- The BUDDY range for a source device (R274, R283). -/
def State.buddyRange (s : State) (d : Nat) : Option DramRange :=
  if s.layoutOn then s.cfg.layout.find? (fun x => x.kind == 4 && x.buddyDev == d) else none

def DramRange.half (r : DramRange) : Nat := r.len / 2 / 65536 * 65536

/-- A slot header as a buddy reads it: where it stands, state, step and body length (R303). -/
structure SlotSeen where
  at_ : Nat
  state : Nat
  step : Nat
  len : Nat
  deriving DecidableEq, Repr

/-- The header of the slot at an address; none without the magic, or where the burst is damaged or poisoned. -/
def State.slotAt (s : State) (a : Nat) : Option SlotSeen × State :=
  let (h, bad, s) := s.dramRead .monument a 64
  (if !bad && h.take 8 = ascii "BLKBUDS1" then
     some { at_ := a, state := byteAt h 8, step := leAt h 0x10 8, len := leAt h 0x18 8 }
   else none, s)

/-- A slot that a monument of a length fills, or holds, to its end. -/
def SlotSeen.fin (x : SlotSeen) : Nat := x.at_ + 65536 + x.len

/-- VALID slots of a range. Where slot 0 is filled or held by a monument too long for two slots, it is the only one. -/
def State.validSlots (s : State) (r : DramRange) : List SlotSeen × State :=
  let (zero, s) := s.slotAt r.base
  if zero.any (fun x => x.state != 0 && r.half < x.len + 65536) then ((zero.toList).filter (·.state == 2), s)
  else
    let (one, s) := s.slotAt (r.base + r.half)
    ((zero.toList ++ one.toList.filter (fun x => x.len + 65536 ≤ r.half)).filter (·.state == 2), s)

/-- Newest of some slots. -/
def newestSlot (l : List SlotSeen) : Option SlotSeen :=
  l.foldl (fun b x => match b with
    | none => some x
    | some y => if y.step < x.step then some x else b) none

/-- The slot a new monument fills: the one without the newest VALID monument (R303). -/
def fillSlot (valid : List SlotSeen) (r : DramRange) (len : Nat) : Option Nat :=
  if len + 65536 ≤ r.half then
    some (match newestSlot valid with
      | some x => if x.at_ = r.base then r.base + r.half else r.base
      | none => r.base)
  else if len + 65536 ≤ r.len then some r.base
  else none

/-- VALID monuments that a new one overwrites are lost: their slots become EMPTY (R303). -/
def State.loseSlots (s : State) (valid : List SlotSeen) (a len : Nat) : State :=
  (valid.filter (fun x => x.at_ != a && x.at_ < a + 65536 + len && a < x.fin)).foldl (fun s x =>
    s.spaceWrite .monument x.at_ (ascii "BLKBUDS1" ++ leBytes 56 0) false) s

/-- Write a slot header. -/
def State.slotHeader (s : State) (f : Fill) (st : Nat) : State :=
  s.spaceWrite .monument f.slot (ascii "BLKBUDS1" ++ leBytes 1 st ++ leBytes 1 0 ++ leBytes 2 f.src ++ leBytes 4 0
    ++ leBytes 8 f.step ++ leBytes 8 f.len ++ leBytes 32 0) false

def State.setFill (s : State) (f : Fill) : State :=
  { s with mon := { s.mon with fills := s.mon.fills.filter (fun x => x.src != f.src) ++ [f] } }
def State.dropFill (s : State) (src : Nat) : State :=
  { s with mon := { s.mon with fills := s.mon.fills.filter (fun x => x.src != src) } }

/-- A load has part of the chunk's place as its staging range, which takes no write (R143). -/
def State.chunkRefused (s : State) (x : Fill) (i len : Nat) : Bool :=
  let a := x.slot + 0x10000 + i * 0x100000
  s.loadBusy && decide (a < s.img.stageBase.toNat + s.img.stageLen.toNat) && decide (s.img.stageBase.toNat < a + len)

/-- Store a chunk in the slot being filled (R303); one that cannot be written is answered REFUSE. -/
def State.fillChunk (s : State) (rx : Rx) (f : MonFrame) (x : Fill) : State :=
  let i := f.index.toNat
  if x.len < i * 0x100000 + f.payload.length || s.chunkRefused x i f.payload.length then s.monAck rx f f.index 2
  else
    let s := s.spaceWrite .monument (x.slot + 0x10000 + i * 0x100000) f.payload false
    (s.setFill { x with got := SMap.set [] x.got i f.digest }).monAck rx f f.index 0

/-- A chunk that comes to a buddy (R283, R303). -/
def State.buddyChunk (s : State) (rx : Rx) (f : MonFrame) : State :=
  match (s.buddyRange f.srcDev).filter (fun _ => rx.src == BitVec.ofNat 16 f.srcDev) with
  | none => s.monAck rx f f.index 2
  | some r =>
    if monChunkDigest f.index.toNat f.payload != f.digest then s.monAck rx f f.index 1
    else match s.mon.fills.find? (fun x => x.src == f.srcDev && x.step == f.step.toNat) with
      | some x => s.fillChunk rx f x
      | none =>
        if f.index != 0 then s.monAck rx f f.index 1
        else
          let len := leAt f.payload 0x30 8
          let (valid, s) := s.validSlots r
          match (fillSlot valid r len).filter (fun _ => f.payload.length ≤ len) with
          | none => s.monAck rx f f.index 2
          | some a =>
            let x : Fill := { src := f.srcDev, step := f.step.toNat, slot := a, len := len }
            ((s.loseSlots valid a len).slotHeader x 1).fillChunk rx f x

/-- The record of a monument that stands VALID already, sent again (R302, R303). -/
def State.recordStored (s : State) (f : MonFrame) : Bool × State :=
  match s.buddyRange f.srcDev with
  | none => (false, s)
  | some r =>
    let (valid, s) := s.validSlots r
    match valid.find? (fun x => x.step == f.step.toNat) with
    | none => (false, s)
    | some x =>
      let (bs, bad, s) := s.dramRead .monument (x.at_ + 0x1000) recordLen
      (!bad && bs == f.payload, s)

/-- A record that comes to a buddy (R303); one it has answered OK before is answered so again. -/
def State.buddyRecord (s : State) (rx : Rx) (f : MonFrame) : State :=
  match s.mon.fills.find? (fun x => x.src == f.srcDev && x.step == f.step.toNat && rx.src == BitVec.ofNat 16 x.src) with
  | none =>
    let (again, s) := s.recordStored f
    s.monAck rx f (BitVec.ofNat 32 ackRecord) (if again && rx.src == BitVec.ofNat 16 f.srcDev then 0 else 2)
  | some x =>
    if recordMatches f.payload x.step x.len x.got && s.recordSigned f.payload then
      let s := s.spaceWrite .monument (x.slot + 0x1000) (f.payload.take recordLen) false
      ((s.slotHeader x 2).dropFill x.src).monAck rx f (BitVec.ofNat 32 ackRecord) 0
    else s.monAck rx f (BitVec.ofNat 32 ackRecord) 2

/-- The frame belongs to the restore in progress. -/
def Restore.matches (r : Restore) (rx : Rx) (f : MonFrame) : Bool :=
  rx.src == r.peer && (match r.from_ with | some d => d == f.srcDev | none => true)
    && (match r.step with | some m => m == f.step.toNat | none => true)

def State.onChunk (s : State) (rx : Rx) (f : MonFrame) : State :=
  match s.mon.restore with
  | some r => if r.matches rx f then s.restoreChunk rx f r else s.buddyChunk rx f
  | none => s.buddyChunk rx f

/-- CHUNK_FRAME. -/
def chunkFrame (rx : Rx) (f : MonFrame) (s : State) : State :=
  s.take rx (.mon 1 f) (fun s rx => s.onChunk rx f)

def execChunkFrame (rx : Rx) (f : MonFrame) (s : State) : Outcome := .next (chunkFrame rx f s)

/-- RECORD_FRAME. -/
def recordFrame (rx : Rx) (f : MonFrame) (s : State) : State :=
  s.take rx (.mon 2 f) (fun s rx =>
    match s.mon.restore with
      | some r => if r.matches rx f then s.restoreRecord rx f r else s.buddyRecord rx f
      | none => s.buddyRecord rx f)

def execRecordFrame (rx : Rx) (f : MonFrame) (_sig : Verdict) (s : State) : Outcome := .next (recordFrame rx f s)

/-- ABANDON_FRAME: the sink's slot stays FILLING; a restore ends. -/
def abandonFrame (rx : Rx) (f : MonFrame) (s : State) : State :=
  s.take rx (.mon 3 f) (fun s rx =>
    match s.mon.restore with
      | some r => if r.matches rx f then s.restoreEnd r Codes.monAbandoned else s.dropFill f.srcDev
      | none => s.dropFill f.srcDev)

def execAbandonFrame (rx : Rx) (f : MonFrame) (s : State) : Outcome := .next (abandonFrame rx f s)

/-- A PULL starts the stream of a stored monument, or is refused (R301, R309). -/
def State.onPull (s : State) (rx : Rx) (f : MonFrame) : State :=
  match s.buddyRange f.srcDev with
  | none => s.monAck rx f 0 2
  | some r =>
    let (valid, s) := s.validSlots r
    match newestSlot (valid.filter (fun x => fld f.step 0 48 = 2 ^ 48 - 1 || x.step = f.step.toNat)) with
    | none => s.monAck rx f 0 2
    | some x =>
      if s.img.state == .held || s.monBusy || (s.monPorts s.mon.mask).isEmpty then s.monAck rx f 0 2
      else
        let j : MonJob := {
          own := false, step := x.step, src := f.srcDev, dst := rx.src, mask := s.mon.mask, window := s.mon.window
          bm := s.mon.progress, head := [], segs := [], rule := [], freeze := [], base := x.at_ + 0x10000, len := x.len }
        { s with mon := { s.mon with job := some j, acked := 0, total := j.total } }

/-- PULL_FRAME. -/
def pullFrame (rx : Rx) (f : MonFrame) (s : State) : State :=
  s.take rx (.mon 5 f) (fun s rx => s.onPull rx f)

def execPullFrame (rx : Rx) (f : MonFrame) (s : State) : Outcome := .next (pullFrame rx f s)

/-! Closure checks (R305 to R308) -/

/-- Devices of the closure group (R306). -/
def Plan.closureGroup (p : Plan) : List Nat := ((p.seals.filter (fun e => e.shard == p.shard)).map (·.dev)).eraseDups

/-- A check ends with a result: 1 OK, 2 CLOSURE_FAIL, 3 CLOSURE_INCOMPLETE (R307, R316). -/
def State.closureResult (s : State) (n res : Nat) (diff : List Nat) : State :=
  let w := mkWord 64 [(0, 48, n), (48, 2, res), (50, 6, min diff.length 63), (56, 8, diff.headD 0 % 256)]
  let s := { s with mon := { s.mon with closeStatus := w, checks := s.mon.checks.filter (fun k => k.step != n) } }
  if res = 2 then s.raise .stat Codes.closureFail 10 0 s.monStatus
  else if res = 3 then s.raise .stat Codes.closureIncomplete 10 0 s.monStatus
  else s

/-- Devices whose root differs from this device's own, ascending. -/
def CloCheck.differing (k : CloCheck) (own : Nat) : List Nat :=
  match k.recs.find? (fun r => r.dev == own && r.fail.isNone) with
  | none => []
  | some o => sortBy id ((k.recs.filter (fun r => r.fail.isNone && r.root != o.root)).map (·.dev))

/-- The check is judged by R307. -/
def State.closureJudge (s : State) (k : CloCheck) : State :=
  let group := s.cfg.plan.closureGroup
  let diff := k.differing s.cfg.plan.dev
  let res :=
    if !diff.isEmpty || k.bad || (group.any (fun d => k.strays.contains d && !k.recs.any (fun r => r.dev == d)))
        || k.recs.any (fun r => r.fail == some Codes.monPoison) then 2
    else if k.recs.any (fun r => r.fail.isSome) || group.any (fun d => !k.recs.any (fun r => r.dev == d)) then 3
    else 1
  s.closureResult k.step res diff

/-- A check with every record of its group is judged at once. -/
def State.closureTry (s : State) (n : Nat) : State :=
  match s.mon.checks.find? (fun k => k.step == n) with
  | some k => if s.cfg.plan.closureGroup.all (fun d => k.recs.any (fun r => r.dev == d)) then s.closureJudge k else s
  | none => s

/-- A check falls due at step n. -/
def State.closureDue (s : State) (n : Nat) : Bool := 2 ≤ s.mon.interval.toNat && n != 0 && n % s.mon.interval.toNat = 0

/-- A check takes one record of each device. -/
def CloCheck.add (k : CloCheck) (r : CloRec) : CloCheck :=
  if k.recs.any (fun x => x.dev == r.dev) then k else { k with recs := k.recs ++ [r] }

/-- A member's record of a step that no open check has: it names a step that differs from theirs. -/
def State.closureStray (s : State) (r : CloRec) : State :=
  let due := s.closureDue r.step
  { s with mon := { s.mon with checks := s.mon.checks.map (fun (k : CloCheck) =>
      if due then { k with strays := k.strays ++ [r.dev] } else { k with bad := true }) } }

/-- A closure record of a member of the group (R307). A record of a step at which no check is due fails every open check at
its judgement, one of another due step each check for which the member has sent none (log entry 42). -/
def State.closureTake (s : State) (r : CloRec) : State :=
  if !s.cfg.plan.closureGroup.contains r.dev then s
  else if s.mon.checks.any (fun k => k.step == r.step) then
    let s := { s with mon := { s.mon with checks := s.mon.checks.map (fun (k : CloCheck) =>
      if k.step == r.step then k.add r else k) } }
    s.closureTry r.step
  else if s.closureDue r.step && decide (r.step < s.stepIndex.toNat) then s.closureStray r
  else
    let s := s.closureStray r
    { s with mon := { s.mon with early := s.mon.early.filter (fun x => !(x.dev == r.dev && x.step == r.step)) ++ [r] } }

/-- This device's record of a check, sent to the group and judged with the rest (R306). -/
def State.closureSend (s : State) (n : Nat) (root : List Byte) (fail : Option Code) : State :=
  let p := s.cfg.plan
  let rec_ : NormRec := { typ := 4, vote := fail.isSome, fault := fail.getD 0, dev := p.dev, shard := p.shard
                          step := BitVec.ofNat 48 n, rset := p.rset, gsq := 0, trust := [], root := root }
  let s := (p.closureGroup.filter (· != p.dev)).foldl (fun s d =>
    s.sendQuiet { src := s.ownSrc, dst := BitVec.ofNat 16 d, tag := 0, body := .norm rec_ }) s
  s.closureTake { dev := p.dev, step := n, root := root, fail := fail }

/-- At the boundary of step n (R305, R308). -/
def State.closureBoundary (s : State) (n : Nat) : State :=
  if !s.closureDue n || s.cfg.plan.closureGroup.isEmpty then s
  else
    let mine := s.mon.early.filter (fun r => r.step == n)
    let off := s.mon.early.any (fun r => !s.closureDue r.step)
    let k : CloCheck := { step := n, at_ := s.dtm.time, recs := mine, bad := off }
    let skip := s.mon.digest.isSome || !s.mon.checks.isEmpty
    let s := { s with mon := { s.mon with
      early := s.mon.early.filter (fun r => decide (n < r.step) && s.closureDue r.step)
      checks := if skip then s.mon.checks else s.mon.checks ++ [k]
      digest := if skip then s.mon.digest else some n
      digestRead := if skip then s.mon.digestRead else 0
      digestBad := skip && s.mon.digestBad } }
    if skip then s.closureResult n 3 [] else s

/-- The closure digest is abandoned for a late pass 2 (R297, R305). -/
def State.closureAbandon (s : State) : State :=
  match s.mon.digest with
  | none => s
  | some n => ({ s with mon := { s.mon with digest := none } }).closureSend n (List.replicate 64 0) (some Codes.monAbandoned)

/-- Root of a closure stream (R305). -/
def closureRootOf (n : Nat) (layoutId bs : List Byte) : List Byte :=
  let ds := (chunksOf 0x100000 bs).zipIdx.flatMap (fun (c, i) => Config.shake256 (ascii "BLK-CLOSE-CHUNK" ++ leBytes 8 i ++ c) 64)
  Config.shake256 (ascii "BLK-CLOSE-ROOT" ++ leBytes 8 n ++ layoutId ++ leBytes 8 bs.length ++ ds) 64

/-- Bytes of a segment for the closure digest: what the monument of the same step has read is not read again (R308). -/
def State.closeBytes (s : State) (g : MonSeg) : List Byte × Bool × State :=
  let k := min g.len (s.mon.digestRead - g.off)
  let (b, p, s) := s.spaceRead .digest (g.src + k) (g.len - k)
  (s.spaceBytes g.src k ++ b, p, s)

/-- A capture of the same step still reads: its bytes feed the digest too (R308). -/
def State.digestShares (s : State) (n : Nat) : Bool :=
  s.mon.job.any (fun j => j.own && j.step == n && decide (j.next < j.total))

/-- CLOSURE_DIGEST_DONE. -/
def closureDigestDone (ups : List Upset) (s : State) : State :=
  match s.mon.digest with
  | none => s
  | some n =>
    if s.digestShares n || !s.digestRuns then s else
    let s := s.strikes ups
    let segs := (s.monSegs n).filter (fun g => g.kind == 1 || g.kind == 5 || g.kind == 6)
    let (bs, bad, s) := segs.foldl (fun (acc : List Byte × Bool × State) g =>
      let (b, p, s) := acc.2.2.closeBytes g
      (acc.1 ++ b, acc.2.1 || p, s)) ([], s.mon.digestBad, s)
    let s := { s with mon := { s.mon with digest := none } }
    if bad then s.closureSend n (List.replicate 64 0) (some Codes.monPoison)
    else
      let root := closureRootOf n s.img.layoutId bs
      ({ s with mon := { s.mon with closeRoot := root } }).closureSend n root none

def execClosureDigestDone (ups : List Upset) (s : State) : Outcome := .next (closureDigestDone ups s)

/-- CLOSURE_DEADLINE (R307). -/
def closureDeadline (s : State) : State :=
  match s.mon.checks.find? (fun k => decide (k.at_.toNat + 2 * s.cfg.timing.stepDt ≤ s.dtm.time.toNat)) with
  | some k => s.closureJudge k
  | none => s

def execClosureDeadline (s : State) : Outcome := .next (closureDeadline s)

/-- NORM_RECORD: an exchange record, or a closure record (R243, R306). -/
def normRecord (rx : Rx) (r : NormRec) (s : State) : State :=
  s.take rx (.norm r) (fun s _ =>
    if r.typ.val = 4 then
      (if s.layoutOn then s.closureTake { dev := r.dev, step := r.step.toNat, root := r.root, fail := if r.vote then some r.fault else none }
       else s)
    else s.exchRecord r)

def execNormRecord (rx : Rx) (r : NormRec) (s : State) : Outcome := .next (normRecord rx r s)

end Sys2Proof.Machine
end

