-- ==== Sys2Proof/Machine/Images.lean ====
section
/-! DEFINITION. Image operations (R143 to R155) and the membership they ask for (R347). -/
namespace Sys2Proof.Machine

/-- An image operation completes with a code (R155). -/
def State.imgDone (s : State) (code : Code) : State × Option Code :=
  ({ s with img := { s.img with code := code, check := 0, plat := 0xFF, section_ := 0xFFFF, item := 0 } }, some code)

/-! Loads -/

/-- Bytes of the staged image, read after its header; whether a burst of them is poisoned (R143, R270). -/
def State.staged (s : State) : List Byte × Bool × State :=
  let a := s.img.stageBase.toNat
  let n := min s.img.stageLen.toNat (2 ^ 30)
  let (h, p, s) := s.dramRead .load a (min n 256)
  let len := min n (leAt h 0x10 8)
  if len ≤ 256 then (h, p, s)
  else
    let (t, q, s) := s.dramRead .load (a + 256) (len - 256)
    (h ++ t, p || q, s)

/-- LOAD from HELD (R146). -/
def State.loadBegin (s : State) : State :=
  { s with img := { s.img with state := .loading, progress := 0, course := 0 } }

/-- A failed load shows its code, check, plat, section and item (R140, R155). -/
def State.showFail (s : State) (f : LoadFail) : State :=
  { s with img := { s.img with
      code := f.code, check := f.check, plat := f.plat, section_ := f.sect, item := BitVec.ofNat 32 f.item } }

/-- What a load has digested: the signed content, or nothing where check 1 failed (R140, R155). -/
def Image.digested (im : Image) (full : Bool) (stageLen : Nat) : Nat :=
  if check1 im (if full then 1 else 2) stageLen then im.len - sigBytes else 0

/-- LOAD_COMPLETE: the checks, then READY or HELD (R140, R144). -/
def loadComplete (ups : List Upset) (s : State) : State :=
  if s.img.state != .loading then s
  else
    let (bs, bad, s) := (s.strikes ups).staged
    let im := imageOf bs
    let n := im.digested true s.img.stageLen.toNat
    match s.checkImage im true bad with
    | .error f =>
      let s := { s with img := { s.img with state := .held, progress := n } }
      (s.completeAll opImage (fun b => b % 8 == 0) { code := f.code }).showFail f
    | .ok t =>
      let t := { t with
        img := { t.img with progress := n }
        mon := { t.mon with boundary := false, pass2Step := none } }
      t.imgEnd 0 Codes.ok

def execLoadComplete (_sig : Verdict) (ups : List Upset) (s : State) : Outcome := .next (loadComplete ups s)

/-- Every region of a mask is DRAINED (R152). -/
def State.maskDrained (s : State) (mask : W64) : Bool :=
  (List.range 64).all (fun i => !bitOf mask i || bitOf (s.plat (i / 16)).drained (i % 16))

/-- LOAD_PARTIAL in READY or RUNNING (R152): nothing but the header is read before it is accepted. -/
def State.partialBegin (s : State) : State × Option Code :=
  if s.img.partialBusy then s.imgDone Codes.imageBusy
  else
    let (h, _, s) := s.dramRead .load s.img.stageBase.toNat (min s.img.stageLen.toNat 256)
    let mask : W64 := BitVec.ofNat 64 (leAt h 0x28 8)
    if !s.maskDrained mask then s.imgDone Codes.refused
    else ({ s with img := { s.img with partialBusy := true, partialMask := mask, progress := 0, course := 0 } }, none)

/-- PARTIAL_LOAD_COMPLETE (R153). -/
def partialLoadComplete (ups : List Upset) (s : State) : State :=
  if !s.img.partialBusy then s
  else
    let (bs, bad, s) := (s.strikes ups).staged
    let im := imageOf bs
    let n := im.digested false s.img.stageLen.toNat
    let fin := fun (s : State) => { s with img := { s.img with
      partialBusy := false, partialMask := 0, progress := n } }
    match s.checkImage im false bad with
    | .error f => ((fin s).completeAll opImage (fun b => b % 8 == 1) { code := f.code }).showFail f
    | .ok t => (fin t).imgEnd 1 Codes.ok

def execPartialLoadComplete (_sig : Verdict) (ups : List Upset) (s : State) : Outcome := .next (partialLoadComplete ups s)

/-- The signed content that the running load digests, and the last place of its course: a load stands at 0 in check 1, at
1 + b in check 2 with b bytes digested, and further on it runs a later check or writes, one place for each. Check 3 is that
of a partial load. -/
def State.loadEnd (s : State) : Nat × Nat :=
  let full := s.img.state == .loading
  let (bs, bad, _) := s.staged
  let im := imageOf bs
  let n := im.digested full s.img.stageLen.toNat
  let k := match s.checkImage im full bad with
    | .error f => f.check
    | .ok _ => 11
  (n, if k ≤ 1 then 0 else if k = 2 then n + 1 else n + 1 + (k - 2 - b2n full))

/-- Where a running load stands when it is read next: it goes on as it may, never back (log entry 94). -/
def State.loadAt (s : State) : Nat :=
  let last := s.loadEnd.2
  s.img.course + (Config.freeValue s.free).toNat % (last + 1 - s.img.course)

/-- Check or write of a place in the course of a load, and the bytes digested there (R155). -/
def State.coursePhase (s : State) (t : Nat) : Nat :=
  let n := s.loadEnd.1
  if t = 0 then 1 else if t ≤ n + 1 then 2 else 2 + (t - (n + 1)) + b2n (s.img.state == .loading)
def State.courseBytes (s : State) (t : Nat) : Nat := min (t - 1) s.loadEnd.1

/-- A load in progress ends with IMAGE_ABORTED (R146). What it had digested stands in IMG_PROGRESS. -/
def State.endLoad (s : State) : State :=
  let t := s.loadAt
  let n := s.courseBytes t
  let u := { s with free := s.free + 1 }
  if s.img.state == .loading then
    ({ u with img := { u.img with state := .held, progress := n } }).imgEnd 0 Codes.imageAborted
  else if s.img.partialBusy then
    ({ u with img := { u.img with partialBusy := false, partialMask := 0, progress := n } }).imgEnd 1 Codes.imageAborted
  else s

/-! START (R148, R255, R347) -/

/-- The table in effect names this device as the plan does, and every device the image names (R347). -/
def State.planMember (s : State) : Bool :=
  match s.lxg.table, s.myNum with
  | some t, some n =>
    let p := s.cfg.plan
    let devs := p.seals.map (·.dev) ++ p.streams.map (·.dstDev)
      ++ (s.cfg.regions.filter (fun r => r.tier == 2)).map (·.ownerDev)
      ++ (s.cfg.layout.filter (fun r => r.kind == 4)).map (·.buddyDev)
    n == p.dev && devs.all (fun d => (tableEntry t d).isSome)
  | _, _ => false

/-- Every bank-difference bit is set (R255). -/
def State.setAllDbits (s : State) : State :=
  let dense := s.cfg.regions.zipIdx.filter (fun e => !e.1.sparse)
  let d : BitVec 4096 := dense.foldl (fun d e => setBit d e.2) 0
  let s : State := { s with adj := { s.adj with dbits := d } }
  (s.cfg.regions.filter (fun r => r.sparse && r.tier != 2)).foldl (fun s r =>
    let t := r.elements / max 1 r.matCols
    s.dramWrite .auPass2 (mapByte r 1 0) (leBytes (cdiv t 8) (2 ^ t - 1)) false) s

/-- START from READY. -/
def State.startOp (s : State) : State × Option Code :=
  if s.debugOpen || s.mon.restoreBad || s.mon.restore.isSome then s.imgDone Codes.refused
  else if !s.planMember then s.imgDone Codes.lxNotMember
  else
    let open_ := s.img.stopDrained
    let s := (s.setAllDbits).restartActions true
    let s := { s with
      img := { s.img with state := .running, stopDrained := false }
      flt := { s.flt with stepState := .idle } }
    let s := if open_ then (List.range 4).foldl (fun s p =>
        s.reopen p ((s.plat p).drained &&& ~~~s.replacing p)) s else s
    s.imgDone Codes.ok

/-! STOP (R149, R370) -/

/-- Configuration regions of plat p that are neither draining nor drained. -/
def State.openRegions (s : State) (p : Nat) : W16 :=
  ((s.sitesOf p 0xFFFF).foldl (fun m i => setBit m (s.sw p i).cregion) (0 : W16))
    &&& ~~~((s.plat p).draining ||| (s.plat p).drained)

/-- Every region of the array starts to drain. -/
def State.drainAll (s : State) : State := (List.range 4).foldl (fun s p => s.beginDrain p (s.openRegions p)) s

/-- The step in progress is abandoned: no bank is written, the step index stays, nothing is recorded (R149); the
coefficients in effect stay (R234). -/
def State.abandonStep (s : State) : State :=
  let s := match s.adj.curStart with
    | some id => s.complete id { code := Codes.cmdCancelled }
    | none => s
  { s with
    adj := { s.adj.restart with fresh := s.adj.fresh, curStart := none, nextStart := none }
    aus := SMap.mapVals {} (fun _ a => { a.restart with live := a.live }) s.aus
    flt := { s.flt with stepState := .idle } }

/-- Every region stands DRAINED, and no step sequence is left. -/
def State.drainedIdle (s : State) : State :=
  let d := s.allDrained
  { d with flt := { d.flt with stepState := .idle } }

/-- The stop ends: READY, every region left DRAINED. -/
def State.stopEnd (s : State) : State :=
  ({ s with img := { s.img with state := .ready, stopAtBoundary := false, stopDrained := true } }).imgEnd 3 Codes.ok

/-- STOP in RUNNING: a pending table takes effect (R342). A failed step's sequence is completed first, and READY follows it (R410); a step in pass 2 runs to
its boundary (R149). -/
def State.stopOp (s : State) : State :=
  let s := s.cancelClass0
  let s := ({ s with img := { s.img with state := .stopping } }).tableNow
  if s.flt.stepState == .restarted then s.drainedIdle.stopEnd
  else if s.stepFailed then s
  else if s.adj.pass2 then { s with img := { s.img with stopAtBoundary := true } }
  else (if s.adj.inStep then s.abandonStep else s).drainAll

/-- STOP_COMPLETE: every region has drained. -/
def stopComplete (s : State) : State :=
  if s.img.state == .stopping && !s.img.stopAtBoundary && !s.stepFailed
      && (List.range 4).all (fun p => (s.plat p).draining == 0 && s.openRegions p == 0) then s.stopEnd
  else s

def execStopComplete (s : State) : Outcome := .next (stopComplete s)

/-! UNLOAD and the operation table -/

/-- UNLOAD from READY (R150, R311). -/
def State.unloadOp (s : State) : State × Option Code :=
  if s.monBusy then s.imgDone Codes.refused
  else
    let s := s.endLoad.clearConfig
    ({ s with mon := { s.mon with restoreBad := false } }).imgDone Codes.ok

/-- The table of R146, row by row; reserved operations change nothing (R155). -/
def State.imgOp (s : State) (op : Nat) : State × Option Code :=
  if 6 ≤ op then s.imgDone Codes.refused
  else if s.pwr.state == .idle then s.imgDone Codes.notReady
  else
    let ok := s.imgDone Codes.ok
    let no := s.imgDone Codes.refused
    let busy := s.imgDone Codes.imageBusy
    match op, s.img.state with
    | 0, .held => (s.loadBegin, none)
    | 0, .loading => busy
    | 0, _ => no
    | 1, .loading => busy
    | 1, .ready => s.partialBegin
    | 1, .running => s.partialBegin
    | 1, _ => no
    | 2, .loading => busy
    | 2, .ready => s.startOp
    | 2, .running => ok
    | 2, _ => no
    | 3, .loading => (s.cancelClass0.endLoad).imgDone Codes.imageAborted
    | 3, .running => (s.stopOp, none)
    | 3, _ => ok
    | 4, .held => ok
    | 4, .loading => busy
    | 4, .ready => s.unloadOp
    | 4, _ => no
    | 5, .loading => s.endLoad.imgDone Codes.imageAborted
    | 5, .ready => if s.img.partialBusy then s.endLoad.imgDone Codes.imageAborted else ok
    | 5, .running => if s.img.partialBusy then s.endLoad.imgDone Codes.imageAborted else ok
    | _, _ => ok

/-- An IMAGE order's effect: its own word holds the operation (R362). -/
def imgEff (w : CmdWord) (s : State) : State × Option Reply :=
  let (s, c) := s.imgOp (w.payByte 0 % 8)
  (s, c.map (fun c => { code := c }))

/-- An image operation by IMG_CMD or as an order. -/
def imgVia (op : Nat) (via : Via) (s : State) : State :=
  match via with
  | .reg path => s.writeBy path .glb (fun s => (s.imgOp op).1)
  | .cmd o =>
    let o := rowOrder o 0 0 3 op
    s.cmdArrive opImage o (if op < 2 then s.img.stageLen.toNat else 0) (fun _ => imgEff { opcode := opImage, desc := o.desc })

def execLoad (via : Via) (s : State) : Outcome := .next (imgVia 0 via s)
def execLoadPartial (via : Via) (s : State) : Outcome := .next (imgVia 1 via s)
def execStart (via : Via) (ups : List Upset) (s : State) : Outcome := .next (imgVia 2 via (s.strikes ups))
def execStop (via : Via) (s : State) : Outcome := .next (imgVia 3 via s)
def execUnload (via : Via) (s : State) : Outcome := .next (imgVia 4 via s)
def execAbort (via : Via) (s : State) : Outcome := .next (imgVia 5 via s)

end Sys2Proof.Machine
end

