-- ==== Sys2Proof/Machine/Precond.lean ====
section
/-! DEFINITION. The preconditioner that Preast's stock program runs on the array for a region with precond set: factor
update, Newton iteration, and the report of a block that does not converge (R258 to R260). -/
namespace Sys2Proof.Machine

/-- A matrix of FP32 values, row after row. -/
abbrev Matrix32 := List (List W32)

def Matrix32.at_ (a : Matrix32) (i j : Nat) : W32 := (a.getD i []).getD j fpZero

def Matrix32.mk' (n m : Nat) (f : Nat → Nat → W32) : Matrix32 := (List.range n).map (fun i => (List.range m).map (f i))

/-- A product: each element sums its terms in ascending order, every operation rounded (R46, log entry 95). -/
def Matrix32.mul (a b : Matrix32) : Matrix32 :=
  Matrix32.mk' a.length (b.headD []).length (fun i j =>
    fpSum ((List.range b.length).map (fun k => fpMul (a.at_ i k) (b.at_ k j))))

def Matrix32.transpose (a : Matrix32) : Matrix32 := Matrix32.mk' (a.headD []).length a.length (fun i j => a.at_ j i)

def Matrix32.map (f : W32 → W32) (a : Matrix32) : Matrix32 := List.map (List.map f) a

/-- A constant on the diagonal of an n × n matrix. -/
def Matrix32.diag (n : Nat) (v : W32) : Matrix32 := Matrix32.mk' n n (fun i j => if i = j then v else fpZero)

def Matrix32.zip (f : W32 → W32 → W32) (a b : Matrix32) : Matrix32 := (List.zip a b).map (fun (x, y) => List.zipWith f x y)

/-- The Frobenius norm. -/
def Matrix32.frobenius (a : Matrix32) : W32 := fpSqrt (fpSum (a.flatten.map (fun v => fpMul v v)))

/-- A ← beta · A + (1 − beta) · G · Gᵀ (R259). -/
def factorUpdate (beta : W32) (a g : Matrix32) : Matrix32 :=
  Matrix32.zip fpAdd (a.map (fpMul beta)) ((Matrix32.mul g g.transpose).map (fpMul (fpSub fpOne beta)))

/-- 2^−e as FP32, for e of 6 bits. -/
def tolerance (e : Nat) : W32 := BitVec.ofNat 32 ((127 - e) * 2 ^ 23)

/-- Every element of m lies within the tolerance of the identity. -/
def nearIdentity (tol : Nat) (m : Matrix32) : Bool :=
  (Matrix32.zip fpSub m (Matrix32.diag m.length fpOne)).all (fun row => row.all (fun v => fpLe (fpAbs v) (tolerance tol)))

/-- The Newton iteration of R259 on x and m, within a budget: the root, or none where it does not converge. -/
def newton (tol : Nat) : Nat → Matrix32 → Matrix32 → Option Matrix32
  | 0, _, _ => none
  | budget + 1, x, m =>
    let t := (Matrix32.zip fpSub (Matrix32.diag m.length 0x40A00000#32) m).map (fun v => fpDiv v 0x40800000#32)
    let x := x.mul t
    let m := (((t.mul t).mul t).mul t).mul m
    if nearIdentity tol m then some x else newton tol budget x m

/-- A^(−1/4) of a factor block with its damping (R259); none: not converged within budget. -/
def inverseRoot (damping : W32) (budget tol : Nat) (a : Matrix32) : Option Matrix32 :=
  let a := Matrix32.zip fpAdd a (Matrix32.diag a.length damping)
  let z := fpDiv fpOne a.frobenius
  newton tol budget (Matrix32.diag a.length (Config.quarterPower z)) (a.map (fpMul z))

/-- Fields of the precond word (R259). -/
def Region.interval (r : Region) : Nat := fld r.precond 8 16
def Region.budget (r : Region) : Nat := fld r.precond 24 8
def Region.tolExp (r : Region) : Nat := fld r.precond 32 6

/-- The roots of a region are computed in step n (R259). -/
def Region.rootStep (r : Region) (n : Nat) : Bool := n % r.interval == 0

/-- Block size b (R259). -/
def Region.blockSize (r : Region) : Nat := fld r.precond 0 8

/-- What the bank of S(n) holds of a factor block. -/
def State.factorAt (s : State) (n : Nat) (b : FactorBlock) : FactorSt :=
  SMap.get {} s.adj.factors ((n % 2 * 4096 + b.region.val) * 65536 + b.index.val)

/-- The factor that the step updates: the one in the bank of S(n − 1), or the one given where none has been written yet. -/
def State.factorNow (s : State) (b : FactorBlock) : Matrix32 :=
  let f := (s.factorAt (s.stepIndex.toNat + 1) b).factor
  if f.isEmpty then b.factor else f

/-- A square of at most b rows, whose gradient block has as many (R259). -/
def State.blockFits (s : State) (r : Region) (b : FactorBlock) : Bool :=
  let a := s.factorNow b
  1 ≤ a.length && a.length ≤ r.blockSize && a.all (·.length == a.length) && b.grad.length == a.length

/-- The updated factor of a block, and its root where the step computes one (R259). -/
def State.blockNew (s : State) (r : Region) (b : FactorBlock) : Matrix32 × Option Matrix32 :=
  let a := factorUpdate r.betaF (s.factorNow b) b.grad
  (a, if r.rootStep s.stepIndex.toNat then inverseRoot (s.coefsOf r.au r 16) r.budget r.tolExp a else none)

/-- The program works on the block in this step. -/
def State.blockWorked (s : State) (r : Region) (b : FactorBlock) : Bool :=
  (s.flagsOf r).precond && r.tier != 2 && s.blockFits r b

/-- The program stores the updated factor and its root, the previous root where there is no new one, in the bank of S(n)
(R258, R260). -/
def State.blockStore (s : State) (b : FactorBlock) : State :=
  match s.cfg.regions[b.region.val]? with
  | none => s
  | some r =>
    if !s.blockWorked r b then s
    else
      let n := s.stepIndex.toNat
      let (a, x) := s.blockNew r b
      let f : FactorSt := { factor := a, root := x.getD (s.factorAt (n + 1) b).root }
      { s with adj := { s.adj with
          factors := SMap.set {} s.adj.factors ((n % 2 * 4096 + b.region.val) * 65536 + b.index.val) f } }

/-- A factor block keeps its previous root in a step that computes roots (R259, R260). -/
def State.blockStale (s : State) (b : FactorBlock) : Bool :=
  match s.cfg.regions[b.region.val]? with
  | none => false
  | some r =>
    s.blockWorked r b && r.rootStep s.stepIndex.toNat && (s.blockNew r b).2.isNone

/-- PRECOND_STALE of one region (R260, R262). -/
def State.precondStale (s : State) (i : Nat) : State :=
  match s.cfg.regions[i]? with
  | none => s
  | some r =>
    let a := s.au r.au
    let w := mkWord 64 [(0, 16, satAdd 16 (fld a.precond 0 16) 1), (16, 12, i), (28, 1, 1)]
    (s.setAu r.au { a with precond := w, fault := setBit a.fault 6 }).raise .stat Codes.precondStale 5 r.au s.adj.exch

/-- Each region with a stale block is reported once, and the new factors and roots are stored. -/
def State.precondReport (s : State) (bs : List FactorBlock) : State :=
  bs.foldl State.blockStore (((bs.filter s.blockStale).map (·.region.val)).eraseDups.foldl State.precondStale s)

end Sys2Proof.Machine
end

