-- ==== Sys2Proof/Machine/Steps.lean ====
section
/-! DEFINITION. A step from its start to its boundary or its failure (R16, R249, R342, R359, R360, R403 to R411). -/
namespace Sys2Proof.Machine

/-! Pass 2 (R249) -/

/-- A monument or closure digest that still reads the bank pass 2 writes is given up (R297, R305). -/
def State.releaseBank (s : State) : State :=
  let c := s.stepIndex.toNat
  let s := match s.mon.job with
    | some j => if j.own && j.step + 2 == c then s.monAbandon Codes.monAbandoned else s
    | none => s
  if s.mon.digest.any (fun m => m + 2 == c) then s.closureAbandon else s

/-- Some region of the device keeps its state because N is not finite (R224). -/
def State.anyNfSkip (s : State) : Bool := s.cfg.regions.any (fun r => r.tier != 2 && s.nfSkips r)

/-- PASS_2_START; the factor blocks the stock program works on are given with it (R259). -/
def pass2Start (blocks : List FactorBlock) (s : State) : State :=
  let locked := s.mon.locks.any (fun m => m + 2 == s.stepIndex.toNat)
  if s.adj.inStep && s.arrayRuns && s.adj.gateOk && !s.adj.pass2 && (List.range 4).all (fun g => (s.au g).phase == 3)
      && (!locked || s.mon.lateAbandon) then
    let s := (if locked then s.releaseBank else s).applyFreezes
    let s := if s.anyNfSkip then s.raise .corr Codes.nonfiniteSkip 5 0 s.adj.exch else s
    let s := s.precondReport blocks
    let s := { s with
      adj := { s.adj with pass2 := true }
      mon := { s.mon with pass2Step := some s.stepIndex.toNat } }
    (List.range 4).foldl (fun s g => s.setAu g ((s.au g).startPass 4)) s
  else s

def execPass2Start (blocks : List FactorBlock) (s : State) : Outcome := .next (pass2Start blocks s)

/-! Windows (R97) -/

/-- Window regions of every MU: plat, unit, region. -/
def State.windows (s : State) : List (Nat × Nat × Nat) :=
  s.mus.flatMap (fun e => (e.2.regions.filter (fun r => r.2.window)).map (fun r => (e.1 / 256, e.1 % 256, r.1)))

/-- Freed rows of every window are granted at a step boundary. -/
def State.grantFreed (s : State) : State :=
  s.windows.foldl (fun s (p, n, r) =>
    let k := ((s.mu p n).reg r).freed
    if 0 < k then s.grant p n r k else s) s

/-- The initial credit of every window. -/
def State.grantInitial (s : State) : State :=
  s.windows.foldl (fun s (p, n, r) => s.grant p n r ((s.mu p n).reg r).creditSize) s

/-! The boundary (R16) -/

/-- The pending membership table takes effect (R342); one that fails the test of R347 in RUNNING stops the part. -/
def State.boundaryTable (s : State) : State :=
  match s.lxg.pendingTable with
  | none => s
  | some t =>
    if s.stepIndex.toNat < t.effStep.toNat then s
    else
      let s := s.tableEffect t
      if s.img.state == .running && !s.planMember then s.stopOp.raisePort .stat Codes.lxMemberLost 0 else s

/-- The attempt of step n is over; entries of later steps stay (R252). -/
def Adj.boundary (a : Adj) (n : Nat) : Adj :=
  { a.restart with
    recs := a.recs.filter (fun r => decide (n < r.step.toNat))
    coefs := a.coefs.filter (fun e => decide (n < e.step.toNat))
    fresh := false, curStart := none }

/-- STEP_BOUNDARY. -/
def stepBoundary (s : State) : State :=
  if s.adj.inStep && s.arrayRuns && s.adj.commitSent == some true && s.haveAll 3 then
    let n := s.stepIndex.toNat
    let start := s.adj.curStart
    let s := (List.range 4).foldl (fun s g =>
      s.setAu g { s.au g with step := (s.au g).step + 1, phase := 0 }) s
    let s := { s with
      adj := s.adj.boundary n
      flt := { s.flt with stepState := .idle, attempts := 0, begun := none }
      mon := { s.mon with boundary := true } }
    let s := (s.grantFreed.closureBoundary n)
    let s := match start with
      | some id => s.complete id .ok
      | none => s
    let s := s.boundaryTable
    if s.img.stopAtBoundary then ({ s with img := { s.img with stopAtBoundary := false } }).drainAll else s
  else s

def execStepBoundary (s : State) : Outcome := .next (stepBoundary s)

/-! The start of a step (R359, R360) -/

/-- STEP_START: an accepted order waits for its time and for the boundary of the step before. -/
def stepStart (o : Order) (s : State) : State :=
  let id := s.cmd.nextId
  let s := s.cmdArrive opStepStart o 0 (fun _ s => (s, none))
  if s.cmd.held.any (fun h => h.id == id) then { s with adj := { s.adj with nextStart := some id } } else s

def execStepStart (o : Order) (s : State) : Outcome := .next (stepStart o s)

/-- The datum step index in effect (R359). -/
def Dtm.stepNow (d : Dtm) : Step :=
  let at_ := fun (n : Step) (t : W64) => if t.toNat ≤ d.time.toNat then n else n - 1
  match d.state with
  | .master => at_ d.mstep d.mstepTime
  | .locked => at_ d.frameStep d.frameStepTime
  | .holdover => at_ d.frameStep d.frameStepTime
  | _ => d.localStep

/-- Counts of the stash and of the generators that run within a step (R163, R166, R180). -/
def Mu.stepBegin (m : Mu) : Mu :=
  { m with
    regions := SMap.mapVals {} (fun _ (g : RegSt) => { g with
      pushed := 0, popped := 0, spills := 0, overflow := false, noSpill := false }) m.regions
    ags := SMap.mapVals {} (fun _ (g : AgSt) => { g with stepWalks := 0 }) m.ags }

/-- Step s begins: its instant is T_s. -/
def State.beginStep (s : State) (id : Nat) (step : Step) : State :=
  let d := s.dtm
  let d := { d with localStep := step, localStepTime := d.time }
  let d := { d with latched := d.stepNow }
  let replay := s.flt.begun == some s.stepIndex
  let s := { s with
    dtm := d
    adj := { s.adj with inStep := true, ts := d.time, curStart := some id, nextStart := none, kFault := false }
    flt := { s.flt with stepState := .running, begun := some s.stepIndex, first := if replay then s.flt.first else {} }
    mus := SMap.mapVals {} (fun _ m => m.stepBegin) s.mus }
  let s := if s.adj.fresh then ({ s with adj := { s.adj with fresh := false } }).grantInitial else s
  s.judge

/-- STEP_START_TIME: the activation time of the order has come, after a step of datum time too (R358). -/
def stepStartTime (s : State) : State :=
  match s.adj.nextStart with
  | none => s
  | some id =>
    match s.cmd.held.find? (fun h => h.id == id) with
    | none => s
    | some h =>
      if h.started && h.te.toNat ≤ s.dtm.time.toNat && !s.adj.inStep && s.img.state == .running
          && (s.flt.stepState == .idle || s.flt.stepState == .restarted) then s.beginStep id h.word.desc.step
      else s

def execStepStartTime (s : State) : Outcome := .next (stepStartTime s)

/-! Quiescing and restart (R405 to R411) -/

/-- QUIESCING_END: every transaction of the attempt is answered or 40 ms old (`timedOut`), and every row request is
complete. The restart is a containment action, and cancels waiting orders of class 0 (R370). -/
def quiescingEnd (timedOut : Bool) (ups : List Upset) (s : State) : State :=
  if (s.flt.stepState == .failed || s.flt.stepState == .quiescing) && !s.flt.restarting
      && (timedOut || !s.lxg.reqs.any (·.failed))
      && (List.range 4).all (fun p => (s.plat p).reqs.all (fun r => r.sent && timedOut)) then
    let s := { s with
      lxg := { s.lxg with reqs := s.lxg.reqs.filter (fun r => !r.failed) }
      flt := { s.flt with stepState := .quiescing, restarting := true } }
    ((s.strikes ups).contain).restartActions false
  else s

def execQuiescingEnd (timedOut : Bool) (ups : List Upset) (s : State) : Outcome := .next (quiescingEnd timedOut ups s)

/-- The failed attempt of the current step is counted (R408, R423). -/
def Flt.countAttempt (f : Flt) (c : Step) : Flt :=
  if f.attemptStep == c && f.attempts != 0 then { f with attempts := satAdd 16 f.attempts 1 }
  else { f with attemptStep := c, attempts := 1 }

/-- RESTART_ACTIONS_DONE (R408); a stop that waited ends in READY (R410, R411). -/
def restartActionsDone (s : State) : State :=
  if s.flt.restarting then
    let f := { s.flt with restarting := false, stepState := .restarted }
    let s := match s.adj.curStart with
      | some id =>
        let code := if s.flt.first.valid then s.flt.first.code else Codes.stepFailed
        ({ s with flt := f.countAttempt s.stepIndex, adj := { s.adj with curStart := none } }).complete id { code := code }
      | none => { s with flt := f }
    if s.img.state == .stopping then
      s.drainedIdle.stopEnd
    else s
  else s

def execRestartActionsDone (s : State) : Outcome := .next (restartActionsDone s)

/-- RESTART_FAIL: quiescing has not ended in 100 ms, or the restart actions are not done in 5 ms (R409). -/
def restartFail (s : State) : State :=
  if s.flt.stepState == .failed || s.flt.stepState == .quiescing then s.raise .fatal Codes.restartFail 0 0 else s

def execRestartFail (s : State) : Outcome := .next (restartFail s)

end Sys2Proof.Machine
end

