-- ==== Sys2Proof/Machine/LumouxTrans.lean ====
section
/-! DEFINITION. Lumoux transactions at their destination, forwarding, the membership table and stream entries
(R327 to R349). -/
namespace Sys2Proof.Machine

/-- The requester is a host endpoint (R330). -/
def rxHost (rx : Rx) : Bool := bitOf rx.src 15

/-- What a device's access meets before it is looked at; STEP_FAILED is an answer, not a record (R332, R398, R404). -/
def State.deviceGate (s : State) (rx : Rx) (typ : Nat) (f : State → State) : State :=
  if s.img.state == .held then s.respond rx typ Codes.notReady
  else if s.stepFailed then s.respond rx typ Codes.stepFailed
  else f s

/-- What Idle answers an access to data space with: the modules are in self-refresh, and the MUs are stopped (R388); the
trip stops the MUs too (R393, log entry 103). An address outside is left to the access (R481). -/
def State.spaceIdle (s : State) (a : Nat) : Option Code :=
  match muOf a with
  | some (p, n, _) => if s.muClocked p n then none else some Codes.clkGated
  | none => if isDram a && (s.pwr.state == .idle || !s.clk.refin) then some Codes.notReady else none

/-! Narrow accesses of several words (R84, R332) -/

/-- Words of an MU read one by one: bytes and the first code that is not OK. -/
def State.narrowReads (s : State) (p n off len : Nat) : List Byte × Code × State :=
  (List.range (len / 8)).foldl (fun (acc : List Byte × Code × State) i =>
    let o := off + 8 * i
    let s := acc.2.2
    let ue := SMap.get .clean (s.mu p n).ecc (o / 8) == .ue
    let (bs, _, s) := s.muRead p n o 8
    (acc.1 ++ bs, if acc.2.1 = Codes.ok && ue then Codes.muUncorrectable else acc.2.1, s)) ([], Codes.ok, s)

/-- Words of an MU written one by one; the first that R84 refuses ends the access. Damage on the spine poisons the rows
(R399). -/
def State.narrowWrites (s : State) (p n off : Nat) (bs : List Byte) (poison : Bool) : Code × State :=
  (chunksOf 8 bs).zipIdx.foldl (fun (acc : Code × State) (b, i) =>
    let o := off + 8 * i
    let s := acc.2
    let m := s.mu p n
    if acc.1 != Codes.ok then acc
    else if (m.regionOf (o / 512)).isSome && s.muRunning p n then (Codes.refused, s.setMu p n (m.flag 9))
    else (Codes.ok, (s.muWrite p n o b poison).muPoisonIn p n poison)) (Codes.ok, s)

/-! RWRITE, RREAD, COLL (R332, R349) -/

/-- A host write (R277, R332): DRAM, or an MU through its narrow view. -/
def State.hostWrite (s : State) (a : Nat) (bs : List Byte) (poison : Bool) : Code × State :=
  match muOf a with
  | some (p, n, o) =>
    let (sb, s) := s.takeSpine
    if o + bs.length ≤ 0x400000 then s.narrowWrites p n o bs (poison || sb) else (Codes.refused, s)
  | none =>
    if isDram a && (List.range (cdiv bs.length 64)).all (fun i => s.dramWriteOk .host (a + 64 * i)) then
      (Codes.ok, s.dramWrite .host a bs poison)
    else (Codes.refused, s)

/-- RWRITE. -/
def rwrite (rx : Rx) (addr : W64) (data : List Byte) (poison : Bool) (s : State) : State :=
  let a := addr.toNat
  s.take rx (.rwrite addr data poison) (fun s rx =>
    if rxHost rx then
      match s.spaceIdle a with
      | some c => s.respond rx 1 c
      | none =>
      if a % 64 != 0 || data.length % 64 != 0 then s.respond rx 1 Codes.refused
      else
        let (c, s) := s.hostWrite a data poison
        s.respond rx 1 c
    else s.deviceGate rx 1 (fun s =>
      match muOf a, s.spaceIdle a with
      | none, _ => s.respond rx 1 Codes.refused
      | some _, some c => s.respond rx 1 c
      | some (p, n, o), none =>
        if a % 64 != 0 || data.length % 64 != 0 || data.isEmpty then s.respond rx 1 Codes.refused
        else
          let (s, c) := s.remoteWrite p n o data poison
          s.respond rx 1 c))

def execRwrite (rx : Rx) (addr : W64) (data : List Byte) (poison : Bool) (s : State) : Outcome :=
  .next (rwrite rx addr data poison s)

/-- A host read (R277, R332); DRAM data are marked where they are poisoned (R270). -/
def State.hostRead (s : State) (a k : Nat) : Code × List Byte × Bool × State :=
  match muOf a with
  | some (p, n, o) =>
    if a % 8 = 0 && o + k ≤ 0x400000 then
      (let (sb, s) := s.takeSpine
       let (bs, c, s) := s.narrowReads p n o k
       (c, bs, sb, s))
    else (Codes.refused, [], false, s)
  | none =>
    if isDram a && (List.range (k / 8)).all (fun i => s.dramReadOk .host (a + 8 * i)) then
      (let (bs, bad, s) := s.dramRead .host a k
       (Codes.ok, bs, bad, s))
    else (Codes.refused, [], false, s)

/-- A device's read: the rows that plat DMA may read (R184, R277, R332), an MU's through the narrow view (R84). -/
def State.deviceRead (s : State) (a k : Nat) : Code × List Byte × Bool × State :=
  if !(List.range (k / 8)).all (fun i => s.dmaReadOk 0 .program ((a + 8 * i) / 512 * 512)) then (Codes.refused, [], false, s)
  else match muOf a with
    | some (p, n, o) =>
      if a % 8 = 0 && o + k ≤ 0x400000 then
        (let (sb, s) := s.takeSpine
         let (bs, c, s) := s.narrowReads p n o k
         (c, bs, sb, s))
      else (Codes.refused, [], false, s)
    | none =>
      let (bs, bad, s) := s.dramRead (.platDma 0) a k
      (Codes.ok, bs, bad, s)

/-- RREAD. -/
def rread (rx : Rx) (addr : W64) (bytes : W32) (ups : List Upset) (s : State) : State :=
  let a := addr.toNat
  let k := bytes.toNat
  s.take rx (.rread addr bytes) (fun s rx =>
    let s := s.strikes ups
    let serve := fun (s : State) =>
      if k < 8 || 65536 < k || k % 8 != 0 then s.respond rx 2 Codes.refused
      else
        let (c, bs, bad, s) := if rxHost rx then s.hostRead a k else s.deviceRead a k
        s.respond rx 2 c 0 bs bad
    let served := fun (s : State) => match s.spaceIdle a with
      | some c => s.respond rx 2 c
      | none => serve s
    if rxHost rx then served s else s.deviceGate rx 2 served)

def execRread (rx : Rx) (addr : W64) (bytes : W32) (ups : List Upset) (s : State) : Outcome :=
  .next (rread rx addr bytes ups s)

/-- A token of a collective at token slot k: a poisoned one poisons its row, a QUEUE keeps its tags (R94, R99). -/
def Mu.collTag (m : Mu) (queue : Bool) (k : Nat) (t : PTok) : Mu :=
  let m := if t.poison then m.setPoison (k / 4) true else m
  if queue then m.setTag k { last := t.last, poison := t.poison, epoch := m.epoch } else m

/-- Token flags of a COLL WRITE reach the rows and the tag store it wrote (R94, R99). -/
def State.collFlags (s : State) (p n off : Nat) (ts : List PTok) : State :=
  let m := s.mu p n
  let queue := match m.regionOf (off / 512) with | some r => (m.reg r).kind == 4 | none => false
  s.setMu p n (ts.zipIdx.foldl (fun m x => m.collTag queue (off / 128 + x.2) x.1) m)

/-- COLL. -/
def coll (rx : Rx) (addr : W64) (mode contrib : Byte) (entry : W16) (ts : List PTok) (s : State) : State :=
  s.take rx (.coll addr mode contrib entry ts) (fun s rx =>
    if rxHost rx then s.respond rx 5 Codes.refused
    else s.deviceGate rx 5 (fun s =>
      match muOf addr.toNat with
      | none => s.respond rx 5 Codes.refused
      | some (p, n, o) =>
        if ts.isEmpty || o % 64 != 0 then s.respond rx 5 Codes.refused
        else if mode = 1 then
          let (s, c) := s.remoteSegment p n o contrib.toNat
            (ts.map (fun t => { data := t.data, poison := t.poison, last := t.last }))
          s.respond rx 5 c
        else if mode = 2 then
          let (s, c) := (s.muPoisonIn p n (ts.any (·.poison))).remoteWrite p n o
            (ts.flatMap (fun t => leBytes 128 t.data.toNat)) false
          (if c = Codes.ok then s.collFlags p n o ts else s).respond rx 5 c
        else s.respond rx 5 Codes.refused))

def execColl (rx : Rx) (addr : W64) (mode contrib : Byte) (entry : W16) (tokens : List PTok) (s : State) : Outcome :=
  .next (coll rx addr mode contrib entry tokens s)

/-! RESP and CPL (R332, R348, R372) -/

/-- The answer to a row that an engine sent to another device. Rows outside a window there are rows the engine may not
touch (R184); another code than OK ends the descriptor (log entry 69). -/
def State.rowAnswered (s : State) (p : Nat) (r : RowReq) (code : Code) : State :=
  if code = Codes.ok then s.rowCopied p r r.spoiled
  else
    let s := match (s.plat p).ownerOf r with
      | some a => if code = Codes.winAddr || code = Codes.refused then s.dmaAddr p a else s.dmaFail p a
      | none => s
    s.rowFinished p r false

/-- The answer to a request. -/
def State.answered (s : State) (q : Req) (code : Code) : State :=
  match q.kind with
  | .stream e =>
    if code = Codes.ok then
      (match s.cfg.plan.streams[e]? with
       | some x => if x.doneInc = 0 then s else s.bmkAdd x.doneBm (BitVec.ofNat 32 x.doneInc)
       | none => s)
    else { s with lxg := { s.lxg with faultLoc := mkWord 64 [(0, 16, code.toNat), (16, 14, e), (30, 1, 1)] } }
  | .dmaRow p id =>
    (match (s.plat p).reqs.find? (fun r => r.id == id) with
     | some r => s.rowAnswered p r code
     | none => s)
  | .gather => if code = Codes.ok then s else { s with adj := { s.adj with gatherBad := true } }
  | _ => s

/-- A request of a failed attempt has its response: no row of it is outstanding any more (R405). -/
def State.discarded (s : State) (q : Req) : State :=
  match q.kind with
  | .dmaRow p id =>
    (match (s.plat p).reqs.find? (fun r => r.id == id) with
     | some r => s.rowFinished p r false
     | none => s)
  | _ => s

/-- RESP: it completes its request; that of a failed attempt is discarded (R405). -/
def resp (rx : Rx) (code : Code) (answered : Byte) (value : W64) (data : List Byte) (s : State) : State :=
  s.take rx (.resp code answered value data) (fun s rx =>
    match s.lxg.reqs.find? (fun q => q.tag == rx.tag && q.dst == rx.src && q.typ == answered.toNat) with
    | none => s
    | some q =>
      let s := { s with lxg := { s.lxg with reqs := s.lxg.reqs.erase q } }
      if q.failed then s.discarded q else s.answered q code)

def execResp (rx : Rx) (code : Code) (answered : Byte) (value : W64) (data : List Byte) (s : State) : Outcome :=
  .next (resp rx code answered value data s)

/-- CPL. -/
def cplArrive (rx : Rx) (code : Code) (opcode : W16) (value : W64) (s : State) : State :=
  s.take rx (.cpl { status := code, opcode := opcode, slot := 0xFFFF, value := value }) (fun s rx =>
    let d := fld rx.src 0 12
    let s := { s with lxg := { s.lxg with reqs := s.lxg.reqs.filter (fun q =>
      !(q.tag == rx.tag && q.dst == rx.src && q.typ == 8)) } }
    if !rxHost rx && s.cmd.bcast.waitingOn.contains d && opcode == s.cmd.bcast.opcode then
      { s with cmd := { s.cmd with bcast := s.cmd.bcast.count d code } }
    else s)

def execCpl (rx : Rx) (code : Code) (opcode : W16) (value : W64) (s : State) : Outcome :=
  .next (cplArrive rx code opcode value s)

/-! Flooding, the membership table (R339 to R342) -/

/-- A flooded transaction is passed on and delivered here, once; a body that travels in fragments when it is whole. -/
def State.flooded (s : State) (rx : Rx) (body : TBody) (f : State → State) : State :=
  s.arrive rx body (fun s rx =>
    if !s.floodNew rx then s
    else
      let s := s.floodMark rx
      let s := if rx.hops = 0 then s else s.flood (some rx.port.val)
        { src := rx.src, dst := rx.dst, tag := rx.tag, hops := rx.hops.toNat - 1, body := body, frag := rxFragNo rx body }
      if s.whole rx body then f (s.dropParts rx body) else s.keepPart rx body)

/-- The conditions of R341; a table holds at most 4,096 devices (R24). -/
def State.tableGood (s : State) (t : MTable) : Bool :=
  t.entries.length ≤ 4096 && (match s.rosterKey t.masterKeyId 1 with
   | some k => Config.slhVerify true k (tableMessage t) t.signature
   | none => false)
    && (tableEntry t t.master).any (fun e => e.keyId == t.masterKeyId)
    && (match s.lxg.table with | some u => decide (u.epoch.toNat < t.epoch.toNat) | none => decide (0 < t.epoch.toNat))

/-- An accepted table waits for its step in RUNNING, and takes effect at once elsewhere (R342). -/
def State.tableIn (s : State) (t : MTable) : State :=
  if s.img.state == .running then { s with lxg := { s.lxg with pendingTable := some t } } else s.tableEffect t

/-- MEMBER. -/
def member (rx : Rx) (t : MTable) (s : State) : State :=
  s.flooded rx (.member t) (fun s =>
    if !s.tableGood t then { s with lxg := { s.lxg with rejected := satAdd 16 s.lxg.rejected 1 } }
    else s.tableIn t)

def execMember (rx : Rx) (table : MTable) (_sig : Verdict) (s : State) : Outcome := .next (member rx table s)

/-- A device's number in the next table: the one it has, or the lowest that none has; none where all 4,096 are taken (R24;
log entry 93). -/
def numberOf (used : List Nat) (old : Option MTable) (key : List Byte) : Option Nat :=
  match old.bind (fun t => t.entries.find? (fun e => e.keyId == key)) with
  | some e => some e.num
  | none => (List.range 4096).find? (fun n => !used.contains n)

/-- The membership table that the datum master builds from the reports it holds, its own ports among them (R340, R341;
log entry 93). -/
def State.nextTable (s : State) : MTable :=
  let old := s.lxg.table
  let reps := s.lxg.reports.filter (fun r => r.keyId != s.lxg.ownKeyId)
    ++ [{ keyId := s.lxg.ownKeyId, ports := s.portEntries }]
  let kept := reps.filterMap (fun r => (old.bind (fun t => t.entries.find? (fun e => e.keyId == r.keyId))).map (·.num))
  let es := reps.foldl (fun (es : List MemberEntry) r =>
    match numberOf (kept ++ es.map (·.num)) old r.keyId with
    | some n => es ++ [{ num := n, keyId := r.keyId, ports := r.ports }]
    | none => es) []
  let own := ((es.find? (fun e => e.keyId == s.lxg.ownKeyId)).map (·.num)).getD 0
  let t : MTable := {
    epoch := (match old with | some u => u.epoch + 1 | none => 1), master := own, effStep := 0
    bridge := (match old with | some u => if es.any (fun e => e.num == u.bridge) then u.bridge else own | none => own)
    masterKeyId := s.lxg.ownKeyId, entries := es, signature := [] }
  { t with signature := Config.identitySign (tableMessage t) }

/-- This device floods a body of its own, each fragment under the next flood sequence number (R339). -/
def State.floodOwn (s : State) (body : TBody) : State :=
  ({ src := s.ownSrc, dst := 0, tag := 0, body := body : Trans }).cut.foldl (fun s t =>
    let tag := s.lxg.floodTag + 1
    ({ s with lxg := { s.lxg with floodTag := tag } }).flood none { t with tag := tag }) s

/-- The datum master publishes the membership that its reports show (R340). -/
def State.publish (s : State) : State :=
  if s.dtm.role && s.hasIdentity then
    let t := s.nextTable
    (s.floodOwn (.member t)).tableIn t
  else s

/-- LINKSTATE: the datum master keeps the newest report of each device, and publishes the membership. -/
def linkstate (rx : Rx) (keyId : List Byte) (ports : List PortEntry) (s : State) : State :=
  s.flooded rx (.linkstate keyId ports) (fun s =>
    if s.dtm.role then
      State.publish { s with lxg := { s.lxg with
          reports := s.lxg.reports.filter (fun r => r.keyId != keyId) ++ [{ keyId := keyId, ports := ports }] } }
    else s)

def execLinkstate (rx : Rx) (keyId : List Byte) (ports : List PortEntry) (s : State) : Outcome :=
  .next (linkstate rx keyId ports s)

/-! Forwarding and timeouts (R329, R332, R343) -/

/-- Body of a passing transaction, as its type travels. -/
def passingBody (t : Passing) : TBody := .other t.typ t.args t.payload

/-- TRANSACTION_FORWARD. -/
def transactionForward (t : Passing) (s : State) : State :=
  s.arrive t.rx (passingBody t) (fun s rx =>
    if s.forMe rx || (passingBody t).unrouted then s else s.forward rx (passingBody t))

def execTransactionForward (t : Passing) (s : State) : Outcome := .next (transactionForward t s)

/-- The port a transaction of another device waits on. -/
def State.stalled (s : State) (tag : W16) : Option (Nat × Trans) :=
  (List.range 32).findSome? (fun n =>
    ((s.port n).waiting.find? (fun t => t.tag == tag && t.src != s.ownSrc)).map (fun t => (n, t)))

/-- FORWARD_STALL: 1 ms without credit, or without a port in service (R329). -/
def forwardStall (tag : W16) (s : State) : State :=
  match s.stalled tag with
  | some (n, t) =>
    (s.setPort n { s.port n with waiting := (s.port n).waiting.erase t }).raisePort .stat Codes.lxFwdStall n
  | none =>
    match s.lxg.held.find? (fun t => t.tag == tag) with
    | some t =>
      (({ s with lxg := { s.lxg with held := s.lxg.held.erase t } }).unkeep t).raisePort .stat Codes.lxFwdStall (t.inPort.getD 0)
    | none => s

def execForwardStall (tag : W16) (s : State) : Outcome := .next (forwardStall tag s)

/-- LX_TIMEOUT: 10 ms without an answer; a request of a failed attempt raises none. -/
def lxTimeout (tag : W16) (s : State) : State :=
  match s.lxg.reqs.find? (fun q => q.tag == tag && !q.failed) with
  | none => s
  | some q =>
    let s := { s with lxg := { s.lxg with reqs := s.lxg.reqs.erase q } }
    s.raisePort (if q.array then .cont else .stat) Codes.lxTimeout q.port

def execLxTimeout (tag : W16) (s : State) : Outcome := .next (lxTimeout tag s)

/-- RESERVED_TRANSACTION: discarded; a type that is not reserved has its own command. -/
def reservedTransaction (rx : Rx) (typ : Byte) (s : State) : State :=
  if typ = 0 || 0x10 ≤ typ then s.arrive rx (.other typ 0 []) (fun s _ => s) else s

def execReservedTransaction (rx : Rx) (typ : Byte) (s : State) : Outcome := .next (reservedTransaction rx typ s)

/-! Stream entries (R98, R346, R348) -/

def State.streamSt (s : State) (e : Nat) : StreamSt := SMap.get {} s.lxg.streams e

/-- Source address of firing f. -/
def StreamEntry.srcAt (x : StreamEntry) (f : Nat) : Nat :=
  let k : Int := if x.advPeriod = 0 then 0 else (f % x.advPeriod : Nat)
  ((x.src : Int) + 512 * (k * x.srcAdv)).toNat

/-- The entry's next firing would read a WEIGHT region that the running step has yet to adjust (R17; log entry 88). -/
def State.streamHeld (s : State) (e : Nat) (x : StreamEntry) : Bool :=
  s.weightsHeld && (List.range (cdiv x.tokens 4)).any (fun i => s.kindAt (x.srcAt (s.streamSt e).fired + 512 * i) == 1)

/-- Entry e is satisfied, its credit covers it, and what it reads is not held back. -/
def State.streamReady (s : State) (e : Nat) (x : StreamEntry) : Bool :=
  reached (s.bmk x.bm).count (s.streamSt e).thr
    && decide (cdiv x.tokens 4 ≤ ((s.bmk x.cbm).count - SMap.get 0 s.lxg.sent x.cbm).toNat) && !s.streamHeld e x

/-- Tokens of a firing: the rows at its source, poison with each row, last on the final token. -/
def State.streamTokens (s : State) (a k : Nat) : List PTok × State :=
  (List.range (cdiv k 4)).foldl (fun (acc : List PTok × State) i =>
    let n := min 4 (k - 4 * i)
    let (bs, bad, s) := acc.2.spaceRead (.platDma 0) (a + 512 * i) (128 * n)
    (acc.1 ++ (List.range n).map (fun j =>
      { data := BitVec.ofNat 1024 (leNat ((bs.drop (128 * j)).take 128)), last := 4 * i + j + 1 == k, poison := bad }), s))
    ([], s)

/-- STREAM_ENTRY_FIRE. -/
def streamEntryFire (e : Nat) (s : State) : State :=
  match s.cfg.plan.streams[e]? with
  | none => s
  | some x =>
    if !s.inputsOpen || !s.streamReady e x
        || ((s.cfg.plan.streams.take e).zipIdx.any (fun (y, i) => s.streamReady i y)) then s
    else
      let st := s.streamSt e
      let (ts, s) := s.streamTokens (x.srcAt st.fired) x.tokens
      let sent := SMap.set 0 s.lxg.sent x.cbm (SMap.get 0 s.lxg.sent x.cbm + BitVec.ofNat 32 (cdiv x.tokens 4))
      let s := { s with lxg := { s.lxg with
        sent := sent, streams := SMap.set {} s.lxg.streams e { thr := st.thr + x.inc, fired := st.fired + 1 } } }
      let dst := BitVec.ofNat 16 x.dstDev
      let body : TBody := .coll (BitVec.ofNat 64 x.dst) (BitVec.ofNat 8 x.mode) (BitVec.ofNat 8 x.contrib) (BitVec.ofNat 16 e) ts
      match x.spread && x.mode = 1, s.outPorts dst with
      | true, p :: ps =>
        let tag := s.lxg.nextTag
        let n := (p :: ps).getD ((e + st.fired) % (ps.length + 1)) p
        let q : Req := { tag := tag, dst := dst, typ := 5, kind := .stream e, array := true, port := n }
        let s := { s with lxg := { s.lxg with nextTag := tag + 1, reqs := s.lxg.reqs ++ [q] } }
        s.put n
          { src := s.ownSrc, dst := dst, tag := tag, array := true, body := body }
      | _, _ => s.request dst true (.stream e) body

def execStreamEntryFire (e : Fin 16384) (s : State) : Outcome := .next (streamEntryFire e.val s)

end Sys2Proof.Machine
end

