-- ==== Sys2Proof/Machine/Faults.lean ====
section
/-! DEFINITION. The spine, plat firmware, the fault log and the fence map (R399, R400, R413 to R421). -/
namespace Sys2Proof.Machine

/-- The data of an outstanding row request of plat p are poisoned on their way (R399). -/
def State.spoilRow (s : State) (p ix : Nat) : State :=
  let x := s.plat p
  match x.reqs[ix]? with
  | none => s
  | some r => s.setPlat p { x with reqs := x.reqs.map (fun q => if q.id == r.id then { q with spoiled := true } else q) }

/-- SPINE_TRANSFER (R399): a transfer's own effect is that of the command which moves its data. Damaged data of a row
request arrive poisoned; where no row is named they are those of the next access to an MU over the spine. A transfer whose header fails is discarded, and
the fatal stop ends all that waits for it (log entry 97). -/
def spineTransfer (d : SpineDamage) (header : W64) (s : State) : State :=
  match d with
  | .none => s
  | .data row => (match row with | some (p, ix) => s.spoilRow p.val ix | none => { s with flt := { s.flt with spineBad := true } }).raise .cont Codes.spineParity 0 0 header
  | .header => s.raise .fatal Codes.spineHeader 0 0 header

def execSpineTransfer (damage : SpineDamage) (header : W64) (s : State) : Outcome :=
  .next (s.whenAwake (spineTransfer damage header))

/-- FIRMWARE_FAULT: the firmware of plat p has failed (R400). -/
def firmwareFault (p : Nat) (s : State) : State :=
  (s.setPlat p { s.plat p with fwHalted := true }).raise .fatal Codes.firmwareFault 4 p (s.plat p).dmaFaultLoc

def execWatchdogExpiry (p : Fin 4) (s : State) : Outcome := .next (s.whenAwake (firmwareFault p.val))
def execFirmwareException (p : Fin 4) (s : State) : Outcome := .next (s.whenAwake (firmwareFault p.val))

/-- A SECDED error in a firmware memory of plat p. -/
def firmwareMemoryError (p : Nat) (kind : EccKind) (s : State) : State :=
  match kind with
  | .clean => s
  | .ce => s.raise .corr Codes.fwCorrected 4 p (s.plat p).dmaFaultLoc
  | .ue => firmwareFault p s

def execFirmwareMemoryError (p : Fin 4) (kind : EccKind) (s : State) : Outcome :=
  .next (s.whenAwake (firmwareMemoryError p.val kind))

/-! The log (R413 to R416) -/

/-- Bytes 0x00 to 0x37 of a record (R413). -/
def FaultRec.body (r : FaultRec) : List Byte :=
  leBytes 8 r.seq.toNat ++ leBytes 8 r.time.toNat ++ leBytes 6 r.step.toNat ++ leBytes 2 r.code.toNat
    ++ leBytes 1 r.cls.num ++ leBytes 1 r.srcKind ++ leBytes 2 r.srcInst ++ leBytes 2 r.count
    ++ leBytes 1 (b2n r.first + 2 * b2n r.running + 4 * b2n r.merged) ++ leBytes 1 r.imgState
    ++ leBytes 8 r.detail.toNat ++ leBytes 16 0

/-- The 64 bytes of a record. -/
def FaultRec.bytes (r : FaultRec) : List Byte :=
  r.body ++ leBytes 4 (crc32 r.body).toNat ++ leBytes 4 0

/-- FLT_LOG_DATA: the record selected (R416). -/
def Flt.selected (f : Flt) : List Byte :=
  let zero := List.replicate 64 (0 : Byte)
  if !(f.sel.toNat < f.head.toNat && f.head.toNat ≤ f.sel.toNat + 65536) then zero
  else match f.buffer.find? (fun r => r.seq == f.sel) with
    | some r => r.bytes
    | none => match SMap.get none f.ring (f.sel.toNat % 65536) with
      | some r => if r.seq = f.sel then r.bytes else zero
      | none => zero

/-! The MRAM's stores (R458) -/

/-- The commit or fence store at the front of the queue runs: the records of before its request are stored. -/
def State.storeRuns (s : State) (fence : Bool) : Bool :=
  match s.nvm.storeQ with
  | r :: _ => r.fence == fence && s.flt.buffer.all (fun x => decide (r.head.toNat ≤ x.seq.toNat))
  | [] => false

/-- Slot 1 is written: slot 0 is the one in use (R471). -/
def Nvm.toSlot1 (n : Nvm) : Bool := n.inUse == 0

/-- The slot being written holds the generation given, or none that is valid. -/
def Nvm.putSlot (n : Nvm) (g : Option Gen) : Nvm := if n.toSlot1 then { n with gen1 := g } else { n with gen0 := g }

/-- A commit whose turn has come invalidates the slot it writes first (R471). -/
def State.storeBegun (s : State) : State := if s.storeRuns false then { s with nvm := s.nvm.putSlot none } else s

/-- A commit or a fence store is requested, behind those before it. -/
def State.askStore (s : State) (fence : Bool) : State :=
  State.storeBegun { s with nvm := { s.nvm with storeQ := s.nvm.storeQ ++ [{ fence := fence, head := s.flt.head }] } }

/-- The store at the front is over; the next begins. -/
def State.storeOver (s : State) : State :=
  State.storeBegun { s with nvm := { s.nvm with storeQ := s.nvm.storeQ.drop 1 } }

/-- FAULT_RECORD_STORE: the oldest buffered record reaches the ring, after the stores requested before it (R415, R458). -/
def faultRecordStore (s : State) : State :=
  match s.flt.buffer with
  | [] => s
  | r :: t =>
    if s.nvm.storeQ.any (fun q => decide (q.head.toNat ≤ r.seq.toNat)) then s
    else State.storeBegun { s with flt := { s.flt with
      buffer := t, ring := SMap.set none s.flt.ring (r.seq.toNat % 65536) (some r) } }

def execFaultRecordStore (s : State) : Outcome := .next (faultRecordStore s)

/-! Fence stores (R419, R420) -/

/-- Bits of the map that R419 assigns. -/
def fenceBitOk (b : Nat) : Bool := b < 4100 || (4112 ≤ b && b < 4160)

def State.fenceResult (s : State) (c : Code) : State :=
  { s with flt := { s.flt with fence := { s.flt.fence with result := c } } }

/-- A write of FLT_FENCE_CMD; none: a reserved op. -/
def State.fenceStart (s : State) (op : Option FenceOp) : State :=
  match op with
  | none => s.fenceResult Codes.refused
  | some o =>
    let bad := match o with
      | .add b => !fenceBitOk b
      | .remove b => !fenceBitOk b
      | .confirm => false
    if s.flt.fence.busy.isSome || bad then s.fenceResult Codes.refused
    else State.askStore { s with flt := { s.flt with fence := { s.flt.fence with busy := some o } } } true

/-- A fence operation asked for by a path of its own: nothing before control space is open (R479). -/
def fenceOp (o : FenceOp) (s : State) : State := s.whenAwake (·.fenceStart (some o))

def execFenceAdd (bit : BitVec 13) (s : State) : Outcome := .next (fenceOp (.add bit.toNat) s)
def execFenceRemove (bit : BitVec 13) (s : State) : Outcome := .next (fenceOp (.remove bit.toNat) s)
def execFenceConfirm (s : State) : Outcome := .next (fenceOp .confirm s)

/-- The map a store writes. -/
def Fence.next (f : Fence) (o : FenceOp) : FenceCopy :=
  let m := f.inUse
  { seq := m.seq + 1
    bitmap := match o with
      | .add b => setBit m.bitmap b
      | .remove b => clrBit m.bitmap b
      | .confirm => m.bitmap }

/-- The store goes to the copy that does not hold the map in use, to copy 0 while lost is set. -/
def Fence.toCopy1 (f : Fence) : Bool :=
  !f.lost && match f.copy0, f.copy1 with
  | some a, some b => decide (b.seq.toNat ≤ a.seq.toNat)
  | some _, none => true
  | _, _ => false

/-- A finished store (R420, R421). -/
def Fence.stored (f : Fence) (o : FenceOp) : Fence :=
  let m := f.next o
  let g := if f.toCopy1 then { f with copy1 := some m } else { f with copy0 := some m }
  { g with busy := none, result := Codes.ok, lost := f.lost && o != .confirm }

/-- An enabled port that no fence names is DOWN, and trains (R321). -/
def State.openPort (s : State) (n : Nat) : State :=
  let p := s.port n
  if p.state == .off && p.en && !s.fenced (4128 + n) then s.retrainPort n { p with state := .down } else s

/-- FENCE_STORE_DONE of the store whose turn it is: `ok`, the read-back check of R458. -/
def fenceStoreDone (ok : Bool) (s : State) : State :=
  if !s.storeRuns true then s else
  match s.flt.fence.busy with
  | none => s
  | some o =>
    let s := s.storeOver
    if !ok then
      let f := s.flt.fence
      let f := if f.toCopy1 then { f with copy1 := none } else { f with copy0 := none }
      let s := { s with flt := { s.flt with fence := { f with busy := none, result := Codes.nvmWriteFail } } }
      s.raise .stat Codes.nvmWriteFail 9 0 s.nvm.status
    else
      let s := { s with flt := { s.flt with fence := s.flt.fence.stored o } }
      match o with
      | .add b => if 4128 ≤ b then s.closeFenced else s
      | .remove b => if 4128 ≤ b && b < 4160 then s.openPort (b - 4128) else s
      | .confirm => s

def execFenceStoreDone (ok : Bool) (s : State) : Outcome := .next (fenceStoreDone ok s)

end Sys2Proof.Machine
end

