-- ==== Sys2Proof/Machine/Security.lean ====
section
/-! DEFINITION. The security block: services, keys, roster, debug, zeroization, entropy and JTAG (R424 to R456). -/
namespace Sys2Proof.Machine

/-! Status, error state and records -/

/-- SEC_STATUS (R456). -/
def Sec.status (x : Sec) : W64 :=
  mkWord 64 [(0, 3, x.state.num), (3, 1, b2n x.zeroing.isSome), (4, 1, b2n x.co.isSome),
    (5, 12, match x.co with | some e => e.toNat | none => 0), (17, 1, b2n x.fsfSlot), (18, 1, b2n x.pcfSlot),
    (19, 1, b2n (x.zeroMark != 0)), (56, 8, x.test)]

/-- Raise a code of the module: its SEC_FAULT bit, and a record whose detail is SEC_STATUS (R455, R456). -/
def State.secRaise (s : State) (c : FClass) (code : Code) (bit : Nat) : State :=
  let s := { s with sec := { s.sec with fault := setBit s.sec.fault bit } }
  s.raise c code 9 0 s.sec.status

/-- Every link drops to DOWN (R445). -/
def State.dropLinks (s : State) : State :=
  (List.range 32).foldl (fun s n => if (s.port n).up then s.dropLink n else s) s

/-- Every key and announcement of a link, and the nonce and the CO session, are gone (R445, R453). -/
def Port.unkeyed (p : Port) : Port :=
  { p with keys := {}, oldKeys := none, nextKeys := none, kem := {}, myAnnounce := none, peerAnnounce := none, rekey := false }

/-- The error state (R445): every volatile parameter of R429 is zeroized, and every link drops. -/
def State.enterError (s : State) : State :=
  let s := s.dropLinks
  { s with
    sec := { s.sec with state := .error, keys := {}, nonce := none, co := none }
    drbg := { seedings := s.drbg.seedings }
    ports := SMap.mapVals {} (fun _ p => p.unkeyed) s.ports }

/-- Test n of R443 failed; 0 names no test (R445). -/
def State.secError (s : State) (n : Nat) : State :=
  ({ s with sec := { s.sec with test := n } }).enterError.secRaise .fatal Codes.secSelftest 0

/-- The keys that the PUF gives: the root key, those derived from it, and the identity key they unwrap (R429, R430). -/
def State.pufKeys (s : State) : SecKeys :=
  if s.sec.puf then
    { root := Config.pufRoot, wrap := sub (Config.shake256 (Config.wrapLabel ++ Config.pufRoot) 32) 0 32
      integrity := sub (Config.shake256 (Config.integrityLabel ++ Config.pufRoot) 32) 0 32, identity := Config.identitySecret }
  else {}

/-! Firmware images (R446) -/

/-- A firmware image as its header gives it. -/
structure FwHeader where
  kind : Nat
  fwKey : Nat
  svn : W32
  key : List Byte
  digest : List Byte
  sig : List Byte
  deriving DecidableEq, Repr

def fwSigBytes : Nat := 29824

/-- Header, body and signature block; none where the layout is broken. -/
def fwParse (bs : List Byte) : Option FwHeader :=
  let h := sub bs 0 128
  let len := leAt h 0x10 8
  let g := bs.drop (128 + len)
  if sub h 0 8 == ascii "BLKFWIM1" && (byteAt h 8 == 1 || byteAt h 8 == 2) && byteAt h 9 < 2 && leAt h 0x0A 2 == 1
      && allZero (sub h 0x18 0x28) && bs.length == 128 + len + fwSigBytes && sub g 0 8 == ascii "BLKFWSG1"
      && allZero (sub g 8 0x18) && allZero (g.drop 0x7480) then
    some { kind := byteAt h 8, fwKey := byteAt h 9, svn := BitVec.ofNat 32 (leAt h 0x0C 4), key := sub h 0x40 64
           sig := sub g 0x20 (Config.sigLen false)
           digest := Config.shake256 (ascii "BLK-FW-BODY" ++ bs.take (128 + len)) 64 }
  else none

/-- Anti-rollback counter of a firmware kind (R448). -/
def Sec.fwCounter (x : Sec) (kind : Nat) : W32 := if kind = 1 then x.fsfSvn else x.pcfSvn

/-- Neither the key number nor the security version is too low (R446). -/
def Sec.fwFresh (x : Sec) (kind fwKey : Nat) (svn : W32) : Bool :=
  decide (x.fwkeyMin.toNat ≤ fwKey) && decide ((x.fwCounter kind).toNat ≤ svn.toNat)

/-- The image's key is the one the ROM digests, and it verifies the signature (R446). -/
def FwHeader.signed (h : FwHeader) : Bool :=
  Config.shake256 h.key 64 == Config.fwKeyDigest h.fwKey
    && Config.slhVerify false h.key (ascii "BLK-FW-SIG1" ++ h.digest) h.sig

/-- A stored image verifies under R446; that of manufacture does (log entry 53). -/
def FwInfo.verifies (f : FwInfo) : Bool :=
  match f.image with
  | none => true
  | some bs => (fwParse bs).any FwHeader.signed

/-- What the module keeps of an image that verified. -/
def FwHeader.info (h : FwHeader) (bs : List Byte) : FwInfo :=
  { svn := h.svn, fwKey := h.fwKey, digest := h.digest, image := some bs }

/-- Largest image of a kind: its MRAM slot (R457). -/
def fwSlotBytes (kind : Nat) : Nat := if kind = 1 then 0x100000 else 0x200000

/-! What a service asks (R433 to R438) -/

def coProofLen : Nat := 29792
def tokenLen : Nat := 0x74E0
def reportLen : Nat := 0xC500

/-- Input length of a service that states one (R438). -/
def secInLen (k : Nat) : Option Nat :=
  match k with
  | 0x02 => some coProofLen | 0x05 => some 32 | 0x07 => some 65 | 0x08 => some 1 | 0x09 => some 8 | 0x0C => some tokenLen
  | _ => none

/-- The certificate chain that GET_CERT returns (R442). -/
def State.chain (s : State) : List Byte := if s.sec.chain then Config.certChain else []

/-- Output length of a service. -/
def State.secOutLen (s : State) (k arg : Nat) : Nat :=
  match k with
  | 0x01 => 32 | 0x05 => reportLen | 0x06 => s.chain.length | 0x0F => arg
  | _ => 0

/-- Byte k of SEC_BUF. -/
def Sec.bufByte (x : Sec) (k : Nat) : Nat := (Memory.byte x.buf k).toNat

/-- Slot state (R432). -/
def Sec.slot (x : Sec) (k : Nat) : KeySlot := SMap.get {} x.slots k

/-- The service needs a CO session (R436, R438). -/
def State.secNeedsCo (s : State) (k : Nat) : Bool :=
  if k = 0x07 then !(s.sec.bufByte 0 = 0 && (s.sec.slot 0).st = 0)
  else k = 0x03 || (0x08 ≤ k && k ≤ 0x0C) || k = 0x0E

/-- The image states that serve a service (R438, R453). -/
def State.secStateOk (s : State) (k arg : Nat) : Bool :=
  let st := s.img.state
  let quiet := st == .held || st == .ready
  match k with
  | 0x04 => quiet && !s.monBusy
  | 0x07 => quiet
  | 0x08 => quiet
  | 0x09 => quiet
  | 0x0A => st == .held
  | 0x0B => st == .held
  | 0x0C => quiet
  | 0x0E => if arg = 1 then quiet else st == .held
  | _ => st != .loading

/-- Services that Idle does not serve (R438). -/
def secNotIdle (k arg : Nat) : Bool := k = 0x0A || k = 0x0B || (k = 0x0E && 2 ≤ arg)

/-- The code that turns a service away before it runs, in the order of log entry 47. -/
def State.secCheck (s : State) (src : W16) (k inLen outOff arg : Nat) : Option Code :=
  if k = 0 || 0x0F < k then some Codes.refused
  else if !(s.sec.state == .operational || (s.sec.state == .noIdentity && k = 0x04)) then some Codes.refused
  else if s.pwr.state == .idle && secNotIdle k arg then some Codes.notReady
  else if !s.secStateOk k arg then some Codes.refused
  else if s.secNeedsCo k && s.sec.co != some src then some Codes.secRole
  else if 65536 < inLen || 65536 < outOff + s.secOutLen k arg || (secInLen k).any (· != inLen) then some Codes.secFormat
  else none

/-! Zeroization (R453, R454) -/

/-- Debug as it relocks; a firmware that the debugger halted runs on (R452; log entry 74). -/
def Sec.lock (x : Sec) : Sec := { x with fwDebug := false, scan := false, expiry := 0, halted := 0 }

/-- Scope SESSION. Every SECURE port drops; the DRBG is reinstantiated and the keys are derived again. -/
def State.zeroSession (s : State) : State :=
  let s := (List.range 32).foldl (fun s n => if (s.port n).state == .secure then s.dropLink n else s) s
  { s with
    ports := SMap.mapVals {} (fun _ p => p.unkeyed) s.ports
    sec := { s.sec.lock with nonce := none, co := none, keys := s.pufKeys } }.drbgStart

/-- Channel of a DRAM byte key and of a burst key. -/
def Dram.zeroUp (d : Dram) : Dram :=
  let up := fun c => (SMap.get {} d.chans c).state == .up
  { d with
    mem := d.mem.filter (fun e => !up (e.1 / 2 ^ 40))
    poison := d.poison.filter (fun e => !up (e.1 / 2 ^ 33))
    err := d.err.filter (fun e => !up (e.1 / 2 ^ 33)) }

/-- The counter record in use: the valid copy with the higher seq (R460). -/
def Nvm.counts (n : Nvm) : Option Counts :=
  match n.cnt0, n.cnt1 with
  | some a, some b => if a.seq.toNat < b.seq.toNat then some b else some a
  | some a, none => some a
  | none, some b => some b
  | none, none => none

/-- A counter record is stored over the copy that is not in use (R460). -/
def Nvm.storeCounts (n : Nvm) (f : Counts → Counts) (fresh : Counts) : Nvm :=
  match n.counts with
  | none => { n with cnt0 := some fresh }
  | some c =>
    let c' := { f c with seq := c.seq + 1 }
    if n.cnt0 == some c then { n with cnt1 := some c' } else { n with cnt0 := some c' }

/-- Scope DATA: fault_floor is stored before the ring is erased (R460). -/
def State.zeroData (s : State) : State :=
  let h := s.flt.head
  { s with
    nvm := s.nvm.storeCounts (fun c => { c with floor := h }) { seq := 1, boots := 1, commits := 0, floor := h }
    mus := SMap.mapVals {} (fun _ m => { m with sram := [], poison := [], tags := [], ecc := [], tagEcc := [] }) s.mus
    cus := SMap.mapVals {} (fun _ c => { c with tiles := [], engine := none, writeback := [], sets := [], readout := none }) s.cus
    dram := s.dram.zeroUp
    adj := { s.adj with factors := [] }
    flt := { s.flt with ring := [] }
    mon := { s.mon with seed0 := 0, seed1 := 0 } }

/-- Scope DEVICE: the helper data, both copies of the records, and the keys that nothing derives any more. -/
def State.zeroDevice (s : State) : State :=
  { s with
    sec := { s.sec with
      puf := false, chain := false, slots := [], roster := none, keys := {}
      mram := { s.sec.mram with slots := {}, roster := {}, chain := {} } }
    lxg := { s.lxg with ownKeyId := List.replicate 64 0 } }

/-- The whole scope: each includes those above it. -/
def State.zeroScope (s : State) (scope : Nat) : State :=
  let s := s.zeroSession
  let s := if 2 ≤ scope then s.zeroData else s
  if 3 ≤ scope then s.zeroDevice else s

/-- End of a scope: its mark is cleared, and SEC_ZEROIZED is raised. Only a reset leaves the error state (R445). -/
def State.zeroEnd (s : State) (scope : Nat) : State :=
  let s := { s with sec := { s.sec with
    zeroing := none, zeroMark := 0, state := if 3 ≤ scope && s.sec.state != SecState.error then .noIdentity else s.sec.state } }
  s.secRaise .stat Codes.secZeroized 4

/-! Services -/

/-- SEC_RESULT (R437). -/
def State.secResult (s : State) (code : Code) (k len : Nat) : State :=
  { s with sec := { s.sec with resCode := code, resService := k, resLen := len } }

/-- The message of an officer's proof (R434). -/
def coMessage (nonce keyId : List Byte) (src : W16) : List Byte :=
  ascii "BLK-SEC-CO1" ++ nonce ++ sub keyId 0 64 ++ leBytes 2 src.toNat

/-- CO_AUTH (R434): the officer's proof over the nonce outstanding. -/
def State.coAuthRun (s : State) (src : W16) : State × Code :=
  let ok := (s.sec.slot 0).st = 1 && (match s.sec.nonce with
    | some n => Config.slhVerify false (s.sec.slot 0).key (coMessage n s.lxg.ownKeyId src) (Memory.read s.sec.buf 0 coProofLen)
    | none => false)
  let s := { s with sec := { s.sec with nonce := none } }
  if ok then ({ s with sec := { s.sec with co := some src } }, Codes.ok)
  else (s.secRaise .stat Codes.secAuth 2, Codes.secAuth)

/-- Bytes 0x000 to 0x23F of the attestation report (R449). -/
def State.reportBody (s : State) (nonce : List Byte) : List Byte :=
  ascii "BLKATTR1" ++ leBytes 2 1 ++ leBytes 1 2 ++ leBytes 1 (b2n s.sec.fwDebug + 2 * b2n s.sec.scan)
    ++ leBytes 2 (s.myNum.getD 0xFFFF) ++ leBytes 1 0x20 ++ leBytes 1 s.img.state.num ++ sub nonce 0 32
    ++ leBytes 8 s.dtm.time.toNat ++ leBytes 6 s.stepIndex.toNat ++ leBytes 2 0 ++ sub s.lxg.ownKeyId 0 64
    ++ sub s.sec.fsf.digest 0 64 ++ sub s.sec.pcf.digest 0 64 ++ sub s.img.cfgId 0 64 ++ sub s.img.fullId 0 64
    ++ leBytes 4 s.sec.fsfSvn.toNat ++ leBytes 4 s.sec.pcfSvn.toNat ++ leBytes 4 s.sec.imgSvn.toNat
    ++ leBytes 4 s.sec.fwkeyMin.toNat ++ leBytes 8 (match s.sec.roster with | some r => r.seq.toNat | none => 0)
    ++ leBytes 8 s.flt.fence.inUse.seq.toNat ++ leBytes 8 (match s.nvm.genInUse with | some g => g.seq.toNat | none => 0)
    ++ leBytes 24 0 ++ sub (Config.shake256 s.chain 64) 0 64 ++ leBytes 64 0

/-- The report with its signature. -/
def State.report (s : State) (nonce : List Byte) : List Byte :=
  let b := s.reportBody nonce
  b ++ sub (Config.identitySign (ascii "BLK-ATT-SIG1" ++ b)) 0 49856

/-- The key slots change, and are stored (R430). -/
def Sec.putSlots (x : Sec) (v : SMap KeySlot) : Sec :=
  { x with slots := v, mram := { x.mram with slots := x.mram.slots.store v } }

/-- The anti-rollback counters, and a change of them with its store (R430, R448). -/
def Sec.svns (x : Sec) : Svns := { fsf := x.fsfSvn, pcf := x.pcfSvn, img := x.imgSvn, fwkeyMin := x.fwkeyMin }
def Sec.putSvns (x : Sec) (v : Svns) : Sec :=
  { x with fsfSvn := v.fsf, pcfSvn := v.pcf, imgSvn := v.img, fwkeyMin := v.fwkeyMin
           mram := { x.mram with svns := x.mram.svns.store v } }

/-- KEY_ENROLL: an EMPTY slot, or slot 0 (R432, R438). -/
def Sec.enroll (x : Sec) : Sec × Code :=
  let k := x.bufByte 0
  if 12 < k || !((x.slot k).st = 0 || k = 0) then (x, Codes.secSlot)
  else (x.putSlots (SMap.set {} x.slots k { st := 1, key := Memory.read x.buf 1 64 }), Codes.ok)

/-- KEY_REVOKE: an ENROLLED slot of 1 to 12. -/
def Sec.revoke (x : Sec) : Sec × Code :=
  let k := x.bufByte 0
  if k = 0 || 12 < k || (x.slot k).st ≠ 1 then (x, Codes.secSlot)
  else (x.putSlots (SMap.set {} x.slots k { x.slot k with st := 2 }), Codes.ok)

/-- Condition of R448 on counter i and its new value. -/
def Sec.svnOk (x : Sec) (loaded : Bool) (i : Nat) (v : W32) : Bool :=
  match i with
  | 0 => decide (x.fsfSvn.toNat < v.toNat) && decide (v.toNat ≤ x.fsf.svn.toNat)
  | 1 => decide (x.pcfSvn.toNat < v.toNat) && decide (v.toNat ≤ x.pcf.svn.toNat)
  | 2 => decide (x.imgSvn.toNat < v.toNat) && loaded && decide (v.toNat ≤ x.loadedSvn.toNat)
  | 3 => decide (x.fwkeyMin.toNat < v.toNat) && v == 1 && x.fsf.fwKey = 1 && x.pcf.fwKey = 1
  | _ => false

/-- SVN_ADVANCE. -/
def Sec.advance (x : Sec) (loaded : Bool) : Sec × Code :=
  let i := leNat (Memory.read x.buf 0 4)
  let v : W32 := BitVec.ofNat 32 (leNat (Memory.read x.buf 4 4))
  if x.svnOk loaded i v then
    (match i with
     | 0 => (x.putSvns { x.svns with fsf := v }, Codes.ok)
     | 1 => (x.putSvns { x.svns with pcf := v }, Codes.ok)
     | 2 => (x.putSvns { x.svns with img := v }, Codes.ok)
     | _ => (x.putSvns { x.svns with fwkeyMin := v }, Codes.ok))
  else (x, Codes.secSvn)

/-- A roster as the staging range holds it (R440), with the slot that signs it, the message signed and the signature;
none where its layout is broken. -/
def rosterParse (bs : List Byte) : Option (Roster × Nat × List Byte × List Byte) :=
  let count := leAt bs 0x10 4
  let es := (chunksOf 80 ((bs.drop 128).take (80 * count)))
  let g := bs.drop (128 + 80 * count)
  let entry := fun (e : List Byte) =>
    ({ key := sub e 0 64, kind := byteAt e 0x40, serial := BitVec.ofNat 64 (leAt e 0x48 8) } : RosterEntry)
  let ids := es.map (fun e => keyIdOf (sub e 0 64))
  if sub bs 0 8 == ascii "BLKROST1" && 1 ≤ count && count ≤ 8192 && 8 ≤ byteAt bs 0x14 && byteAt bs 0x14 ≤ 11
      && allZero (sub bs 0x15 0x6B) && bs.length == 128 + 80 * count + fwSigBytes
      && es.all (fun e => (byteAt e 0x40 == 1 || byteAt e 0x40 == 2) && allZero (sub e 0x41 7))
      && (ids.zip (ids.drop 1)).all (fun p => bytesLt p.1 p.2)
      && sub g 0 8 == ascii "BLKRSIG1" && allZero (sub g 8 0x18) && allZero (g.drop 0x7480) then
    some ({ seq := BitVec.ofNat 64 (leAt bs 8 8), entries := es.map entry }, byteAt bs 0x14,
      ascii "BLK-ROSTER1" ++ Config.shake256 (bs.take (128 + 80 * count)) 64, sub g 0x20 (Config.sigLen false))
  else none

/-- SECURE ports whose peer the roster does not list with its kind become ISOLATED (R440). -/
def State.rosterIsolate (s : State) : State :=
  (List.range 32).foldl (fun s n =>
    let p := s.port n
    if p.state == .secure && (s.rosterKey p.peerKey p.peerKind).isNone then s.isolate n none else s) s

/-- Every byte of the staging range, and whether one is poisoned. -/
def State.stagedAll (s : State) : List Byte × Bool × State :=
  s.dramRead .load s.img.stageBase.toNat (min s.img.stageLen.toNat (2 ^ 30))

/-- ROSTER_SET (R440). -/
def State.rosterRun (s : State) : State × Code :=
  let (bs, bad, s) := s.stagedAll
  match rosterParse bs with
  | none => (s, Codes.secFormat)
  | some (r, slot, msg, sig) =>
    if s.sec.roster.any (fun q => decide (r.seq.toNat ≤ q.seq.toNat)) then (s, Codes.secFormat)
    else if bad || (s.sec.slot slot).st ≠ 1 || !Config.slhVerify false (s.sec.slot slot).key msg sig then (s.secRaise .stat Codes.secAuth 2, Codes.secAuth)
    else (({ s with sec := { s.sec with
        roster := some r, mram := { s.sec.mram with roster := s.sec.mram.roster.store (some r) } } }).rosterIsolate, Codes.ok)

/-- FW_UPDATE (R447): the slot of the image's kind that the last start-up did not use. -/
def State.fwUpdateRun (s : State) : State × Code :=
  let (bs, bad, s) := s.stagedAll
  match fwParse bs with
  | some h =>
    if h.signed && !bad && s.sec.fwFresh h.kind h.fwKey h.svn && decide (bs.length ≤ fwSlotBytes h.kind) then
      let slot := 2 * (h.kind - 1) + (if (if h.kind = 1 then s.sec.fsfSlot else s.sec.pcfSlot) then 0 else 1)
      ({ s with sec := { s.sec with
          fwSlots := SMap.set {} s.sec.fwSlots slot (h.info bs) } }, Codes.ok)
    else (s.secRaise .stat Codes.secAuth 2, Codes.secAuth)
  | none => (s.secRaise .stat Codes.secAuth 2, Codes.secAuth)

/-- DEBUG_UNLOCK (R451, R452): the nonce is spent; scope bit 1 performs SESSION zeroization first. A token of no scope unlocks
nothing, so no expiry stands (R456). -/
def State.debugUnlockRun (s : State) : State × Code :=
  let t := Memory.read s.sec.buf 0 0x80
  let scope := byteAt t 8
  let expiry := leAt t 0x10 8
  let ok := (s.sec.slot 12).st = 1 && sub t 0 8 == ascii "BLKDBGT1" && scope < 4 && allZero (sub t 9 7)
    && allZero (sub t 0x78 8) && s.sec.nonce == some (sub t 0x18 32) && sub t 0x38 64 == s.lxg.ownKeyId
    && decide (s.dtm.time.toNat < expiry)
    && Config.slhVerify false (s.sec.slot 12).key (ascii "BLK-DBG-TOK1" ++ t)
      (Memory.read s.sec.buf 0x80 (Config.sigLen false))
  let s := { s with sec := { s.sec with nonce := none } }
  if !ok then (s.secRaise .stat Codes.secAuth 2, Codes.secAuth)
  else if s.monBusy || (scope.testBit 1 && s.img.state != .held) then (s, Codes.refused)
  else
    let s := if scope.testBit 1 then s.zeroSession.zeroEnd 1 else s
    ({ s with sec := { s.sec with
        fwDebug := scope.testBit 0, scan := scope.testBit 1, halted := if scope.testBit 0 then s.sec.halted else 0
        expiry := if scope = 0 then 0 else BitVec.ofNat 64 expiry } }, Codes.ok)

/-- Debug relocks. -/
def State.debugRelock (s : State) : State := { s with sec := s.sec.lock }

/-- ZEROIZE of a scope starts (R453, R454): scopes 2 and 3 mark it pending first. -/
def State.zeroizeStart (s : State) (id scope : Nat) : State :=
  let s := { s with sec := { s.sec with zeroing := some (scope, id), zeroMark := if 2 ≤ scope then scope else s.sec.zeroMark } }
  s.zeroScope scope

/-- A service that passed its checks: its code and output, or none while it runs on. -/
def State.secRun (s : State) (id : Nat) (src : W16) (k arg : Nat) (x : SecSeen) : State × Option (Code × List Byte) :=
  match k with
  | 0x01 =>
    let (n, s) := s.drbgDraw 32
    ({ s with sec := { s.sec with nonce := some (sub n 0 32) } }, some (Codes.ok, sub n 0 32))
  | 0x02 => let (s, c) := s.coAuthRun src; (s, some (c, []))
  | 0x03 => ({ s with sec := { s.sec with co := none } }, some (Codes.ok, []))
  | 0x04 => if x.failTest = 0 then (s, some (Codes.ok, [])) else (s.secError x.failTest.toNat, some (Codes.secSelftest, []))
  | 0x05 => (s, some (Codes.ok, s.report (Memory.read s.sec.buf 0 32)))
  | 0x06 => (s, some (Codes.ok, s.chain))
  | 0x07 => let (y, c) := s.sec.enroll; ({ s with sec := y }, some (c, []))
  | 0x08 => let (y, c) := s.sec.revoke; ({ s with sec := y }, some (c, []))
  | 0x09 => let (y, c) := s.sec.advance s.img.loaded; ({ s with sec := y }, some (c, []))
  | 0x0A => let (s, c) := s.rosterRun; (s, some (c, []))
  | 0x0B => let (s, c) := s.fwUpdateRun; (s, some (c, []))
  | 0x0C => let (s, c) := s.debugUnlockRun; (s, some (c, []))
  | 0x0D => (s.debugRelock, some (Codes.ok, []))
  | 0x0E =>
    if 1 ≤ arg && arg ≤ 3 then (s.zeroizeStart id arg, none) else (s, some (Codes.secFormat, []))
  | _ =>
    if 1 ≤ arg && arg ≤ 4096 then
      (let (bs, s) := s.drbgDraw arg
       (s, some (Codes.ok, sub bs 0 arg)))
    else (s, some (Codes.secFormat, []))

/-- Requester of a SEC command: the endpoint its CMD or its CMD_SUBMIT came from. -/
def endpointOf : Arrival → W16
  | .trans rx => rx.src
  | .submit src => src
  | .own => 0
  | .firmware => 0

/-- Effect of a SEC command (R437): output to SEC_BUF, SEC_RESULT, completion. -/
def secEff (w : CmdWord) (x : SecSeen) (id : Nat) (s : State) : State × Option Reply :=
  let a := match s.heldOrder id with | some o => o.arrival | none => .firmware
  let k := w.payByte 0
  let arg := (w.pay32 3).toNat
  let out := (w.pay32 2).toNat
  match s.secCheck (endpointOf a) k (w.pay32 1).toNat out arg with
  | some c => (s.secResult c k 0, some { code := c })
  | none =>
    match s.secRun id (endpointOf a) k arg x with
    | (s, none) => (s, none)
    | (s, some (c, bs)) =>
      let s := { s with sec := { s.sec with buf := Memory.write s.sec.buf out bs } }
      (s.secResult c k bs.length, some { code := c })

/-- Size of a SEC command (R437). -/
def State.secSize (s : State) (w : CmdWord) : Nat :=
  if w.payByte 0 = 0x0A || w.payByte 0 = 0x0B then s.img.stageLen.toNat else (w.pay32 1).toNat

/-- A SEC command of service k arrives. -/
def secService (k : Nat) (o : Order) (x : SecSeen) (s : State) : State :=
  let o := rowOrder o 0 0 8 k
  let w : CmdWord := { opcode := opSec, desc := o.desc }
  s.cmdArrive opSec o (s.secSize w) (secEff w x) x

def execNonce (o : Order) (s : State) : Outcome := .next (secService 0x01 o {} s)
def execCoAuth (o : Order) (_sig : Verdict) (s : State) : Outcome := .next (secService 0x02 o {} s)
def execCoLogout (o : Order) (s : State) : Outcome := .next (secService 0x03 o {} s)
def execSelfTest (o : Order) (failTest : Byte) (s : State) : Outcome := .next (secService 0x04 o { failTest := failTest } s)
def execAttest (o : Order) (s : State) : Outcome := .next (secService 0x05 o {} s)
def execGetCert (o : Order) (s : State) : Outcome := .next (secService 0x06 o {} s)
def execKeyEnroll (o : Order) (s : State) : Outcome := .next (secService 0x07 o {} s)
def execKeyRevoke (o : Order) (s : State) : Outcome := .next (secService 0x08 o {} s)
def execSvnAdvance (o : Order) (s : State) : Outcome := .next (secService 0x09 o {} s)
def execRosterSet (o : Order) (_sig : Verdict) (s : State) : Outcome := .next (secService 0x0A o {} s)
def execFwUpdate (o : Order) (_key _sig : Verdict) (s : State) : Outcome := .next (secService 0x0B o {} s)
def execDebugUnlock (o : Order) (_sig : Verdict) (s : State) : Outcome := .next (secService 0x0C o {} s)
def execDebugLock (o : Order) (s : State) : Outcome := .next (secService 0x0D o {} s)
def execRandom (o : Order) (s : State) : Outcome := .next (secService 0x0F o {} s)

/-- ZEROIZE: the row fixes its scope. -/
def zeroize (scope : Nat) (o : Order) (s : State) : State := secService 0x0E (rowOrder o 0 96 32 scope) {} s

def execZeroizeSession (o : Order) (s : State) : Outcome := .next (zeroize 1 o s)
def execZeroizeData (o : Order) (s : State) : Outcome := .next (zeroize 2 o s)
def execZeroizeDevice (o : Order) (s : State) : Outcome := .next (zeroize 3 o s)

/-- ZEROIZATION_COMPLETE. -/
def zeroizationComplete (s : State) : State :=
  match s.sec.zeroing with
  | none => s
  | some (scope, id) => ((s.zeroEnd scope).secResult Codes.ok 0x0E 0).complete id Reply.ok

def execZeroizationComplete (s : State) : Outcome := .next (zeroizationComplete s)

/-! Time-driven events -/

/-- NONCE_EXPIRY. -/
def nonceExpiry (s : State) : State := { s with sec := { s.sec with nonce := none } }
def execNonceExpiry (s : State) : Outcome := .next (nonceExpiry s)

/-- CO_SESSION_TIMEOUT. -/
def coSessionTimeout (s : State) : State := { s with sec := { s.sec with co := none } }
def execCoSessionTimeout (s : State) : Outcome := .next (coSessionTimeout s)

/-- DEBUG_EXPIRY: datum time has reached the token's expiry. -/
def debugExpiry (s : State) : State :=
  if s.debugOpen && s.sec.expiry.toNat ≤ s.dtm.time.toNat then s.debugRelock else s
def execDebugExpiry (s : State) : Outcome := .next (debugExpiry s)

/-- The DRBG is due for a reseed: 2^20 requests, or 24 h (R444). -/
def State.reseedDue (s : State) : Bool :=
  !s.drbg.state.isEmpty && (decide (drbgRequests ≤ s.drbg.since) || decide (drbgTicks ≤ s.since s.drbg.seededAt))

/-- DRBG_RESEED (R444). -/
def drbgReseed (s : State) : State := if s.reseedDue then { s with drbg := s.drbg.reseeded s.dtm.time } else s
def execDrbgReseed (s : State) : Outcome := .next (drbgReseed s)

/-- Cutoff of the repetition count test (R444), and of the adaptive proportion test over 1,024 samples (log entry 48). -/
def repetitionCutoff : Nat := 41
def proportionCutoff : Nat := 793

/-- One sample through both tests. -/
def Entropy.take (e : Entropy) (v : Byte) : Entropy :=
  let e := if e.last = some v then { e with run := e.run + 1 } else { e with last := some v, run := 1 }
  if e.first.isNone || 1024 ≤ e.seen then { e with first := some v, seen := 1, hits := 1 }
  else { e with seen := e.seen + 1, hits := e.hits + (if e.first = some v then 1 else 0) }

def Entropy.bad (e : Entropy) : Bool := repetitionCutoff ≤ e.run || proportionCutoff ≤ e.hits

/-- ENTROPY_SAMPLE (R444, R445): no test of R443 is named. -/
def entropySample (v : Byte) (s : State) : State :=
  if !s.awake || s.sec.state == .error then s
  else
    let e := s.sec.entropy.take v
    let s := { s with sec := { s.sec with entropy := e } }
    if e.bad then s.secError 0 else s

def execEntropySample (value : Byte) (s : State) : Outcome := .next (entropySample value s)

/-! JTAG (R450) -/

/-- What the instruction in the register does now: an internal one acts under its own scope (R450, R451). -/
def State.jtagActs (s : State) : JtagOp :=
  match s.smb.jtag with
  | .extest => if s.img.state == .held then .extest else .bypass
  | .clamp => if s.img.state == .held then .clamp else .bypass
  | .fwHalt p => if s.sec.fwDebug then .fwHalt p else .bypass
  | .fwRun p => if s.sec.fwDebug then .fwRun p else .bypass
  | .fwStep p => if s.sec.fwDebug then .fwStep p else .bypass
  | .fwMem p => if s.sec.fwDebug then .fwMem p else .bypass
  | .scan => if s.sec.scan then .scan else .bypass
  | op => op

/-- Firmware debug halts the control firmware of a plat and lets it go on (R451). -/
def Sec.debugged (x : Sec) : JtagOp → Sec
  | .fwHalt p => { x with halted := setBit x.halted p.val }
  | .fwRun p => { x with halted := clrBit x.halted p.val }
  | _ => x

/-- IDCODE; bit 0 is 1, as IEEE 1149.1 has it (log entry 49). -/
def idcode : W64 := mkWord 64 [(0, 1, 1), (1, 11, Config.jtagMaker.toNat), (12, 16, 0x9600), (28, 4, 2)]

/-- JTAG_INSTRUCTION: what it acts as, and IDCODE where that is what it selects. While reset is held TDO is high impedance
(R490). -/
def jtagInstruction (op : JtagOp) (s : State) : State :=
  if !s.awake then s
  else
    let s := { s with smb := { s.smb with jtag := op } }
    let act := s.jtagActs
    let s := { s with sec := s.sec.debugged act }.emit (.jtag act)
    if act == .idcode then s.emit (.value idcode) else s

def execJtagInstruction (op : JtagOp) (s : State) : Outcome := .next (jtagInstruction op s)

end Sys2Proof.Machine
end

