-- ==== Sys2Proof/Machine/Startup.lean ====
section
/-! DEFINITION. Reset, start-up and persistent settings (R457 to R473, R489, R490), with the firmware that the board
sends (R467, R494). -/
namespace Sys2Proof.Machine

/-! Reset (R151, R489, R490) -/

/-- A fence store under way leaves its copy invalid (R420); one that waits for its turn has written nothing (R458). -/
def Fence.cut (f : Fence) (running : Bool) : Fence :=
  let f := if f.busy.isSome && running then (if f.toCopy1 then { f with copy1 := none } else { f with copy0 := none }) else f
  { copy0 := f.copy0, copy1 := f.copy1 }

/-- The part in reset: MRAM keeps its records, the rest is at its reset value. What has left the part and the counters
of free values are no state of the part and go on. -/
def State.inReset (s : State) : State :=
  { pending := s.pending, out := s.out, free := s.free
    flt := { ring := s.flt.ring, fence := s.flt.fence.cut (s.storeRuns true) }
    sec := {
      fsfSvn := s.sec.fsfSvn, pcfSvn := s.sec.pcfSvn, imgSvn := s.sec.imgSvn, fwkeyMin := s.sec.fwkeyMin
      slots := s.sec.slots, roster := s.sec.roster, chain := s.sec.chain, puf := s.sec.puf, fwSlots := s.sec.fwSlots
      zeroMark := s.sec.zeroMark, mram := s.sec.mram }
    drbg := { seedings := s.drbg.seedings }
    nvm := { gen0 := s.nvm.gen0, gen1 := s.nvm.gen1, cnt0 := s.nvm.cnt0, cnt1 := s.nvm.cnt1 } }

def execReset (s : State) : Outcome := .next s.inReset

/-- POWER_LOSS: as a reset; no operation completes, and volatile state and buffered records are lost (R489). -/
def powerLoss (s : State) : State := s.inReset
def execPowerLoss (s : State) : Outcome := .next (powerLoss s)

/-! Settings (R462, R464, R469) -/

/-- Fields of NVM_SET0 to NVM_SET2 (R473). -/
def setSpeed (w : W64) : Nat := fld w 0 16
def setScrub (w : W64) : Nat := fld w 16 2
def setShare (w : W64) : Nat := fld w 24 7
def setMaster (w : W64) : Bool := bitOf w 31
def setPeriod (w : W64) : Nat := fld w 32 32
def setGate (w : W64) : Nat := fld w 0 25
def setLimit (w : W64) : Nat := fld w 32 32
def setWarn (w : W64) : Nat := fld w 0 8
def setPortEn (w : W64) : Nat := fld w 32 32

/-- Fields outside their ranges, by slot offset (R461, R462). -/
def badFields (a b c : W64) : List Nat :=
  (if setSpeed a = 8800 || setSpeed a = 12800 then [] else [0x100])
    ++ (if 1 ≤ setShare a && setShare a ≤ 100 then [] else [0x103])
    ++ (if 100000 ≤ setLimit b && setLimit b ≤ 2500000 then [] else [0x10C])
    ++ (if 60 ≤ setWarn c && setWarn c ≤ 110 then [] else [0x110])

/-- Fields outside their ranges replaced by their ROM defaults. -/
def mendFields (a b c : W64) : W64 × W64 × W64 :=
  let bad := badFields a b c
  let a := if bad.contains 0x100 then putFld a 0 16 12800 else a
  let a := if bad.contains 0x103 then putFld a 24 7 25 else a
  (a, if bad.contains 0x10C then putFld b 32 32 2500000 else b, if bad.contains 0x110 then putFld c 0 8 100 else c)

/-- NVM codes carry NVM_STATUS (R472). -/
def State.nvmRaise (s : State) (c : FClass) (code : Code) : State := s.raise c code 9 0 s.nvm.status

/-- The generation in use (R464): of two valid slots the one with the higher seq. -/
def Nvm.choose (n : Nvm) : Nat :=
  match n.gen0, n.gen1 with
  | some a, some b => if a.seq.toNat < b.seq.toNat then 1 else 0
  | some _, none => 0
  | none, some _ => 1
  | none, none => 2

/-- Settings load (R464, R466, R469). -/
def State.loadSettings (s : State) : State :=
  let n := { s.nvm with inUse := s.nvm.choose }
  let (a, b, c) := if n.safe then (romSet0, romSet1, romSet2) else n.fieldsInUse
  let (a', b', c') := mendFields a b c
  let s := { s with nvm := { n with set0 := a', set1 := b', set2 := c' } }
  let s := if n.inUse = 2 then s.nvmRaise .stat Codes.nvmSettingsLost
    else if n.gen0.isNone || n.gen1.isNone then s.nvmRaise .stat Codes.nvmGenDamaged
    else s
  let s := if n.safe then s.nvmRaise .stat Codes.nvmSafeMode else s
  (badFields a b c).foldl (fun s o => s.raise .stat Codes.nvmField 9 0 (BitVec.ofNat 64 o)) s

/-! Start-up, step by step (R468) -/

/-- Copies of a protected record that do not authenticate are gone (R430). -/
def Copies.keep {α : Type} (c : Copies α) (bad0 bad1 : Bool) : Copies α :=
  { copy0 := if bad0 then none else c.copy0, copy1 := if bad1 then none else c.copy1 }

/-- The protected records that start-up finds, by kind: 0 key slots, 1 roster, 2 certificate, 3 counters (R430). -/
def SecMram.seen (m : SecMram) (bad : List (Fin 4 × Bool)) : SecMram :=
  { slots := m.slots.keep (bad.contains (0, false)) (bad.contains (0, true))
    roster := m.roster.keep (bad.contains (1, false)) (bad.contains (1, true))
    chain := m.chain.keep (bad.contains (2, false)) (bad.contains (2, true))
    svns := m.svns.keep (bad.contains (3, false)) (bad.contains (3, true)) }

/-- A record kind has no authentic copy (R430). -/
def SecMram.lost (m : SecMram) : Bool :=
  m.slots.newer.isNone || m.roster.newer.isNone || m.chain.newer.isNone || m.svns.newer.isNone

/-- The copies in use take effect. Without PUF helper data nothing authenticates and nothing is read (log entry 53). -/
def Sec.loadRecords (x : Sec) (bad : List (Fin 4 × Bool)) : Sec :=
  if !x.puf then x
  else
    let m := x.mram.seen bad
    let v := match m.svns.newer with | some c => c.2 | none => x.svns
    { x with
      mram := m
      slots := match m.slots.newer with | some c => c.2 | none => x.slots
      roster := match m.roster.newer with | some c => c.2 | none => x.roster
      chain := match m.chain.newer with | some c => c.2 | none => x.chain
      fsfSvn := v.fsf, pcfSvn := v.pcf, imgSvn := v.img, fwkeyMin := v.fwkeyMin }

/-- Records of the MRAM that no longer verify are not valid, and bad ring records are gone (R416, R419, R430, R460, R461). -/
def State.readMram (s : State) (m : MramSeen) : State :=
  let keep := fun {α : Type} (ok : Bool) (x : Option α) => if ok then x else none
  let f := s.flt.fence
  { s with
    sec := s.sec.loadRecords m.badRecords
    nvm := { s.nvm with
      gen0 := keep m.gen0Ok s.nvm.gen0, gen1 := keep m.gen1Ok s.nvm.gen1
      cnt0 := keep m.cnt0Ok s.nvm.cnt0, cnt1 := keep m.cnt1Ok s.nvm.cnt1 }
    flt := { s.flt with
      ring := m.ringBad.foldl (fun r q => SMap.set none r q.toNat none) s.flt.ring
      fence := { f with copy0 := keep m.fence0Ok f.copy0, copy1 := keep m.fence1Ok f.copy1 } } }

/-- FLT_LOG_HEAD at start-up (R416). -/
def State.logHead (s : State) : W64 :=
  let floor := match s.nvm.counts with | some c => c.floor.toNat | none => 0
  BitVec.ofNat 64 (s.flt.ring.foldl (fun h e => match e.2 with | some r => max h (r.seq.toNat + 1) | none => h) floor)

/-- The slot of a firmware kind that runs (R446): first the higher svn, then the other; whether the other runs. `seen`: the
slot's bytes read back undamaged. -/
def Sec.pickFw (x : Sec) (kind : Nat) (seen : Bool × Bool) : Option (Nat × Bool) :=
  let fw := fun i => SMap.get {} x.fwSlots (2 * (kind - 1) + i)
  let ok := fun i => (if i = 0 then seen.1 else seen.2) && (fw i).verifies && x.fwFresh kind (fw i).fwKey (fw i).svn
  let first := if (fw 0).svn.toNat < (fw 1).svn.toNat then 1 else 0
  if ok first then some (first, false) else if ok (1 - first) then some (1 - first, true) else none

/-- Firmware of a kind runs from a slot. -/
def State.runFw (s : State) (kind slot : Nat) (fallback : Bool) : State :=
  let fw := SMap.get {} s.sec.fwSlots (2 * (kind - 1) + slot)
  let s := { s with sec := if kind = 1 then { s.sec with fsf := fw, fsfSlot := slot = 1 }
                           else { s.sec with pcf := fw, pcfSlot := slot = 1 } }
  if fallback then s.secRaise .stat Codes.secBootFallback 3 else s

def State.phase (s : State) (k : Nat) : State := { s with nvm := { s.nvm with phase := k } }

/-- A module the part can use (R263). -/
def modUsable (m : ModuleSeen) : Bool :=
  m.present && m.usable && [64, 96, 128, 192, 256].contains m.capacityGB && 8800 ≤ m.maxSpeed

/-- Two modules agree in capacity, ranks and data rates (R264). -/
def modMatch (a b : ModuleSeen) : Bool := a.capacityGB == b.capacityGB && a.ranks == b.ranks && a.maxSpeed == b.maxSpeed

/-- The calibration record of channel c that training may use (R463, R466). -/
def Nvm.ddrRecord (n : Nvm) (c : Nat) : Option Calib :=
  if n.safe then none else match n.genInUse with
    | some g => SMap.get none g.ddr c
    | none => none

/-- DDR5 training of every channel, a fenced one too (R263 to R266). -/
def State.trainDram (s : State) (ms : List ModuleSeen) : State :=
  let ref := ms.find? modUsable
  let trains := fun (m : ModuleSeen) => modUsable m && ref.any (modMatch m)
  let used := fun (c : Nat) (m : ModuleSeen) => trains m && !s.fenced (4112 + c)
  let top := (ms.zipIdx.filter (fun e => used e.2 e.1)).foldl (fun r e => min r e.1.maxSpeed) 12800
  let rate := if setSpeed s.nvm.set0 = 12800 && 12800 ≤ top then 12800 else 8800
  (ms.take 16).zipIdx.foldl (fun s e =>
    let (m, c) := e
    let tag := Config.shake256 m.spd 32
    let fast := m.fastOk && (s.nvm.ddrRecord c).any (fun r => r.rate == rate && r.tag == tag)
    let st : ChanState := if !m.present then .absent else if s.fenced (4112 + c) then .fenced
      else if !used c m then .mismatch else if fast || m.trainOk then ChanState.up else .failed
    let s := { s with nvm := { s.nvm with calDirty := s.nvm.calDirty || (st == ChanState.up && !fast) } }
    s.setChan c {
      state := st, fullTrained := trains m && !fast, capacity := if m.present then m.capacityGB else 0, ranks := m.ranks
      speed := if trains m then rate else 0, spd := m.spd }) s

/-- The live registers of R462 take their settings; datum_role and port_en follow with their blocks. -/
def State.applySettings (s : State) : State :=
  let n := s.nvm
  let s := gatingModeWrite (BitVec.ofNat 64 (setGate n.set1)) s
  let s := if setScrub n.set0 = 3 then s else (List.range 1024).foldl (fun s k =>
    s.setMu (k / 256) (k % 256) { s.mu (k / 256) (k % 256) with scrubExp := setScrub n.set0 }) s
  let s := (List.range 4).foldl (fun s g => s.setMg g { s.mg g with period := BitVec.ofNat 32 (setPeriod n.set0) }) s
  { s with
    mon := { s.mon with ctl := putFld s.mon.ctl 0 7 (setShare n.set0) }
    pwr := { s.pwr with limit := BitVec.ofNat 32 (setLimit n.set1), warn := setWarn n.set2 } }

/-- Ports: OFF, or DOWN and training where light and signal stand (R321, R322). -/
def State.startPorts (s : State) (light : Byte) (signal : W32) : State :=
  (List.range 32).foldl (fun s n =>
    let en := bitOf (BitVec.ofNat 32 (setPortEn s.nvm.set2)) n
    let st : PortState := if en && !s.fenced (4128 + n) then .down else .off
    let p : Port := { s.port n with en := en, light := bitOf light (n / 4), signal := bitOf signal n, state := st }
    s.retrainPort n p) s

/-- Steps 6 to 11 (R468). -/
def State.bootLate (s : State) (b : BootSeen) : State :=
  let s := (s.phase 6).setPlls (fun _ => .locked)
  match b.pllFail with
  | some d => pllLockFail d.val s
  | none =>
    let s := (List.range 4).foldl (fun s p =>
      s.setPlat p { s.plat p with bridgeUp := BitVec.ofNat 8 (fld b.bridgesUp (2 * p) 2) }) s
    let s := s.applySettings.trainDram b.modules
    let s := (s.startPorts b.light b.signal).setRole (setMaster s.nvm.set0)
    let s := if 2 ≤ s.sec.zeroMark then
        (let k := s.sec.zeroMark
         (s.zeroScope k).zeroEnd k)
      else s
    { s with nvm := { s.nvm with phase := 11, heldUs := b.heldUs, booting := none } }

/-- Protected records that no copy authenticates (R430). -/
def State.authError (s : State) : State :=
  s.enterError.secRaise .fatal Codes.secNvmAuth 1

/-- Counter record of this start-up (R460). Without a valid copy the floor is the head that the ring alone gives. -/
def State.countBoot (s : State) : State :=
  let fresh : Counts := { seq := 1, boots := 1, commits := 0, floor := s.logHead }
  { s with nvm := s.nvm.storeCounts (fun c => { c with boots := c.boots + 1 }) fresh }

/-- The fence map (R421). -/
def State.loadFence (s : State) : State :=
  if s.flt.fence.copy0.isNone && s.flt.fence.copy1.isNone then
    ({ s with flt := { s.flt with fence := { s.flt.fence with lost := true } } }).raise .stat Codes.fenceMapLost 0 0
  else s

/-- Steps 4 and 5, once the first-stage firmware runs. A fatal fault ends the start-up where it stands. -/
def State.bootMid (s : State) (b : BootSeen) : State :=
  let s := (s.phase 4).countBoot.loadFence.loadSettings
  if !b.mram.mfgOk then
    ({ s with nvm := { s.nvm with mfgBad := true } }).nvmRaise .fatal Codes.nvmMfgBad
  else
    let s := s.phase 5
    let s := { s with sec := { s.sec with state := .selftest } }
    if b.failTest ≠ 0 then s.secError b.failTest.toNat
    else if s.sec.puf && s.sec.mram.lost then s.authError
    else
      let s := { s with
        sec := { s.sec with state := if s.sec.puf then .operational else .noIdentity, keys := s.pufKeys }
        lxg := { s.lxg with ownKeyId := if s.sec.puf then keyIdOf Config.identityPub else List.replicate 64 0 } }.drbgStart
      if bitOf s.nvm.straps 1 then { s with smb := { s.smb with awaiting := 2 } }
      else match s.sec.pickFw 2 b.pcfValid with
        | none => s.secError 0
        | some (slot, fb) => (s.runFw 2 slot fb).bootLate b

/-- RESET_RELEASE: a part held in reset starts. -/
def resetRelease (b : BootSeen) (s : State) : State :=
  if s.nvm.phase ≠ 0 then s
  else
    let s := s.readMram b.mram
    let s := { s with
      nvm := { s.nvm with straps := b.straps, safe := bitOf b.straps 2, phase := 3, booting := some b }
      lxg := { s.lxg with strapBridge := bitOf b.straps 0 }
      clk := { s.clk with refin := true }
      flt := { s.flt with head := s.logHead } }
    if b.failTest = 1 || b.failTest = 2 || b.failTest = 3 then s.secError b.failTest.toNat
    else if bitOf b.straps 1 then { s with smb := { s.smb with awaiting := 1 } }
    else match s.sec.pickFw 1 b.fsfValid with
      | none => s.secError 3
      | some (slot, fb) => (s.runFw 1 slot fb).bootMid b

def execResetRelease (seen : BootSeen) (s : State) : Outcome := .next (resetRelease seen s)

/-! NVM_COMMIT (R470, R471) -/

/-- The generation a commit builds. -/
def State.newGen (s : State) : Gen :=
  let n := s.nvm
  let old := n.genInUse
  let ddr := (List.range 16).foldl (fun (m : SMap (Option Calib)) c =>
    let ch := s.chan c
    SMap.set none m c (if ch.state == .up then some { rate := ch.speed, tag := Config.shake256 ch.spd 32 }
      else match old with | some g => SMap.get none g.ddr c | none => none)) []
  let lx := (List.range 32).foldl (fun (m : SMap (Option Calib)) k =>
    SMap.set none m k (match SMap.get none n.lxCal k with
      | some r => some r
      | none => match old with | some g => SMap.get none g.lx k | none => none)) []
  { seq := (match old with | some g => g.seq + 1 | none => 1), set0 := n.set0, set1 := n.set1, set2 := n.set2
    ddr := ddr, lx := lx }

def State.nvmResult (s : State) (c : Code) : State := { s with nvm := { s.nvm with result := c } }

/-- A commit is accepted, or completes with the first code of R470 that applies. -/
def State.commitStart (s : State) (base : W64) (order : Option Nat) : State × Option Code :=
  let n := s.nvm
  let c := if n.busy.isSome then some Codes.nvmBusy
    else if base != (match n.genInUse with | some g => g.seq | none => 0) then some Codes.nvmStale
    else if !(badFields n.set0 n.set1 n.set2).isEmpty then some Codes.nvmField
    else none
  match c with
  | some c => (s.nvmResult c, some c)
  | none => (({ s with nvm := { n with busy := some (s.newGen, order) } }).askStore false, none)

/-- Effect of an NVM_COMMIT order: its base seq is in payload bytes 0x20 to 0x27. -/
def nvmEff (w : CmdWord) (id : Nat) (s : State) : State × Option Reply :=
  let (s, c) := s.commitStart (w.payWord 0) (some id)
  (s, c.map (fun c => { code := c }))

/-- NVM_COMMIT by NVM_CMD, whose base is NVM_COMMIT_BASE, or as an order with its own (R470). -/
def nvmCommit (via : Via) (base : W64) (s : State) : State :=
  match via with
  | .reg path => s.writeBy path .nvm (fun s => (s.commitStart s.nvm.commitBase none).1)
  | .cmd o =>
    let o := rowOrder o 0 0 64 base.toNat
    s.cmdArrive opNvmCommit o 0 (fun id => nvmEff { opcode := opNvmCommit, desc := o.desc } id)

def execNvmCommit (via : Via) (base : W64) (s : State) : Outcome := .next (nvmCommit via base s)

/-- COMMIT_DONE of the commit whose turn it is: `ok`, the read-back checks (R458, R471). -/
def commitDone (ok : Bool) (s : State) : State :=
  if !s.storeRuns false then s else
  match s.nvm.busy with
  | none => s
  | some (g, order) =>
    let n := { s.nvm with busy := none }
    let fin := fun (s : State) (c : Code) =>
      let s := s.storeOver.nvmResult c
      match order with
      | some id => s.complete id { code := c }
      | none => s
    if ok then
      let slot := if n.toSlot1 then 1 else 0
      let m := { (n.putSlot (some g)) with inUse := slot, calDirty := false }
      let m := m.storeCounts (fun c => { c with commits := c.commits + 1 })
        { seq := 1, boots := 1, commits := 1, floor := s.flt.head }
      fin { s with nvm := m } Codes.ok
    else fin (({ s with nvm := n }).nvmRaise .stat Codes.nvmWriteFail) Codes.nvmWriteFail

def execCommitDone (readBackOk : Bool) (s : State) : Outcome := .next (commitDone readBackOk s)

/-! Firmware from the board (R467, R494) -/

def State.bootStat (s : State) (c : Code) : State := { s with smb := { s.smb with status := c } }

/-- BOOT_BEGIN. -/
def bootBegin (kind : Nat) (s : State) : State :=
  if !s.awake then s
  else if s.smb.awaiting = 0 || kind ≠ s.smb.awaiting || s.smb.image.any (·.ended) then s.bootStat Codes.refused
  else ({ s with smb := { s.smb with image := some { kind := kind } } }).bootStat Codes.ok

def execBootBegin (kind : Byte) (s : State) : Outcome := .next (bootBegin kind.toNat s)

/-- BOOT_DATA: 1 to 240 bytes at the offset reached so far. -/
def bootData (offset : W32) (data : List Byte) (s : State) : State :=
  if !s.awake then s else
  match s.smb.image with
  | none => s.bootStat Codes.refused
  | some i =>
    if i.ended then s.bootStat Codes.refused
    else if offset.toNat ≠ i.bytes.length || fwSlotBytes i.kind < i.bytes.length + data.length || data.isEmpty
        || 240 < data.length then
      ({ s with smb := { s.smb with image := none } }).bootStat Codes.refused
    else ({ s with smb := { s.smb with image := some { i with bytes := i.bytes ++ data } } }).bootStat Codes.ok

def execBootData (offset : W32) (data : List Byte) (s : State) : Outcome := .next (bootData offset data s)

/-- BOOT_END: verification begins. -/
def bootEnd (s : State) : State :=
  if !s.awake then s else
  match s.smb.image with
  | some i => if i.ended then s.bootStat Codes.refused
    else ({ s with smb := { s.smb with image := some { i with ended := true } } }).bootStat Codes.notReady
  | none => s.bootStat Codes.refused

def execBootEnd (s : State) : Outcome := .next (bootEnd s)

/-- BOOT_STATUS. -/
def bootStatus (s : State) : State := s.whenAwake (fun s => s.emit (.code s.smb.status))

def execBootStatus (s : State) : Outcome := .next (bootStatus s)

/-- BOOT_VERIFY_DONE: the start-up goes on with the image, or a new one of its kind is awaited. -/
def bootVerifyDone (s : State) : State :=
  match s.smb.image, s.nvm.booting with
  | some i, some b =>
    if !i.ended then s
    else
      let s := { s with smb := { s.smb with image := none } }
      match fwParse i.bytes with
      | some h =>
        if h.signed && h.kind = i.kind && s.sec.fwFresh h.kind h.fwKey h.svn then
          let fw := h.info i.bytes
          let s := ({ s with smb := { s.smb with awaiting := 0 } }).bootStat Codes.ok
          if i.kind = 1 then ({ s with sec := { s.sec with fsf := fw } }).bootMid b
          else ({ s with sec := { s.sec with pcf := fw } }).bootLate b
        else s.bootStat Codes.secAuth
      | none => s.bootStat Codes.secAuth
  | _, _ => s

def execBootVerifyDone (_key _sig : Verdict) (s : State) : Outcome := .next (bootVerifyDone s)

end Sys2Proof.Machine
end

