-- ==== Sys2Proof/Machine/Commands.lean ====
section
/-! DEFINITION. Orders of every opcode: activation, submission, slots, notifications, broadcast (R360 to R374). -/
namespace Sys2Proof.Machine

/-- Operation of a BMK command (R362); none where its code is reserved. -/
def CmdWord.bmkOp (w : CmdWord) : BmkOp :=
  let v := w.pay32 1
  match w.payByte 0 with
  | 0 => .read | 1 => .add v | 2 => .set v | 3 => .wait v | 4 => .arm (w.pay32 2) v
  | n => .reserved n

/-- Effect of an order (R362). STEP_START waits for STEP_START_TIME. -/
def orderEff (w : CmdWord) (x : SecSeen) (id : Nat) (s : State) : State × Option Reply :=
  if w.opcode = opNop then (s, some Reply.ok)
  else if w.opcode = opImage then imgEff w s
  else if w.opcode = opStepStart then (s, none)
  else if w.opcode = opDrain then drainEff w s
  else if w.opcode = opCoefSet then coefSetEff w s
  else if w.opcode = opFreezeSet then freezeSetEff w s
  else if w.opcode = opBmk then bmkOrder id w.desc.target.toNat w.bmkOp s
  else if w.opcode = opMon then monEff w s
  else if w.opcode = opSec then secEff w x id s
  else if w.opcode = opNvmCommit then nvmEff w id s
  else if w.opcode = opRefSelect then refEff w s
  else (s, some { code := Codes.refused })

/-- Size of an order (R362). -/
def State.orderSize (s : State) (w : CmdWord) : Nat :=
  if w.opcode = opImage then (if w.payByte 0 % 8 < 2 then s.img.stageLen.toNat else 0)
  else if w.opcode = opMon then s.monSize (w.payWord 0)
  else if w.opcode = opSec then s.secSize w
  else 0

/-- What a SELF_TEST that comes as a plain SEC command finds is a free value: a test of R443, or none (log entry 4). -/
def State.seenBy (s : State) (w : CmdWord) : SecSeen × State :=
  if w.opcode = opSec && w.payByte 0 = 0x04 then
    (let (v, s) := s.takeFree
     ({ failTest := BitVec.ofNat 8 (v.toNat % 10) }, s))
  else ({}, s)

/-- An order of any opcode arrives. -/
def submitOrder (op : W16) (o : Order) (s : State) : State :=
  if op = opStepStart then stepStart o s
  else
    let w : CmdWord := { opcode := op, desc := o.desc }
    let (x, s) := s.seenBy w
    s.cmdArrive op o (s.orderSize w) (orderEff w x) x

/-- NOP. -/
def nop (o : Order) (s : State) : State := submitOrder opNop o s
def execNop (o : Order) (s : State) : Outcome := .next (nop o s)

/-- An order with its requester as its port takes it: the bridge writes an endpoint's number as source (R344). -/
def State.asTaken (s : State) (o : Order) : Order :=
  match o.arrival with
  | .trans rx => { o with arrival := .trans { rx with src := s.srcOf rx } }
  | _ => o

/-- An opcode, or an opcode with a target class, that R362 does not list, or a CMD from another device. -/
def unlistedOpcode (o : Order) (op : W16) (s : State) : State :=
  if classOf op != some o.desc.targetClass.toNat || (s.originOf (s.asTaken o)).isNone then
    s.cmdArrive op o 0 (fun _ s => (s, some { code := Codes.refused }))
  else s

def execUnlistedOpcode (o : Order) (opcode : W16) (s : State) : Outcome := .next (unlistedOpcode o opcode s)

/-- COMMAND_ACTIVATION: an accepted order starts at its activation time, once its target is free (R366). -/
def commandActivation (id : Nat) (s : State) : State :=
  match s.cmd.held.find? (fun h => h.id == id) with
  | none => s
  | some h =>
    let free := if h.timed then !s.targetBusy h.word id || decide (h.start.toNat ≤ s.dtm.time.toNat)
      else s.mayStartUntimed h.word id (s.orderSize h.word)
    if !h.started && h.te.toNat ≤ s.dtm.time.toNat && free && s.secTurn h.word id then
      (if s.orderServed h.word then s.runOrder id (orderEff h.word h.seen) else s.complete id { code := Codes.notReady })
    else s

def execCommandActivation (id : Nat) (s : State) : Outcome := .next (commandActivation id s)

/-- A WAIT ends at its deadline: its entry leaves the wait table and the order completes (R207, R362). -/
def State.waitDeadline (s : State) (h : Held) : State :=
  let p := homePlat h.word.desc.target.toNat
  let mine := fun (w : Parked) => match w.src with
    | .cmd o => o.desc == h.word.desc && o.arrival == h.arrival
    | _ => false
  let s := s.setPlat p { s.plat p with waits := (s.plat p).waits.eraseP mine }
  s.complete h.id { code := Codes.deadlineMissed, value := some 0 }

/-- DEADLINE_MISSED: a WAIT ends; any other order runs on, and the miss is recorded once (R362, R367). -/
def deadlineMissed (id : Nat) (s : State) : State :=
  match s.cmd.held.find? (fun h => h.id == id) with
  | none => s
  | some h =>
    if h.word.isWait then
      (if h.word.desc.deadline != 0 && h.word.desc.deadline.toNat ≤ s.dtm.time.toNat then s.waitDeadline h else s)
    else if s.pastDeadline h.word && !h.missed then
      let held := s.cmd.held.map (fun (x : Held) => if x.id == id then { x with missed := true } else x)
      ({ s with cmd := { s.cmd with held := held } }).missRecord h
    else s

def execDeadlineMissed (id : Nat) (s : State) : Outcome := .next (deadlineMissed id s)

/-! Slots (R371) -/

/-- Word 0 of a slot. -/
def Slot.word0 (x : Slot) : W64 :=
  mkWord 64 [(0, 1, b2n x.ready), (1, 1, b2n x.accepted), (2, 1, b2n x.busy), (16, 16, x.readCount)]

/-- CONSUME. -/
def consume (k : Nat) (s : State) : State := if (s.slot k).ready then s.setSlot k {} else s
def execConsume (slot : Fin 512) (s : State) : Outcome := .next (s.atBlock .cmd (consume slot.val))

/-- A read of word 0 counts while the slot is ready. -/
def State.countRead (s : State) (k : Nat) : State :=
  let x := s.slot k
  if x.ready then s.setSlot k { x with readCount := satAdd 16 x.readCount 1 } else s

def slotWord0Read (k : Nat) (s : State) : State :=
  let s := s.countRead k
  s.emit (.value (s.slot k).word0)

def execSlotWord0Read (slot : Fin 512) (s : State) : Outcome := .next (s.atBlock .cmd (slotWord0Read slot.val))

/-! Notifications (R364) -/

/-- CMD_NOTIFY_POP. -/
def Cmd.popWord (c : Cmd) : W64 :=
  match c.notices with
  | n :: _ => mkWord 64 [(0, 16, n.index), (16, 8, n.tag), (24, 1, 1), (25, 7, c.dropped), (32, 32, n.count.toNat)]
  | [] => mkWord 64 [(25, 7, c.dropped)]

/-- The entry returned is gone, and the count of dropped ones is 0. -/
def Cmd.popped (c : Cmd) : Cmd := { c with notices := c.notices.drop 1, dropped := 0 }

def notifyPop (s : State) : State := ({ s with cmd := s.cmd.popped }).emit (.value s.cmd.popWord)
def execNotifyPop (s : State) : Outcome := .next (s.atBlock .cmd notifyPop)

/-! Descriptors and the master's broadcast (R361, R372) -/

/-- The descriptor in eight words (R361). -/
def cmdOfWords (ws : List W64) : CmdWord :=
  let w := fun i => ws.getD i 0
  { opcode := BitVec.ofNat 16 (fld (w 0) 0 16)
    desc := {
      flags := BitVec.ofNat 16 (fld (w 0) 16 16), targetClass := BitVec.ofNat 16 (fld (w 0) 32 16)
      target := BitVec.ofNat 16 (fld (w 0) 48 16), actTime := w 1, deadline := w 2
      step := BitVec.ofNat 48 (fld (w 3) 0 48), slot := BitVec.ofNat 16 (fld (w 3) 48 16)
      payload := w 7 ++ w 6 ++ w 5 ++ w 4 } }

/-- BROADCAST_GO: one CMD to each device of the seal set, or to one device; a copy for this device stays here,
and no CPL is awaited of a device without a route. -/
def broadcastGo (all : Bool) (dev : Nat) (s : State) : State :=
  if s.dtm.state != .master || !s.cmd.bcast.waitingOn.isEmpty then s
  else
    let w := cmdOfWords s.cmd.bcastDesc
    let devs := if all then (s.cfg.plan.seals.map (·.dev)).eraseDups else [dev]
    let s := if w.opcode = opStepStart then
        { s with dtm := { s.dtm with mstep := w.desc.step, mstepTime := w.desc.actTime } }
      else s
    let awaited := devs.filter (fun d => s.myNum == some d || !(s.outPorts (BitVec.ofNat 16 d)).isEmpty)
    let s := { s with cmd := { s.cmd with bcast := { opcode := w.opcode, waitingOn := awaited } } }
    devs.foldl (fun s d =>
      if s.myNum == some d then
        submitOrder w.opcode { desc := w.desc, origin := .master, port := 32, arrival := .own } s
      else s.request (BitVec.ofNat 16 d) false (.bcast d) (.cmd w)) s

def execBroadcastGo (all : Bool) (dev : BitVec 12) (s : State) : Outcome :=
  .next (s.atBlock .cmd (broadcastGo all dev.toNat))

end Sys2Proof.Machine
end

