-- ==== Sys2Proof/Machine/RegRead.lean ====
section
/-! DEFINITION. What each register of control space reads. -/
namespace Sys2Proof.Machine

/-- Index of an offset in an array of n registers, 8 bytes apart. -/
def arrIx (base n o : Nat) : Option Nat :=
  if base ≤ o && o < base + 8 * n && o % 8 = 0 then some ((o - base) / 8) else none

/-- The first of several readings that applies. -/
def orRead (xs : List (Option W64)) : Option W64 := xs.findSome? id

/-- Word i of a byte string. -/
def wordAt (bs : List Byte) (i : Nat) : W64 := BitVec.ofNat 64 (leAt bs (8 * i) 8)

def w64 (n : Nat) : W64 := BitVec.ofNat 64 n

/-! Units -/

/-- CU_ID and MU_ID (R79, R102). -/
def unitId (p n site : Nat) : W64 := mkWord 64 [(0, 8, n), (8, 4, site / 32), (16, 5, site % 32), (24, 2, p)]

/-- Tiles of a CU in a state. -/
def Cu.tilesIn (c : Cu) (st : TileSt) : List Nat := (List.range 32).filter (fun t => (c.tile t).st == st)

/-- CU_STATUS (R79). -/
def State.cuStatus (s : State) (c : Cu) : W64 :=
  let st := match c.run with
    | .unconfigured => 0
    | .live => if s.tokensMove then 2 else 1
    | .drained => 3
    | .faulted => 4
  let act := c.tilesIn .active
  mkWord 64 [(0, 3, st), (3, 5, act.headD 0), (8, 1, b2n !act.isEmpty), (9, 6, (c.tilesIn .held).length),
    (15, 6, (c.tilesIn .retiring).length), (21, 1, b2n (!c.vec.block.isEmpty))]

def State.cuRead (s : State) (p n o : Nat) : Option W64 :=
  let c := s.cu p n
  match o with
  | 0x000 => some (unitId p n (cuSite n))
  | 0x008 => some c.cfg
  | 0x010 => some c.vprog
  | 0x018 => some c.abftCtl
  | 0x020 => some (s.cuStatus c)
  | 0x028 => some (mkWord 64 ((List.range 32).map (fun t => (2 * t, 2, (c.tile t).st.num))))
  | 0x030 => some c.fault
  | 0x038 => some c.abftLoc
  | 0x040 => some c.cntKstep
  | 0x048 => some c.cntStallA
  | 0x050 => some c.cntStallB
  | 0x058 => some c.cntStallOut
  | 0x060 => some c.cntRetired
  | 0x068 => some c.accCe
  | _ => (arrIx 0x100 32 o).map (fun l => w64 (SMap.get 0 c.vconst l).toNat)

/-- MU_STATUS (R102). -/
def State.muStatus (s : State) (m : Mu) : W64 :=
  let st := match m.run with
    | .unconfigured => 0
    | .live => if s.tokensMove then 2 else 1
    | .drained => 3
    | .faulted => 3
  let busy := (List.range 4).foldl (fun b a => b + (if (SMap.get {} m.ags a).busy then 2 ^ a else 0)) 0
  mkWord 64 [(0, 2, st), (2, 4, busy), (6, 1, b2n m.cmd.isSome), (16, 14, m.poison.length)]

/-- MU_AG_STATE (R102). -/
def AgSt.stateWord (a : AgSt) : W64 := mkWord 64 [(0, 16, a.addr), (16, 1, b2n a.busy), (17, 4, a.pending), (32, 32, a.moved)]

/-- MU_STASH_STAT (R180): 0 for a region that is no STASH. -/
def RegSt.stashStat (r : RegSt) : W64 :=
  if r.kind = 2 then mkWord 64 [(0, 16, r.pushed), (16, 16, r.popped), (32, 16, r.reserveFrames), (48, 16, min r.spills 65535)] else 0

def State.muRegRead (s : State) (p n o : Nat) : Option W64 :=
  let m := s.mu p n
  match o with
  | 0x000 => some (unitId p n (muSite n))
  | 0x008 => some (mkWord 64 [(0, 4, m.epoch)])
  | 0x010 => some (s.muStatus m)
  | 0x018 => some m.fault
  | 0x020 => some m.eccCe
  | 0x028 => some m.eccLoc
  | 0x030 => some (mkWord 64 [(0, 2, m.scrubExp), (16, 16, m.scrubLate), (32, 32, m.scrubPasses.toNat)])
  | 0x038 => some m.cntConflict
  | 0x040 => some 0
  | 0x048 => some m.fillPat
  | 0x050 => some (mkWord 64 [(0, 1, b2n m.cmd.isSome), (16, 16, m.cmdResult.toNat)])
  | _ => orRead [
    (arrIx 0x100 32 o).map (fun i => if i % 2 = 0 then (m.reg (i / 2)).a else (m.reg (i / 2)).b),
    (arrIx 0x200 16 o).map (fun r => (m.reg r).ptr),
    (arrIx 0x300 16 o).map (fun r => mkWord 64 [(0, 32, (m.reg r).granted.toNat), (32, 32, (m.reg r).received.toNat)]),
    (arrIx 0x400 32 o).map (fun i => (SMap.get {} m.ags (i / 8)).words.getD (i % 8) 0),
    (arrIx 0x500 4 o).map (fun a => (SMap.get {} m.ags a).stateWord),
    (arrIx 0x600 4 o).map (fun a => (SMap.get {} m.ags a).stash),
    (arrIx 0x680 16 o).map (fun r => (m.reg r).stashStat),
    (arrIx 0x700 4 o).map (fun a => (SMap.get {} m.ags a).handoff)]

/-- Occupancy of 16 input queues from channel c (R127). -/
def Sw.occupancy (w : Sw) (net c : Nat) : W64 :=
  mkWord 64 ((List.range 16).map (fun k => (4 * k, 4, (w.inQ net (c + k)).q.length)))

/-- SW_STATUS (R127). -/
def Sw.status (w : Sw) : W64 :=
  let (net, chan) := w.spilling.getD (0, 0)
  mkWord 64 [(0, 2, w.run.num), (2, 1, b2n w.spilling.isSome), (3, 2, net), (5, 8, chan), (16, 16, w.spillTokens)]

def State.swRead (s : State) (p site o : Nat) : Option W64 :=
  let w := s.sw p site
  match o with
  | 0x000 => some (mkWord 64 [(0, 9, site), (9, 2, p), (11, 1, b2n (!siteIsCu site))])
  | 0x008 => some (mkWord 64 [(0, 4, w.epoch), (4, 4, w.cregion)])
  | 0x010 => some w.status
  | 0x018 => some w.fault
  | 0x020 => some w.cntStale
  | 0x028 => some w.cntParity
  | 0x030 => some w.spill
  | 0x038 => some w.qbind
  | 0x230 => some (w.occupancy 2 0)
  | _ => orRead [
    (arrIx 0x100 12 o).map (fun i => SMap.get 0 w.routes i),
    (arrIx 0x180 5 o).map (fun i => SMap.get 0 w.routes (12 + i)),
    (arrIx 0x1C0 3 o).map (fun i => SMap.get 0 w.routes (17 + i)),
    (arrIx 0x200 3 o).map (fun i => w.occupancy 0 (16 * i)),
    (arrIx 0x220 2 o).map (fun i => w.occupancy 1 (16 * i))]

/-! Engines of a plat -/

def Plat.trvRead (x : Plat) (spills o : Nat) : Option W64 :=
  match o with
  | 0x000 => some (mkWord 64 [(0, 16, x.dldWindow), (16, 1, b2n x.dldEn)])
  | 0x008 => some (mkWord 64 [(0, 32, x.dldSpills.toNat), (32, 8, spills)])
  | 0x010 => some x.dldLog
  | 0x018 => some 0
  | 0x020 => some (mkWord 64 [(0, 16, x.draining.toNat), (16, 16, x.drained.toNat), (32, 16, x.timedOut.toNat),
      (48, 16, x.drainResult.toNat)])
  | 0x028 => some (mkWord 64 [(0, 5, x.timeoutExp)])
  | 0x030 => some (mkWord 64 ((List.range 16).map (fun r => (4 * r, 4, SMap.get 0 x.epochs r))))
  | _ => (arrIx 0x040 2 o).map (fun e => mkWord 64 [(0, 1, b2n (bitOf x.bridgeUp e)), (16, 16, min (SMap.get 0 x.parErr e) 65535)])

def Plat.dmaRegRead (x : Plat) (o : Nat) : Option W64 :=
  match o with
  | 0x000 => some (mkWord 64 [(0, 10, x.reqs.length), (10, 5, x.hq.length), (15, 1, b2n (!x.active.isEmpty))])
  | 0x008 => some x.dmaFault
  | 0x010 => some x.cntRows
  | 0x018 => some x.cntFull
  | 0x020 => some x.dmaFaultLoc
  | 0x070 => some 0
  | 0x078 => some (mkWord 64 [(0, 16, x.hqResult.toNat), (16, 32, x.hqDone.toNat)])
  | _ => (arrIx 0x040 6 o).map (fun i => x.hqDesc.getD i 0)

def Plat.trgRead (x : Plat) (o : Nat) : Option W64 :=
  (arrIx 0 1024 o).map (fun t => mkWord 64 [(0, 32, (SMap.get 0 x.thr t).toNat), (32, 32, SMap.get 0 x.fired t)])

def Plat.seqRead (x : Plat) (o : Nat) : Option W64 :=
  match o with
  | 0x000 => some (mkWord 64 [(0, 1, b2n x.seqRun.isSome), (1, 4, x.seqPend.length),
      (5, 16, match x.seqRun with | some r => r.macro_ | none => 0)])
  | 0x008 => some x.seqPasses
  | 0x010 => some x.seqExtra
  | 0x018 => some x.seqExtraBytes
  | 0x020 => some x.seqMacros
  | _ => none

def Plat.bmuRead (x : Plat) (o : Nat) : Option W64 :=
  match o with
  | 0x000 => some (mkWord 64 [(0, 9, x.waits.length), (9, 9, x.waitPeak)])
  | 0x008 => some x.bmkFault
  | 0x010 => some x.bmkDeny
  | 0x018 => some x.cntOps
  | 0x020 => some (w64 x.cntWaitFull.toNat)
  | _ => none

/-! Memory groups, AUs, ports -/

/-- Device of a channel with the most corrections: the lowest of equals (MG_CHIP_CE, R287). -/
def Chan.chipWord (c : Chan) : W64 :=
  match c.chipCe.foldl (fun (b : Option (Nat × Nat)) e => match b with
      | none => some e
      | some x => if x.2 < e.2 then some e else b) none with
  | none => 0
  | some (k, n) => mkWord 64 [(0, 5, k % 32), (5, 2, k / 32), (7, 1, 1), (32, 32, min n (2 ^ 32 - 1))]

def Chan.statusWord (c : Chan) : W64 :=
  mkWord 64 [(0, 3, c.state.num), (3, 1, b2n c.hot), (4, 1, b2n c.fullTrained), (8, 12, c.capacity), (32, 16, c.speed)]

def State.mgRead (s : State) (g o : Nat) : Option W64 :=
  let m := s.mg g
  let ch := fun k => s.chan (4 * g + k)
  match o with
  | 0x000 => some (mkWord 64 ((List.range 4).flatMap (fun k =>
      [(k, 1, b2n ((ch k).state == .up)), (4 + k, 1, b2n (ch k).hot)]) ++ [(8, 1, b2n s.dram.selfRefresh)]))
  | 0x008 => some m.fault
  | 0x010 => some (mkWord 64 [(0, 32, m.period.toNat), (32, 32, m.passes.toNat)])
  | 0x018 => some m.eccLoc
  | 0x020 => some (w64 m.cntPoison.toNat)
  | 0x028 => some m.cntRd
  | 0x030 => some m.cntWr
  | _ => orRead [
    (arrIx 0x040 4 o).map (fun k => (ch k).statusWord),
    (arrIx 0x060 4 o).map (fun k => w64 (ch k).eccCe.toNat),
    (arrIx 0x080 4 o).map (fun k => (ch k).chipWord)]

/-- A word of AU_COEF_LIVE (R234): words 1 to 9 of a row hold coefficients. -/
def State.liveWord (s : State) (a : Au) (i : Nat) : W64 :=
  let r := i / 16
  let half := fun (k : Nat) => if 2 ≤ k && k < 19 then a.liveCoef s.cfg r (k - 2) else s.cfg.ruleWord r k
  mkWord 64 [(0, 32, (half (2 * (i % 16))).toNat), (32, 32, (half (2 * (i % 16) + 1)).toNat)]

def State.auRead (s : State) (g o : Nat) : Option W64 :=
  let a := s.au g
  match o with
  | 0x000 => some (mkWord 64 [(0, 3, a.phase)])
  | 0x008 => some (w64 a.step.toNat)
  | 0x010 => some a.fault
  | 0x018 => some (mkWord 64 [(0, 32, s.adj.norm.toNat), (32, 32, s.adj.gsq.toNat)])
  | 0x020 => some (mkWord 64 [(0, 13, a.parked.length), (13, 13, a.peak)])
  | 0x028 => some a.cntElem
  | 0x030 => some a.cntStall
  | 0x038 => some a.precond
  | 0x040 => some s.adj.exch
  | _ => orRead [
    (arrIx 0x100 64 o).map (fun w => w64 (fld s.adj.freeze (64 * w) 64)),
    (arrIx 0x8000 1024 o).map (fun i => if s.img.state == .held then 0 else mkWord 64 [(0, 32, (s.cfg.ruleWord (i / 16) (2 * (i % 16))).toNat),
      (32, 32, (s.cfg.ruleWord (i / 16) (2 * (i % 16) + 1)).toNat)]),
    (arrIx 0xA000 1024 o).map (fun i => if s.img.state == .held then 0 else s.liveWord a i)]

def State.lxRead (s : State) (n o : Nat) : Option W64 :=
  let p := s.port n
  match o with
  | 0x000 => some (mkWord 64 [(0, 1, b2n p.en), (1, 1, b2n p.loopback)])
  | 0x008 => some p.status
  | 0x010 => some p.fault
  | 0x018 => some 0
  | 0x020 => some p.cntFecCe
  | 0x028 => some p.cntFecUe
  | 0x030 => some p.cntCrc
  | 0x038 => some p.cntReplay
  | 0x040 => some p.cntTx
  | 0x048 => some p.cntRx
  | 0x050 => some p.cntFwd
  | _ => orRead [
    (arrIx 0x080 8 o).map (fun i => wordAt p.peerKey i),
    (arrIx 0x100 8 o).map (fun v => mkWord 64 [(0, 16, if p.up then p.credit s.planCredit v else 0), (16, 16, p.rxUsed.getD v 0)])]

/-! The GLB block (R478) -/

/-- GLB_ID. -/
def glbId : W64 := mkWord 64 [(0, 16, 0x9600), (16, 8, 0x20), (32, 3, 4)]

/-- A load or a partial load runs. -/
def State.loadRuns (s : State) : Bool := s.img.state == .loading || s.img.partialBusy

/-- The check or write that a running load has reached, and how many bytes it has digested, as a read finds it (R155;
log entry 94). -/
def State.loadPhase (s : State) : Nat := if s.loadRuns then s.coursePhase s.loadAt else 0
def State.loadProgress (s : State) : Nat := if s.loadRuns then s.courseBytes s.loadAt else s.img.progress

def State.imgStatus (s : State) : W64 :=
  mkWord 64 [(0, 3, s.img.state.num), (3, 1, b2n s.img.loaded), (4, 1, b2n s.img.partialBusy), (5, 4, s.loadPhase)]

/-- LXG_STATUS (R351). -/
def State.lxgStatus (s : State) : W64 :=
  mkWord 64 [(0, 12, s.myNum.getD 0), (12, 1, b2n s.myNum.isSome), (13, 1, b2n s.isBridge), (14, 1, b2n s.lxg.strapBridge),
    (15, 1, b2n s.lxg.pendingTable.isSome), (16, 16, min s.lxg.rejected 65535),
    (32, 32, match s.lxg.table with | some t => t.epoch.toNat | none => 0)]

/-- Bytes 0x000 to 0x2FF of the map in use (R419). -/
def FenceCopy.bytes (c : FenceCopy) : List Byte :=
  ascii "BLKFENC1" ++ leBytes 8 c.seq.toNat ++ leBytes 112 0 ++ leBytes 640 c.bitmap.toNat

def Flt.read (f : Flt) (o : Nat) : Option W64 :=
  match o with
  | 0x1000 => some (mkWord 64 [(0, 3, f.stepState.num), (3, 9, f.buffer.length), (16, 16, f.dropped)])
  | 0x1008 => some (mkWord 64 [(0, 16, f.first.code.toNat), (16, 8, f.first.srcKind), (24, 16, f.first.srcInst),
      (40, 1, b2n f.first.valid)])
  | 0x1010 => some (mkWord 64 [(0, 48, f.attemptStep.toNat), (48, 16, f.attempts)])
  | 0x1018 => some f.cntC
  | 0x1020 => some f.cntK
  | 0x1028 => some f.cntF
  | 0x1030 => some f.head
  | 0x1038 => some f.sel
  | 0x1080 => some 0
  | 0x1088 => some (mkWord 64 [(0, 1, b2n f.fence.busy.isSome), (1, 1, b2n f.fence.lost), (16, 16, f.fence.result.toNat)])
  | _ => orRead [
    (arrIx 0x1040 8 o).map (fun i => wordAt f.selected i),
    (arrIx 0x1100 96 o).map (fun i => wordAt f.fence.inUse.bytes i)]

def State.monRead (s : State) (o : Nat) : Option W64 :=
  let m := s.mon
  match o with
  | 0x400 => some m.ctl
  | 0x408 => some m.sink
  | 0x410 => some 0
  | 0x418 => some s.monStatus
  | 0x420 => some (mkWord 64 [(0, 16, m.result.toNat), (16, 48, m.resultStep)])
  | 0x428 => some (mkWord 64 [(0, 32, m.acked), (32, 32, m.total)])
  | 0x430 => some (w64 m.interval.toNat)
  | 0x438 => some m.closeStatus
  | 0x440 => some m.seed0
  | 0x448 => some m.seed1
  | _ => orRead [
    (arrIx 0x480 8 o).map (fun i => wordAt m.root i),
    (arrIx 0x4C0 8 o).map (fun i => wordAt m.closeRoot i)]

def State.glbRead (s : State) (o : Nat) : Option W64 :=
  let i := s.img
  match o with
  | 0x000 => some glbId
  | 0x008 => some (if s.nvm.mfgBad then 0 else Config.serial)
  | 0x100 => some i.stageBase
  | 0x108 => some i.stageLen
  | 0x110 => some 0
  | 0x118 => some s.imgStatus
  | 0x120 => some (mkWord 64 [(0, 16, i.code.toNat), (16, 8, i.check), (24, 8, i.plat), (32, 16, i.section_)])
  | 0x128 => some (w64 i.item.toNat)
  | 0x130 => some (mkWord 64 [(0, 31, s.loadProgress)])
  | 0x800 => some s.lxgStatus
  | 0x808 => some (match s.lxg.pendingTable with | some t => w64 t.effStep.toNat | none => 0)
  | 0x810 => some s.lxg.faultLoc
  | _ => orRead [
    (arrIx 0x140 8 o).map (fun k => wordAt i.cfgId k),
    (arrIx 0x180 8 o).map (fun k => wordAt i.fullId k),
    (arrIx 0x1C0 8 o).map (fun k => wordAt i.layoutId k),
    s.monRead o, s.flt.read o]

/-! Clocks, power, NVM, security, datum, commands -/

def State.clkRead (s : State) (o : Nat) : Option W64 :=
  let c := s.clk
  match o with
  | 0x100 => some (w64 c.gateMode.toNat)
  | 0x108 => some 0
  | 0x110 => some (w64 c.gateResult.toNat)
  | 0x118 => some (mkWord 64 [(0, 1, b2n c.refin), (1, 1, b2n (s.dtm.state == .locked)),
      (2, 1, b2n ((List.range 25).any (fun d => (s.pll d).coasts)))])
  | 0x120 => some (mkWord 64 [(0, 5, c.meas), (5, 5, c.ref), (32, 32, c.gate.toNat)])
  | 0x128 => some (mkWord 64 [(0, 48, c.count.toNat), (48, 1, b2n c.done), (49, 1, b2n c.aborted)])
  | 0x130 => some c.fault
  | 0x138 => some c.faultLoc
  | _ => orRead [
    (arrIx 0x000 25 o).map (fun d => mkWord 64 [(0, 2, (s.pll d).num), (2, 1, b2n (c.treeMode d)), (3, 1, b2n (s.domRuns d))]),
    (arrIx 0x200 25 o).map (fun d => mkWord 64 ((List.range (gatesOf d)).map (fun g => (g, 1, b2n (s.gateShows d g)))))]

def State.pwrRead (s : State) (o : Nat) : Option W64 :=
  let p := s.pwr
  match o with
  | 0x000 => some (mkWord 64 [(0, 2, p.state.num), (2, 1, b2n p.moving)])
  | 0x008 => some 0
  | 0x010 => some (w64 p.result.toNat)
  | 0x018 => some (w64 p.limit.toNat)
  | 0x020 => some (w64 s.leak.toNat)
  | 0x028 => some (mkWord 64 [(0, 32, p.admitted.toNat), (32, 32, p.admittedSum.toNat)])
  | 0x030 => some (mkWord 64 [(0, 32, p.avg.toNat), (32, 32, p.peak.toNat)])
  | 0x038 => some p.tempWord
  | 0x040 => some (mkWord 64 [(0, 8, p.warn), (8, 8, 115)])
  | 0x048 => some p.fault
  | _ => none

def State.nvmRead (s : State) (o : Nat) : Option W64 :=
  let n := s.nvm
  let seq := fun (g : Option Gen) => match g with | some x => x.seq | none => (0 : W64)
  match o with
  | 0x000 => some n.status
  | 0x008 => some 0
  | 0x010 => some n.commitBase
  | 0x018 => some (w64 n.result.toNat)
  | 0x020 => some (w64 n.straps.toNat)
  | 0x028 => some (mkWord 64 [(0, 4, n.phase), (16, 32, n.heldUs.toNat)])
  | 0x030 => some (match n.counts with | some c => mkWord 64 [(0, 32, c.boots.toNat), (32, 32, c.commits.toNat)] | none => 0)
  | 0x040 => some n.set0
  | 0x048 => some n.set1
  | 0x050 => some n.set2
  | 0x080 => some (seq n.gen0)
  | 0x088 => some (seq n.gen1)
  | _ => none

/-- Byte address in SEC_BUF of an offset of its window (R456). -/
def Sec.bufAddr (x : Sec) (o : Nat) : Nat := (if x.bufPage then 32768 else 0) + (o - 0x8000)

/-- In the error state only SEC_STATUS and SEC_FAULT read other than 0 (R456). -/
def State.secRegRead (s : State) (o : Nat) : Option W64 :=
  let x := s.sec
  let r : Option W64 := match o with
    | 0x000 => some x.status
    | 0x008 => some (mkWord 64 [(0, 16, x.resCode.toNat), (16, 8, x.resService), (24, 17, x.resLen)])
    | 0x010 => some x.fault
    | 0x018 => some (mkWord 64 [(0, 32, x.fsfSvn.toNat), (32, 32, x.pcfSvn.toNat)])
    | 0x020 => some (mkWord 64 [(0, 32, x.imgSvn.toNat), (32, 32, x.fwkeyMin.toNat)])
    | 0x028 => some (mkWord 64 ((List.range 13).map (fun k => (2 * k, 2, (x.slot k).st))))
    | 0x030 => some (mkWord 64 [(0, 1, b2n x.fwDebug), (1, 1, b2n x.scan)])
    | 0x038 => some x.expiry
    | 0x040 => some (mkWord 64 [(0, 1, b2n x.bufPage)])
    | 0x048 => some (match x.roster with
        | some q => mkWord 64 [(0, 14, q.entries.length), (32, 32, q.seq.toNat % 2 ^ 32)]
        | none => 0)
    | _ => orRead [
      (arrIx 0x080 8 o).map (fun i => wordAt s.lxg.ownKeyId i),
      (arrIx 0x8000 4096 o).map (fun _ => w64 (leNat (Memory.read x.buf (x.bufAddr o) 8)))]
  if x.state == .error && o != 0x000 && o != 0x010 then r.map (fun _ => 0) else r

/-- step_time of the step in effect: 0 in LOCAL and ACQUIRING before a STEP_START (R359). -/
def State.dtmRead (s : State) (o : Nat) : Option W64 :=
  let d := s.dtmNow
  match o with
  | 0x000 => some (mkWord 64 [(0, 1, b2n d.role)])
  | 0x008 => some d.status
  | 0x010 => some d.time
  | 0x018 => some (w64 d.stepNow.toNat)
  | 0x020 => some d.stepSent.2
  | 0x028 => some 0
  | 0x030 => some 0
  | 0x038 => some d.masterTag
  | 0x040 => some (w64 d.mstep.toNat)
  | 0x048 => some d.mstepTime
  | 0x050 => some d.cntFrames
  | _ => none

/-- CMD_BCAST_STATUS (R374). -/
def Bcast.word (b : Bcast) : W64 :=
  mkWord 64 [(0, 1, b2n (!b.waitingOn.isEmpty)), (1, 12, b.ok), (13, 12, b.fail), (25, 12, b.firstDev), (37, 16, b.firstCode.toNat)]

/-- Word i of a slot (R371): words 1 to 6 read 0 until the completion has come. -/
def Slot.word (x : Slot) (i : Nat) : W64 :=
  if i = 0 then x.word0
  else if !x.ready then 0
  else if i = 1 then x.w1 else if i = 2 then x.w2 else if i < 7 then x.data.getD (i - 3) 0 else 0

def State.cmdRead (s : State) (o : Nat) : Option W64 :=
  let c := s.cmd
  match o with
  | 0x040 => some 0
  | 0x048 => some (mkWord 64 [(0, 16, c.lastCode.toNat), (16, 9, (c.held.filter (·.timed)).length)])
  | 0x050 => some (w64 c.arbHead)
  | 0x060 => some c.notify
  | 0x068 => some c.popWord
  | 0x070 => some 0
  | 0x078 => some c.bcast.word
  | _ => orRead [
    (arrIx 0x000 8 o).map (fun i => c.submit.getD i 0),
    (arrIx 0x080 8 o).map (fun i => c.bcastDesc.getD i 0),
    (arrIx 0x100 32 o).map (fun i =>
      let e := SMap.get {} c.arbLog (i / 2)
      if i % 2 = 0 then e.word else e.tick),
    (arrIx 0x8000 4096 o).map (fun i => (s.slot (i / 8)).word (i % 8))]

/-- A benchmark object (R217). -/
def State.bmkRegRead (s : State) (i o : Nat) : Option W64 :=
  let b := s.bmk i
  if o = 0 then some (mkWord 64 [(0, 32, b.count.toNat), (32, 32, b.thr.toNat)])
  else if o = 8 then some (mkWord 64 [(0, 32, b.mode.toNat), (32, 32, (s.waiters i).toNat)])
  else none

/-- What a register reads; none: no register lies there (R475). -/
def State.regValue (s : State) (b : Block) (o : Nat) : Option W64 :=
  match b with
  | .glb => s.glbRead o
  | .clk => s.clkRead o
  | .pwr => s.pwrRead o
  | .nvm => s.nvmRead o
  | .sec => s.secRegRead o
  | .dtm => s.dtmRead o
  | .cmd => s.cmdRead o
  | .mg g => s.mgRead g o
  | .au g => s.auRead g o
  | .lx n => s.lxRead n o
  | .bmk i => s.bmkRegRead i o
  | .cu p n => s.cuRead p n o
  | .mu p n => s.muRegRead p n o
  | .sw p x => s.swRead p x o
  | .trv p => (s.plat p).trvRead (s.spillsNow p) o
  | .dma p => (s.plat p).dmaRegRead o
  | .trg p => (s.plat p).trgRead o
  | .seq p => (s.plat p).seqRead o
  | .bmu p => (s.plat p).bmuRead o

end Sys2Proof.Machine
end

