-- ==== Sys2Proof/Machine/ControlSpace.lean ====
section
/-! DEFINITION. Reads and writes of control space by every path (R4, R474 to R480, R493). -/
namespace Sys2Proof.Machine

/-- Who is behind an access: plat control firmware of a plat, or a source with host rights (R479). -/
inductive Who where
  | fw (plat : Fin 4)
  | host (src : W16) (port : Fin 32)
  deriving DecidableEq, Repr

def Who.bmkSrc : Who → BmkSrc
  | .fw p => .fw p
  | .host src _ => .host src

/-- The block and offset of an access, if a register lies there (R474, R475). -/
def State.register (s : State) (a : W64) : Option (Block × Nat) :=
  if a.toNat < 2 ^ 48 && a.toNat % 8 = 0 then
    match blockAt a.toNat with
    | some (b, o) => if (s.regValue b o).isSome then some (b, o) else none
    | none => none
  else none

/-! Reading -/

def Cu.readClr (c : Cu) (o : Nat) : Cu :=
  match o with
  | 0x048 => { c with cntStallA := 0 }
  | 0x050 => { c with cntStallB := 0 }
  | 0x058 => { c with cntStallOut := 0 }
  | 0x068 => { c with accCe := 0 }
  | _ => c

def Mu.readClr (m : Mu) (o : Nat) : Mu :=
  match o with
  | 0x020 => { m with eccCe := 0 }
  | 0x038 => { m with cntConflict := 0 }
  | _ => m

def Sw.readClr (w : Sw) (o : Nat) : Sw :=
  match o with
  | 0x020 => { w with cntStale := 0 }
  | 0x028 => { w with cntParity := 0 }
  | _ => w

def Plat.dmaClr (x : Plat) (o : Nat) : Plat :=
  match o with
  | 0x010 => { x with cntRows := 0 }
  | 0x018 => { x with cntFull := 0 }
  | _ => x

def Plat.bmuClr (x : Plat) (o : Nat) : Plat :=
  match o with
  | 0x018 => { x with cntOps := 0 }
  | 0x020 => { x with cntWaitFull := 0 }
  | _ => x

def Mg.readClr (m : Mg) (o : Nat) : Mg :=
  match o with
  | 0x020 => { m with cntPoison := 0 }
  | 0x028 => { m with cntRd := 0 }
  | 0x030 => { m with cntWr := 0 }
  | _ => m

def Au.readClr (a : Au) (o : Nat) : Au :=
  match o with
  | 0x028 => { a with cntElem := 0 }
  | 0x030 => { a with cntStall := 0 }
  | _ => a

def Port.readClr (p : Port) (o : Nat) : Port :=
  match o with
  | 0x020 => { p with cntFecCe := 0 }
  | 0x028 => { p with cntFecUe := 0 }
  | 0x030 => { p with cntCrc := 0 }
  | 0x038 => { p with cntReplay := 0 }
  | 0x040 => { p with cntTx := 0 }
  | 0x048 => { p with cntRx := 0 }
  | 0x050 => { p with cntFwd := 0 }
  | _ => p

def Flt.readClr (f : Flt) (o : Nat) : Flt :=
  match o with
  | 0x1018 => { f with cntC := 0 }
  | 0x1020 => { f with cntK := 0 }
  | 0x1028 => { f with cntF := 0 }
  | _ => f

/-- What a read of a register leaves (R4): an RC register is 0, a read of a slot's word 0 counts (R371), a read of a
benchmark is an operation on it (R217). -/
def State.afterRead (s : State) (b : Block) (o : Nat) : State :=
  match b with
  | .cu p n => s.setCu p n ((s.cu p n).readClr o)
  | .mu p n => s.setMu p n ((s.mu p n).readClr o)
  | .sw p x => s.setSw p x ((s.sw p x).readClr o)
  | .dma p => s.setPlat p ((s.plat p).dmaClr o)
  | .bmu p => s.setPlat p ((s.plat p).bmuClr o)
  | .mg g =>
    if 0x060 ≤ o && o < 0x080 then
      (let c := 4 * g + (o - 0x060) / 8
       s.setChan c { s.chan c with eccCe := 0 })
    else s.setMg g ((s.mg g).readClr o)
  | .au g => s.setAu g ((s.au g).readClr o)
  | .lx n => s.setPort n ((s.port n).readClr o)
  | .glb =>
    let seen := s.loadRuns && (o = 0x118 || o = 0x130)
    { s with
      flt := s.flt.readClr o
      img := if seen then { s.img with course := s.loadAt } else s.img
      free := if seen then s.free + 1 else s.free }
  | .dtm => if o = 0x050 then { s with dtm := { s.dtm with cntFrames := 0 } } else s
  | .cmd =>
    if o = 0x068 then { s with cmd := s.cmd.popped }
    else if 0x8000 ≤ o && o % 64 = 0 then s.countRead ((o - 0x8000) / 64)
    else s
  | .bmk i => s.countOp i
  | _ => s

/-- A read: its value, its code, the state after it. -/
def State.readReg (s : State) (a : W64) : W64 × Code × State :=
  match s.register a with
  | none => (0, Codes.refused, s)
  | some (b, o) =>
    if s.blockGated b then (0, Codes.clkGated, s)
    else
      let s := s.woken b
      let s' := s.afterRead b o
      -- a read of word 0 of a slot shows the count with itself in it (R371)
      let v := match b with
        | .cmd => if 0x8000 ≤ o then (s'.regValue b o).getD 0 else (s.regValue b o).getD 0
        | _ => (s.regValue b o).getD 0
      (v, Codes.ok, s')

/-! Writing -/

/-- A W1C field: ones clear (R4). -/
def w1c (f v : W64) : W64 := f &&& ~~~v

/-- The bits of a word inside a field, the others 0. -/
def keepFld (v : W64) (lo len : Nat) : W64 := mkWord 64 [(lo, len, fld v lo len)]

def State.writeImg (s : State) (o : Nat) (v : W64) : State :=
  match o with
  | 0x100 => if s.loadBusy then s else { s with img := { s.img with stageBase := keepFld v 12 30 } }
  | 0x108 => if s.loadBusy then s else { s with img := { s.img with stageLen := keepFld v 0 31 } }
  | 0x110 => (s.imgOp (fld v 0 3)).1
  | _ => s

/-- MON_CTL (R316): a share outside 1 to 100 is ignored. -/
def Mon.writeCtl (m : Mon) (v : W64) : Mon :=
  let share := if 1 ≤ fld v 0 7 && fld v 0 7 ≤ 100 then fld v 0 7 else fld m.ctl 0 7
  { m with ctl := mkWord 64 [(0, 7, share), (7, 1, fld v 7 1), (8, 6, fld v 8 6), (15, 1, fld v 15 1), (16, 48, fld v 16 48)] }

/-- MON_SEED is written only in READY with no lock held (R295, R316). -/
def State.seedOpen (s : State) : Bool := s.img.state == .ready && s.mon.locks.isEmpty

def State.writeMon (s : State) (o : Nat) (v : W64) : State :=
  let m := s.mon
  match o with
  | 0x400 => { s with mon := m.writeCtl v }
  | 0x408 => { s with mon := { m with sink := mkWord 64 [(0, 1, fld v 0 1), (4, 40, fld v 4 40)] } }
  | 0x410 => (s.monWord v).1
  | 0x430 => { s with mon := { m with interval := BitVec.ofNat 32 (fld v 0 32) } }
  | 0x440 => if s.seedOpen then { s with mon := { m with seed0 := v } } else s
  | 0x448 => if s.seedOpen then { s with mon := { m with seed1 := v } } else s
  | _ => s

/-- A FLT_FENCE_CMD word (R420); a bit that R419 leaves at 0 makes none of any op (R423). -/
def fenceOpOf (v : W64) : Option FenceOp :=
  match fld v 0 2 with
  | 0 => some (.add (fld v 16 13))
  | 1 => some (.remove (fld v 16 13))
  | 2 => if fenceBitOk (fld v 16 13) then some .confirm else none
  | _ => none

def State.writeGlb (s : State) (o : Nat) (v : W64) : State :=
  if o = 0x1038 then { s with flt := { s.flt with sel := v } }
  else if o = 0x1080 then s.fenceStart (fenceOpOf v)
  else if 0x400 ≤ o && o < 0x500 then s.writeMon o v
  else s.writeImg o v

def State.writeClk (s : State) (o : Nat) (v : W64) : State :=
  match o with
  | 0x100 => gatingModeWrite v s
  | 0x108 => s.gateCmd (fld v 0 5) (fld v 5 5) (bitOf v 10)
  | 0x120 => fmeterStart v s
  | 0x130 => { s with clk := { s.clk with fault := w1c s.clk.fault v } }
  | _ => s

def State.writePwr (s : State) (o : Nat) (v : W64) : State :=
  match o with
  | 0x008 => (match fld v 0 2 with | 0 => idle s | 1 => wake s | _ => s.pwrResult Codes.refused)
  | 0x018 => pwrLimitWrite v s
  | 0x040 => if 60 ≤ fld v 0 8 && fld v 0 8 ≤ 110 then { s with pwr := { s.pwr with warn := fld v 0 8 } } else s
  | 0x048 => { s with pwr := { s.pwr with fault := w1c s.pwr.fault v } }
  | _ => s

/-- NVM registers (R473). The settings registers hold the pending generation; their reserved bits read 0. -/
def State.writeNvm (s : State) (o : Nat) (v : W64) : State :=
  let n := s.nvm
  match o with
  | 0x008 => if bitOf v 0 then (s.commitStart n.commitBase none).1 else s
  | 0x010 => { s with nvm := { n with commitBase := v } }
  | 0x040 => { s with nvm := { n with set0 := mkWord 64 [(0, 18, fld v 0 18), (24, 40, fld v 24 40)] } }
  | 0x048 => { s with nvm := { n with set1 := mkWord 64 [(0, 25, fld v 0 25), (32, 32, fld v 32 32)] } }
  | 0x050 => { s with nvm := { n with set2 := mkWord 64 [(0, 8, fld v 0 8), (32, 32, fld v 32 32)] } }
  | _ => s

/-- SEC registers (R456): the buffer is closed while a service runs (R439), the module takes no write in error. -/
def State.writeSec (s : State) (o : Nat) (v : W64) : State :=
  let x := s.sec
  if o = 0x010 then { s with sec := { x with fault := w1c x.fault v } }
  else if x.state == .error then s
  else if o = 0x040 then { s with sec := { x with bufPage := bitOf v 0 } }
  else if 0x8000 ≤ o then
    if x.zeroing.isSome then { s with sec := { x with fault := setBit x.fault 5 } }
    else { s with sec := { x with buf := Memory.write x.buf (x.bufAddr o) (leBytes 8 v.toNat) } }
  else s

def State.writeDtm (s : State) (o : Nat) (v : W64) : State :=
  match o with
  | 0x000 => s.setRole (bitOf v 0)
  | 0x028 => (s.refSelect (fld v 0 2)).1
  | 0x030 => dtmTimeSet v s
  | 0x040 => { s with dtm := { s.dtm with mstep := BitVec.ofNat 48 (fld v 0 48) } }
  | 0x048 => { s with dtm := { s.dtm with mstepTime := v } }
  | _ => s

/-- The order that CMD_SUBMIT describes (R361). -/
def Who.order (w : Who) (c : CmdWord) : Order :=
  match w with
  | .fw _ => { desc := c.desc, origin := .firmware, port := 32, arrival := .submit 0 }
  | .host src n => { desc := c.desc, origin := .host, port := n.castLE (by decide), arrival := .submit src }

def State.writeCmd (s : State) (w : Who) (o : Nat) (v : W64) : State :=
  if o < 0x040 then { s with cmd := { s.cmd with submit := s.cmd.submit.set (o / 8) v } }
  else if o = 0x040 then
    (let c := cmdOfWords s.cmd.submit
     if bitOf v 0 then submitOrder c.opcode (w.order c) s else s)
  else if o = 0x060 then { s with cmd := { s.cmd with notify := keepFld v 0 13 } }
  else if o = 0x070 then (if bitOf v 0 then broadcastGo (bitOf v 1) (fld v 2 12) s else s)
  else if 0x080 ≤ o && o < 0x0C0 then
    { s with cmd := { s.cmd with bcastDesc := s.cmd.bcastDesc.set ((o - 0x080) / 8) v } }
  else if 0x8000 ≤ o && o % 64 = 0 then (if bitOf v 0 then consume ((o - 0x8000) / 64) s else s)
  else s

def State.writeMg (s : State) (g o : Nat) (v : W64) : State :=
  let m := s.mg g
  match o with
  | 0x008 => s.setMg g { m with fault := w1c m.fault v }
  | 0x010 => s.setMg g { m with period := BitVec.ofNat 32 (fld v 0 32) }
  | _ => s

def State.writeAu (s : State) (g o : Nat) (v : W64) : State :=
  match o with
  | 0x008 => auStepWrite g v s
  | 0x010 => s.setAu g { s.au g with fault := w1c (s.au g).fault v }
  | _ => s

/-- LX_PORT_CTL (R321, R351): a port that is disabled is OFF, one that is enabled trains. -/
def State.portCtl (s : State) (n : Nat) (v : W64) : State :=
  let s' := s.setPort n { s.port n with en := bitOf v 0, loopback := bitOf v 1 }
  if bitOf v 0 then s'.openPort n
  else if (s.port n).state == .off then s' else s'.closePort n State.lost

def State.writeLx (s : State) (n o : Nat) (v : W64) : State :=
  match o with
  | 0x000 => s.portCtl n v
  | 0x010 => s.setPort n { s.port n with fault := w1c (s.port n).fault v }
  | 0x018 => (match fld v 0 2 with | 0 => retrain n s | 1 => rekey n s | _ => s)
  | _ => s

/-- A write of a benchmark object (R217): at offset 0 an ADD or a SET of the upper half, at offset 8 an ARM. -/
def State.writeBmk (s : State) (w : Who) (i o : Nat) (v : W64) : State × Code :=
  let hi : W32 := BitVec.ofNat 32 (fld v 32 32)
  let lo : W32 := BitVec.ofNat 32 (fld v 0 32)
  let op : BmkOp := if o = 8 then .arm hi lo else if bitOf v 0 then .set hi else .add hi
  match s.bmkCheck w.bmkSrc i op with
  | some c => (s, c)
  | none => match s.bmkApply w.bmkSrc i op with
    | (s, some r) => (s.bmkAfter i op, r.1)
    | (s, none) => (s, Codes.ok)

/-- A MU_CMD word (R95, R102): reserved operations are refused. -/
def State.muCmd (s : State) (p n : Nat) (v : W64) : State :=
  if 2 ≤ fld v 0 2 then s.setMu p n { s.mu p n with cmdResult := Codes.refused }
  else s.rowCommand p n { copy := bitOf v 0, dst := fld v 2 13, src := fld v 15 13, rows := fld v 28 14 } false

/-- A write of CU_FAULT: clearing abft_mismatch arms CU_ABFT_LOC again (R68). -/
def Cu.clearFault (c : Cu) (v : W64) : Cu :=
  { c with fault := w1c c.fault v, abftHeld := c.abftHeld && !bitOf v 0 }

def State.writeMu (s : State) (p n o : Nat) (v : W64) : State :=
  let m := s.mu p n
  match o with
  | 0x018 => s.setMu p n { m with fault := w1c m.fault v }
  | 0x030 => s.setMu p n { m with scrubExp := fld v 0 2 }
  | 0x040 => s.muCmd p n v
  | 0x048 => s.setMu p n { m with fillPat := v }
  | _ => s

/-- TRV registers (R127). -/
def State.writeTrv (s : State) (p o : Nat) (v : W64) : State :=
  let x := s.plat p
  match o with
  | 0x000 => s.setPlat p { x with dldWindow := fld v 0 16, dldEn := bitOf v 16 }
  | 0x018 => (s.drainWord p v).1
  | 0x028 => s.setPlat p { x with timeoutExp := fld v 0 5 }
  | _ => s

def State.writeDma (s : State) (p o : Nat) (v : W64) : State :=
  let x := s.plat p
  if o = 0x008 then s.setPlat p { x with dmaFault := w1c x.dmaFault v }
  else if o = 0x070 then dmaHqPush p (bitOf v 0) s
  else if 0x040 ≤ o && o < 0x070 then
    s.setPlat p { x with hqDesc := x.hqDesc.set ((o - 0x040) / 8) (if o = 0x068 then keepFld v 0 48 else v) }
  else s

/-- A write to a register that lies there: RO and RC fields ignore it (R4). -/
def State.writeAt (s : State) (w : Who) (b : Block) (o : Nat) (v : W64) : State × Code :=
  match b with
  | .glb => (s.writeGlb o v, Codes.ok)
  | .clk => (s.writeClk o v, Codes.ok)
  | .pwr => (s.writePwr o v, Codes.ok)
  | .nvm => (s.writeNvm o v, Codes.ok)
  | .sec => (s.writeSec o v, Codes.ok)
  | .dtm => (s.writeDtm o v, Codes.ok)
  | .cmd => (s.writeCmd w o v, Codes.ok)
  | .mg g => (s.writeMg g o v, Codes.ok)
  | .au g => (s.writeAu g o v, Codes.ok)
  | .lx n => (s.writeLx n o v, Codes.ok)
  | .bmk i => s.writeBmk w i o v
  | .cu p n => (if o = 0x030 then s.setCu p n ((s.cu p n).clearFault v) else s, Codes.ok)
  | .mu p n => (s.writeMu p n o v, Codes.ok)
  | .sw p x => (if o = 0x018 then s.setSw p x { s.sw p x with fault := w1c (s.sw p x).fault v } else s, Codes.ok)
  | .trv p => (s.writeTrv p o v, Codes.ok)
  | .dma p => (s.writeDma p o v, Codes.ok)
  | .trg _ => (s, Codes.ok)
  | .seq _ => (s, Codes.ok)
  | .bmu p =>
    (if o = 0x008 then s.setPlat p { s.plat p with bmkFault := w1c (s.plat p).bmkFault v } else s, Codes.ok)

/-- A write, its code, the state after it. A push to the host queue of an engine that Idle stops is answered in
DMA_HQ_STATUS (R388). -/
def State.writeReg (s : State) (w : Who) (a v : W64) : State × Code :=
  match s.register a with
  | none => (s, Codes.refused)
  | some (b, o) => if s.accessGated b o then (s, Codes.clkGated) else (s.woken b).writeAt w b o v

/-! SMBus (R479, R493) -/

/-- Registers the SMBus target may read (R479). -/
def smbReadable (b : Block) (o : Nat) : Bool :=
  match b with
  | .glb => o = 0x000 || o = 0x008 || o = 0x1000 || o = 0x1008
  | .pwr => o = 0x000 || o = 0x038 || o = 0x048
  | .nvm => o = 0x000 || o = 0x020 || o = 0x028
  | .sec => o = 0x000 || o = 0x010
  | _ => false

/-- Blocks that start-up has started (R479). -/
def State.blockStarted (s : State) (b : Block) : Bool :=
  match b with
  | .nvm => true
  | .sec => true
  | .pwr => 6 ≤ s.nvm.phase
  | _ => 5 ≤ s.nvm.phase

/-- An SMBus read: its value and its code. -/
def State.smbRead (s : State) (a : W64) : W64 × Code :=
  match s.register a with
  | none => (0, Codes.refused)
  | some (b, o) =>
    if !smbReadable b o then (0, Codes.refused)
    else if !s.blockStarted b then (0, Codes.notReady)
    else ((s.regValue b o).getD 0, Codes.ok)

/-- REG_READ: the address is kept. -/
def regRead (a : W64) (s : State) : State :=
  if s.pathOpen .smbus then { s with smb := { s.smb with regAddr := some a } } else s

def execRegRead (addr : W64) (s : State) : Outcome := .next (regRead addr s)

/-- REG_VALUE: status code and value. -/
def regValueRead (s : State) : State :=
  if s.pathOpen .smbus then
    let (v, c) := match s.smb.regAddr with
      | some a => s.smbRead a
      | none => (0, Codes.refused)
    (s.emit (.code c)).emit (.value v)
  else s

def execRegValue (s : State) : Outcome := .next (regValueRead s)

/-! The rows of control space -/

/-- REGISTER_WRITE. An access of another size than 8 bytes is refused and changes nothing (R217, R474). -/
def registerWrite (path : Path) (a : W64) (size : Nat) (v : W64) (s : State) : State :=
  if !s.pathOpen path then s
  else if size ≠ 8 then s.emit (.code Codes.refused)
  else match path with
    | .fw p => (let (s, c) := s.writeReg (.fw p) a v; s.emit (.code c))
    | .mgmt src n => (let (s, c) := s.writeReg (.host src n) a v; s.emit (.code c))
    | .smbus => s.emit (.code Codes.refused)

def execRegisterWrite (path : Path) (a : Access) (value : W64) (s : State) : Outcome :=
  .next (registerWrite path a.addr a.size value s)

/-- READ_CLEAR, and every other register read. An access of another size than 8 bytes is refused (R217, R474). -/
def readClear (path : Path) (a : W64) (size : Nat) (s : State) : State :=
  if !s.pathOpen path then s
  else if size ≠ 8 then (s.emit (.code Codes.refused)).emit (.value 0)
  else match path with
    | .smbus => (let (v, c) := s.smbRead a; (s.emit (.code c)).emit (.value v))
    | _ => (let (v, c, s) := s.readReg a; (s.emit (.code c)).emit (.value v))

def execReadClear (path : Path) (a : Access) (s : State) : Outcome := .next (readClear path a.addr a.size s)

/-- The body of a MGMT access. One of another size than a word is a transaction of that payload length (R330, R331). -/
def mgmtBody (write : Bool) (a : Access) (v : W64) : TBody :=
  if a.size = 8 then .mgmt write a.addr v
  else .other 0x0B (mkWord 128 [(0, 1, b2n write), (64, 64, a.addr.toNat)]) (List.replicate a.size 0)

/-- MGMT_READ (R332): with host rights. An access of another size than 8 bytes is refused (R474). -/
def mgmtRead (rx : Rx) (a : Access) (s : State) : State :=
  s.take rx (mgmtBody false a 0) (fun s rx =>
    if a.size ≠ 8 then s.respond rx 0x0B Codes.refused
    else
      let (v, c, s) := s.readReg a.addr
      s.respond rx 0x0B c v)

def execMgmtRead (rx : Rx) (addr : Access) (s : State) : Outcome := .next (mgmtRead rx addr s)

/-- MGMT_WRITE (R332); as above for its size. -/
def mgmtWrite (rx : Rx) (a : Access) (v : W64) (s : State) : State :=
  s.take rx (mgmtBody true a v) (fun s rx =>
    if a.size ≠ 8 then s.respond rx 0x0B Codes.refused
    else
      let (s, c) := s.writeReg (.host rx.src rx.port) a.addr v
      s.respond rx 0x0B c)

def execMgmtWrite (rx : Rx) (addr : Access) (value : W64) (s : State) : Outcome := .next (mgmtWrite rx addr value s)

end Sys2Proof.Machine
end

