-- ==== Sys2Proof/Machine/ExternalMemory.lean ====
section
/-! DEFINITION. Events of external memory: reads, writes, refresh, temperature, patrol scrub (R267 to R272). -/
namespace Sys2Proof.Machine

/-- The DRAM serves accesses: its modules are not in self-refresh (R388), and the PHY clocks run (R381). -/
def State.dramAwake (s : State) : Bool := !s.dram.selfRefresh && s.clk.refin

/-- Address of the burst that an address lies in. -/
def burstBase (a : Nat) : Nat := a / 128 * 128

/-- What channel c holds is lost (R412). -/
def Dram.lose (d : Dram) (c : Nat) : Dram :=
  { d with
    mem := d.mem.filter (fun e => e.1 / 2 ^ 40 != c)
    poison := d.poison.filter (fun e => e.1 / 2 ^ 33 != c)
    err := d.err.filter (fun e => e.1 / 2 ^ 33 != c) }

/-- A channel is lost after 16 consecutive failed retries (R267, R412). -/
def State.channelDown (s : State) (c : Nat) : State :=
  let g := c / 4
  let s := { s with dram := s.dram.lose c }
  let s := s.setChan c { s.chan c with state := .failed }
  let s := s.setMg g { s.mg g with fault := setBit (s.mg g).fault 4 }
  s.raise .fatal Codes.dramChannelDown 5 g (s.mg g).eccLoc

/-- An access that R277 forbids: REFUSED, and DMA_ADDR from plat DMA. -/
def State.dramForbidden (s : State) (u : DramUser) : State :=
  match u with
  | .platDma p => s.dmaAddrCode p.val 2 0
  | .hostDma p => s.dmaAddrCode p.val 3 0
  | .stash p => s.dmaAddrCode p.val 0 0
  | _ => s.emit (.code Codes.refused)

/-- DRAM_READ: after so many failed retries, one burst is read for `u` and decoded (R267, R269 to R271). -/
def dramReadEvent (u : DramUser) (a failedRetries : Nat) (ups : List Upset) (s : State) : State :=
  if !s.dramAwake then s.emit (.code Codes.notReady)
  else if !s.dramReadOk u a then s.dramForbidden u
  else match s.dramMap a with
    | none => s.emit (.code Codes.refused)
    | some (c, _) =>
      if 16 ≤ failedRetries then s.channelDown c
      else
        let (bs, bad, s) := (s.strikes ups).dramRead u (burstBase a) 128
        s.emit (.bytes bs bad)

def execDramRead (u : DramUser) (cmd : ReadCmd) (ups : List Upset) (s : State) : Outcome :=
  .next (s.whenAwake (dramReadEvent u cmd.addr.toNat cmd.failedRetries ups))

/-- DRAM_WRITE: bytes of one burst from an address, after so many failed retries (R267, R271). -/
def dramWriteEvent (u : DramUser) (a : Nat) (data : List Byte) (poison : Bool) (failedRetries : Nat) (ups : List Upset)
    (s : State) : State :=
  let data := data.take (burstBase a + 128 - a)
  if !s.dramAwake then s.emit (.code Codes.notReady)
  else if data.isEmpty then s
  else if (s.loadBusy && s.inStaging a) || (dramIsHost u && (s.rangeOf a).any (fun r => s.kindLocked r.kind)) then
    s.emit (.code Codes.refused)
  else if !s.dramWriteOk u a then s.dramForbidden u
  else match s.dramMap a with
    | none => s.emit (.code Codes.refused)
    | some (c, _) =>
      if 16 ≤ failedRetries then s.channelDown c
      else (s.strikes ups).dramWrite u a data poison

def execDramWrite (u : DramUser) (addr : BitVec 42) (data : List Byte) (poison : Bool) (failedRetries : Nat)
    (ups : List Upset) (s : State) : Outcome :=
  .next (s.whenAwake (dramWriteEvent u addr.toNat data poison failedRetries ups))

/-- A command to a channel that is in operation fails after 16 failed retries (R267). -/
def State.chanFails (s : State) (c failedRetries : Nat) : Bool := 16 ≤ failedRetries && (s.chan c).state == .up

/-- DRAM_REFRESH: refresh, calibration and tracking change no state the part shows (R267; log entry 26), unless the command
fails for good. -/
def dramRefresh (c failedRetries : Nat) (s : State) : State :=
  if s.chanFails c failedRetries then s.channelDown c else s

def execDramRefresh (cmd : ChanCmd) (s : State) : Outcome := .next (dramRefresh cmd.chan.val cmd.failedRetries s)

/-- DRAM_HOT: a module reports 85 °C or more; the status is raised once (R267). -/
def dramHot (c failedRetries : Nat) (s : State) : State :=
  let ch := s.chan c
  let g := c / 4
  if s.chanFails c failedRetries then s.channelDown c
  else if ch.state != .up || ch.hot then s
  else
    let s := s.setChan c { ch with hot := true }
    let s := s.setMg g { s.mg g with fault := setBit (s.mg g).fault 5 }
    s.raise .stat Codes.dramHot 5 g (s.mg g).eccLoc

def execDramHot (cmd : ChanCmd) (s : State) : Outcome := .next (dramHot cmd.chan.val cmd.failedRetries s)

/-- The scrubber of channel c moves on; a pass of the group ends when each of its used channels has ended one. -/
def State.scrubAdvance (s : State) (c : Nat) : State :=
  let ch := s.chan c
  let g := c / 4
  let next := ch.scrubPos + 1
  if next * 128 < ch.bytes then s.setChan c { ch with scrubPos := next }
  else
    let s := s.setChan c { ch with scrubPos := 0 }
    let m := s.mg g
    let done := m.passed ||| 2 ^ (c % 4)
    let all := (List.range 4).all (fun k => (s.chan (4 * g + k)).state != .up || done.testBit k)
    s.setMg g (if all then { m with passed := 0, passes := m.passes + 1 } else { m with passed := done })

/-- PATROL_SCRUB: one burst is read, corrected and written back (R272). -/
def patrolScrub (c : Nat) (ups : List Upset) (s : State) : State :=
  let g := c / 4
  let ch := s.chan c
  if ch.state != .up || !s.dramAwake || (s.mg g).period == 0 then s
  else
    let s := s.strikes ups
    let key := burstKey c (128 * ch.scrubPos)
    let (bad, s) := s.burstDecode c key
    let s := if bad then
        let loc := mgLoc c ch.scrubPos false true
        let s := { s with dram := { s.dram with
          poison := SMap.set false s.dram.poison key true, err := SMap.set [] s.dram.err key [] } }
        let m := s.mg g
        (s.setMg g { m with fault := setBit m.fault 2, eccLoc := loc }).raise .stat Codes.dramScrubUe 5 g loc
      else s
    s.scrubAdvance c

def execPatrolScrub (c : Fin 16) (ups : List Upset) (s : State) : Outcome := .next (patrolScrub c.val ups s)

end Sys2Proof.Machine
end

