-- ==== Sys2Proof/Machine/Dispatch.lean ====
section
/-! DEFINITION. The meaning of every command, one arm each. -/
namespace Sys2Proof.Machine

/-- The effect of a command on everything but the queue. -/
def exec (i : Instr) (s : State) : Host.Outcome State Fault Refusal :=
  match i with
  | .registerWrite path addr value => Sys2Proof.Machine.execRegisterWrite path addr value s
  | .readClear path addr => Sys2Proof.Machine.execReadClear path addr s
  | .kStep p cu scaleSeen => Sys2Proof.Machine.execKStep p cu scaleSeen s
  | .tileOperationStart p cu => Sys2Proof.Machine.execTileOperationStart p cu s
  | .checksumComparison p cu tile => Sys2Proof.Machine.execChecksumComparison p cu tile s
  | .retireSetReadout p cu => Sys2Proof.Machine.execRetireSetReadout p cu s
  | .readoutComplete p cu => Sys2Proof.Machine.execReadoutComplete p cu s
  | .accumulatorScrub p cu errs => Sys2Proof.Machine.execAccumulatorScrub p cu errs s
  | .rowStreamToken p cu streamY => Sys2Proof.Machine.execRowStreamToken p cu streamY s
  | .scalarInputArrival p cu => Sys2Proof.Machine.execScalarInputArrival p cu s
  | .narrowRead p mu off size ups => Sys2Proof.Machine.execNarrowRead p mu off size ups s
  | .narrowWrite p mu off size value => Sys2Proof.Machine.execNarrowWrite p mu off size value s
  | .generatorStartEvent p mu => Sys2Proof.Machine.execGeneratorStartEvent p mu s
  | .pendingWalkStart p mu a => Sys2Proof.Machine.execPendingWalkStart p mu a s
  | .generatorAddress p mu a ups => Sys2Proof.Machine.execGeneratorAddress p mu a ups s
  | .walkEnd p mu a => Sys2Proof.Machine.execWalkEnd p mu a s
  | .accumulateSegment p mu => Sys2Proof.Machine.execAccumulateSegment p mu s
  | .parkedSegmentApply p mu r => Sys2Proof.Machine.execParkedSegmentApply p mu r s
  | .queueTokenIn p mu k => Sys2Proof.Machine.execQueueTokenIn p mu k s
  | .queueTokenOut p mu k => Sys2Proof.Machine.execQueueTokenOut p mu k s
  | .fill p mu dst rows byEvent => Sys2Proof.Machine.execFill p mu dst rows byEvent s
  | .copy p mu dst src rows byEvent => Sys2Proof.Machine.execCopy p mu dst src rows byEvent s
  | .rowCommandDone p mu => Sys2Proof.Machine.execRowCommandDone p mu s
  | .creditReturn p mu r => Sys2Proof.Machine.execCreditReturn p mu r s
  | .scrubRow p mu ups => Sys2Proof.Machine.execScrubRow p mu ups s
  | .scrubLate p mu => Sys2Proof.Machine.execScrubLate p mu s
  | .tokenArrival p site net chan flips => Sys2Proof.Machine.execTokenArrival p site net chan flips s
  | .tokenDeparture p site net chan unitReady unitParityBad => Sys2Proof.Machine.execTokenDeparture p site net chan unitReady unitParityBad s
  | .queueBlocked p site net chan => Sys2Proof.Machine.execQueueBlocked p site net chan s
  | .deadlockResolution p cycle => Sys2Proof.Machine.execDeadlockResolution p cycle s
  | .spillEnd p site => Sys2Proof.Machine.execSpillEnd p site s
  | .drain p mask via => Sys2Proof.Machine.execDrain p mask via s
  | .drainComplete p mask => Sys2Proof.Machine.execDrainComplete p mask s
  | .drainTimeout p mask => Sys2Proof.Machine.execDrainTimeout p mask s
  | .resume p mask via => Sys2Proof.Machine.execResume p mask via s
  | .load via => Sys2Proof.Machine.execLoad via s
  | .loadComplete sig ups => Sys2Proof.Machine.execLoadComplete sig ups s
  | .loadPartial via => Sys2Proof.Machine.execLoadPartial via s
  | .partialLoadComplete sig ups => Sys2Proof.Machine.execPartialLoadComplete sig ups s
  | .start via ups => Sys2Proof.Machine.execStart via ups s
  | .stop via => Sys2Proof.Machine.execStop via s
  | .stopComplete => Sys2Proof.Machine.execStopComplete s
  | .unload via => Sys2Proof.Machine.execUnload via s
  | .abort via => Sys2Proof.Machine.execAbort via s
  | .pushWalk p mu a ups => Sys2Proof.Machine.execPushWalk p mu a ups s
  | .popWalk p mu a ups => Sys2Proof.Machine.execPopWalk p mu a ups s
  | .stashSpill p mu r ups => Sys2Proof.Machine.execStashSpill p mu r ups s
  | .stashRefill p mu r ups => Sys2Proof.Machine.execStashRefill p mu r ups s
  | .dmaDescriptorStart p => Sys2Proof.Machine.execDmaDescriptorStart p s
  | .rowRequestIssue p => Sys2Proof.Machine.execRowRequestIssue p s
  | .rowRequestDone p ix ups => Sys2Proof.Machine.execRowRequestDone p ix ups s
  | .descriptorComplete p => Sys2Proof.Machine.execDescriptorComplete p s
  | .dmaHqPush p go => Sys2Proof.Machine.execDmaHqPush p go s
  | .triggerFire p t => Sys2Proof.Machine.execTriggerFire p t s
  | .sequencerStart p ix => Sys2Proof.Machine.execSequencerStart p ix s
  | .sequencerPendingStart p => Sys2Proof.Machine.execSequencerPendingStart p s
  | .bmkRead src ix => Sys2Proof.Machine.execBmkRead src ix s
  | .bmkAdd src ix v => Sys2Proof.Machine.execBmkAdd src ix v s
  | .bmkSet src ix v => Sys2Proof.Machine.execBmkSet src ix v s
  | .bmkWait src ix v => Sys2Proof.Machine.execBmkWait src ix v s
  | .bmkArm src ix thr mode => Sys2Proof.Machine.execBmkArm src ix thr mode s
  | .bmkReservedOp src ix op => Sys2Proof.Machine.execBmkReservedOp src ix op s
  | .requantisation item ups => Sys2Proof.Machine.execRequantisation item ups s
  | .sealSend => Sys2Proof.Machine.execSealSend s
  | .normRecord rx rec => Sys2Proof.Machine.execNormRecord rx rec s
  | .exchangeTimeout => Sys2Proof.Machine.execExchangeTimeout s
  | .pass1Start => Sys2Proof.Machine.execPass1Start s
  | .auElementEvaluate g ups => Sys2Proof.Machine.execAuElementEvaluate g ups s
  | .parkedSlotEvaluate g slot ups => Sys2Proof.Machine.execParkedSlotEvaluate g slot ups s
  | .gateSend => Sys2Proof.Machine.execGateSend s
  | .pass2Start blocks => Sys2Proof.Machine.execPass2Start blocks s
  | .commitSend => Sys2Proof.Machine.execCommitSend s
  | .stepBoundary => Sys2Proof.Machine.execStepBoundary s
  | .coefSet order => Sys2Proof.Machine.execCoefSet order s
  | .freezeSet order => Sys2Proof.Machine.execFreezeSet order s
  | .auStepWrite g value => Sys2Proof.Machine.execAuStepWrite g value s
  | .dramRead user cmd ups => Sys2Proof.Machine.execDramRead user cmd ups s
  | .dramWrite user addr data poison failedRetries ups => Sys2Proof.Machine.execDramWrite user addr data poison failedRetries ups s
  | .dramRefresh cmd => Sys2Proof.Machine.execDramRefresh cmd s
  | .dramHot cmd => Sys2Proof.Machine.execDramHot cmd s
  | .patrolScrub chan ups => Sys2Proof.Machine.execPatrolScrub chan ups s
  | .capture via step => Sys2Proof.Machine.execCapture via step s
  | .restore via newest step => Sys2Proof.Machine.execRestore via newest step s
  | .monumentAbort via => Sys2Proof.Machine.execMonumentAbort via s
  | .chunkRead ups => Sys2Proof.Machine.execChunkRead ups s
  | .ackFrame rx frame => Sys2Proof.Machine.execAckFrame rx frame s
  | .retryResend index => Sys2Proof.Machine.execRetryResend index s
  | .silenceResend index => Sys2Proof.Machine.execSilenceResend index s
  | .resendLimit index => Sys2Proof.Machine.execResendLimit index s
  | .recordSignature => Sys2Proof.Machine.execRecordSignature s
  | .monBankWait => Sys2Proof.Machine.execMonBankWait s
  | .chunkFrame rx frame => Sys2Proof.Machine.execChunkFrame rx frame s
  | .recordFrame rx frame sig => Sys2Proof.Machine.execRecordFrame rx frame sig s
  | .abandonFrame rx frame => Sys2Proof.Machine.execAbandonFrame rx frame s
  | .pullFrame rx frame => Sys2Proof.Machine.execPullFrame rx frame s
  | .closureDigestDone ups => Sys2Proof.Machine.execClosureDigestDone ups s
  | .closureDeadline => Sys2Proof.Machine.execClosureDeadline s
  | .laserLost k => Sys2Proof.Machine.execLaserLost k s
  | .laserReturn k => Sys2Proof.Machine.execLaserReturn k s
  | .laneLockLoss n lane => Sys2Proof.Machine.execLaneLockLoss n lane s
  | .trainingDone n => Sys2Proof.Machine.execTrainingDone n s
  | .announce n a sig => Sys2Proof.Machine.execAnnounce n a sig s
  | .keyx n ciphertext transcript signature => Sys2Proof.Machine.execKeyx n ciphertext transcript signature s
  | .dataFlit n f fec => Sys2Proof.Machine.execDataFlit n f fec s
  | .linkFlit n f ended bad => Sys2Proof.Machine.execLinkFlit n f ended bad s
  | .ackReport n => Sys2Proof.Machine.execAckReport n s
  | .nakRepeat n => Sys2Proof.Machine.execNakRepeat n s
  | .replayLimit n => Sys2Proof.Machine.execReplayLimit n s
  | .retrain n => Sys2Proof.Machine.execRetrain n s
  | .rekey n => Sys2Proof.Machine.execRekey n s
  | .rekeyTimeout n => Sys2Proof.Machine.execRekeyTimeout n s
  | .keyPhaseGraceEnd n => Sys2Proof.Machine.execKeyPhaseGraceEnd n s
  | .rwrite rx addr data poison => Sys2Proof.Machine.execRwrite rx addr data poison s
  | .rread rx addr bytes ups => Sys2Proof.Machine.execRread rx addr bytes ups s
  | .resp rx code answered value data => Sys2Proof.Machine.execResp rx code answered value data s
  | .coll rx addr mode contrib entry tokens => Sys2Proof.Machine.execColl rx addr mode contrib entry tokens s
  | .cpl rx code opcode value => Sys2Proof.Machine.execCpl rx code opcode value s
  | .mgmtRead rx addr => Sys2Proof.Machine.execMgmtRead rx addr s
  | .mgmtWrite rx addr value => Sys2Proof.Machine.execMgmtWrite rx addr value s
  | .member rx table sig => Sys2Proof.Machine.execMember rx table sig s
  | .linkstate rx keyId ports => Sys2Proof.Machine.execLinkstate rx keyId ports s
  | .transactionForward t => Sys2Proof.Machine.execTransactionForward t s
  | .forwardStall tag => Sys2Proof.Machine.execForwardStall tag s
  | .lxTimeout tag => Sys2Proof.Machine.execLxTimeout tag s
  | .streamEntryFire e => Sys2Proof.Machine.execStreamEntryFire e s
  | .datumFrameSend n => Sys2Proof.Machine.execDatumFrameSend n s
  | .datumFrame rx f t4frac => Sys2Proof.Machine.execDatumFrame rx f t4frac s
  | .referenceLoss portLeft => Sys2Proof.Machine.execReferenceLoss portLeft s
  | .holdoverExpiry => Sys2Proof.Machine.execHoldoverExpiry s
  | .localRef via => Sys2Proof.Machine.execLocalRef via s
  | .reacquire via => Sys2Proof.Machine.execReacquire via s
  | .dtmTimeSet value => Sys2Proof.Machine.execDtmTimeSet value s
  | .stepStart order => Sys2Proof.Machine.execStepStart order s
  | .stepStartTime => Sys2Proof.Machine.execStepStartTime s
  | .nop order => Sys2Proof.Machine.execNop order s
  | .commandActivation id => Sys2Proof.Machine.execCommandActivation id s
  | .deadlineMissed id => Sys2Proof.Machine.execDeadlineMissed id s
  | .consume slot => Sys2Proof.Machine.execConsume slot s
  | .slotWord0Read slot => Sys2Proof.Machine.execSlotWord0Read slot s
  | .notifyPop => Sys2Proof.Machine.execNotifyPop s
  | .broadcastGo all dev => Sys2Proof.Machine.execBroadcastGo all dev s
  | .pllLockFail d => Sys2Proof.Machine.execPllLockFail d s
  | .pllRelock => Sys2Proof.Machine.execPllRelock s
  | .refinLost => Sys2Proof.Machine.execRefinLost s
  | .gatingModeWrite value => Sys2Proof.Machine.execGatingModeWrite value s
  | .idleClockStop d block => Sys2Proof.Machine.execIdleClockStop d block s
  | .clockWake d block => Sys2Proof.Machine.execClockWake d block s
  | .gateOpen d gate => Sys2Proof.Machine.execGateOpen d gate s
  | .gateClose d gate => Sys2Proof.Machine.execGateClose d gate s
  | .fmeterStart value => Sys2Proof.Machine.execFmeterStart value s
  | .fmeterDone count refStopped => Sys2Proof.Machine.execFmeterDone count refStopped s
  | .idle => Sys2Proof.Machine.execIdle s
  | .wake => Sys2Proof.Machine.execWake s
  | .powerStateChange => Sys2Proof.Machine.execPowerStateChange s
  | .pwrLimitWrite value => Sys2Proof.Machine.execPwrLimitWrite value s
  | .railPoll avgMw answered => Sys2Proof.Machine.execRailPoll avgMw answered s
  | .temperatureSample temps => Sys2Proof.Machine.execTemperatureSample temps s
  | .vddCoreAdjust stepUv => Sys2Proof.Machine.execVddCoreAdjust stepUv s
  | .avsFail => Sys2Proof.Machine.execAvsFail s
  | .avsTelemetry rail => Sys2Proof.Machine.execAvsTelemetry rail s
  | .spineTransfer damage header => Sys2Proof.Machine.execSpineTransfer damage header s
  | .watchdogExpiry p => Sys2Proof.Machine.execWatchdogExpiry p s
  | .quiescingEnd timedOut ups => Sys2Proof.Machine.execQuiescingEnd timedOut ups s
  | .restartActionsDone => Sys2Proof.Machine.execRestartActionsDone s
  | .restartFail => Sys2Proof.Machine.execRestartFail s
  | .faultRecordStore => Sys2Proof.Machine.execFaultRecordStore s
  | .fenceAdd bit => Sys2Proof.Machine.execFenceAdd bit s
  | .fenceRemove bit => Sys2Proof.Machine.execFenceRemove bit s
  | .fenceConfirm => Sys2Proof.Machine.execFenceConfirm s
  | .fenceStoreDone ok => Sys2Proof.Machine.execFenceStoreDone ok s
  | .nonce order => Sys2Proof.Machine.execNonce order s
  | .nonceExpiry => Sys2Proof.Machine.execNonceExpiry s
  | .coAuth order sig => Sys2Proof.Machine.execCoAuth order sig s
  | .coLogout order => Sys2Proof.Machine.execCoLogout order s
  | .coSessionTimeout => Sys2Proof.Machine.execCoSessionTimeout s
  | .selfTest order failTest => Sys2Proof.Machine.execSelfTest order failTest s
  | .attest order => Sys2Proof.Machine.execAttest order s
  | .getCert order => Sys2Proof.Machine.execGetCert order s
  | .keyEnroll order => Sys2Proof.Machine.execKeyEnroll order s
  | .keyRevoke order => Sys2Proof.Machine.execKeyRevoke order s
  | .svnAdvance order => Sys2Proof.Machine.execSvnAdvance order s
  | .rosterSet order sig => Sys2Proof.Machine.execRosterSet order sig s
  | .fwUpdate order key sig => Sys2Proof.Machine.execFwUpdate order key sig s
  | .debugUnlock order sig => Sys2Proof.Machine.execDebugUnlock order sig s
  | .debugLock order => Sys2Proof.Machine.execDebugLock order s
  | .debugExpiry => Sys2Proof.Machine.execDebugExpiry s
  | .zeroizeSession order => Sys2Proof.Machine.execZeroizeSession order s
  | .zeroizeData order => Sys2Proof.Machine.execZeroizeData order s
  | .zeroizeDevice order => Sys2Proof.Machine.execZeroizeDevice order s
  | .zeroizationComplete => Sys2Proof.Machine.execZeroizationComplete s
  | .random order => Sys2Proof.Machine.execRandom order s
  | .drbgReseed => Sys2Proof.Machine.execDrbgReseed s
  | .entropySample value => Sys2Proof.Machine.execEntropySample value s
  | .jtagInstruction op => Sys2Proof.Machine.execJtagInstruction op s
  | .resetRelease seen => Sys2Proof.Machine.execResetRelease seen s
  | .reset => Sys2Proof.Machine.execReset s
  | .powerLoss => Sys2Proof.Machine.execPowerLoss s
  | .nvmCommit via base => Sys2Proof.Machine.execNvmCommit via base s
  | .commitDone readBackOk => Sys2Proof.Machine.execCommitDone readBackOk s
  | .regRead addr => Sys2Proof.Machine.execRegRead addr s
  | .regValue => Sys2Proof.Machine.execRegValue s
  | .bootBegin kind => Sys2Proof.Machine.execBootBegin kind s
  | .bootData offset data => Sys2Proof.Machine.execBootData offset data s
  | .bootEnd => Sys2Proof.Machine.execBootEnd s
  | .bootStatus => Sys2Proof.Machine.execBootStatus s
  | .bootVerifyDone key sig => Sys2Proof.Machine.execBootVerifyDone key sig s
  | .receiveSignal n => Sys2Proof.Machine.execReceiveSignal n s
  | .firmwareException p => Sys2Proof.Machine.execFirmwareException p s
  | .firmwareMemoryError p kind => Sys2Proof.Machine.execFirmwareMemoryError p kind s
  | .localInputPresent => Sys2Proof.Machine.execLocalInputPresent s
  | .unlistedOpcode order opcode => Sys2Proof.Machine.execUnlistedOpcode order opcode s
  | .reservedTransaction rx typ => Sys2Proof.Machine.execReservedTransaction rx typ s

end Sys2Proof.Machine
end

