-- ==== Sys2Proof/Machine/Tick.lean ====
section
/-! DEFINITION. What an idle step does: one cycle of D24 (log entry 1). -/
namespace Sys2Proof.Machine

/-- One D24 cycle of a part out of reset: datum time counts (R354), a gliding PLL reaches its floor (R380), and a failed
step quiesces (R404). -/
def tick (s : State) : State :=
  if s.nvm.phase = 0 then s
  else
    let s := { s with dtm := s.dtm.tick, pwr := { s.pwr with moving := false } }.wakeBusy
    let s := s.setPlls (fun p => if p == .gliding then .coasting else p)
    if s.flt.stepState == .failed then { s with flt := { s.flt with stepState := .quiescing } } else s

end Sys2Proof.Machine
end

