-- ==== Sys2Proof/Safety.lean ====
section
/-! DEFINITION. Safe states and safe runs: the terms the statements use. -/
namespace Sys2Proof.Machine

/-- Every sparse array of units and every memory of the machine is in canonical form. -/
def State.canonical (s : State) : Prop :=
  SMap.wf {} s.cus = true ∧ SMap.wf {} s.mus = true ∧ SMap.wf {} s.sws = true ∧ SMap.wf {} s.plats = true ∧
  SMap.wf {} s.bmks = true ∧ SMap.wf {} s.aus = true ∧ SMap.wf {} s.ports = true ∧ Memory.wf s.dram.mem = true ∧
  Memory.wf s.sec.buf = true ∧ ∀ e ∈ s.mus, Memory.wf e.2.sram = true

/-- The machine keeps its bounds: canonical form, a fault buffer of at most 256 records (R415) and at most 64
notifications (R364). -/
def State.Inv (s : State) : Prop :=
  s.canonical ∧ s.flt.buffer.length ≤ 256 ∧ s.cmd.notices.length ≤ 64

def Svns.sum (v : Svns) : Nat := v.fsf.toNat + v.pcf.toNat + v.img.toNat + v.fwkeyMin.toNat

/-- The anti-rollback counters are those of their copy in use, and no copy's number is more than n above the sum of the
counters it holds, so that no store wraps it (R430, R448). -/
def Sec.svnsHeld (x : Sec) (n : Nat) : Prop :=
  (∀ c, x.mram.svns.copy0 = some c → c.1.toNat ≤ n + c.2.sum) ∧ (∀ c, x.mram.svns.copy1 = some c → c.1.toNat ≤ n + c.2.sum) ∧
  ∀ c, x.mram.svns.newer = some c → c.2 = x.svns

/-- A register write by a path reaches block b: the path is open and may write, no gate over the block is closed. -/
def State.openFor (s : State) (path : Path) (b : Block) : Prop :=
  s.pathOpen path = true ∧ path ≠ .smbus ∧ s.blockGated b = false

/-- A transaction is heard: its port is in service and its tag verifies (R321, R336). -/
def State.hears (s : State) (rx : Rx) : Prop :=
  s.inService rx.port.val = true ∧ (s.port rx.port.val).tagGood rx = true

/-- Its header as this device takes it: the bridge writes an endpoint's number as source (R344). -/
def State.headerOf (s : State) (rx : Rx) : Rx := { rx with src := s.srcOf rx }

/-- The state in which it has left the receive buffer (R328, R337). -/
def State.received (s : State) (rx : Rx) (body : TBody) : State :=
  let n := rx.port.val
  (s.setPort n ((s.port n).accept rx.keyPhase (vcOf body.typ) (flitsOf (rxPart rx body).len))).rekeyIfDue n

/-- A transaction is heard, is addressed to this device, and its body is whole and new (R330, R331, R339). -/
def State.takes (s : State) (rx : Rx) (body : TBody) : Prop :=
  s.hears rx ∧ (s.received rx body).forMe (s.headerOf rx) = true ∧
  (s.received rx body).handsOn (s.headerOf rx) body = true

/-- The state in which it has its effect. -/
def State.taken (s : State) (rx : Rx) (body : TBody) : State := (s.received rx body).handed (s.headerOf rx) body

/-- A MGMT access is heard by a device without a number, which it reaches for the first time (R339, R479). -/
def State.servesOpen (s : State) (rx : Rx) (body : TBody) : Prop :=
  s.hears rx ∧ (s.received rx body).forMe (s.headerOf rx) = false ∧
  (s.received rx body).openHere (s.headerOf rx) body = true

/-- The state in which it has its effect: it has been passed on and marked as seen. -/
def State.openedHere (s : State) (rx : Rx) (body : TBody) : State :=
  ((s.received rx body).forward (s.headerOf rx) body).floodMark (s.headerOf rx)

/-- The state in which a flooded transaction has been marked as seen and passed on to the other ports (R339). -/
def State.relayed (s : State) (rx : Rx) (body : TBody) : State :=
  let u := (s.received rx body).floodMark (s.headerOf rx)
  if rx.hops = 0 then u else u.flood (some rx.port.val)
    { src := (s.headerOf rx).src, dst := rx.dst, tag := rx.tag, hops := rx.hops.toNat - 1, body := body
      frag := rxFragNo rx body }

/-- A flooded transaction is heard, is new, and its body is whole (R339). -/
def State.floodsHere (s : State) (rx : Rx) (body : TBody) : Prop :=
  s.hears rx ∧ (s.received rx body).floodNew (s.headerOf rx) = true ∧ (s.relayed rx body).whole (s.headerOf rx) body = true

/-- The state in which it has its effect. -/
def State.floodedHere (s : State) (rx : Rx) (body : TBody) : State := (s.relayed rx body).dropParts (s.headerOf rx) body

/-- The state in which an order is at the arbiter, and the order as it is there: one that came by CMD has passed its port
(R361). -/
def State.desk (s : State) (op : W16) (o : Order) : State :=
  match o.arrival with
  | .trans rx => s.taken rx (.cmd { opcode := op, desc := o.desc })
  | _ => s

def State.atDesk (s : State) (o : Order) : Order :=
  match o.arrival with
  | .trans rx => { o with arrival := .trans (s.headerOf rx), port := rx.port.castLE (by decide) }
  | _ => o

/-- A CMD is taken at its port; an order of another way comes to a part out of reset. -/
def State.comes (s : State) (op : W16) (o : Order) : Prop :=
  match o.arrival with
  | .trans rx => s.takes rx (.cmd { opcode := op, desc := o.desc })
  | _ => s.awake = true

/-- An untimed order that is due starts at the arbiter: its slot is free, it passes the checks of R362 and R368, no order
of the same tick beats it and it beats none that waits (R369), its target is free (R366), and a service has its turn
(R439). -/
def State.startsHere (s : State) (op : W16) (o : Order) (size : Nat) : Prop :=
  (o.desc.slot.toNat < 512 → (s.slot o.desc.slot.toNat).busy = false) ∧
  s.orderCheck { opcode := op, desc := o.desc } o = none ∧
  beatenBy { opcode := op, desc := o.desc } ((s.originOf o).getD .firmware) (orderPort o)
    (o.rivals ++ s.tickOrders.map (·.rival)) = none ∧
  s.outdone { opcode := op, desc := o.desc } = [] ∧
  o.desc.deadline = 0 ∧ o.desc.actTime.toNat ≤ s.dtm.time.toNat ∧
  s.mayStartUntimed { opcode := op, desc := o.desc } s.cmd.nextId size = true ∧
  s.secTurn { opcode := op, desc := o.desc } s.cmd.nextId = true

/-- The entry of such an order among the orders held. -/
def State.entryOf (s : State) (op : W16) (o : Order) (seen : SecSeen) : Held :=
  { id := s.cmd.nextId, word := { opcode := op, desc := o.desc }, origin := (s.originOf o).getD .firmware, port := orderPort o
    arrival := o.arrival, te := s.dtm.time, timed := false, seen := seen }

/-- An untimed order that is due starts on arrival. -/
def State.takesNow (s : State) (op : W16) (o : Order) (size : Nat) : Prop :=
  s.comes op o ∧ (s.desk op o).startsHere op (s.atDesk o) size

/-- The state in which an order at the arbiter has just started: its slot is busy, its admission is OK, the later orders of
its tick meet it, and it is held as started. -/
def State.startedHere (s : State) (op : W16) (o : Order) (seen : SecSeen := {}) : State :=
  let u := if o.desc.slot.toNat < 512 then s.setSlot o.desc.slot.toNat { busy := true, accepted := true } else s
  let t := (u.noteOrder (some s.cmd.nextId) (CmdWord.rival { opcode := op, desc := o.desc } ((s.originOf o).getD .firmware)
    (orderPort o))).admission o.arrival Codes.ok
  { t with cmd := { t.cmd with
    nextId := s.cmd.nextId + 1
    held := (s.cmd.held ++ [s.entryOf op o seen]).map
      (fun h => if h.id == s.cmd.nextId then { h with started := true } else h) } }

/-- The state in which an order that takes effect on arrival has just started, and its number. -/
def State.started (s : State) (op : W16) (o : Order) (seen : SecSeen := {}) : State :=
  (s.desk op o).startedHere op (s.atDesk o) seen

def State.orderId (s : State) (op : W16) (o : Order) : Nat := (s.desk op o).cmd.nextId

/-- An operation on benchmark i reaches its unit by a path other than the command path (R208, R386). -/
def State.bmkPath (s : State) (src : BmkSrc) (i : Nat) (op : BmkOp) : Prop :=
  match src with
  | .fw p => s.openFor (.fw p) (.bmk i)
  | .host _ => s.blockGated (.bmk i) = false
  | .remote rx => s.takes rx (.bmk (BitVec.ofNat 16 i) op.code op.val)
  | .unit _ => True
  | .cmd _ => False

/-- The state in which it reaches the unit (no gate stands over a benchmark), and its source as the unit sees it: a BMK transaction has passed its port. -/
def State.bmkAt (s : State) (src : BmkSrc) (i : Nat) (op : BmkOp) : State :=
  match src with
  | .remote rx => s.taken rx (.bmk (BitVec.ofNat 16 i) op.code op.val)
  | _ => s

def State.bmkSrcAt (s : State) (src : BmkSrc) : BmkSrc :=
  match src with
  | .remote rx => .remote (s.headerOf rx)
  | _ => src

/-- Between s and t the array is unchanged: units, memories, switches, benchmarks, plats, adjustment, external memory and
the loaded tables; so are the image state, the monument engine and the ports. -/
def State.sameArray (s t : State) : Prop :=
  t.cus = s.cus ∧ t.mus = s.mus ∧ t.sws = s.sws ∧ t.plats = s.plats ∧ t.bmks = s.bmks ∧ t.aus = s.aus ∧ t.dram = s.dram ∧
  t.cfg = s.cfg ∧ t.adj = s.adj ∧ t.img = s.img ∧ t.mon = s.mon ∧ t.ports = s.ports

/-- Between s and t nothing outside the array, its fault log and its links is changed: loaded tables, image state,
external memory, monuments, datum, clocks, power, security module, MRAM and SMBus stay. -/
def State.sameSystem (s t : State) : Prop :=
  t.cfg = s.cfg ∧ t.img = s.img ∧ t.dram = s.dram ∧ t.mon = s.mon ∧ t.dtm = s.dtm ∧ t.clk = s.clk ∧ t.pwr = s.pwr ∧
  t.sec = s.sec ∧ t.nvm = s.nvm ∧ t.smb = s.smb

/-- The machine goes on: a step that neither faults nor is refused. -/
def State.goesOn (s : State) : Prop := ∃ t, step s = .next t

end Sys2Proof.Machine
end

