-- ==== Sys2Proof/Certificates/Slice0/Obligations.lean ====
section
/-! DEFINITION. The statements for the provers. Each is about every state that meets its premises; the cited rules are
those of spec/. -/

open Sys2Proof Sys2Proof.Machine

/-! ## The queue and the step -/

/-- A step takes the command at the front and runs it with the queue's rest (log entry 1). -/
def Obligations.FrontCommandRunsWithTheRest : Prop :=
  ∀ (s : State) (c : Instr) (rest : List Instr),
    step { s with pending := c :: rest } = exec c { s with pending := rest }

/-- An idle block takes a tick (log entry 1): nothing in reset; out of reset datum time goes on (R354), the state
of every gliding PLL and of a failed step moves on (R380, R404), a block clock that automatic gating had stopped runs again
where its block has work (R384; log entry 103), IDLE or WAKE is over (log entry 103), and nothing else changes. -/
def Obligations.EmptyQueueIsOneTick : Prop :=
  ∀ (s : State), s.pending = [] →
    step s = .next (tick s) ∧
    (s.nvm.phase = 0 → tick s = s) ∧
    (s.nvm.phase ≠ 0 →
      (tick s).dtm = s.dtm.tick ∧
      (tick s).flt = (if s.flt.stepState = .failed then { s.flt with stepState := .quiescing } else s.flt) ∧
      (∀ d : Fin 25, (tick s).pll d =
        (if s.pll d = .gliding then .coasting else s.pll d)) ∧
      (tick s).clk.stopped = s.clk.stopped.filter (fun e => !s.blockBusy (e.1 / 32) (e.1 % 32)) ∧
      (tick s).pwr = { s.pwr with moving := false } ∧
      { tick s with
        dtm := s.dtm, flt := s.flt, pwr := s.pwr
        clk := { (tick s).clk with pll := s.clk.pll, stopped := s.clk.stopped } } = s)

/-! ## Compute units -/

/-- K_STEP, TILE_OPERATION_START and CHECKSUM_COMPARISON take effect (R53 to R66); RETIRE_SET_READOUT sends the 64 rows of
the oldest set and READOUT_COMPLETE frees its tiles, whose poison stays (R60, R62, R401); the scrub counts a corrected word
of a held tile and poisons the tile of an uncorrectable one (R63). That ACCUMULATOR_SCRUB names a word of a RETIRING tile
too, with the sets it retires in, is the model's choice (log entry 109). -/
def Obligations.MatrixEngineCommandsComplete : Prop :=
  (∀ (s : State) (p : Fin 4) (n : Fin 256) (e : Engine) (x y : Take),
    s.cuLive p n = true → (s.cu p n).opClass = 1 → (s.cu p n).run = .live → (s.cu p n).engine = some e →
    takeOperand (s.cu p n).fmtA 64 (s.cu p n).nbA (s.cu p n).gIn e.a e.kDone ((s.cu p n).steps e.desc) (s.cu p n).inA = some x →
    takeOperand (s.cu p n).fmtB 32 (s.cu p n).nbB (s.cu p n).gIn e.b e.kDone ((s.cu p n).steps e.desc) (s.cu p n).inB = some y →
    x.bad = false → y.bad = false →
    exec (.kStep p n false) s = .next (s.setCu p n
      ({ s.cu p n with inA := x.rest, inB := y.rest, lastA := (s.cu p n).lastA || x.last, lastB := (s.cu p n).lastB || y.last
        }.kStepCompute { e with a := x.st, b := y.st, poison := e.poison || x.poison || y.poison }))) ∧
  (∀ (s : State) (p : Fin 4) (n : Fin 256) (d : TileDesc),
    s.cuLive p n = true → (s.cu p n).run ≠ .faulted → (s.cu p n).opClass = 1 → (s.cu p n).engine = none →
    ((s.cu p n).inA ≠ [] ∨ (s.cu p n).inB ≠ []) → (s.cu p n).nextDesc = some d → (s.cu p n).setEndOk d = true →
    ((s.cu p n).tile d.tile).st = (if d.cont then .held else .free) →
    exec (.tileOperationStart p n) s = .next (s.setCu p n ((s.cu p n).beginOperation d))) ∧
  (∀ (s : State) (p : Fin 4) (n : Fin 256) (t : Fin 32),
    s.cuLive p n = true → t.val ∈ (s.cu p n).writeback → ((s.cu p n).tile t).failing (s.cu p n).tol = ([], []) →
    exec (.checksumComparison p n t) s = .next (s.setCu p n ((s.cu p n).compared t false))) ∧
  (∀ (s : State) (p : Fin 4) (n : Fin 256) (q : RetireSet) (qs : List RetireSet),
    s.cuLive p n = true → (s.cu p n).readout = none → (s.cu p n).sets = q :: qs → q.complete = true →
    (∀ t ∈ q.tiles, t ∈ q.compared) → s.cuOutFree p n = true →
    exec (.retireSetReadout p n) s = .next ((List.range 64).foldl (fun s' i =>
        (s'.packRow (s.cu p n) ((s.cu p n).setRow q i)).2.cuEmitV p n (s'.packRow (s.cu p n) ((s.cu p n).setRow q i)).1)
      (s.setCu p n { s.cu p n with sets := qs, readout := some q }))) ∧
  (∀ (s : State) (p : Fin 4) (n : Fin 256) (q : RetireSet),
    (s.cu p n).readout = some q → s.cuLive p n = true → s.cuOutFree p n = true →
    exec (.readoutComplete p n) s = .next (s.setCu p n
      { q.tiles.foldl (fun c t => c.setTile t { poison := (c.tile t).poison }) (s.cu p n) with readout := none })) ∧
  (∀ (s : State) (p : Fin 4) (n : Fin 256) (t : Fin 32) (w : Fin 1024),
    s.img.state ≠ .held → s.cuClocked p n = true → (((s.cu p n).tile t).st = .held ∨ ((s.cu p n).tile t).st = .retiring) →
    exec (.accumulatorScrub p n [(t, w, .ce)]) s = .next ((s.setCu p n
      ({ s.cu p n with accCe := (s.cu p n).accCe + 1 }.flag 6)).raiseCu .corr Codes.accCorrected p n) ∧
    (((s.cu p n).tile t).st = .held → exec (.accumulatorScrub p n [(t, w, .ue)]) s = .next ((s.setCu p n
      (((s.cu p n).setTile t { (s.cu p n).tile t with poison := true }).flag 1)).raiseCu .cont Codes.accUncorrectable p n)) ∧
    (((s.cu p n).tile t).st = .retiring → exec (.accumulatorScrub p n [(t, w, .ue)]) s = .next ((s.setCu p n
      ((((s.cu p n).setTile t { (s.cu p n).tile t with poison := true }).flag 1).poisonSets t)).raiseCu .cont
        Codes.accUncorrectable p n)) ∧
    exec (.accumulatorScrub p n []) s = .next s)

/-- A token of stream X or Y enters the vector pipeline, and a scalar of the row's own tag becomes P (R69, R72). -/
def Obligations.VectorPipelineCommandsComplete : Prop :=
  (∀ (s : State) (p : Fin 4) (n : Fin 256) (t : VIn) (ts : List VIn) (r : Decoded),
    s.cuLive p n = true → (s.cu p n).opClass = 2 → s.cuOutFree p n = true → (s.cu p n).inA = t :: ts →
    (s.cu p n).vec.x.take (s.cu p n).bf16Lanes (s.cu p n).fmtA (s.cu p n).gIn (s.cu p n).nbA (s.cu p n).rowLen t = r →
    r.bad = false →
    exec (.rowStreamToken p n false) s = .next ((s.setCu p n
      { s.cu p n with inA := ts, vec := { (s.cu p n).vec with x := r.dec } }).vecAdvance p n r.dec.beats.length)) ∧
  (∀ (s : State) (p : Fin 4) (n : Fin 256) (t : VIn) (ts : List VIn) (r : Decoded),
    s.cuLive p n = true → (s.cu p n).opClass = 2 → s.cuOutFree p n = true → (s.cu p n).inB = t :: ts →
    (s.cu p n).run ≠ .faulted →
    (s.cu p n).vec.y.take (s.cu p n).bf16Lanes (s.cu p n).fmtB (s.cu p n).gIn (s.cu p n).nbB (s.cu p n).rowLen t = r →
    r.bad = false →
    exec (.rowStreamToken p n true) s = .next ((s.setCu p n
      { s.cu p n with inB := ts, vec := { (s.cu p n).vec with y := r.dec } }).vecAdvance p n (s.cu p n).vec.x.beats.length)) ∧
  (∀ (s : State) (p : Fin 4) (n : Fin 256) (t : SIn) (ts : List SIn),
    s.cuLive p n = true → (s.cu p n).opClass = 2 → (s.cu p n).run ≠ .faulted → (s.cu p n).inS = t :: ts →
    (s.cu p n).vec.p = none → t.tag = BitVec.ofNat 8 (s.cu p n).vec.ordinal →
    exec (.scalarInputArrival p n) s = .next ((s.setCu p n
      { s.cu p n with inS := ts, vec := { (s.cu p n).vec with p := some t } }).vecAdvance p n (s.cu p n).vec.x.beats.length))

/-! ## Memory units -/

/-- The narrow view (R84): an aligned 8-byte read returns the word in little-endian order and OK, or, where an error
stands in that word that the code cannot correct, MU_UNCORRECTABLE; an aligned 8-byte write outside the regions of a running
MU stores it, and any other size or alignment is REFUSED without an effect on memory. Where the clock of the MU stands, the
access is CLK_GATED (R386, R388). -/
def Obligations.NarrowViewReadsAndWrites : Prop :=
  (∀ (s : State) (p : Fin 4) (n : Fin 256) (off : BitVec 22), s.muClocked p n = true → off.toNat % 8 = 0 → (s.mu p n).ecc = [] → (s.mu p n).tagEcc = [] →
    exec (.narrowRead p n off 8 []) s = .next
      ((s.emit (.value (BitVec.ofNat 64 (leNat ((s.mu p n).sram.read off.toNat 8))))).emit (.code Codes.ok))) ∧
  (∀ (s : State) (p : Fin 4) (n : Fin 256) (off : BitVec 22) (b : List Byte) (bad : Bool) (t : State), s.muClocked p n = true →
    off.toNat % 8 = 0 →
    SMap.get .clean (s.mu p n).ecc (off.toNat / 8) = .ue → s.muRead p n off.toNat 8 = (b, bad, t) →
    exec (.narrowRead p n off 8 []) s = .next
      ((t.emit (.value (BitVec.ofNat 64 (leNat b)))).emit (.code Codes.muUncorrectable))) ∧
  (∀ (s : State) (p : Fin 4) (n : Fin 256) (off : BitVec 22) (v : W64), s.muClocked p n = true → off.toNat % 8 = 0 →
    ((s.mu p n).regionOf (off.toNat / 512) = none ∨ s.muRunning p n = false) →
    exec (.narrowWrite p n off 8 v) s = .next ((s.muWrite p n off.toNat (leBytes 8 v.toNat) false).emit (.code Codes.ok))) ∧
  (∀ (s : State) (p : Fin 4) (n : Fin 256) (off : BitVec 22) (size : Nat) (v : W64), s.muClocked p n = true →
    (size ≠ 8 ∨ off.toNat % 8 ≠ 0) →
    exec (.narrowRead p n off size []) s = .next (s.emit (.code Codes.refused)) ∧
    exec (.narrowWrite p n off size v) s =
      .next ((s.setMu p n { s.mu p n with fault := setBit (s.mu p n).fault 9 }).emit (.code Codes.refused))) ∧
  (∀ (s : State) (p : Fin 4) (n : Fin 256) (off : BitVec 22) (size : Nat) (v : W64), s.awake = true → s.muClocked p n = false →
    exec (.narrowRead p n off size []) s = .next (s.emit (.code Codes.clkGated)) ∧
    exec (.narrowWrite p n off size v) s = .next (s.emit (.code Codes.clkGated)))

/-- A control event starts an idle generator of its tag or is counted, up to 15, by one that may not start; a pending walk
starts, a direct read sends the 128 bytes of
its lines, a walk ends with its done add, after which a macro run of the plat goes on (R88, R89, R192, R197), and the credit of
freed rows is granted (R97). That a transpose walk that writes and an accumulate walk that reads stand still, as on a reserved
path, is the model's choice (log entry 89). -/
def Obligations.GeneratorCommandsComplete : Prop :=
  (∀ (s : State) (p : Fin 4) (n : Fin 256) (a : Fin 4) (t : Nat) (ts : List Nat),
    (s.mu p n).events = t :: ts → s.muLive p n = true →
    (∀ b : Fin 4, (((s.mu p n).ag b).words ≠ [] ∧ ((s.mu p n).ag b).startTag = t) ↔ b = a) →
    (s.mayStart p n a = true → ((s.mu p n).ag a).pending = 0 →
      exec (.generatorStartEvent p n) s = .next ((s.setMu p n { s.mu p n with events := ts }).startWalk p n a)) ∧
    (s.mayStart p n a = false → ((s.mu p n).ag a).pending < 15 →
      exec (.generatorStartEvent p n) s = .next (s.setMu p n ({ s.mu p n with events := ts }.setAg a
        { (s.mu p n).ag a with pending := ((s.mu p n).ag a).pending + 1 })))) ∧
  (∀ (s : State) (p : Fin 4) (n : Fin 256) (a : Fin 4), s.mayStart p n a = true → 0 < ((s.mu p n).ag a).pending →
    exec (.pendingWalkStart p n a) s = .next ((s.setMu p n ((s.mu p n).setAg a
      { (s.mu p n).ag a with pending := ((s.mu p n).ag a).pending - 1 })).startWalk p n a)) ∧
  (∀ (s : State) (p : Fin 4) (n : Fin 256) (a : Fin 4) (line : Int) (ups : List Upset),
    s.muLive p n = true → ((s.mu p n).ag a).busy = true → ((s.mu p n).ag a).idx < ((s.mu p n).ag a).total →
    ((s.mu p n).reg ((s.mu p n).ag a).region).kind ≠ 2 → ((s.mu p n).ag a).lineAt ((s.mu p n).ag a).idx = some line →
    exec (.generatorAddress p n a ups) s = .next
      (match ((s.mu p n).ag a).path, ((s.mu p n).ag a).isWrite with
       | 0, false => (s.strikes ups).directRead p n a line
       | 0, true => (s.strikes ups).directWrite p n a line
       | 1, false => (s.strikes ups).transposeRead p n a line
       | 2, true => (s.strikes ups).accumulateTake p n a line
       | _, _ => s.strikes ups)) ∧
  (∀ (s : State) (p : Fin 4) (n : Fin 256) (a : Fin 4) (line : Int),
    s.muLive p n = true → ((s.mu p n).ag a).busy = true → ((s.mu p n).ag a).idx < ((s.mu p n).ag a).total →
    ((s.mu p n).reg ((s.mu p n).ag a).region).kind ≠ 2 → ((s.mu p n).ag a).lineAt ((s.mu p n).ag a).idx = some line →
    ((s.mu p n).ag a).path = 0 → ((s.mu p n).ag a).isWrite = false → ((s.mu p n).ag a).dead = false →
    ((s.mu p n).reg ((s.mu p n).ag a).region).holdsLine line true = true →
    s.roomIn p (muSite n) 0 ((s.mu p n).ag a).chan = true → (s.mu p n).ecc = [] → (s.mu p n).tagEcc = [] →
    exec (.generatorAddress p n a []) s = .next ((s.agEmit p n ((s.mu p n).ag a).chan
      [vOfBytes ((s.mu p n).sram.read (64 * line.toNat) 128)
        ((List.range' (64 * line.toNat / 512) ((64 * line.toNat + 127) / 512 - 64 * line.toNat / 512 + 1)).any (s.mu p n).rowPoison)
        (((s.mu p n).ag a).lastAt ((s.mu p n).ag a).idx)]).agAdvance p n a line)) ∧
  (∀ (s : State) (p : Fin 4) (n : Fin 256) (a : Fin 4),
    s.muLive p n = true → ((s.mu p n).ag a).busy = true → ((s.mu p n).ag a).total ≤ ((s.mu p n).ag a).idx →
    (∀ x ∈ (s.mu p n).segs, x.gen ≠ some a.val) →
    (∀ x ∈ ((s.mu p n).reg ((s.mu p n).ag a).region).parked, x.gen ≠ some a.val) →
    exec (.walkEnd p n a) s = .next
      (((fun s' => if ((s.mu p n).ag a).hoEn then s'.bmkAdd ((s.mu p n).ag a).hoBm (BitVec.ofNat 32 ((s.mu p n).ag a).hoInc) else s')
        (s.setMu p n ((s.mu p n).setAg a { (s.mu p n).ag a with
          busy := false, dead := false, walk := ((s.mu p n).ag a).walk + 1, stepWalks := ((s.mu p n).ag a).stepWalks + 1 }))).seqAdvance p)) ∧
  (∀ (s : State) (p : Fin 4) (n : Fin 256) (r : Fin 16),
    s.muLive p n = true → s.stepFailed = false → ((s.mu p n).reg r).window = true → (((s.mu p n).reg r).kind = 4 ∨ ((s.mu p n).reg r).kind = 6) →
    0 < ((s.mu p n).reg r).freed →
    (((s.mu p n).reg r).retBatch + 1 ≤ ((s.mu p n).reg r).freed ∨ ((s.mu p n).reg r).windowEmpty = true) →
    exec (.creditReturn p n r) s = .next (s.grant p n r ((s.mu p n).reg r).freed))

/-- ACCUMULATE_SEGMENT applies the oldest segment where its turn has come, parks one that is early and discards one whose
number repeats or is too high; one that finds no free park row stays where it is, by the model's choice (log entry 110).
PARKED_SEGMENT_APPLY applies the oldest parked segment whose turn has come (R91, R92). A remote segment gives back its rows of credit when it is applied or
discarded (R91, R97). Tokens enter and leave a QUEUE (R94); FILL and COPY write their rows, and ROW_COMMAND_DONE ends one
(R95); the row scrubber goes through the 16 rows of one bank row, and a late one is counted (R81, R100). -/
def Obligations.RowSegmentAndQueueCommandsComplete : Prop :=
  (∀ (s u : State) (p : Fin 4) (n : Fin 256) (x : Segment) (xs : List Segment) (back : State → State),
    (s.mu p n).segs = x :: xs → s.muLive p n = true → s.setMu p n { s.mu p n with segs := xs } = u →
    back = (if x.gen = none then fun t => t.freeRows p n x.region x.parkNeed else id) →
    (((s.mu p n).reg x.region).orderBad x = true →
      exec (.accumulateSegment p n) s = .next ((back u).raiseMu Codes.accumOrder p n x.region (some 3))) ∧
    (((s.mu p n).reg x.region).orderBad x = false → ((s.mu p n).reg x.region).orderReady x = true →
      exec (.accumulateSegment p n) s = .next (back (u.segApply p n x))) ∧
    (((s.mu p n).reg x.region).orderBad x = false → ((s.mu p n).reg x.region).orderReady x = false →
      x.parkNeed ≤ ((s.mu p n).reg x.region).parkFree.length →
      exec (.accumulateSegment p n) s = .next (u.parkSegment p n x)) ∧
    (((s.mu p n).reg x.region).orderBad x = false → ((s.mu p n).reg x.region).orderReady x = false →
      ((s.mu p n).reg x.region).parkFree.length < x.parkNeed → exec (.accumulateSegment p n) s = .next s)) ∧
  (∀ (s u : State) (p : Fin 4) (n : Fin 256) (r : Fin 16) (x : Segment) (ts : List VIn),
    ((s.mu p n).reg r).parked.find? ((s.mu p n).reg r).orderReady = some x → s.muLive p n = true →
    (s.setMu p n ((s.mu p n).setReg r { (s.mu p n).reg r with parked := ((s.mu p n).reg r).parked.erase x })).unparkTokens p n x
      = (ts, u) →
    exec (.parkedSegmentApply p n r) s = .next (if x.gen = none
      then (u.segApply p n { x with tokens := ts }).freeRows p n r x.parkNeed else u.segApply p n { x with tokens := ts })) ∧
  (∀ (s : State) (p : Fin 4) (n : Fin 256) (k : Fin 2) (r : Nat) (t : VIn) (ts : List VIn),
    (s.sw p (muSite n)).queueRegion k = some r → SMap.get [] (s.mu p n).qin k = t :: ts → s.muLive p n = true →
    ((s.mu p n).reg r).fifoFull = false →
    exec (.queueTokenIn p n k) s = .next ((s.setMu p n { s.mu p n with qin := SMap.set [] (s.mu p n).qin k ts }).fifoPut p n r t
      (s.mu p n).epoch)) ∧
  (∀ (s : State) (p : Fin 4) (n : Fin 256) (k : Fin 2) (r : Nat),
    (s.sw p (muSite n)).queueRegion k = some r → s.muLive p n = true → ((s.mu p n).reg r).fifoEmpty = false →
    s.roomIn p (muSite n) 0 (0x25 + 2 * k.val) = true →
    exec (.queueTokenOut p n k) s = .next ((s.fifoTake p n r).2.agEmit p n (0x25 + 2 * k.val) [(s.fifoTake p n r).1])) ∧
  (∀ (s : State) (p : Fin 4) (n : Fin 256) (dst : BitVec 13) (rows : BitVec 14) (byEvent : Bool),
    s.muClocked p n = true →
    s.rowCmdRefused p n { copy := false, dst := dst.toNat, src := 0, rows := rows.toNat } byEvent = false →
    exec (.fill p n dst rows byEvent) s = .next ((List.replicate rows.toNat
        ((List.replicate 64 (leBytes 8 (s.mu p n).fillPat.toNat)).flatten)).zipIdx.foldl
      (fun s' e => s'.muWrite p n (512 * (dst.toNat + e.2)) e.1 false)
      (s.setMu p n { s.mu p n with cmd := some { copy := false, dst := dst.toNat, src := 0, rows := rows.toNat } }))) ∧
  (∀ (s : State) (p : Fin 4) (n : Fin 256) (dst src : BitVec 13) (rows : BitVec 14) (byEvent : Bool),
    s.muClocked p n = true →
    s.rowCmdRefused p n { copy := true, dst := dst.toNat, src := src.toNat, rows := rows.toNat } byEvent = false →
    (byEvent = true → s.copyHeld p n { copy := true, dst := dst.toNat, src := src.toNat, rows := rows.toNat } = false) →
    (s.mu p n).ecc = [] → (s.mu p n).tagEcc = [] →
    exec (.copy p n dst src rows byEvent) s = .next
      (((List.range rows.toNat).map (fun i =>
          ((s.mu p n).sram.read (512 * (src.toNat + i)) 512, (s.mu p n).rowPoison (src.toNat + i)))).zipIdx.foldl
        (fun s' e => s'.muWrite p n (512 * (dst.toNat + e.2)) e.1.1 e.1.2)
        (s.setMu p n { s.mu p n with
          cmd := some { copy := true, dst := dst.toNat, src := src.toNat, rows := rows.toNat } }))) ∧
  (∀ (s : State) (p : Fin 4) (n : Fin 256), (s.mu p n).cmd ≠ none → s.muClocked p n = true →
    exec (.rowCommandDone p n) s = .next (s.setMu p n { s.mu p n with cmd := none, cmdResult := Codes.ok })) ∧
  (∀ (s : State) (p : Fin 4) (n : Fin 256), s.muClocked p n = true → (s.mu p n).ecc = [] → (s.mu p n).tagEcc = [] →
    exec (.scrubRow p n []) s = .next (s.setMu p n { s.mu p n with
      scrubRow := ((s.mu p n).scrubRow + 1) % 512
      scrubPasses := if (s.mu p n).scrubRow = 511 then (s.mu p n).scrubPasses + 1 else (s.mu p n).scrubPasses })) ∧
  (∀ (s : State) (p : Fin 4) (n : Fin 256), s.muClocked p n = true →
    exec (.scrubLate p n) s = .next (s.setMu p n { s.mu p n with scrubLate := satAdd 16 (s.mu p n).scrubLate 1 }))


/-! ## The backsight stash -/

/-- PUSH_WALK with all its tokens there writes its frame where the rows are free, waits for a spill where the reserve can
take the bottom frame, overflows where it cannot, and raises STASH_FRAME past the step's micro-batches (R163, R168).
POP_WALK sends the frame whose header is the expected one, poisoned tokens of free data otherwise, and waits for a refill
(R93, R164, R167, R168). STASH_SPILL hands the bottom frame, and STASH_REFILL the reserve's top frame, to the stash service
of the engine (R166, R167, R186); a frame that the engine cannot take up is its STASH_FRAME (R166, R414; log entry 100). -/
def Obligations.StashCommandsComplete : Prop :=
  (∀ (s u : State) (p : Fin 4) (n : Fin 256) (a : Fin 4) (ups : List Upset) (g : AgSt) (reg : RegSt),
    (s.mu p n).ag a = g → (s.mu p n).reg g.region = reg → s.strikes ups = u →
    s.muLive p n = true → g.busy = true → g.idx < g.total → reg.kind = 2 → g.isWrite = true → g.total ≤ g.input.length →
    (g.mbCount ≤ g.stepWalks →
      exec (.pushWalk p n a ups) s = .next
        ((u.agFinish p n a (g.input.drop g.total)).raiseMu Codes.stashFrame p n g.region none)) ∧
    (g.stepWalks < g.mbCount → frameRows g.frameTokens ≤ reg.freeRows →
      exec (.pushWalk p n a ups) s = .next
        ((((List.range (frameRows g.frameTokens)).foldl (fun t i =>
            t.muWrite p n (512 * reg.stashRow (reg.hi + i))
              (sub (stashFrameBytes g u.stepIndex (g.input.take g.total)) (512 * i) 512)
              (frameRowPoison (g.input.take g.total) i)) u).setReg p n g.region
          (fun x => { x with hi := x.hi + frameRows g.frameTokens, pushed := x.pushed + 1, waiting := false })).agFinish p n a
            (g.input.drop g.total))) ∧
    (∀ (t : State) (fr : Nat) (bad : Bool), g.stepWalks < g.mbCount → reg.freeRows < frameRows g.frameTokens →
      u.muCheck p n (512 * reg.stashRow reg.lo) 64 = t → t.bottomFrame p n g.region = (fr, bad) →
      (t.reserveOf p n g.region = none →
        exec (.pushWalk p n a ups) s = .next (((t.setReg p n g.region (fun x => { x with overflow := true, waiting := false
          })).agFinish p n a (g.input.drop g.total)).raiseMu Codes.stashOverflow p n g.region none)) ∧
      (∀ x : DramRange, t.reserveOf p n g.region = some x →
        exec (.pushWalk p n a ups) s = .next (if bad = false ∧ x.len / 512 - reg.lo < fr
          then ((t.setReg p n g.region (fun x => { x with overflow := true, waiting := false })).agFinish p n a
            (g.input.drop g.total)).raiseMu Codes.stashOverflow p n g.region none
          else t.setReg p n g.region (fun x => { x with waiting := true }))))) ∧
  (∀ (s u : State) (p : Fin 4) (n : Fin 256) (a : Fin 4) (ups : List Upset) (g : AgSt) (reg : RegSt)
      (take : State → State) (bad : State → State),
    (s.mu p n).ag a = g → (s.mu p n).reg g.region = reg → s.strikes ups = u →
    s.muLive p n = true → g.busy = true → g.idx < g.total → reg.kind = 2 → g.isWrite = false →
    ((s.sw p (muSite n)).inQ 0 g.chan).link = [] →
    take = (fun t => t.setReg p n g.region (fun x => { x with hi := x.hi - frameRows g.frameTokens, popped := x.popped + 1 })) →
    bad = (fun t => (((t.poisonFrame g g.frameTokens).2.agEmit p n g.chan (t.poisonFrame g g.frameTokens).1).agFinish p n a
      g.input)) →
    ((u.refilling p n g.region (reg.hi - frameRows g.frameTokens) = true ∨
        (reg.heldRows < frameRows g.frameTokens ∧ reg.lo ≠ 0 ∧ reg.overflow = false)) →
      exec (.popWalk p n a ups) s = .next u) ∧
    (u.refilling p n g.region (reg.hi - frameRows g.frameTokens) = false →
      (reg.heldRows < frameRows g.frameTokens → reg.lo = 0 → reg.overflow = false →
        exec (.popWalk p n a ups) s = .next ((bad (u.setReg p n g.region (fun x => { x with popped := x.popped + 1 }))).raiseMu
          Codes.lifoUnderflow p n g.region (some 4))) ∧
      (reg.heldRows < frameRows g.frameTokens → reg.overflow = true →
        exec (.popWalk p n a ups) s = .next (bad (u.setReg p n g.region (fun x => { x with popped := x.popped + 1 })))) ∧
      (frameRows g.frameTokens ≤ reg.heldRows → reg.overflow = true → exec (.popWalk p n a ups) s = .next (bad (take u))) ∧
      (∀ (bytes : List Byte) (rowBad : List Bool), frameRows g.frameTokens ≤ reg.heldRows → reg.overflow = false →
        ups = [] → (s.mu p n).ecc = [] → (s.mu p n).tagEcc = [] →
        ((List.range (frameRows g.frameTokens)).flatMap (fun i =>
          (s.mu p n).sram.read (512 * reg.stashRow (reg.hi - frameRows g.frameTokens + i)) 512)) = bytes →
        ((List.range (frameRows g.frameTokens)).map (fun i =>
          (s.mu p n).rowPoison (reg.stashRow (reg.hi - frameRows g.frameTokens + i)))) = rowBad →
        (headerMatches g s.stepIndex (sub bytes 0 64) = true →
          exec (.popWalk p n a []) s = .next (((take s).agEmit p n
            g.chan ((List.range g.frameTokens).map (fun j => vOfBytes (sub bytes (64 + 128 * j) 128)
              (rowBad.getD ((64 + 128 * j) / 512) false || rowBad.getD ((64 + 128 * j + 127) / 512) false)
              (g.lastAt j)))).agFinish p n a g.input)) ∧
        (headerMatches g s.stepIndex (sub bytes 0 64) = false →
          exec (.popWalk p n a []) s = .next ((bad (take s)).raiseMu Codes.stashFrame p n g.region none))))) ∧
  (∀ (s t : State) (p : Fin 4) (n : Fin 256) (r : Fin 16) (ups : List Upset) (x : DramRange) (fr : Nat) (bad : Bool)
      (reg : RegSt),
    (s.mu p n).reg r = reg → s.arrayRuns = true → reg.kind = 2 → reg.waiting = true → reg.noSpill = false →
    reg.freeRows < (s.mu p n).pushNeeds r → s.stashMoves p n r = [] → s.reserveOf p n r = some x →
    (s.strikes ups).muCheck p n (512 * reg.stashRow reg.lo) 64 = t → t.bottomFrame p n r = (fr, bad) →
    (bad = false → 0 < fr → fr ≤ reg.heldRows → reg.lo + fr ≤ x.len / 512 →
      exec (.stashSpill p n r ups) s = .next (t.moveFrame p n r true reg.lo fr x)) ∧
    ((bad = true ∨ fr = 0 ∨ reg.heldRows < fr) →
      exec (.stashSpill p n r ups) s = .next
        ((t.setReg p n r (fun g => { g with noSpill := true })).raise .cont Codes.stashFrame 4 p 0))) ∧
  (∀ (s t : State) (p : Fin 4) (n : Fin 256) (r : Fin 16) (ups : List Upset) (x : DramRange) (fr : Nat) (reg : RegSt),
    (s.mu p n).reg r = reg → s.arrayRuns = true → reg.kind = 2 → reg.reserve ≠ [] → (s.mu p n).popBegun r = true →
    (s.mu p n).pushActive r = false → s.stashMoves p n r = [] → s.reserveOf p n r = some x →
    (s.strikes ups).reserveTop p x reg.lo = (fr, t) → fr ≤ reg.freeRows →
    (fr ≤ reg.lo → exec (.stashRefill p n r ups) s = .next ((t.moveFrame p n r false (reg.lo - fr) fr x).setReg p n r
      (fun g => { g with lo := g.lo - fr, reserve := g.reserve.dropLast, reserveFrames := g.reserveFrames - 1 }))) ∧
    (reg.lo < fr → exec (.stashRefill p n r ups) s = .next (t.raiseMu Codes.lifoUnderflow p n r (some 4))))

/-! ## The traverse -/

/-- A token that passes the checks enters its switch, a stale one is dropped and counted, a damaged one is counted and goes
on poisoned or not at all (R112, R113); the head token leaves on every output of its fan-out (R107); a full queue is
noted as blocked, a seen deadlock is spilled at its victim, goes on where the victim spills already, or raises
SPILL_EXHAUSTED, and a spill ends when its region is empty (R117 to R120). That SPILL_EXHAUSTED shows at the first queue of
the cycle is the model's choice (log entry 91). -/
def Obligations.SwitchCommandsComplete : Prop :=
  (∀ (s : State) (p : Fin 4) (x : Fin 512) (net : Net) (c : Fin 64) (flips t u : Tok) (ts : List Tok),
    ((s.sw p x).inQ (netNum net) c).link = t :: ts → s.tokensMove = true → s.gatesOpen (.sw p x) = true →
    (s.sw p x).run ≠ .unconfigured →
    s.mayEnqueue p x (netNum net) c = true → (s.sw p x).judge net c (tokFlip t flips) = .pass u →
    exec (.tokenArrival p x net c flips) s = .next ((s.setSw p x ((s.sw p x).setIn (netNum net) c
      { (s.sw p x).inQ (netNum net) c with link := ts })).enqueue p x (netNum net) c u)) ∧
  (∀ (s : State) (p : Fin 4) (x : Fin 512) (net : Net) (c : Fin 64) (flips t : Tok) (ts : List Tok),
    ((s.sw p x).inQ (netNum net) c).link = t :: ts → s.tokensMove = true → s.gatesOpen (.sw p x) = true →
    (s.sw p x).run ≠ .unconfigured →
    s.mayEnqueue p x (netNum net) c = true → (s.sw p x).judge net c (tokFlip t flips) = .stale →
    exec (.tokenArrival p x net c flips) s = .next ((s.setSw p x
      { (s.sw p x).setIn (netNum net) c { (s.sw p x).inQ (netNum net) c with link := ts } with
        cntStale := (s.sw p x).cntStale + 1 }).raiseSw Codes.staleToken p x 0)) ∧
  (∀ (s t' : State) (p : Fin 4) (x : Fin 512) (net : Net) (c : Fin 64) (flips t : Tok) (ts : List Tok) (o : Option Tok),
    ((s.sw p x).inQ (netNum net) c).link = t :: ts → s.tokensMove = true → s.gatesOpen (.sw p x) = true →
    (s.sw p x).run ≠ .unconfigured →
    s.mayEnqueue p x (netNum net) c = true → (s.sw p x).judge net c (tokFlip t flips) = .parity o →
    (s.setSw p x { (s.sw p x).setIn (netNum net) c { (s.sw p x).inQ (netNum net) c with link := ts } with
      cntParity := (s.sw p x).cntParity + 1 }).bridgeParity p (netNum net) c = t' →
    exec (.tokenArrival p x net c flips) s = .next ((match o with
      | some v => if ((s.sw p x).fanOut net c).isEmpty then t' else t'.enqueue p x (netNum net) c v
      | none => t').raiseSw Codes.tokenParity p x 1)) ∧
  (∀ (s : State) (p : Fin 4) (x : Fin 512) (net : Net) (c : Fin 64) (ready bad : Bool) (q : SwIn) (t : Tok) (ts : List Tok)
      (outs : List Dest),
    (s.sw p x).inQ (netNum net) c = q → q.q = t :: ts → ((s.sw p x).fanOut net c).map (destOf p x net) = outs →
    s.tokensMove = true → s.gatesOpen (.sw p x) = true → ((s.sw p x).run = .running ∨ (s.sw p x).run = .draining) → outs ≠ [] →
    (∀ d ∈ outs, s.destFree p ready t d = true) →
    exec (.tokenDeparture p x net c ready bad) s = .next ((outs.foldl (fun s' d => s'.deliver p bad t d)
      (s.setSw p x ((s.sw p x).setIn (netNum net) c { q with
        q := ts, blocked := false, passed := true, passedLast := tokLast t,
        closed := q.closed || ((s.sw p x).run == .draining && net == .vector && tokLast t && s.boundary p x net c) }))).unspill
      p x (netNum net) c)) ∧
  (∀ (s : State) (p : Fin 4) (x : Fin 512) (net : Net) (c : Fin 64),
    8 ≤ ((s.sw p x).inQ (netNum net) c).q.length → s.tokensMove = true →
    exec (.queueBlocked p x net c) s = .next (s.setSw p x ((s.sw p x).setIn (netNum net) c
      { (s.sw p x).inQ (netNum net) c with blocked := true }))) ∧
  (∀ (s : State) (p : Fin 4) (cycle : List CycleNode) (vp : Fin 4) (vs : Fin 512) (net : Net) (c : Fin 64),
    (s.plat p).dldEn = true → s.tokensMove = true → s.cycleSeen p cycle = true →
    s.victim cycle = some (.queue vp vs net c) →
    ((s.sw vp vs).spilling = none →
      exec (.deadlockResolution p cycle) s = .next (((s.setSw vp vs
          ({ s.sw vp vs with spilling := some (netNum net, c.val), fault := setBit (s.sw vp vs).fault 3 }.setIn (netNum net) c
            { (s.sw vp vs).inQ (netNum net) c with blocked := false })).setPlat p
        { s.plat p with
          dldLog := mkWord 64 [(0, 9, vs.val), (9, 2, vp.val), (11, 2, netNum net), (13, 8, c.val),
            (21, 8, min cycle.length 255), (29, 1, 1)],
          dldSpills := (s.plat p).dldSpills + 1 }).raise .corr Codes.deadlockSpill 3
        (siteKey vp vs) (mkWord 64 [(0, 9, vs.val), (9, 2, vp.val), (11, 2, netNum net), (13, 8, c.val),
            (21, 8, min cycle.length 255), (29, 1, 1)]))) ∧
    ((s.sw vp vs).spilling ≠ none →
      exec (.deadlockResolution p cycle) s = .next (s.setSw vp vs ((s.sw vp vs).setIn (netNum net) c
        { (s.sw vp vs).inQ (netNum net) c with blocked := false })))) ∧
  (∀ (s : State) (p : Fin 4) (q : Fin 4) (x : Fin 512) (net : Net) (c : Fin 64) (rest : List CycleNode),
    (s.plat p).dldEn = true → s.tokensMove = true → s.cycleSeen p (.queue q x net c :: rest) = true →
    s.victim (.queue q x net c :: rest) = none →
    exec (.deadlockResolution p (.queue q x net c :: rest)) s = .next ((s.setSw q x
      { s.sw q x with fault := setBit (s.sw q x).fault 2 }).raise .cont Codes.spillExhausted 3 (siteKey q x) (s.dldLog p))) ∧
  (∀ (s : State) (p : Fin 4) (x : Fin 512), (s.sw p x).spilling ≠ none →
    ((s.mu p (s.sw p x).spillMu).reg (s.sw p x).spillRegion).fifoEmpty = true →
    exec (.spillEnd p x) s = .next (s.setSw p x { s.sw p x with spilling := none, spillTokens := 0 }))

/-- DRAIN and RESUME act by register and as a command of R362: a region already DRAINING or DRAINED, one that is not
DRAINED, are REFUSED (R123), and so is RESUME of a region that a partial load replaces, by the model's choice (log entry
91); a drain of no region is over at once (log entry 91), one of the set of its order completes, or times out (R121, R122), and in STOPPING a drain that times out fails the
step (R411). -/
def Obligations.DrainsRunAndComplete : Prop :=
  (∀ (s : State) (p : Fin 4) (mask : W16) (path : Path), s.openFor path (.trv p) →
    (mask ≠ 0 → mask &&& ((s.plat p).draining ||| (s.plat p).drained) = 0 →
      exec (.drain p mask (.reg path)) s = .next (((s.woken (.trv p)).beginDrain p mask).drainCode p Codes.ok)) ∧
    (mask = 0 → exec (.drain p mask (.reg path)) s = .next ((s.woken (.trv p)).drainCode p Codes.ok)) ∧
    (mask &&& ((s.plat p).draining ||| (s.plat p).drained) ≠ 0 →
      exec (.drain p mask (.reg path)) s = .next ((s.woken (.trv p)).drainCode p Codes.refused))) ∧
  (∀ (s u : State) (p : Fin 4) (mask : W16) (o r : Order), rowOrder o p 0 64 (mask.toNat * 65536) = r →
    s.takesNow opDrain r 0 → s.started opDrain r = u →
    (mask = 0 → exec (.drain p mask (.cmd o)) s = .next ((u.drainCode p Codes.ok).complete (s.orderId opDrain r)
      { code := Codes.ok })) ∧
    (mask ≠ 0 → mask &&& ((u.plat p).draining ||| (u.plat p).drained) = 0 →
      exec (.drain p mask (.cmd o)) s = .next ((u.beginDrain p mask).drainCode p Codes.ok)) ∧
    (mask &&& ((u.plat p).draining ||| (u.plat p).drained) ≠ 0 →
      exec (.drain p mask (.cmd o)) s = .next ((u.drainCode p Codes.refused).complete (s.orderId opDrain r)
        { code := Codes.refused }))) ∧
  (∀ (s : State) (p : Fin 4) (mask : W16) (path : Path), s.openFor path (.trv p) →
    (mask &&& ~~~(s.plat p).drained = 0 → mask &&& s.replacing p = 0 →
      exec (.resume p mask (.reg path)) s = .next (((s.woken (.trv p)).reopen p mask).drainCode p Codes.ok)) ∧
    ((mask &&& ~~~(s.plat p).drained ≠ 0 ∨ mask &&& s.replacing p ≠ 0) →
      exec (.resume p mask (.reg path)) s = .next ((s.woken (.trv p)).drainCode p Codes.refused))) ∧
  (∀ (s u : State) (p : Fin 4) (mask : W16) (o r : Order), rowOrder o p 0 64 (1 + mask.toNat * 65536) = r →
    s.takesNow opDrain r 0 → s.started opDrain r = u →
    (mask &&& ~~~(u.plat p).drained = 0 → mask &&& u.replacing p = 0 →
      exec (.resume p mask (.cmd o)) s = .next (((u.reopen p mask).drainCode p Codes.ok).complete (s.orderId opDrain r)
        { code := Codes.ok })) ∧
    ((mask &&& ~~~(u.plat p).drained ≠ 0 ∨ mask &&& u.replacing p ≠ 0) →
      exec (.resume p mask (.cmd o)) s = .next ((u.drainCode p Codes.refused).complete (s.orderId opDrain r)
        { code := Codes.refused }))) ∧
  (∀ (s : State) (p : Fin 4) (mask : W16), s.drainOf p mask = true →
    (∀ x ∈ s.sitesOf p mask, s.siteQuiet p x = true ∧ s.siteClosed p x = true) →
    ∃ t, exec (.drainComplete p mask) s = .next t ∧ (t.plat p).drained = (s.plat p).drained ||| mask ∧
      (t.plat p).draining = (s.plat p).draining &&& ~~~mask ∧ ∀ x ∈ s.sitesOf p mask, (t.sw p x).run = .drained) ∧
  (∀ (s u w : State) (p : Fin 4) (mask late : W16), s.drainOf p mask = true → mask &&& (s.plat p).draining &&& ~~~(s.plat p).timedOut = late → late ≠ 0 →
    (s.setPlat p { s.plat p with timedOut := (s.plat p).timedOut ||| late }).completeDrains p Codes.drainTimeout
      (fun m => m &&& late != 0) = u →
    u.raise .cont Codes.drainTimeout 4 p (u.plat p).dmaFaultLoc = w →
    ((w.img.state ≠ .stopping ∨ w.stepFailed = true) → exec (.drainTimeout p mask) s = .next w) ∧
    (w.img.state = .stopping → w.stepFailed = false → exec (.drainTimeout p mask) s = .next w.enterFailed))

/-! ## Images -/

/-- LOAD begins from HELD, by IMG_CMD and as an order; a load whose checks pass leaves the checked configuration in READY,
one whose checks fail ends in HELD with its code, check, plat, section and item (R140, R144, R146, R155). A partial load
begins over drained regions, is REFUSED over others, and ends with its image in place or with the failure shown
(R152, R153). -/
def Obligations.LoadsBeginAndComplete : Prop :=
  (∀ (s : State) (path : Path), s.openFor path .glb → s.img.state = .held → s.pwr.state ≠ .idle →
    exec (.load (.reg path)) s = .next { s with img := { s.img with state := .loading, progress := 0, course := 0 } }) ∧
  (∀ (s u : State) (o r : Order), rowOrder o 0 0 3 0 = r → s.takesNow opImage r s.img.stageLen.toNat →
    s.started opImage r = u → u.img.state = .held → u.pwr.state ≠ .idle →
    exec (.load (.cmd o)) s = .next { u with img := { u.img with state := .loading, progress := 0, course := 0 } }) ∧
  (∀ (s u : State) (bad : Bool) (ups : List Upset) (bs : List Byte) (n : Nat), s.img.state = .loading →
    (s.strikes ups).staged = (bs, bad, u) → (imageOf bs).digested true u.img.stageLen.toNat = n →
    (∀ t, u.checkImage (imageOf bs) true bad = .ok t →
      exec (.loadComplete .computed ups) s = .next (State.imgEnd { t with
        img := { t.img with progress := n }, mon := { t.mon with boundary := false, pass2Step := none } } 0 Codes.ok)) ∧
    (∀ f, u.checkImage (imageOf bs) true bad = .error f →
      exec (.loadComplete .computed ups) s = .next ((State.completeAll { u with img := { u.img with state := .held, progress := n } }
        opImage (fun b => b % 8 == 0) { code := f.code }).showFail f))) ∧
  (∀ (s u : State) (path : Path) (h : List Byte) (bad : Bool), s.openFor path .glb →
    (s.img.state = .ready ∨ s.img.state = .running) → s.pwr.state ≠ .idle → s.img.partialBusy = false →
    s.dramRead .load s.img.stageBase.toNat (min s.img.stageLen.toNat 256) = (h, bad, u) →
    (u.maskDrained (BitVec.ofNat 64 (leAt h 0x28 8)) = true →
      exec (.loadPartial (.reg path)) s = .next { u with img := { u.img with
        partialBusy := true, partialMask := BitVec.ofNat 64 (leAt h 0x28 8), progress := 0, course := 0 } }) ∧
    (u.maskDrained (BitVec.ofNat 64 (leAt h 0x28 8)) = false →
      exec (.loadPartial (.reg path)) s = .next (u.imgDone Codes.refused).1)) ∧
  (∀ (s u : State) (bad : Bool) (ups : List Upset) (bs : List Byte) (n : Nat) (fin : State → State),
    s.img.partialBusy = true → (s.strikes ups).staged = (bs, bad, u) →
    (imageOf bs).digested false u.img.stageLen.toNat = n →
    fin = (fun t => { t with img := { t.img with partialBusy := false, partialMask := 0, progress := n } }) →
    (∀ t, u.checkImage (imageOf bs) false bad = .ok t →
      exec (.partialLoadComplete .computed ups) s = .next ((fin t).imgEnd 1 Codes.ok)) ∧
    (∀ f, u.checkImage (imageOf bs) false bad = .error f →
      exec (.partialLoadComplete .computed ups) s = .next
        (((fin u).completeAll opImage (fun b => b % 8 == 1) { code := f.code }).showFail f)))

/-- START of a member enters RUNNING with OK; STOP in RUNNING cancels the orders of class 0 and drains every region, at
once, after the boundary of a step in pass 2, or after the sequence of a failed step, which is complete in RESTARTED (log
entry 22); a step it abandons is completed as log entry 64 says; a stop whose regions are drained is READY; UNLOAD from READY clears the configuration; ABORT ends a load with IMAGE_ABORTED, IMG_PROGRESS holding
what it had digested (R146 to R150; how far it had come is log entry 94). As an order each
operation is the same, and its completion carries its code (R362). -/
def Obligations.ImageStatesChange : Prop :=
  (∀ (s : State) (path : Path) (ups : List Upset), (s.strikes ups).openFor path .glb → s.img.state = .ready →
    s.pwr.state ≠ .idle → (s.strikes ups).debugOpen = false → s.mon.restoreBad = false → s.mon.restore = none →
    (s.strikes ups).planMember = true →
    ∃ t, exec (.start (.reg path) ups) s = .next t ∧ t.img.state = .running ∧ t.flt.stepState = .idle ∧
      t.img.code = Codes.ok ∧ t.img.stopDrained = false) ∧
  (∀ (s u : State) (path : Path), s.openFor path .glb → s.img.state = .running → s.pwr.state ≠ .idle →
    State.tableNow { s.cancelClass0 with img := { s.cancelClass0.img with state := .stopping } } = u →
    (u.flt.stepState = .restarted → exec (.stop (.reg path)) s = .next u.drainedIdle.stopEnd) ∧
    (u.flt.stepState ≠ .restarted → u.stepFailed = true → exec (.stop (.reg path)) s = .next u) ∧
    (u.flt.stepState ≠ .restarted → u.stepFailed = false →
      (u.adj.pass2 = true →
        exec (.stop (.reg path)) s = .next { u with img := { u.img with stopAtBoundary := true } }) ∧
      (u.adj.pass2 = false → u.adj.inStep = true → exec (.stop (.reg path)) s = .next u.abandonStep.drainAll) ∧
      (u.adj.pass2 = false → u.adj.inStep = false → exec (.stop (.reg path)) s = .next u.drainAll))) ∧
  (∀ (s : State), s.img.state = .stopping → s.img.stopAtBoundary = false → s.stepFailed = false →
    (∀ p : Fin 4, (s.plat p).draining = 0 ∧ s.openRegions p = 0) →
    exec .stopComplete s = .next (State.imgEnd { s with
      img := { s.img with state := .ready, stopAtBoundary := false, stopDrained := true } } 3 Codes.ok)) ∧
  (∀ (s : State) (path : Path), s.openFor path .glb → s.img.state = .ready → s.pwr.state ≠ .idle → s.monBusy = false →
    exec (.unload (.reg path)) s = .next (State.imgDone { s.endLoad.clearConfig with
      mon := { s.endLoad.clearConfig.mon with restoreBad := false } } Codes.ok).1 ∧
    s.endLoad.clearConfig.img.state = .held) ∧
  (∀ (s : State) (path : Path), s.openFor path .glb → s.img.state = .loading → s.pwr.state ≠ .idle →
    exec (.abort (.reg path)) s = .next (State.imgDone (State.imgEnd { s with
      free := s.free + 1, img := { s.img with state := .held, progress := s.courseBytes s.loadAt } } 0 Codes.imageAborted)
        Codes.imageAborted).1) ∧
  (∀ (s u : State) (o r : Order) (op : Fin 6) (i : Instr), (op, i) ∈ [(0, .load (.cmd o)), (1, .loadPartial (.cmd o)),
      (2, .start (.cmd o) []), (3, .stop (.cmd o)), (4, .unload (.cmd o)), (5, .abort (.cmd o))] →
    rowOrder o 0 0 3 op = r → s.takesNow opImage r (if op.val < 2 then s.img.stageLen.toNat else 0) →
    s.started opImage r = u →
    exec i s = .next (match (u.imgOp op).2 with
      | some c => (u.imgOp op).1.complete (s.orderId opImage r) { code := c }
      | none => (u.imgOp op).1))

/-! ## Plat DMA, triggers and the sequencer -/

/-- The engine starts its next descriptor, issues its next row, and brings a row that its controllers hold to its
destination; a row it may not move ends its descriptor with REFUSED or DMA_ADDR, checked at its issue and again at its
completion (log entry 90), and a full engine counts the cycle (log entry 8; R183 to R188). Requests to one burst are served
in the order in which they came (R268). A descriptor completes with its done add, and a macro run goes on (R187, R197). -/
def Obligations.PlatDmaMovesRows : Prop :=
  (∀ (s : State) (p : Fin 4) (j : DmaJob), s.gatesOpen (.dma p) = true → s.nextJob p = some j → j.src ≠ .host →
    exec (.dmaDescriptorStart p) s = .next (s.setPlat p { s.plat p with
      waitingDma := (s.plat p).waitingDma.erase j, active := (s.plat p).active ++ [{ id := (s.plat p).nextDma, job := j }],
      nextDma := (s.plat p).nextDma + 1 })) ∧
  (∀ (s : State) (p : Fin 4) (j : DmaJob), s.gatesOpen (.dma p) = true → s.nextJob p = some j → j.src = .host →
    exec (.dmaDescriptorStart p) s = .next (s.setPlat p { s.plat p with
      hq := (s.plat p).hq.drop 1, active := (s.plat p).active ++ [{ id := (s.plat p).nextDma, job := j }],
      nextDma := (s.plat p).nextDma + 1 })) ∧
  (∀ (s : State) (p : Fin 4) (a : DmaActive) (src dst : Nat) (groups : List Nat), s.gatesOpen (.dma p) = true →
    s.nextIssue p = some a →
    a.job.srcOf p a.rowsIssued = src → a.job.dstOf p a.rowsIssued = dst →
    (s.rowGroups src ++ (if a.job.desc.remote then [] else s.rowGroups dst)).eraseDups = groups →
    (512 ≤ (s.plat p).reqs.length →
      exec (.rowRequestIssue p) s = .next (s.setPlat p { s.plat p with cntFull := (s.plat p).cntFull + 1 })) ∧
    ((s.plat p).reqs.length < 512 →
      (s.dmaRefuses a.job dst = true → exec (.rowRequestIssue p) s = .next (s.dmaRefused p a)) ∧
      (s.dmaRefuses a.job dst = false → s.dmaRowOk p a.job src dst = false →
        exec (.rowRequestIssue p) s = .next (s.dmaAddr p a)) ∧
      (s.dmaRefuses a.job dst = false → s.dmaRowOk p a.job src dst = true →
        exec (.rowRequestIssue p) s = .next (State.setPlat { s with dram := { s.dram with arrivals := s.dram.arrivals + 1 } } p
        { ((s.plat p).setActive { a with rowsIssued := a.rowsIssued + 1 }) with
          reqs := (s.plat p).reqs ++ [RowReq.mk (s.plat p).nextDma a.id src dst false groups (s.mgRoom groups) s.dram.arrivals false],
          nextDma := (s.plat p).nextDma + 1,
          sent := if a.job.desc.remote = true ∧ a.rowsIssued % max 1 a.job.desc.runRows = 0 then
            SMap.set 0 (s.plat p).sent a.job.desc.cbm (SMap.get 0 (s.plat p).sent a.job.desc.cbm +
              BitVec.ofNat 32 a.job.desc.runRows) else (s.plat p).sent,
          sinceHost := if a.job.src == .host then 0 else (s.plat p).sinceHost + 1 })))) ∧
  (∀ (s u v : State) (p : Fin 4) (ix : Nat) (ups : List Upset) (q r : RowReq) (a : DmaActive),
    (s.plat p).reqs[ix]? = some q → (s.plat p).ownerOf q = some a → s.serveRows = v →
    ((v.plat p).reqs[ix]?).getD q = r → v.gatesOpen (.dma p) = true → r.sent = false → r.served = true →
    v.rowFirst r = true →
    (v.img.state = .ready ∨ v.tokensMove = true) → v.strikes ups = u →
    (a.failed = true → exec (.rowRequestDone p ix ups) s = .next (u.rowFinished p r false)) ∧
    (a.failed = false →
      (u.dmaRefuses a.job r.dst = true →
        exec (.rowRequestDone p ix ups) s = .next ((u.dmaRefused p a).rowFinished p r false)) ∧
      (u.dmaRefuses a.job r.dst = false → u.dmaRowOk p a.job r.src r.dst = false →
        exec (.rowRequestDone p ix ups) s = .next ((u.dmaAddr p a).rowFinished p r false)) ∧
      (u.dmaRefuses a.job r.dst = false → u.dmaRowOk p a.job r.src r.dst = true →
        exec (.rowRequestDone p ix ups) s = .next (u.rowMove p r a)))) ∧
  (∀ (s u w v : State) (p : Fin 4) (r : RowReq) (a : DmaActive) (bs : List Byte) (dirty : Bool),
    s.spaceRead (dmaUser p a.job.src) r.src (a.job.bytesAt r.dst) = (bs, dirty, u) → a.job.desc.remote = false →
    u.spaceWrite (dmaUser p a.job.src) r.dst bs (dirty || r.spoiled) = w →
    (if (dirty || r.spoiled) = true then w.setPlat p { w.plat p with dmaFault := setBit (w.plat p).dmaFault 1 } else w) = v →
    s.rowMove p r a = v.rowFinished p r true) ∧
  (∀ (s : State) (p : Fin 4) (a : DmaActive), (s.plat p).nextComplete = some a →
    exec (.descriptorComplete p) s = .next ((s.dmaComplete p a).seqAdvance p)) ∧
  (∀ (s : State) (p : Fin 4) (a : DmaActive), a.failed = false → a.job.desc.doneInc ≠ 0 → a.job.frame = none →
    s.dmaComplete p a = (s.setPlat p { s.plat p with
        active := (s.plat p).active.filter (fun b => b.id != a.id),
        hqDone := if a.job.src == .host then (s.plat p).hqDone + 1 else (s.plat p).hqDone }).bmkAdd a.job.desc.doneBm
      (BitVec.ofNat 32 a.job.desc.doneInc))

/-- DMA_HQ_PUSH appends the descriptor of the registers, a ready trigger fires once, and the sequencer begins a run, or
holds the start as pending (R188, R190, R197). -/
def Obligations.QueuePushTriggerAndSequencerStart : Prop :=
  (∀ (s : State) (p : Fin 4), s.awake = true → s.accessGated (.dma p) 0x070 = false → s.img.state ≠ .held → s.pwr.state ≠ .idle →
    (s.plat p).hq.length < 16 → ∀ d : DmaDesc,
    d = DmaDesc.mk ((s.plat p).hqDesc.getD 0 0) ((s.plat p).hqDesc.getD 1 0) ((s.plat p).hqDesc.getD 2 0)
      ((s.plat p).hqDesc.getD 3 0) ((s.plat p).hqDesc.getD 4 0) ((s.plat p).hqDesc.getD 5 0) →
    (d.remote = true → ∃ e ∈ s.cfg.dmaEntries p, e.remote = true ∧ e.cbm = d.cbm) → s.pushClosed d = false →
    exec (.dmaHqPush p true) s = .next ((s.woken (.dma p)).setPlat p { s.plat p with hq := (s.plat p).hq ++ [d], hqResult := Codes.ok })) ∧
  (∀ (s : State) (p : Fin 4) (t : Fin 1024) (g : Trigger), (s.cfg.triggers p)[t.val]? = some g → s.inputsOpen = true →
    s.gatesOpen (.dma p) = true →
    s.triggerReady p t g = true →
    (∀ i h, ((s.cfg.triggers p).take t)[i]? = some h → s.triggerReady p i h = false) →
    ∃ u, exec (.triggerFire p t) s = .next u ∧
      SMap.get 0 (u.plat p).thr t = SMap.get 0 (s.plat p).thr t + g.inc ∧
      SMap.get 0 (u.plat p).fired t = SMap.get 0 (s.plat p).fired t + 1 ∧
      (u.plat p).seqReq = (s.plat p).seqReq ++ (if g.seq then [g.seqIx] else []) ∧
      (∀ d, (s.cfg.dmaEntries p)[g.dmaIx]? = some d → g.dma = true →
        (u.plat p).waitingDma = (s.plat p).waitingDma ++
          [{ src := .program, index := g.dmaIx, desc := d, firing := SMap.get 0 (s.plat p).firings g.dmaIx }])) ∧
  (∀ (s : State) (p : Fin 4) (ix : BitVec 16), s.inputsOpen = true → s.gatesOpen (.dma p) = true →
    (s.plat p).seqReq.head? = some ix.toNat → (s.plat p).seqRun = none →
    exec (.sequencerStart p ix) s =
      .next ((s.setPlat p { s.plat p with seqReq := (s.plat p).seqReq.drop 1 }).seqBegin p ix.toNat)) ∧
  (∀ (s : State) (p : Fin 4) (ix : BitVec 16), s.inputsOpen = true → s.gatesOpen (.dma p) = true →
    (s.plat p).seqReq.head? = some ix.toNat → (s.plat p).seqRun ≠ none → (s.plat p).seqPend.length < 15 →
    exec (.sequencerStart p ix) s = .next (s.setPlat p { s.plat p with
      seqReq := (s.plat p).seqReq.drop 1, seqPend := (s.plat p).seqPend ++ [ix.toNat] })) ∧
  (∀ (s : State) (p : Fin 4) (ix : Nat) (rest : List Nat), (s.plat p).seqPend = ix :: rest → s.inputsOpen = true →
    s.gatesOpen (.dma p) = true → (s.plat p).seqRun = none →
    exec (.sequencerPendingStart p) s = .next ((s.setPlat p { s.plat p with seqPend := rest }).seqBegin p ix))

/-! ## Benchmarks -/

/-- READ returns the object, its low 8 bytes as the value (log entry 11); ADD and SET change the count modulo 2^32, return
the count before, and then release the waits that are reached, as ARM does (R206; the order is log entry 79); WAIT answers at once where
its level is reached, parks otherwise and finds 256 parked waits full; ARM sets threshold and mode but not the bits the
image fixes; a reserved mode or operation is REFUSED (R202, R203, R205, R207). -/
def Obligations.BenchmarkOperationsComplete : Prop :=
  (∀ (s u : State) (src y : BmkSrc) (i : Fin 65536), s.bmkPath src i .read → s.bmkAt src i .read = u → s.bmkSrcAt src = y →
    u.bmkCheck y i .read = none →
    exec (.bmkRead src i) s = .next ((u.countOp i).bmkReply y Codes.ok
      (BitVec.ofNat 64 (leNat (sub (u.bmkObject i) 0 8))) (u.bmkObject i))) ∧
  (∀ (s u : State) (src y : BmkSrc) (i : Fin 65536) (v : W32), s.bmkPath src i (.add v) → s.bmkAt src i (.add v) = u →
    s.bmkSrcAt src = y → u.bmkCheck y i (.add v) = none →
    exec (.bmkAdd src i v) s = .next
      ((((u.countOp i).setBmk i { u.bmk i with count := (u.bmk i).count + v }).bmkReply y Codes.ok
        (BitVec.ofNat 64 (u.bmk i).count.toNat) []).bmkEval i)) ∧
  (∀ (s u : State) (src y : BmkSrc) (i : Fin 65536) (v : W32), s.bmkPath src i (.set v) → s.bmkAt src i (.set v) = u →
    s.bmkSrcAt src = y → u.bmkCheck y i (.set v) = none →
    exec (.bmkSet src i v) s = .next
      ((((u.countOp i).setBmk i { u.bmk i with count := v }).bmkReply y Codes.ok
        (BitVec.ofNat 64 (u.bmk i).count.toNat) []).bmkEval i)) ∧
  (∀ (s u : State) (o r q : Order) (i : Fin 65536) (v : W32), rowOrder o i 0 96 (BmkOp.add v).payload = r →
    s.takesNow opBmk r 0 → s.started opBmk r = u → u.heldOrder (s.orderId opBmk r) = some q →
    u.bmkCheck (.cmd q) i (.add v) = none →
    exec (.bmkAdd (.cmd o) i v) s = .next ((((u.countOp i).setBmk i { u.bmk i with count := (u.bmk i).count + v }).complete
      (s.orderId opBmk r) { code := Codes.ok, value := some (BitVec.ofNat 64 (u.bmk i).count.toNat) }).bmkEval i)) ∧
  (∀ (s u : State) (src y : BmkSrc) (i : Fin 65536) (v : W32), s.bmkPath src i (.wait v) → s.bmkAt src i (.wait v) = u →
    s.bmkSrcAt src = y → u.bmkCheck y i (.wait v) = none →
    (reached (u.bmk i).count v = true →
      exec (.bmkWait src i v) s = .next ((u.countOp i).bmkReply y Codes.ok (BitVec.ofNat 64 (u.bmk i).count.toNat) [])) ∧
    (reached (u.bmk i).count v = false → (u.plat (homePlat i)).waits.length < 256 →
      exec (.bmkWait src i v) s = .next (u.setPlat (homePlat i) { u.plat (homePlat i) with
        waits := (u.plat (homePlat i)).waits ++ [{ index := i.val, level := v, src := y }],
        waitPeak := max (u.plat (homePlat i)).waitPeak ((u.plat (homePlat i)).waits.length + 1),
        cntOps := (u.plat (homePlat i)).cntOps + 1 })) ∧
    (reached (u.bmk i).count v = false → 256 ≤ (u.plat (homePlat i)).waits.length →
      exec (.bmkWait src i v) s = .next ((u.setPlat (homePlat i) { u.plat (homePlat i) with
        bmkFault := setBit (u.plat (homePlat i)).bmkFault 1,
        cntWaitFull := (u.plat (homePlat i)).cntWaitFull + 1 }).bmkReply y Codes.bmkWaitFull 0 []))) ∧
  (∀ (s u : State) (src y : BmkSrc) (i : Fin 65536) (thr mode : W32), s.bmkPath src i (.arm thr mode) →
    s.bmkAt src i (.arm thr mode) = u → s.bmkSrcAt src = y → u.bmkCheck y i (.arm thr mode) = none →
    (armBad mode = false →
      exec (.bmkArm src i thr mode) s = .next ((((u.countOp i).setBmk i { u.bmk i with
          thr := thr, mode := putFld mode 4 2 (fld (u.bmk i).mode 4 2) }).bmkReply y Codes.ok
        (BitVec.ofNat 64 (u.bmk i).mode.toNat) []).bmkEval i)) ∧
    (armBad mode = true → exec (.bmkArm src i thr mode) s = .next (u.bmkReply y Codes.refused 0 []))) ∧
  (∀ (s u : State) (src y : BmkSrc) (i : Fin 65536) (op : Fin 16), 5 ≤ op.val → s.bmkPath src i (.reserved op) →
    s.bmkAt src i (.reserved op) = u → s.bmkSrcAt src = y → u.img.state ≠ .held → u.stepFailed = false →
    exec (.bmkReservedOp src i op) s = .next (u.bmkReply y Codes.refused 0 []))

/-! ## A training step -/

/-- SEAL_SEND, GATE_SEND and COMMIT_SEND send the device's OK record of their phase once their conditions hold, and the AUs
go to the next phase (R242, R247, R250); in place of an OK SEAL each region that still holds rows raises STASH_RESIDUE
(R169), and a poisoned HOLD row fails the step (R242, R401); REQUANTISATION of a piece without error feedback adds its partial of gsq and ends
its round (R239, R240). -/
def Obligations.RequantisationAndExchangeRecords : Prop :=
  (∀ (s u : State), s.adj.inStep = true → s.arrayRuns = true → s.adj.sealSent = none → s.adj.kFault = false →
    s.piecesDone = true →
    (s.stashResidue = [] → s.holdPoisoned = false → (∀ g : Fin 4, (s.au g).step = s.stepIndex) →
      { s with adj := { s.adj with sealSent := some true, gsq := s.deviceGsq } } = u →
      exec .sealSend s = .next ((((u.setPhase 1).sendVote (u.ownRec 1 true)).keepRec (u.ownRec 1 true)).judgeSeal.judgeBad) ∧
      (u.ownRec 1 true).gsq = s.deviceGsq) ∧
    (s.stashResidue ≠ [] → exec .sealSend s = .next (s.stashResidue.foldl (fun s e =>
      s.raiseMu Codes.stashResidue (e.1 / 256) (e.1 % 256) e.2 none) s)) ∧
    (s.stashResidue = [] → s.holdPoisoned = true → exec .sealSend s = .next s.stepFail)) ∧
  (∀ (s : State) (r : NormRec), s.adj.inStep = true → s.arrayRuns = true → s.adj.sealed = true → s.adj.gateSent = none →
    s.adj.kFault = false → s.passDone 2 = true → { s.ownRec 2 true with trust := s.trustEntries } = r →
    exec .gateSend s = .next (((((State.setPhase { s with adj := { s.adj with gateSent := some true } } 3).sendVote
      r).keepRec r)).judge)) ∧
  (∀ (s : State), s.adj.inStep = true → s.arrayRuns = true → s.adj.gateOk = true → s.adj.commitSent = none →
    s.adj.kFault = false → s.passDone 4 = true → s.adj.gatherBad = false → (∀ q ∈ s.lxg.reqs, q.kind ≠ .gather) →
    exec .commitSend s = .next (((State.setPhase { s with adj := { s.adj with commitSent := some true } } 5).sendVote
      (s.ownRec 3 true)).keepRec (s.ownRec 3 true))) ∧
  (∀ (s u : State) (item : Fin 65536) (r : Region) (p : Piece) (bs : List Byte) (bad : Bool),
    s.requantReady item = some (r, p) → p.eEn = false →
    s.muRead p.rPlat p.rMu (((s.mu p.rPlat p.rMu).reg p.rReg).baseRow * 512) (4 * pieceElems r p) = (bs, bad, u) →
    ∃ t, exec (.requantisation item []) s = .next t ∧
      t.adj.partials = u.adj.partials ++ [(item.val, sumSquares (((chunksOf (s.holdAt r p).g.nb (chunksOf (s.holdAt r p).g.g
        (unpackElems 32 bs |>.map (BitVec.ofNat 32)))).map (quantBlock (s.holdAt r p).g.fmt)).flatMap
          (QBlock.values (s.holdAt r p).g.fmt)))] ∧
      ((t.mu p.rPlat p.rMu).reg p.rReg).roundDone = false ∧ ((t.mu p.rPlat p.rMu).reg p.rReg).applied = [])

/-- The two passes start, an AU takes its batches, its parked slots and its end, and the step ends at its boundary (R16,
R246, R249, R254 to R257). -/
def Obligations.PassesAndBoundaryComplete : Prop :=
  (∀ (s : State), s.adj.inStep = true → s.arrayRuns = true → s.adj.sealed = true →
    (∀ g : Fin 4, (s.au g).phase = 1 ∧ s.commandStep = some (s.au g).step ∧ s.dtm.latched = (s.au g).step ∧
      s.gatesOpen (.au g) = true) →
    s.coefsPresent = true →
    ∃ t, exec .pass1Start s = .next t ∧ (∀ g : Fin 4, t.au g = { (s.au g).startPass 2 with live := s.liveMap }) ∧
      { t with aus := s.aus } = s) ∧
  (∀ (s : State) (blocks : List FactorBlock), s.adj.inStep = true → s.arrayRuns = true → s.adj.gateOk = true →
    s.adj.pass2 = false →
    (∀ g : Fin 4, (s.au g).phase = 3) → (∀ m ∈ s.mon.locks, m + 2 ≠ s.stepIndex.toNat) →
    s.applyFreezes.anyNfSkip = false → (∀ b ∈ blocks, s.applyFreezes.blockStale b = false) →
    ∃ t, exec (.pass2Start blocks) s = .next t ∧ (∀ g : Fin 4, t.au g = (s.au g).startPass 4) ∧ t.adj.pass2 = true ∧
      t.adj.freeze = s.applyFreezes.adj.freeze ∧
      t.adj.factors = (blocks.foldl State.blockStore s.applyFreezes).adj.factors ∧ t.mon.pass2Step = some s.stepIndex.toNat) ∧
  (∀ (s : State) (g : Fin 4) (ups : List Upset) (r : Region), s.arrayRuns = true → s.adj.inStep = true →
    ((s.au g).phase = 2 ∨ (s.au g).phase = 4) → (s.au g).passDone = false → s.gatesOpen (.au g) = true →
    ((s.strikes ups).cfg.regions.drop (s.au g).region).head? = some r →
    (r.byAu g = false → exec (.auElementEvaluate g ups) s = .next ((s.strikes ups).setAu g
      { s.au g with region := (s.au g).region + 1, pos := 0 })) ∧
    (r.byAu g = true → r.sparse = false → (s.au g).pos < r.elements →
      exec (.auElementEvaluate g ups) s = .next ((s.strikes ups).denseBatch g r)) ∧
    (r.byAu g = true → r.sparse = true → (s.au g).pos < r.slots →
      exec (.auElementEvaluate g ups) s = .next ((s.strikes ups).sparseSlot g r)) ∧
    (r.byAu g = true → (if r.sparse then r.slots else r.elements) ≤ (s.au g).pos →
      exec (.auElementEvaluate g ups) s = .next ((s.strikes ups).endRegion g r))) ∧
  (∀ (s : State) (g : Fin 4), s.arrayRuns = true → s.adj.inStep = true → ((s.au g).phase = 2 ∨ (s.au g).phase = 4) →
    (s.au g).passDone = false → s.gatesOpen (.au g) = true → s.cfg.regions.length ≤ (s.au g).region → (s.au g).parked = [] →
    exec (.auElementEvaluate g []) s = .next (s.setAu g { s.au g with passDone := true })) ∧
  (∀ (s t : State) (g : Fin 4) (slot ri item k row : Nat) (ups : List Upset) (r r' : Region) (p : Piece),
    (s.au g).parked[slot]? = some (ri, item, k, row) → s.arrayRuns = true → s.adj.inStep = true →
    ((s.au g).phase = 2 ∨ (s.au g).phase = 4) → s.gatesOpen (.au g) = true → s.cfg.regions[ri]? = some r → s.cfg.piece item = some (r', p) →
    ((s.strikes ups).setAu g { s.au g with parked := (s.au g).parked.eraseIdx slot }).evalSlot g r p k row = t →
    exec (.parkedSlotEvaluate g slot ups) s = .next
      (if ri < (t.au g).region ∧ (∀ q ∈ (t.au g).parked, q.1 ≠ ri) then t.closeRegion g r else t))

/-- A step starts at its time, ends at its boundary with every AU at the next step; a failed step is quiescent when its
transactions are answered or too old and its rows complete, the restart actions run, and RESTARTED follows, or READY where a
STOP waited (R16, R359, R405 to R411). The order completes with the code of FLT_FIRST, with STEP_FAILED where that is not
valid (log entry 29). -/
def Obligations.StepsStartEndAndRestart : Prop :=
  (∀ (s u : State) (o : Order), s.takesNow opStepStart o 0 → s.started opStepStart o = u →
    exec (.stepStart o) s = .next { u with adj := { u.adj with nextStart := some (s.orderId opStepStart o) } }) ∧
  (∀ (s : State) (id : Nat) (h : Held), s.adj.nextStart = some id → s.cmd.held.find? (fun h => h.id == id) = some h →
    h.started = true → h.te.toNat ≤ s.dtm.time.toNat → s.adj.inStep = false → s.img.state = .running →
    (s.flt.stepState = .idle ∨ s.flt.stepState = .restarted) →
    exec .stepStartTime s = .next (s.beginStep id h.word.desc.step) ∧
    (s.adj.recs = [] → s.cfg.plan.seals ≠ [] → s.adj.fresh = false →
      (s.beginStep id h.word.desc.step).adj.inStep = true ∧ (s.beginStep id h.word.desc.step).adj.ts = s.dtm.time ∧
      (s.beginStep id h.word.desc.step).adj.curStart = some id ∧
      (s.beginStep id h.word.desc.step).flt.stepState = .running)) ∧
  (∀ (s : State), s.adj.inStep = true → s.arrayRuns = true → s.adj.commitSent = some true → s.haveAll 3 = true →
    ∃ t, exec .stepBoundary s = .next t ∧ ∀ g : Fin 4, (t.au g).step = (s.au g).step + 1) ∧
  (∀ (s : State) (ups : List Upset) (timedOut : Bool), (s.flt.stepState = .failed ∨ s.flt.stepState = .quiescing) →
    s.flt.restarting = false → (timedOut = true ∨ ∀ q ∈ s.lxg.reqs, q.failed = false) →
    (∀ p : Fin 4, ∀ q ∈ (s.plat p).reqs, q.sent = true ∧ timedOut = true) →
    exec (.quiescingEnd timedOut ups) s = .next (((State.strikes { s with
      lxg := { s.lxg with reqs := s.lxg.reqs.filter (fun q => !q.failed) }
      flt := { s.flt with stepState := .quiescing, restarting := true } } ups).contain).restartActions false)) ∧
  (∀ (s u : State) (id : Nat), s.flt.restarting = true → s.adj.curStart = some id →
    State.complete { s with
        flt := Flt.countAttempt { s.flt with restarting := false, stepState := .restarted } s.stepIndex
        adj := { s.adj with curStart := none } } id
      { code := if s.flt.first.valid then s.flt.first.code else Codes.stepFailed } = u →
    (u.img.state ≠ .stopping → exec .restartActionsDone s = .next u) ∧
    (u.img.state = .stopping → exec .restartActionsDone s = .next u.drainedIdle.stopEnd)) ∧
  (∀ (s : State), (s.flt.stepState = .failed ∨ s.flt.stepState = .quiescing) →
    exec .restartFail s = .next (s.raise .fatal Codes.restartFail 0 0))

/-- COEF_SET and FREEZE_SET complete with the code of their check, and an entry within its window is held; a written AU
step counter holds the value in READY alone (R252 to R254). -/
def Obligations.CoefficientAndFreezeOrdersComplete : Prop :=
  (∀ (s u : State) (o : Order), s.takesNow opCoefSet o 0 → s.started opCoefSet o = u →
    exec (.coefSet o) s = .next ((u.coefSetApply { opcode := opCoefSet, desc := o.desc }).1.complete (s.orderId opCoefSet o)
      { code := (u.coefSetApply { opcode := opCoefSet, desc := o.desc }).2 })) ∧
  (∀ (s : State) (w : BitVec 128), fld w 59 5 = 0 → fld w 96 32 = 0 → fld w 54 5 ≤ 16 →
    s.inWindow (BitVec.ofNat 48 (fld w 0 48)) = true →
    coefOk (rowFlags (s.cfg.ruleWord (fld w 48 6) 0)) (fld w 54 5) (BitVec.ofNat 32 (fld w 64 32))
      (s.coefPartner (BitVec.ofNat 48 (fld w 0 48)) (fld w 48 6) (fld w 54 5)) = true →
    (s.coefEntry w).1 = Codes.ok ∧
    ({ step := BitVec.ofNat 48 (fld w 0 48), row := fld w 48 6, index := fld w 54 5, value := BitVec.ofNat 32 (fld w 64 32) }
      : CoefEntry) ∈ (s.coefEntry w).2.adj.coefs) ∧
  (∀ (s u : State) (o : Order), s.takesNow opFreezeSet o 0 → s.started opFreezeSet o = u →
    fld o.desc.payload 61 67 = 0 → fld o.desc.payload 48 12 < u.cfg.regions.length →
    u.inWindow (BitVec.ofNat 48 (fld o.desc.payload 0 48)) = true →
    exec (.freezeSet o) s = .next (State.complete { u with adj := { u.adj with freezeNext := u.adj.freezeNext ++
      [{ step := BitVec.ofNat 48 (fld o.desc.payload 0 48), region := fld o.desc.payload 48 12, bit := bitOf o.desc.payload 60 }] } }
      (s.orderId opFreezeSet o) .ok)) ∧
  (∀ (s : State) (g : Fin 4) (v : W64), s.blockGated (.au g) = false →
    (s.img.state = .ready →
      exec (.auStepWrite g v) s = .next ((s.woken (.au g)).setAu g { s.au g with step := v.setWidth 48 })) ∧
    (s.img.state ≠ .ready → exec (.auStepWrite g v) s = .next (s.woken (.au g))))

/-- An exchange record from a device of the seal set is kept and judged, a FAIL record in place of an OK of its kind (R403),
and a FAIL record of the step raises SEAL_PEER (R243, R244); a closure record goes to its check (R307); a record missing at its deadline fails the step, and AU_EXCH names the first
device that is missing (R245, R262). -/
def Obligations.ExchangeRecordsArriveOrTimeOut : Prop :=
  (∀ (s u v : State) (rx : Rx) (r : NormRec), s.takes rx (.norm r) → r.typ.val ≠ 4 → s.taken rx (.norm r) = u →
    (u.img.state = .running ∨ u.img.state = .stopping) → u.stepFailed = false → (∃ e ∈ u.cfg.plan.seals, e.dev = r.dev) →
    (∀ q ∈ u.adj.recs, q.typ = r.typ → q.dev = r.dev → q.step = r.step → q.vote = false ∧ r.vote = true) →
    v = { u with adj := { u.adj with recs := u.adj.recs.filter (fun q =>
      !(q.typ == r.typ && q.dev == r.dev && q.step == r.step)) } } →
    exec (.normRecord rx r) s = .next ((v.keepRec r).judge) ∧
    (v.adj.inStep = true → r.step = v.stepIndex → r.vote = true →
      r.dev ≠ v.cfg.plan.dev → (∀ q ∈ v.adj.recs, q.dev ≠ v.cfg.plan.dev → v.recBad q = false) →
      exec (.normRecord rx r) s = .next ((v.keepRec r).exchFail r.dev r.typ.val r.fault 4 Codes.sealPeer))) ∧
  (∀ (s u : State) (rx : Rx) (r : NormRec), s.takes rx (.norm r) → r.typ.val = 4 → s.taken rx (.norm r) = u →
    u.layoutOn = true →
    exec (.normRecord rx r) s = .next (u.closureTake { dev := r.dev, step := r.step.toNat, root := r.root
                                                       fail := if r.vote then some r.fault else none })) ∧
  (∀ (s : State) (e : SealEntry), s.adj.inStep = true → s.arrayRuns = true → s.bankWaits = false →
    s.exchDeadline s.exchPhase ≤ s.dtm.time.toNat →
    s.cfg.plan.seals.find? (fun e => !s.adj.recs.any (fun r =>
      r.typ.val == s.exchPhase && r.dev == e.dev && r.step == s.stepIndex)) = some e →
    ∃ t, exec .exchangeTimeout s = .next t ∧
      t.adj.exch = mkWord 64 [(0, 12, e.dev), (12, 2, s.exchPhase), (16, 16, Codes.exchangeTimeout.toNat), (32, 1, 1)] ∧
      ∀ g : Fin 4, (t.au g).fault.getLsbD 5 = true)

/-! ## External memory -/

/-- A burst is read for its user, marked where it is poisoned, and a write that its channel serves reaches memory (R269 to
R271); 16 failed retries of an access or of a command lose the channel (R267, R412); an access of R277 that is not the user's
is refused; a refresh changes nothing else (log entry 26), a hot module is flagged once (R267), and the patrol scrubber poisons a burst it cannot correct and goes on by one burst (R272). -/
def Obligations.ExternalMemoryEventsComplete : Prop :=
  (∀ (s u : State) (user : DramUser) (addr : BitVec 42) (retries c o : Nat) (ups : List Upset) (bs : List Byte) (bad : Bool),
    s.awake = true → s.dramAwake = true → s.dramReadOk user addr.toNat = true → s.dramMap addr.toNat = some (c, o) →
    (retries < 16 → (s.strikes ups).dramRead user (burstBase addr.toNat) 128 = (bs, bad, u) →
      exec (.dramRead user { addr := addr, failedRetries := retries } ups) s = .next (u.emit (.bytes bs bad))) ∧
    (16 ≤ retries → exec (.dramRead user { addr := addr, failedRetries := retries } ups) s = .next (s.channelDown c))) ∧
  (∀ (s : State) (user : DramUser) (addr : BitVec 42) (retries : Nat) (ups : List Upset),
    s.awake = true → s.dramAwake = true → s.dramReadOk user addr.toNat = false →
    exec (.dramRead user { addr := addr, failedRetries := retries } ups) s = .next (s.dramForbidden user)) ∧
  (∀ (s : State) (user : DramUser) (addr : BitVec 42) (data : List Byte) (poison : Bool) (retries : Nat) (ups : List Upset),
    s.awake = true → s.dramAwake = true → data ≠ [] → addr.toNat % 128 + data.length ≤ 128 →
    (s.loadBusy && s.inStaging addr.toNat) = false →
    (dramIsHost user && (s.rangeOf addr.toNat).any (fun r => s.kindLocked r.kind)) = false →
    (s.dramWriteOk user addr.toNat = false →
      exec (.dramWrite user addr data poison retries ups) s = .next (s.dramForbidden user)) ∧
    (∀ c o, s.dramWriteOk user addr.toNat = true → s.dramMap addr.toNat = some (c, o) →
      (retries < 16 → exec (.dramWrite user addr data poison retries ups) s =
        .next ((s.strikes ups).dramWrite user addr.toNat data poison)) ∧
      (16 ≤ retries → exec (.dramWrite user addr data poison retries ups) s = .next (s.channelDown c)))) ∧
  (∀ (s : State) (c : Fin 16) (n : Nat), (n < 16 ∨ (s.chan c).state ≠ .up → exec (.dramRefresh ⟨c, n⟩) s = .next s) ∧
    (16 ≤ n → (s.chan c).state = .up → exec (.dramRefresh ⟨c, n⟩) s = .next (s.channelDown c) ∧
      exec (.dramHot ⟨c, n⟩) s = .next (s.channelDown c))) ∧
  (∀ (s : State) (c : Fin 16) (n : Nat), n < 16 → (s.chan c).state = .up → (s.chan c).hot = false →
    ∃ t, exec (.dramHot ⟨c, n⟩) s = .next t ∧ t.chan c = { s.chan c with hot := true } ∧
      t.mg (c.val / 4) = { s.mg (c.val / 4) with fault := setBit (s.mg (c.val / 4)).fault 5 }) ∧
  (∀ (s u : State) (c : Fin 16) (ups : List Upset), (s.chan c).state = .up → s.dramAwake = true →
    (s.mg (c.val / 4)).period ≠ 0 →
    ((s.strikes ups).burstDecode c (burstKey c (128 * (s.chan c).scrubPos)) = (false, u) →
      exec (.patrolScrub c ups) s = .next (u.scrubAdvance c)) ∧
    ((s.strikes ups).burstDecode c (burstKey c (128 * (s.chan c).scrubPos)) = (true, u) →
      ∃ t, exec (.patrolScrub c ups) s = .next (State.scrubAdvance t c) ∧
        t.dram.poison = SMap.set false u.dram.poison (burstKey c (128 * (s.chan c).scrubPos)) true ∧
        t.dram.err = SMap.set [] u.dram.err (burstKey c (128 * (s.chan c).scrubPos)) [] ∧
        (t.mg (c.val / 4)).fault.getLsbD 2 = true)) ∧
  (∀ (s : State) (c : Fin 16), ((s.chan c).scrubPos + 1) * 128 < (s.chan c).bytes →
    s.scrubAdvance c = s.setChan c { s.chan c with scrubPos := (s.chan c).scrubPos + 1 })

/-! ## Monuments -/

/-- CAPTURE begins a monument of a state that stands, RESTORE a restore from the host or, by a PULL, from a device, ABORT ends
a monument with MON_ABANDONED (R288, R294, R298, R309, R316). As an order each is the same, and completes with the code of an
operation that has ended (R362). -/
def Obligations.MonumentOperationsBeginAndEnd : Prop :=
  (∀ (s : State) (path : Path) (m : Step), s.openFor path .glb → s.pwr.state ≠ .idle →
    (s.img.state = .ready ∨ s.img.state = .running) →
    s.debugOpen = false → s.monBusy = false → s.stateHeld m.toNat = true → s.monPorts s.mon.mask ≠ [] →
    ∃ t j, exec (.capture (.reg path) m) s = .next t ∧ { t with mon := s.mon } = s ∧
      t.mon = { s.mon with job := some j, result := Codes.ok, resultStep := m.toNat, acked := 0, total := j.total } ∧
      j.own = true ∧ j.step = m.toNat ∧ j.segs = s.monSegs m.toNat ∧ j.head = s.manifest m.toNat (s.monSegs m.toNat) ∧
      j.len = segsEnd (s.monSegs m.toNat) ∧ j.freeze = freezeBytes s.adj.freeze ∧ j.next = 0 ∧ j.flight = []) ∧
  (∀ (s u : State) (o r : Order) (m : Step) (newest : Bool) (w : W64) (i : Instr),
    (w, i) ∈ [(mkWord 64 [(16, 48, m.toNat)], .capture (.cmd o) m),
      (mkWord 64 [(0, 2, 1), (2, 1, b2n newest), (16, 48, m.toNat)], .restore (.cmd o) newest m), (2, .monumentAbort (.cmd o))] →
    rowOrder o 0 0 64 w.toNat = r → s.takesNow opMon r (s.monSize w) → s.started opMon r = u →
    exec i s = .next (match (u.monWord w).2 with
      | some c => (u.monWord w).1.complete (s.orderId opMon r) { code := c }
      | none => (u.monWord w).1)) ∧
  (∀ (s : State) (path : Path) (newest : Bool) (m : Step), s.openFor path .glb → s.pwr.state ≠ .idle → s.img.state = .ready →
    s.monBusy = false → s.mon.toDevice = false →
    exec (.restore (.reg path) newest m) s = .next { s with mon := { s.mon with
      restore := some { step := none, from_ := none, peer := s.mon.sinkId, mask := s.mon.mask }
      result := Codes.ok, resultStep := m.toNat, acked := 0, total := 0 } }) ∧
  (∀ (s : State) (path : Path) (newest : Bool) (m : Step), s.openFor path .glb → s.pwr.state ≠ .idle → s.img.state = .ready →
    s.monBusy = false → s.mon.toDevice = true → s.monPorts s.mon.mask ≠ [] →
    exec (.restore (.reg path) newest m) s = .next (State.monSend { s with mon := { s.mon with
        restore := some { step := if newest then none else some m.toNat, from_ := some (fld s.mon.sink 32 12)
                          peer := s.mon.sinkId, mask := s.mon.mask }
        result := Codes.ok, resultStep := m.toNat, acked := 0, total := 0 } } s.mon.mask 0 s.mon.sinkId 5
      { status := 0, srcDev := fld s.mon.sink 32 12, index := 0
        step := BitVec.ofNat 64 (if newest then 2 ^ 48 - 1 else m.toNat), payload := [], digest := List.replicate 64 0 })) ∧
  (∀ (s : State) (path : Path) (j : MonJob), s.openFor path .glb → s.pwr.state ≠ .idle → s.img.state ≠ .held →
    s.mon.restore = none →
    s.mon.job = some j → j.own = true →
    ∃ t, exec (.monumentAbort (.reg path)) s = .next t ∧ t.mon.job = none ∧ t.mon.result = Codes.monAbandoned ∧
      t.mon.resultStep = j.step)

/-- A chunk is read, digested and sent while the window has room, or abandons the monument where it is poisoned (R302, R304);
the record is signed after the last one (R293), a frame without its acknowledgement goes again, sixteen times at most, and
abandons the monument after that (R302); a bank wait fails the step (R297). -/
def Obligations.MonumentStreamGoesOn : Prop :=
  (∀ (s u : State) (ups : List Upset) (j k : MonJob) (bs : List Byte) (bad : Bool), s.mon.job = some j →
    s.digestRuns = true → j.next < j.total →
    j.flight.length < j.window → j.own = true →
    (s.strikes ups).bodyBytes .monument j (j.next * 0x100000) (min j.len (j.next * 0x100000 + 0x100000)) = (bs, bad, u) →
    { j with next := j.next + 1, flight := j.flight ++ [{ index := j.next, bytes := bs, digest := monChunkDigest j.next bs }],
             digests := j.digests ++ [monChunkDigest j.next bs] } = k →
    (bad = false → exec (.chunkRead ups) s =
      .next (((u.shareRead j (min j.len (j.next * 0x100000 + 0x100000)) false).setJob (some k)).monShip k
        { index := j.next, bytes := bs, digest := monChunkDigest j.next bs })) ∧
    (bad = true → exec (.chunkRead ups) s =
      .next ((u.shareRead j (min j.len (j.next * 0x100000 + 0x100000)) true).monAbandon Codes.monPoison))) ∧
  (∀ (s : State) (j : MonJob), s.hasIdentity = true → s.mon.job = some j → j.own = true → j.next = j.total →
    j.record = none →
    exec .recordSignature s = .next (s.setJob (some { j with record := some (s.monRecord j) })).tryRecord) ∧
  (∀ (s : State) (j : MonJob) (i : W32) (e : MonSent), s.mon.job = some j →
    j.flight.find? (fun e => e.index == i.toNat && e.retry) = some e →
    (e.sends ≤ 16 → exec (.retryResend i) s = .next (s.monResend j e)) ∧
    (17 ≤ e.sends → exec (.retryResend i) s = .next (s.monAbandon Codes.monSinkFail))) ∧
  (∀ (s : State) (j : MonJob) (i : W32) (e : MonSent), s.mon.job = some j →
    j.flight.find? (fun e => e.index == i.toNat && !e.retry && decide (e.sends ≤ 16)) = some e →
    exec (.silenceResend i) s = .next (s.monResend j e)) ∧
  (∀ (s : State) (j : MonJob) (i : W32), s.mon.job = some j →
    (∃ e ∈ j.flight, e.index = i.toNat ∧ e.retry = false ∧ 17 ≤ e.sends) →
    exec (.resendLimit i) s = .next (s.monAbandon Codes.monSinkFail)) ∧
  (∀ (s : State), s.bankWaits = true → s.adj.ts.toNat + s.cfg.timing.stepDt ≤ s.dtm.time.toNat →
    exec .monBankWait s = .next (s.raise .cont Codes.monBankWait 10 0 s.monStatus))

/-- An OK acknowledgement of a chunk takes it from the flight; a sink stores a chunk, takes the record, gives up a slot and
streams what it holds (R302, R303, R309, R310). An ABANDON frame ends a restore with MON_ABANDONED (log entry 41). -/
def Obligations.MonumentFramesComplete : Prop :=
  (∀ (s u : State) (rx : Rx) (f : MonFrame) (j : MonJob) (e : MonSent), s.takes rx (.mon 4 f) →
    s.taken rx (.mon 4 f) = u → u.mon.job = some j → f.srcDev = j.src → f.step.toNat = j.step →
    (s.headerOf rx).src = j.dst → j.flight.find? (fun e => e.index == f.index.toNat) = some e → f.status = 0 →
    e.index ≠ ackRecord → j.bm = none →
    exec (.ackFrame rx f) s = .next (State.tryRecord { u with mon := { u.mon with
      job := some { j with flight := j.flight.filter (fun x => x.index != e.index) }, acked := u.mon.acked + 1 } })) ∧
  (∀ (s u : State) (rx : Rx) (f : MonFrame) (r : DramRange) (x : Fill), s.takes rx (.mon 1 f) →
    s.taken rx (.mon 1 f) = u → u.mon.restore = none → u.buddyRange f.srcDev = some r →
    (s.headerOf rx).src = BitVec.ofNat 16 f.srcDev → monChunkDigest f.index.toNat f.payload = f.digest →
    u.mon.fills.find? (fun x => x.src == f.srcDev && x.step == f.step.toNat) = some x →
    f.index.toNat * 0x100000 + f.payload.length ≤ x.len → u.chunkRefused x f.index.toNat f.payload.length = false →
    exec (.chunkFrame rx f) s = .next (((u.spaceWrite .monument (x.slot + 0x10000 + f.index.toNat * 0x100000) f.payload
        false).setFill { x with got := SMap.set [] x.got f.index.toNat f.digest }).monAck (s.headerOf rx) f f.index 0)) ∧
  (∀ (s u : State) (rx : Rx) (f : MonFrame) (r : Restore), s.takes rx (.mon 1 f) →
    s.taken rx (.mon 1 f) = u → u.mon.restore = some r → r.matches (s.headerOf rx) f = true →
    exec (.chunkFrame rx f) s = .next (u.restoreChunk (s.headerOf rx) f r)) ∧
  (∀ (s u : State) (rx : Rx) (f : MonFrame) (x : Fill), s.takes rx (.mon 2 f) →
    s.taken rx (.mon 2 f) = u → u.mon.restore = none →
    u.mon.fills.find? (fun x => x.src == f.srcDev && x.step == f.step.toNat && (s.headerOf rx).src == BitVec.ofNat 16 x.src)
      = some x →
    recordMatches f.payload x.step x.len x.got = true → u.recordSigned f.payload = true →
    exec (.recordFrame rx f .computed) s = .next
      (((((u.spaceWrite .monument (x.slot + 0x1000) (f.payload.take recordLen) false).slotHeader x 2).dropFill
        x.src).monAck (s.headerOf rx) f (BitVec.ofNat 32 ackRecord) 0))) ∧
  (∀ (s u : State) (rx : Rx) (f : MonFrame) (r : Restore) (a b : W64), s.takes rx (.mon 2 f) →
    s.taken rx (.mon 2 f) = u → u.mon.restore = some r → r.matches (s.headerOf rx) f = true → r.seed = some (a, b) →
    recordMatches f.payload f.step.toNat (segsEnd (u.monSegs f.step.toNat)) r.got = true →
    u.recordSigned f.payload = true →
    ∃ t, exec (.recordFrame rx f .computed) s = .next t ∧ t.mon.seed0 = a ∧ t.mon.seed1 = b ∧ t.mon.restore = none ∧
      t.mon.restoreBad = false ∧ t.mon.result = Codes.ok ∧
      ∀ g : Fin 4, (t.au g).step = BitVec.ofNat 48 (f.step.toNat + 1)) ∧
  (∀ (s u : State) (rx : Rx) (f : MonFrame), s.takes rx (.mon 3 f) → s.taken rx (.mon 3 f) = u →
    (u.mon.restore = none → exec (.abandonFrame rx f) s = .next (u.dropFill f.srcDev)) ∧
    (∀ r, u.mon.restore = some r → r.matches (s.headerOf rx) f = true →
      exec (.abandonFrame rx f) s = .next (u.restoreEnd r Codes.monAbandoned))) ∧
  (∀ (s u v : State) (rx : Rx) (f : MonFrame) (r : DramRange) (valid : List SlotSeen) (x : SlotSeen), s.takes rx (.mon 5 f) →
    s.taken rx (.mon 5 f) = u → u.buddyRange f.srcDev = some r → u.validSlots r = (valid, v) →
    newestSlot (valid.filter (fun x => fld f.step 0 48 = 2 ^ 48 - 1 || x.step = f.step.toNat)) = some x →
    v.img.state ≠ .held → v.monBusy = false → v.monPorts v.mon.mask ≠ [] →
    ∃ t j, exec (.pullFrame rx f) s = .next t ∧
      t = { v with mon := { v.mon with job := some j, acked := 0, total := j.total } } ∧ j.own = false ∧ j.step = x.step ∧
      j.src = f.srcDev ∧ j.dst = (s.headerOf rx).src ∧ j.base = x.at_ + 0x10000 ∧ j.len = x.len ∧ j.next = 0 ∧ j.flight = [])

/-- The digest of a closure stream becomes MON_CLOSE_ROOT and goes to the group, or a FAIL record goes where its data are
poisoned; it waits for the bytes that a monument of the same state has still to read (R308); a check whose deadline has passed is
judged (R305 to R307; records out of their step are log entry 42). -/
def Obligations.ClosureChecksComplete : Prop :=
  (∀ (s u : State) (ups : List Upset) (n : Nat) (bs : List Byte) (bad : Bool), s.mon.digest = some n →
    (s.digestShares n = true → exec (.closureDigestDone ups) s = .next s) ∧
    (s.digestShares n = false → s.digestRuns = true →
      (((s.strikes ups).monSegs n).filter (fun g => g.kind == 1 || g.kind == 5 || g.kind == 6)).foldl
        (fun (acc : List Byte × Bool × State) g =>
          (acc.1 ++ (acc.2.2.closeBytes g).1, acc.2.1 || (acc.2.2.closeBytes g).2.1, (acc.2.2.closeBytes g).2.2))
        ([], (s.strikes ups).mon.digestBad, s.strikes ups) = (bs, bad, u) →
      (bad = false → exec (.closureDigestDone ups) s = .next (State.closureSend { u with mon := { u.mon with
        digest := none, closeRoot := closureRootOf n u.img.layoutId bs } } n (closureRootOf n u.img.layoutId bs) none)) ∧
      (bad = true → exec (.closureDigestDone ups) s = .next (State.closureSend { u with mon := { u.mon with
        digest := none } } n (List.replicate 64 0) (some Codes.monPoison))))) ∧
  (∀ (s : State) (k : CloCheck),
    s.mon.checks.find? (fun k => decide (k.at_.toNat + 2 * s.cfg.timing.stepDt ≤ s.dtm.time.toNat)) = some k →
    exec .closureDeadline s = .next (s.closureJudge k))


/-! ## Lumoux ports -/

/-- Loss of laser input i darkens its four ports and raises LX_LASER_LOST; light and signal put a DOWN port in TRAINING,
a trained port is LINKED and announces itself, and a lost lane lock or a retrain drops the link (R320 to R322, R334; when a
link trains again, and the signal that a lost lane clears, are log entry 66). Without the local input no port trains (R381).
None of this happens while reset is held (R497). -/
def Obligations.PortsTrainAndDrop : Prop :=
  (∀ (s : State) (i : Fin 8), s.awake = true → (s.port (4 * i)).light = true →
    ∃ t, exec (.laserLost i) s = .next t ∧ ∀ k : Fin 4, (t.port (4 * i + k)).light = false ∧
      (t.port (4 * i + k)).fault.getLsbD 5 = true ∧ (t.port (4 * i + k)).up = false) ∧
  (∀ (s : State) (i : Fin 8), s.awake = true → s.clk.refin = true →
    ∃ t, exec (.laserReturn i) s = .next t ∧ ∀ k : Fin 4,
      t.port (4 * i + k) = ({ s.port (4 * i + k) with light := true } : Port).retrain) ∧
  (∀ (s : State) (i : Fin 8), s.awake = false →
    exec (.laserLost i) s = .next s ∧ exec (.laserReturn i) s = .next s) ∧
  (∀ (s : State) (n : Fin 32), s.awake = true → s.clk.refin = true → (s.port n).state = .down → (s.port n).en = true →
    (s.port n).light = true →
    exec (.receiveSignal n) s = .next (s.setPort n { s.port n with signal := true, state := .training })) ∧
  (∀ (s : State) (n : Fin 32), s.awake = true →
    ((s.port n).state ≠ .down ∨ (s.port n).en = false ∨ (s.port n).light = false ∨ s.clk.refin = false) →
    exec (.receiveSignal n) s = .next (s.setPort n { s.port n with signal := true })) ∧
  (∀ (s : State) (n : Fin 32), (s.port n).state = .training → s.clk.refin = true →
    exec (.trainingDone n) s = .next (((s.setPort n { s.port n with state := .linked, lanes := 0xFF }).lxTrained
      n).sendAnnounce n)) ∧
  (∀ (s : State) (n : Fin 32), s.clk.refin = false → exec (.trainingDone n) s = .next s) ∧
  (∀ (s : State) (n : Fin 32) (lane : Fin 8), ((s.port n).state = .training ∨ (s.port n).up = true) →
    exec (.laneLockLoss n lane) s = .next ((s.setPort n { s.port n with
      signal := false, lanes := clrBit (s.port n).lanes lane }).dropLink n)) ∧
  (∀ (s : State) (n : Fin 32), (s.port n).state ≠ .off → exec (.retrain n) s = .next (s.dropLink n))

/-- A peer that passes its checks is answered with KEYX, one whose signature fails makes the port ISOLATED; a KEYX that
verifies makes the port SECURE with keys from both shared secrets and the transcript; a rekey keeps the old keys for a grace
time and changes the key phase once this side's KEYX has left too (R334 to R338). Only a module in operation keys links (R445,
R453). -/
def Obligations.PortsBecomeSecure : Prop :=
  (∀ (s r u v : State) (n : Fin 32) (a mine : Announce) (rnd : List Byte), (s.port n).state = .linked →
    s.setPort n ((s.port n).free 0 (flitsOf 53032)) = r → r.hasIdentity = true → r.peerCheck n a true = none →
    announceSigned a = true →
    (s.port n).myAnnounce = some mine → (r.setPort n { r.port n with peerAnnounce := some a }).lxCalibrate n a.keyId = u →
    u.drbgDraw 32 = (rnd, v) →
    exec (.announce n a .computed) s = .next (State.put (v.setPort n
        { v.port n with kem := { (v.port n).kem with ss := Config.kemSs a.ek rnd } }) n
      { src := v.ownSrc, dst := 0, tag := 0
        body := .keyx (Config.kemCt a.ek rnd) (transcriptOf mine a)
          (Config.identitySign (keyxMessage (Config.kemCt a.ek rnd) (transcriptOf mine a))) })) ∧
  (∀ (s r : State) (n : Fin 32) (a : Announce), ((s.port n).state = .linked ∨ (s.port n).state = .secure) →
    s.setPort n ((s.port n).free 0 (flitsOf 53032)) = r → r.hasIdentity = true → announceSigned a = false →
    exec (.announce n a .computed) s = .next (r.isolate n (some (Codes.lxPeerMismatch, 3)))) ∧
  (∀ (s r : State) (n : Fin 32) (a mine : Announce) (ct sig : List Byte), (s.port n).state = .linked →
    s.setPort n ((s.port n).free 0 (flitsOf 51488)) = r → r.hasIdentity = true → r.peerCheck n a true = none →
    (s.port n).peerAnnounce = some a → (s.port n).myAnnounce = some mine →
    Config.slhVerify true a.pubKey (keyxMessage ct (transcriptOf mine a)) sig = true →
    exec (.keyx n ct (transcriptOf mine a) sig) s = .next (State.retryHeld (State.sendLinkstate (r.setPort n
      ((r.port n).secure a (keysOf (bytesLt mine.keyId a.keyId) (sessionKey (bytesLt mine.keyId a.keyId) (s.port n).kem.ss
        (Config.kemDecaps (s.port n).kem.dk ct) (transcriptOf mine a)))))))) ∧
  (∀ (s r : State) (n : Fin 32) (a mine : Announce) (ct tr sig : List Byte),
    ((s.port n).state = .linked ∨ (s.port n).state = .secure) →
    s.setPort n ((s.port n).free 0 (flitsOf 51488)) = r → r.hasIdentity = true →
    (s.port n).peerAnnounce = some a → (s.port n).myAnnounce = some mine →
    (Config.slhVerify true a.pubKey (keyxMessage ct tr) sig = false ∨ tr ≠ transcriptOf mine a) →
    exec (.keyx n ct tr sig) s = .next (r.isolate n (some (Codes.lxPeerMismatch, 3)))) ∧
  (∀ (s r : State) (n : Fin 32) (a mine : Announce) (ct sig : List Byte), (s.port n).state = .secure →
    s.setPort n ((s.port n).free 0 (flitsOf 51488)) = r → r.hasIdentity = true → r.peerCheck n a true = none →
    (s.port n).peerAnnounce = some a → (s.port n).myAnnounce = some mine →
    Config.slhVerify true a.pubKey (keyxMessage ct (transcriptOf mine a)) sig = true →
    ∃ t k, exec (.keyx n ct (transcriptOf mine a) sig) s = .next t ∧ (t.port n).state = .secure ∧
      k = keysOf (bytesLt mine.keyId a.keyId) (sessionKey (bytesLt mine.keyId a.keyId) (s.port n).kem.ss
        (Config.kemDecaps (s.port n).kem.dk ct) (transcriptOf mine a)) ∧
      ((∀ x ∈ (s.port n).waiting, x.body.typ ≠ 0x0D) → (t.port n).keyPhase = !(s.port n).keyPhase ∧
        (t.port n).oldKeys = some (s.port n).keys ∧ (t.port n).rekey = false ∧ (t.port n).keys = k) ∧
      ((∃ x ∈ (s.port n).waiting, x.body.typ = 0x0D) → (t.port n).keyPhase = (s.port n).keyPhase ∧
        (t.port n).keys = (s.port n).keys ∧ (t.port n).nextKeys = some k)) ∧
  (∀ (s : State) (n : Fin 32), (s.port n).state = .secure → (s.port n).rekey = false →
    exec (.rekey n) s = .next ((s.setPort n { s.port n with rekey := true }).sendAnnounce n)) ∧
  (∀ (s : State) (n : Fin 32), (s.port n).rekey = true → exec (.rekeyTimeout n) s = .next (s.dropLink n)) ∧
  (∀ (s : State) (n : Fin 32), exec (.keyPhaseGraceEnd n) s = .next (s.setPort n { s.port n with oldKeys := none }))

/-- A good DATA flit in order takes its number and a buffer place and its bytes join the transaction of its channel, a bad
one asks for a replay; a good LINK flit acknowledges and gives credit, the replay it announces ends the wait; a report
acknowledges and returns the credit owed; a nak is repeated, and a flit that stays unacknowledged drops the link (R319,
R323 to R328). -/
def Obligations.FlitsMoveInOrder : Prop :=
  (∀ (s : State) (n : Fin 32) (f : Flit) (fec : Fec) (p : Port), (s.port n).up = true → (s.port n).nak = none →
    flitCrc f (s.port n).rxSeq = f.crc → f.kind.val = 1 → fec.bad = false → fec.ue = 0 →
    ({ s.port n with cntFecCe := BitVec.ofNat 64 (satAdd 64 (s.port n).cntFecCe.toNat fec.ce) } : Port).collect f = p →
    ∃ t, exec (.dataFlit n f fec) s = .next t ∧ (t.port n).rxSeq = (s.port n).rxSeq + 1 ∧
      (t.port n).unreported = (s.port n).unreported + 1 ∧
      (t.port n).cntRx = BitVec.ofNat 64 (satAdd 64 (s.port n).cntRx.toNat 1) ∧
      (t.port n).rxUsed = (s.port n).rxUsed.modify f.vc.val (· + 1) ∧ (t.port n).cntFecCe = p.cntFecCe ∧
      (t.port n).rxBytes = p.rxBytes ∧ (t.port n).rxWhole = p.rxWhole ∧ (t.port n).nak = none ∧
      ∀ m : Fin 32, m ≠ n → t.port m = s.port m) ∧
  (∀ (s : State) (n : Fin 32) (f : Flit), (s.port n).up = true → (s.port n).nak = none →
    flitCrc f (s.port n).rxSeq ≠ f.crc →
    ∃ t, exec (.dataFlit n f {}) s = .next t ∧ (t.port n).nak = some (s.port n).rxSeq ∧
      (t.port n).rxSeq = (s.port n).rxSeq ∧ (t.port n).rxUsed = (s.port n).rxUsed ∧
      (t.port n).cntCrc = BitVec.ofNat 64 (satAdd 64 (s.port n).cntCrc.toNat 1)) ∧
  (∀ (s : State) (n : Fin 32) (f : Flit) (fec : Fec), (s.port n).up = true → (s.port n).nak = none → fec.ue ≠ 0 →
    ∃ t, exec (.dataFlit n f fec) s = .next t ∧ (t.port n).nak = some (s.port n).rxSeq ∧
      (t.port n).rxSeq = (s.port n).rxSeq ∧ (t.port n).fault.getLsbD 2 = true ∧
      (t.port n).cntFecUe = BitVec.ofNat 64 (satAdd 64 (s.port n).cntFecUe.toNat fec.ue)) ∧
  (∀ (s : State) (n : Fin 32) (f : Flit) (q : W16), (s.port n).up = true → (s.port n).nak = some q →
    ∃ t, exec (.dataFlit n f {}) s = .next t ∧ (t.port n).nak = some q ∧ (t.port n).rxSeq = (s.port n).rxSeq ∧
      (t.port n).rxUsed = (s.port n).rxUsed) ∧
  (∀ (s u : State) (n : Fin 32) (f : Flit), (s.port n).up = true → s.fecSeen n {} = u →
    (s.port n).nak.all (fun q => (linkOpsOf f.payload).replay && q == (linkOpsOf f.payload).seq) = true →
    flitCrc f (s.port n).rxSeq = f.crc → f.kind.val = 2 → (linkOpsOf f.payload).ack = true →
    (linkOpsOf f.payload).credit = true → (linkOpsOf f.payload).nak = false →
    exec (.linkFlit n f (0, 0) false) s = .next (State.pumpPort (u.setPort n
      ((({ u.port n with nak := none } : Port).acked (linkOpsOf f.payload).ackSeq).credited
        (linkOpsOf f.payload).credits)) n)) ∧
  (∀ (s u : State) (n : Fin 32) (f : Flit), (s.port n).up = true → s.fecSeen n {} = u → (s.port n).nak = none →
    flitCrc f (s.port n).rxSeq = f.crc → f.kind.val = 2 → (linkOpsOf f.payload).ack = false →
    (linkOpsOf f.payload).credit = false → (linkOpsOf f.payload).nak = true →
    exec (.linkFlit n f (0, 0) false) s = .next (((u.setPort n { u.port n with nak := none }).onNak n (linkOpsOf f.payload).seq).pumpPort
      n)) ∧
  (∀ (s : State) (n : Fin 32), (s.port n).up = true → (0 < (s.port n).unreported ∨ ∃ k ∈ (s.port n).owed, 0 < k) →
    exec (.ackReport n) s = .next ((s.setPort n { s.port n with unreported := 0, owed := List.replicate 8 0 }).emit
      (.flit n (linkFlitOf { ack := true, nak := false, replay := false, credit := true, ackSeq := (s.port n).rxSeq - 1
                             seq := 0, credits := (s.port n).owed } (s.port n).txSeq)))) ∧
  (∀ (s : State) (n : Fin 32) (q : W16), (s.port n).nak = some q →
    exec (.nakRepeat n) s = .next (s.emit (.flit n (linkFlitOf
      { ack := false, nak := true, replay := false, credit := false, ackSeq := 0, seq := q, credits := [] }
      (s.port n).txSeq)))) ∧
  (∀ (s : State) (n : Fin 32), (s.port n).up = true →
    ((s.port n).replay ≠ [] ∨ ∃ q k, (s.port n).nakSeen = some (q, k) ∧ 16 ≤ k) →
    exec (.replayLimit n) s = .next (s.dropLink n))

/-! ## Transactions -/

/-- RWRITE, RREAD and COLL have their effect at their destination and are answered (R332, R349): a host writes and reads
memory, a device writes a window and applies a segment; poisoned DRAM is read with the mark of R270; a COLL of a host is
REFUSED. The code of an access that is misaligned or beside its memory is log entry 68. -/
def Obligations.DataTransactionsComplete : Prop :=
  (∀ (s u : State) (rx : Rx) (addr : W64) (data : List Byte) (poison : Bool), s.takes rx (.rwrite addr data poison) →
    s.taken rx (.rwrite addr data poison) = u → rxHost (s.headerOf rx) = true → u.spaceIdle addr.toNat = none →
    addr.toNat % 64 = 0 → data.length % 64 = 0 →
    exec (.rwrite rx addr data poison) s = .next ((u.hostWrite addr.toNat data poison).2.respond (s.headerOf rx) 1
      (u.hostWrite addr.toNat data poison).1)) ∧
  (∀ (s u : State) (rx : Rx) (addr : W64) (data : List Byte) (poison : Bool) (p n o : Nat), s.takes rx (.rwrite addr data poison) →
    s.taken rx (.rwrite addr data poison) = u → rxHost (s.headerOf rx) = false → u.img.state ≠ .held →
    u.stepFailed = false → muOf addr.toNat = some (p, n, o) → u.muClocked p n = true → addr.toNat % 64 = 0 →
    data.length % 64 = 0 → data ≠ [] →
    exec (.rwrite rx addr data poison) s = .next ((u.remoteWrite p n o data poison).1.respond (s.headerOf rx) 1
      (u.remoteWrite p n o data poison).2)) ∧
  (∀ (s u : State) (rx : Rx) (addr : W64) (bytes : W32) (ups : List Upset), s.takes rx (.rread addr bytes) →
    (s.taken rx (.rread addr bytes)).strikes ups = u → rxHost (s.headerOf rx) = true → u.spaceIdle addr.toNat = none →
    8 ≤ bytes.toNat → bytes.toNat ≤ 65536 → bytes.toNat % 8 = 0 →
    exec (.rread rx addr bytes ups) s = .next ((u.hostRead addr.toNat bytes.toNat).2.2.2.respond (s.headerOf rx) 2
      (u.hostRead addr.toNat bytes.toNat).1 0 (u.hostRead addr.toNat bytes.toNat).2.1
      (u.hostRead addr.toNat bytes.toNat).2.2.1)) ∧
  (∀ (s u : State) (rx : Rx) (addr : W64) (bytes : W32) (ups : List Upset), s.takes rx (.rread addr bytes) →
    (s.taken rx (.rread addr bytes)).strikes ups = u → rxHost (s.headerOf rx) = false → u.img.state ≠ .held →
    u.stepFailed = false → u.spaceIdle addr.toNat = none → 8 ≤ bytes.toNat → bytes.toNat ≤ 65536 → bytes.toNat % 8 = 0 →
    exec (.rread rx addr bytes ups) s = .next ((u.deviceRead addr.toNat bytes.toNat).2.2.2.respond (s.headerOf rx) 2
      (u.deviceRead addr.toNat bytes.toNat).1 0 (u.deviceRead addr.toNat bytes.toNat).2.1
      (u.deviceRead addr.toNat bytes.toNat).2.2.1)) ∧
  (∀ (s u : State) (rx : Rx) (addr : W64) (contrib : Byte) (entry : W16) (ts : List PTok) (p n o : Nat), s.takes rx (.coll addr 1 contrib entry ts) →
    s.taken rx (.coll addr 1 contrib entry ts) = u → rxHost (s.headerOf rx) = false →
    u.img.state ≠ .held → u.stepFailed = false → muOf addr.toNat = some (p, n, o) → ts ≠ [] → o % 64 = 0 →
    exec (.coll rx addr 1 contrib entry ts) s = .next
      ((u.remoteSegment p n o contrib.toNat (ts.map (fun t => { data := t.data, poison := t.poison, last := t.last }))).1.respond
        (s.headerOf rx) 5
        (u.remoteSegment p n o contrib.toNat (ts.map (fun t => { data := t.data, poison := t.poison, last := t.last }))).2)) ∧
  (∀ (s u v : State) (rx : Rx) (addr : W64) (contrib : Byte) (entry : W16) (ts : List PTok) (p n o : Nat) (c : Code),
    s.takes rx (.coll addr 2 contrib entry ts) → s.taken rx (.coll addr 2 contrib entry ts) = u →
    rxHost (s.headerOf rx) = false → u.img.state ≠ .held → u.stepFailed = false → muOf addr.toNat = some (p, n, o) →
    ts ≠ [] → o % 64 = 0 →
    (u.muPoisonIn p n (ts.any (·.poison))).remoteWrite p n o (ts.flatMap (fun t => leBytes 128 t.data.toNat)) false = (v, c) →
    exec (.coll rx addr 2 contrib entry ts) s = .next
      ((if c = Codes.ok then v.collFlags p n o ts else v).respond (s.headerOf rx) 5 c)) ∧
  (∀ (s : State) (rx : Rx) (addr : W64) (mode contrib : Byte) (entry : W16) (ts : List PTok),
    s.takes rx (.coll addr mode contrib entry ts) → rxHost (s.headerOf rx) = true →
    exec (.coll rx addr mode contrib entry ts) s =
      .next ((s.taken rx (.coll addr mode contrib entry ts)).respond (s.headerOf rx) 5 Codes.refused))

/-- An answer completes its request, what one that is not OK does being log entry 69; that of a failed attempt is discarded
(R332, R405); the CPL of a broadcast is matched as log entry 69 says; an unanswered request times out at its port (R414);
a satisfied stream entry sends its tokens; a transaction of a reserved type is discarded with its credit returned. -/
def Obligations.RequestsAreAnswered : Prop :=
  (∀ (s u : State) (rx : Rx) (code : Code) (typ : Byte) (v : W64) (data : List Byte) (q : Req),
    s.takes rx (.resp code typ v data) → s.taken rx (.resp code typ v data) = u →
    u.lxg.reqs.find? (fun q => q.tag == rx.tag && q.dst == (s.headerOf rx).src && q.typ == typ.toNat) = some q →
    exec (.resp rx code typ v data) s = .next
      (if q.failed then State.discarded { u with lxg := { u.lxg with reqs := u.lxg.reqs.erase q } } q
       else State.answered { u with lxg := { u.lxg with reqs := u.lxg.reqs.erase q } } q code)) ∧
  (∀ (s u : State) (rx : Rx) (code : Code) (opcode : W16) (v : W64) (c : Cpl),
    ({ status := code, opcode := opcode, slot := 0xFFFF, value := v } : Cpl) = c → s.takes rx (.cpl c) →
    s.taken rx (.cpl c) = u →
    rxHost (s.headerOf rx) = false → fld (s.headerOf rx).src 0 12 ∈ u.cmd.bcast.waitingOn → opcode = u.cmd.bcast.opcode →
    ∃ t, exec (.cpl rx code opcode v) s = .next t ∧
      t.cmd = { u.cmd with bcast := u.cmd.bcast.count (fld (s.headerOf rx).src 0 12) code } ∧
      ∀ q ∈ t.lxg.reqs, q.typ = 8 → ¬ (q.tag = rx.tag ∧ q.dst = (s.headerOf rx).src)) ∧
  (∀ (s : State) (tag : W16) (q : Req), s.lxg.reqs.find? (fun q => q.tag == tag && !q.failed) = some q →
    exec (.lxTimeout tag) s = .next (State.raisePort { s with lxg := { s.lxg with reqs := s.lxg.reqs.erase q } }
      (if q.array then .cont else .stat) Codes.lxTimeout q.port)) ∧
  (∀ (s u v : State) (e : Fin 16384) (x : StreamEntry) (ts : List PTok), s.cfg.plan.streams[e.val]? = some x →
    s.inputsOpen = true → s.streamReady e x = true → (x.spread = false ∨ x.mode ≠ 1) →
    (∀ i y, (s.cfg.plan.streams.take e)[i]? = some y → s.streamReady i y = false) →
    s.streamTokens (x.srcAt (s.streamSt e).fired) x.tokens = (ts, u) →
    { u with lxg := { u.lxg with
        sent := SMap.set 0 u.lxg.sent x.cbm (SMap.get 0 u.lxg.sent x.cbm + BitVec.ofNat 32 (cdiv x.tokens 4))
        streams := SMap.set {} u.lxg.streams e { thr := (s.streamSt e).thr + x.inc, fired := (s.streamSt e).fired + 1 } } }
      = v →
    exec (.streamEntryFire e) s = .next (v.request (BitVec.ofNat 16 x.dstDev) true (.stream e)
      (.coll (BitVec.ofNat 64 x.dst) (BitVec.ofNat 8 x.mode) (BitVec.ofNat 8 x.contrib) (BitVec.ofNat 16 e) ts))) ∧
  (∀ (s u v : State) (e : Fin 16384) (x : StreamEntry) (ts : List PTok) (p : Nat) (ps : List Nat),
    s.cfg.plan.streams[e.val]? = some x → s.inputsOpen = true → s.streamReady e x = true → x.spread = true → x.mode = 1 →
    (∀ i y, (s.cfg.plan.streams.take e)[i]? = some y → s.streamReady i y = false) →
    s.streamTokens (x.srcAt (s.streamSt e).fired) x.tokens = (ts, u) →
    { u with lxg := { u.lxg with
        sent := SMap.set 0 u.lxg.sent x.cbm (SMap.get 0 u.lxg.sent x.cbm + BitVec.ofNat 32 (cdiv x.tokens 4))
        streams := SMap.set {} u.lxg.streams e { thr := (s.streamSt e).thr + x.inc, fired := (s.streamSt e).fired + 1 } } }
      = v → v.outPorts (BitVec.ofNat 16 x.dstDev) = p :: ps →
    exec (.streamEntryFire e) s = .next (State.put { v with lxg := { v.lxg with
        nextTag := v.lxg.nextTag + 1
        reqs := v.lxg.reqs ++ [{ tag := v.lxg.nextTag, dst := BitVec.ofNat 16 x.dstDev, typ := 5, kind := .stream e
                                 array := true
                                 port := (p :: ps).getD ((e + (s.streamSt e).fired) % (ps.length + 1)) p }] } }
      ((p :: ps).getD ((e + (s.streamSt e).fired) % (ps.length + 1)) p)
      { src := v.ownSrc, dst := BitVec.ofNat 16 x.dstDev, tag := v.lxg.nextTag, array := true
        body := .coll (BitVec.ofNat 64 x.dst) (BitVec.ofNat 8 x.mode) (BitVec.ofNat 8 x.contrib) (BitVec.ofNat 16 e) ts })) ∧
  (∀ (s : State) (rx : Rx) (typ : Byte), s.hears rx → (typ = 0 ∨ 0x10 ≤ typ) →
    exec (.reservedTransaction rx typ) s = .next (s.received rx (.other typ 0 [])))

/-- A MEMBER table with a good signature, a key of the roster and a higher epoch takes effect at once outside RUNNING and
at the boundary in it, another is counted; the master keeps the newest LINKSTATE of each device and publishes the table, no other
device keeps one (log entry 69); a transaction for another device is passed on, discarded at its last hop, held without a route, and one that stalls is
discarded (R330, R339 to R343). -/
def Obligations.RoutingTransactionsComplete : Prop :=
  (∀ (s u : State) (rx : Rx) (t : MTable), s.floodsHere rx (.member t) → s.floodedHere rx (.member t) = u →
    u.tableGood t = true → u.img.state ≠ .running → exec (.member rx t .computed) s = .next (u.tableEffect t)) ∧
  (∀ (s u : State) (rx : Rx) (t : MTable), s.floodsHere rx (.member t) → s.floodedHere rx (.member t) = u →
    u.tableGood t = true → u.img.state = .running →
    exec (.member rx t .computed) s = .next { u with lxg := { u.lxg with pendingTable := some t } }) ∧
  (∀ (s u : State) (rx : Rx) (t : MTable), s.floodsHere rx (.member t) → s.floodedHere rx (.member t) = u →
    u.tableGood t = false →
    exec (.member rx t .computed) s = .next { u with lxg := { u.lxg with rejected := satAdd 16 u.lxg.rejected 1 } }) ∧
  (∀ (s u : State) (rx : Rx) (k : List Byte) (ports : List PortEntry), s.floodsHere rx (.linkstate k ports) →
    s.floodedHere rx (.linkstate k ports) = u → u.dtm.role = true →
    exec (.linkstate rx k ports) s = .next (State.publish { u with lxg := { u.lxg with
      reports := u.lxg.reports.filter (fun r => r.keyId != k) ++ [{ keyId := k, ports := ports }] } })) ∧
  (∀ (s u : State) (rx : Rx) (k : List Byte) (ports : List PortEntry), s.floodsHere rx (.linkstate k ports) →
    s.floodedHere rx (.linkstate k ports) = u → u.dtm.role = false → exec (.linkstate rx k ports) s = .next u) ∧
  (∀ (s u : State) (t : Passing) (n : Nat) (ns : List Nat), s.hears t.rx → s.received t.rx (passingBody t) = u →
    u.forMe (s.headerOf t.rx) = false → (passingBody t).unrouted = false →
    t.rx.hops ≠ 0 → u.outPorts t.rx.dst = n :: ns →
    exec (.transactionForward t) s = .next (State.put (u.setPort n { u.port n with
        cntFwd := BitVec.ofNat 64 (satAdd 64 (u.port n).cntFwd.toNat 1) }) n
      { src := (s.headerOf t.rx).src, dst := t.rx.dst, tag := t.rx.tag, hops := t.rx.hops.toNat - 1, body := passingBody t
        frag := rxFragNo t.rx (passingBody t), inPort := some t.rx.port.val })) ∧
  (∀ (s u : State) (t : Passing), s.hears t.rx → s.received t.rx (passingBody t) = u →
    u.forMe (s.headerOf t.rx) = false → t.rx.hops = 0 → exec (.transactionForward t) s = .next u) ∧
  (∀ (s u : State) (t : Passing), s.hears t.rx → s.received t.rx (passingBody t) = u →
    u.forMe (s.headerOf t.rx) = false → (passingBody t).unrouted = false → (passingBody t).floods = false →
    t.rx.hops ≠ 0 → u.outPorts t.rx.dst = [] →
    ∀ x : Trans, x = { src := (s.headerOf t.rx).src, dst := t.rx.dst, tag := t.rx.tag, hops := t.rx.hops.toNat - 1
                       body := passingBody t, frag := rxFragNo t.rx (passingBody t), inPort := some t.rx.port.val } →
    exec (.transactionForward t) s = .next (State.setPort { u with lxg := { u.lxg with held := u.lxg.held ++ [x] } } t.rx.port
      ((u.port t.rx.port).keep x.vc x.flits))) ∧
  (∀ (s : State) (tag : W16) (n : Nat) (t : Trans), s.stalled tag = some (n, t) →
    exec (.forwardStall tag) s = .next (State.raisePort (s.setPort n { s.port n with waiting := (s.port n).waiting.erase t })
      .stat Codes.lxFwdStall n)) ∧
  (∀ (s : State) (tag : W16) (t : Trans), s.stalled tag = none → s.lxg.held.find? (fun t => t.tag == tag) = some t →
    exec (.forwardStall tag) s = .next (State.raisePort (State.unkeep { s with lxg := { s.lxg with held := s.lxg.held.erase t } } t)
      .stat Codes.lxFwdStall (t.inPort.getD 0)))

/-! ## Datum time -/

/-- A frame is sent when it is due, one that arrives is remembered, and one of the datum port that is valid joins the last
16 offsets; a lost reference begins HOLDOVER with a coasting clock, its end looks for the local reference, and REF_SELECT
and DTM_TIME_SET have their effect (R352 to R358, R379, R380; averages, the states that lock and what a step of the time
moves are log entry 70). -/
def Obligations.DatumCommandsComplete : Prop :=
  (∀ (s : State) (n : Fin 32), s.inService n = true →
    (∀ t, (s.port n).frameSent = some t → frameInterval ≤ s.since t) →
    exec (.datumFrameSend n) s = .next (State.put (s.setPort n { s.port n with
      dtmSeq := (s.port n).dtmSeq + 1, frameSent := some s.dtm.time }) n
      { src := s.ownSrc, dst := 0, tag := 0, body := .datum (s.datumOut n) })) ∧
  (∀ (s u : State) (rx : Rx) (f : DatumFrame) (fr : W16), s.hears rx → s.received rx (.datum f) = u → u.dtm.role = true →
    u.dtm.state = .master →
    ∃ t, exec (.datumFrame rx f fr) s = .next t ∧
      (t.port rx.port).frame = some { frame := f, arrival := u.dtm.time, arrivalFrac := fr } ∧ t.dtm.time = u.dtm.time ∧
      t.dtm.state = .master ∧ t.dtm.offsets = u.dtm.offsets) ∧
  (∀ (s u : State) (rx : Rx) (f : DatumFrame) (fr : W16), s.hears rx → s.received rx (.datum f) = u → u.dtm.role = false →
    u.dtm.state = .acquiring → u.dtm.port = some rx.port → u.dtmNow = u.dtm → u.dtm.good < 15 →
    ∃ t, exec (.datumFrame rx f fr) s = .next t ∧
      (t.port rx.port).frame = some { frame := f, arrival := u.dtm.time, arrivalFrac := fr } ∧
      (t.bestPort = some rx.port.val → t.frameValid f = true →
        t.dtm.offsets = (u.dtm.offsets ++ [frameOffset f (halfFrac u.dtm.time fr)]).drop (u.dtm.offsets.length + 1 - 16) ∧
        t.dtm.hops = f.hops.toNat + 1 ∧ t.dtm.lastFrameAt = u.dtm.time ∧ t.dtm.state = .acquiring)) ∧
  (∀ (s : State) (left : Bool) (p : Fin 32), s.dtm.state = .locked → s.dtm.port = some p →
    (left = true → s.inService p = false) → (left = false → frameTimeout ≤ s.since s.dtm.lastFrameAt) →
    ∃ t, exec (.referenceLoss left) s = .next t ∧ t.dtm.state = .holdover ∧ t.dtm.refLost = true ∧ t.dtm.port = none ∧
      t.dtm.hops = 15 ∧ t.dtm.holdoverAt = s.dtm.time ∧ ∀ d : Fin 25, s.pll d = .locked → t.pll d = .gliding) ∧
  (∀ (s : State) (h : Nat), s.holdoverTime = some h → s.dtm.state = .holdover → s.dtmNow.relockTo = none →
    h ≤ s.since s.dtm.holdoverAt →
    exec .holdoverExpiry s = .next { s with dtm := { s.dtmNow with relockTo := some .localRef } }) ∧
  (∀ (s : State) (path : Path), s.openFor path .dtm → (s.dtm.state = .acquiring ∨ s.dtm.state = .locked ∨ s.dtm.state = .localRef) →
    exec (.localRef (.reg path)) s = .next { s with dtm := { s.dtm.noPort with state := .localRef } } ∧
    exec (.reacquire (.reg path)) s = .next { s with dtm := { s.dtm.noPort with state := .acquiring } }) ∧
  (∀ (s : State) (path : Path), s.openFor path .dtm → s.dtm.state = .holdover →
    exec (.localRef (.reg path)) s = .next { s with dtm := { s.dtm with relockTo := some .localRef } }) ∧
  (∀ (s u : State) (o r : Order), rowOrder o 0 0 8 1 = r → s.takesNow opRefSelect r 0 → s.started opRefSelect r = u →
    u.dtm.state = .locked →
    exec (.localRef (.cmd o)) s = .next (State.complete { u with dtm := { u.dtm.noPort with state := .localRef } }
      (s.orderId opRefSelect r) .ok)) ∧
  (∀ (s u : State) (o r : Order), rowOrder o 0 0 8 0 = r → s.takesNow opRefSelect r 0 → s.started opRefSelect r = u →
    (u.dtm.state = .locked ∨ u.dtm.state = .localRef) →
    exec (.reacquire (.cmd o)) s = .next (State.complete { u with dtm := { u.dtm.noPort with state := .acquiring } }
      (s.orderId opRefSelect r) .ok)) ∧
  (∀ (s : State) (v : W64), (s.dtm.state = .master ∨ s.dtm.state = .localRef) →
    exec (.dtmTimeSet v) s = .next (s.setDatum v) ∧ (s.setDatum v).dtm.time = v ∧ (s.setDatum v).dtm.frac = 0) ∧
  (∀ (s : State) (v : W64), s.dtm.state ≠ .master → s.dtm.state ≠ .localRef → exec (.dtmTimeSet v) s = .next s)

/-! ## Orders, slots and notifications -/

/-- NOP completes with OK (R362), an unlisted opcode and a CMD of a device that is not the master with REFUSED (R362, R368), a
slot of 512 or more naming no slot (log entry 33); an accepted order starts at its time once its target is free or its
reserved start comes (R366), or ends with NOT_READY where the part does not serve it any more (log entry 104); a WAIT ends at
its deadline and another order's miss is recorded once (R207, R367). -/
def Obligations.OrdersActivateAndComplete : Prop :=
  (∀ (s : State) (o : Order), s.takesNow opNop o 0 →
    exec (.nop o) s = .next ((s.started opNop o).complete (s.orderId opNop o) .ok)) ∧
  (∀ (s : State) (o : Order) (op : W16), s.comes op o → 512 ≤ o.desc.slot.toNat →
    (classOf op ≠ some o.desc.targetClass.toNat ∨ s.originOf (s.asTaken o) = none) →
    exec (.unlistedOpcode o op) s =
      .next ((s.desk op o).reject { opcode := op, desc := o.desc } (s.atDesk o).arrival Codes.refused)) ∧
  (∀ (s : State) (o : Order) (op : W16), s.comes op o → o.desc.slot.toNat < 512 →
    ((s.desk op o).slot o.desc.slot.toNat).busy = false →
    (classOf op ≠ some o.desc.targetClass.toNat ∨ s.originOf (s.asTaken o) = none) →
    exec (.unlistedOpcode o op) s =
      .next (((s.desk op o).setSlot o.desc.slot.toNat { busy := true }).reject { opcode := op, desc := o.desc }
        (s.atDesk o).arrival Codes.refused)) ∧
  (∀ (s : State) (id : Nat) (h : Held), s.cmd.held.find? (fun h => h.id == id) = some h → h.started = false →
    h.te.toNat ≤ s.dtm.time.toNat → h.timed = true →
    (s.targetBusy h.word id = false ∨ h.start.toNat ≤ s.dtm.time.toNat) → s.secTurn h.word id = true →
    (s.orderServed h.word = true → exec (.commandActivation id) s = .next (s.runOrder id (orderEff h.word h.seen))) ∧
    (s.orderServed h.word = false → exec (.commandActivation id) s = .next (s.complete id { code := Codes.notReady }))) ∧
  (∀ (s : State) (id : Nat) (h : Held), s.cmd.held.find? (fun h => h.id == id) = some h → h.started = false →
    h.te.toNat ≤ s.dtm.time.toNat → h.timed = false → s.mayStartUntimed h.word id (s.orderSize h.word) = true →
    s.secTurn h.word id = true →
    (s.orderServed h.word = true → exec (.commandActivation id) s = .next (s.runOrder id (orderEff h.word h.seen))) ∧
    (s.orderServed h.word = false → exec (.commandActivation id) s = .next (s.complete id { code := Codes.notReady }))) ∧
  (∀ (s : State) (id : Nat) (h : Held), s.cmd.held.find? (fun h => h.id == id) = some h → h.word.isWait = true →
    h.word.desc.deadline ≠ 0 → h.word.desc.deadline.toNat ≤ s.dtm.time.toNat →
    exec (.deadlineMissed id) s = .next (s.waitDeadline h)) ∧
  (∀ (s : State) (id : Nat) (h : Held), s.cmd.held.find? (fun h => h.id == id) = some h → h.word.isWait = false →
    h.word.desc.deadline ≠ 0 → h.missed = false → h.word.desc.deadline.toNat < s.dtm.time.toNat →
    exec (.deadlineMissed id) s = .next (State.logFault { s with cmd := { s.cmd with
      held := s.cmd.held.map (fun x => if x.id == id then { x with missed := true } else x) } }
      .stat Codes.deadlineMissed 7 0 s.dtmNow.status))

/-- CONSUME empties a ready slot, a read of its word 0 counts while it is ready (R371), a pop takes the oldest notification
and clears the count of dropped ones (R364), and the master's broadcast goes to one device or to each of the seal set
(R372; its copy for this device, and devices without a route, are log entry 50). -/
def Obligations.SlotsNotificationsAndBroadcast : Prop :=
  (∀ (s : State) (k : Fin 512), s.blockGated .cmd = false → (s.slot k).ready = true →
    exec (.consume k) s = .next (s.setSlot k {})) ∧
  (∀ (s : State) (k : Fin 512), s.blockGated .cmd = false → (s.slot k).ready = true →
    exec (.slotWord0Read k) s = .next ((s.setSlot k { s.slot k with readCount := satAdd 16 (s.slot k).readCount 1 }).emit
      (.value (Slot.word0 { s.slot k with readCount := satAdd 16 (s.slot k).readCount 1 })))) ∧
  (∀ (s : State), s.blockGated .cmd = false →
    exec .notifyPop s = .next (State.emit { s with cmd := { s.cmd with notices := s.cmd.notices.drop 1, dropped := 0 } }
      (.value s.cmd.popWord))) ∧
  (∀ (s : State) (w : CmdWord) (d : BitVec 12), s.blockGated .cmd = false → s.dtm.state = .master →
    s.cmd.bcast.waitingOn = [] → cmdOfWords s.cmd.bcastDesc = w → w.opcode ≠ opStepStart → s.myNum ≠ some d.toNat →
    s.outPorts (BitVec.ofNat 16 d.toNat) ≠ [] →
    exec (.broadcastGo false d) s = .next (State.request { s with
      cmd := { s.cmd with bcast := { opcode := w.opcode, waitingOn := [d.toNat] } } } (BitVec.ofNat 16 d.toNat) false
      (.bcast d.toNat) (.cmd w))) ∧
  (∀ (s u : State) (w : CmdWord) (all : Bool) (d : BitVec 12) (ds : List Nat), s.blockGated .cmd = false →
    s.dtm.state = .master → s.cmd.bcast.waitingOn = [] → cmdOfWords s.cmd.bcastDesc = w →
    (w.opcode = opStepStart → u = { s with dtm := { s.dtm with mstep := w.desc.step, mstepTime := w.desc.actTime } }) →
    (w.opcode ≠ opStepStart → u = s) →
    (if all then (s.cfg.plan.seals.map (·.dev)).eraseDups else [d.toNat]) = ds →
    exec (.broadcastGo all d) s = .next (ds.foldl (fun s d =>
      if s.myNum = some d then submitOrder w.opcode { desc := w.desc, origin := .master, port := 32, arrival := .own } s
      else s.request (BitVec.ofNat 16 d) false (.bcast d) (.cmd w))
      { u with cmd := { u.cmd with bcast := {
        opcode := w.opcode
        waitingOn := ds.filter (fun d => u.myNum == some d || !(u.outPorts (BitVec.ofNat 16 d)).isEmpty) } } }))

/-! ## Clocks and power -/

/-- A failed PLL is unlocked and stops the part, a relock ends coasting, the reference is lost and found (R378 to R381). What
DRAM reads as after a lost reference is log entry 2; which relock follows HOLDOVER is log entry 70. -/
def Obligations.PllsAndReference : Prop :=
  (∀ (s : State) (d : Fin 25), s.awake = true → (s.pll d).coasts = false →
    exec (.pllLockFail d) s = .next (State.raise (State.meterJudge { s with clk := { s.clk.flag 2 with
      faultLoc := mkWord 64 [(0, 5, d.val), (5, 1, 1)], pll := SMap.set .unlocked s.clk.pll d .unlocked } })
      .fatal Codes.pllLockFail 8 0 (mkWord 64 [(0, 5, d.val), (5, 1, 1)]))) ∧
  (∀ (s : State), (∃ d : Fin 25, (s.pll d).coasts = true) → s.refPresent = true →
    ∃ t, exec .pllRelock s = .next t ∧ (∀ d : Fin 25, t.pll d = if (s.pll d).coasts then .locked else s.pll d) ∧
      { t with clk := s.clk, dtm := s.dtm, ports := s.ports, cmd := s.cmd, drbg := s.drbg } = s ∧
      (s.dtm.state = .holdover → ∀ x, s.dtmNow.relockTo = some x → x = .locked ∨ x = .localRef →
        t.dtm.state = x ∧ t.dtm.refLost = false ∧ t.dtm.relockTo = none)) ∧
  (∀ (s : State), s.Inv → s.clk.refin = true → ∃ t, exec .refinLost s = .next t ∧ t.clk.refin = false ∧ t.img.state = .held ∧
    t.dram.mem = [] ∧ t.dram.poison = [] ∧ t.adj.factors = [] ∧ ∀ n : Fin 32, (t.port n).up = false) ∧
  (∀ (s : State), s.awake = true → s.clk.refin = false → ∃ t, exec .localInputPresent s = .next t ∧
    t.clk = { s.clk with refin := true } ∧ { t with clk := s.clk, ports := s.ports } = s ∧
    ∀ n : Fin 32, t.port n = (s.port n).retrain)

/-- A gate opens under an open root, an idle gate closes and a busy one is REFUSED (R386); automatic gating stops and wakes
the clock of a block without work (R384; what its work is stands in log entry 103), and the frequency meter measures, or
aborts on sources it does not have or whose reference stops or coasts (R383). -/
def Obligations.GatesAndMeter : Prop :=
  (∀ (s : State) (d g : BitVec 5), s.awake = true → g.toNat < gatesOf d.toNat → s.clk.treeMode d.toNat = true →
    (g.toNat = 0 ∨ s.clk.isClosed d.toNat 0 = false) →
    exec (.gateOpen d g) s = .next (State.meterJudge { s with clk := { s.clk with
      gateResult := Codes.ok, closed := SMap.set false s.clk.closed (32 * d.toNat + g.toNat) false } })) ∧
  (∀ (s : State) (d g : BitVec 5), s.awake = true → g.toNat < gatesOf d.toNat → s.clk.treeMode d.toNat = true →
    g.toNat ≠ 0 → s.gateBusy d.toNat g.toNat = false →
    exec (.gateClose d g) s = .next (State.meterJudge { s with clk := { s.clk with
      gateResult := Codes.ok, closed := SMap.set false s.clk.closed (32 * d.toNat + g.toNat) true } })) ∧
  (∀ (s : State) (d g : BitVec 5), s.awake = true → 0 < gatesOf d.toNat → s.clk.treeMode d.toNat = true → g.toNat = 0 →
    (∀ k : Nat, 0 < k → k < gatesOf d.toNat → s.clk.isClosed d.toNat k = true) →
    (8 ≤ d.toNat ∧ d.toNat < 12 → s.bridgeUsed (d.toNat - 8) = false) → s.timedWindow = false →
    exec (.gateClose d g) s = .next (State.meterJudge { s with clk := { s.clk with
      gateResult := Codes.ok, closed := SMap.set false s.clk.closed (32 * d.toNat + g.toNat) true } })) ∧
  (∀ (s : State) (d g : BitVec 5), s.awake = true → (gatesOf d.toNat ≤ g.toNat ∨ s.clk.treeMode d.toNat = false) →
    exec (.gateOpen d g) s = .next { s with clk := { s.clk with gateResult := Codes.refused } } ∧
    exec (.gateClose d g) s = .next { s with clk := { s.clk with gateResult := Codes.refused } }) ∧
  (∀ (s : State) (d g : BitVec 5), s.awake = true → g.toNat ≠ 0 → s.gateBusy d.toNat g.toNat = true →
    exec (.gateClose d g) s = .next { s with clk := { s.clk with gateResult := Codes.refused } }) ∧
  (∀ (s : State) (v : W64), s.awake = true → ∃ t, exec (.gatingModeWrite v) s = .next t ∧ { t with clk := s.clk } = s ∧
    (∀ d : Fin 25, t.clk.treeMode d = (decide (gatesOf d ≠ 0) && v.getLsbD d)) ∧
    ∀ (d : Fin 25) (g : Fin 32), t.clk.treeMode d ≠ s.clk.treeMode d → t.clk.isOpen d g = true) ∧
  (∀ (s : State) (d : Fin 25) (b : Nat), s.awake = true → b < gatesOf d → s.clk.treeMode d = false →
    (s.blockBusy d b = false → exec (.idleClockStop d b) s = .next { s with clk := { s.clk with
      stopped := SMap.set false s.clk.stopped (32 * d + b) true } }) ∧
    (s.blockBusy d b = true → exec (.idleClockStop d b) s = .next s)) ∧
  (∀ (s : State) (d : Fin 25) (b : Nat), b < 32 → exec (.clockWake d b) s = .next { s with clk := { s.clk with
      stopped := SMap.set false s.clk.stopped (32 * d + b) false } }) ∧
  (∀ (s : State) (v : W64), s.awake = true → (fld v 0 5 ≤ 24 ∨ fld v 0 5 = 30) → (fld v 5 5 ≤ 24 ∨ fld v 5 5 = 30 ∨ fld v 5 5 = 31) →
    fld v 32 32 ≠ 0 → v.getLsbD 31 = true →
    exec (.fmeterStart v) s = .next (State.meterJudge { s with clk := { s.clk with
      meas := fld v 0 5, ref := fld v 5 5, gate := BitVec.ofNat 32 (fld v 32 32), measuring := true, count := 0,
      done := false, aborted := false } })) ∧
  (∀ (s : State) (v : W64), s.awake = true → ((24 < fld v 0 5 ∧ fld v 0 5 ≠ 30) ∨
      (24 < fld v 5 5 ∧ fld v 5 5 ≠ 30 ∧ fld v 5 5 ≠ 31) ∨ fld v 32 32 = 0) → v.getLsbD 31 = true →
    exec (.fmeterStart v) s = .next { s with clk := { s.clk with
      meas := fld v 0 5, ref := fld v 5 5, gate := BitVec.ofNat 32 (fld v 32 32), measuring := false, count := 0,
      done := true, aborted := true } }) ∧
  (∀ (s : State) (c : BitVec 48) (stopped : Bool), s.clk.measuring = true → s.meterRefGone = false →
    exec (.fmeterDone c stopped) s = .next { s with clk := { s.clk with
      measuring := false, done := true, aborted := stopped, count := if stopped then 0 else c } }) ∧
  (∀ (s : State) (c : BitVec 48) (stopped : Bool), s.clk.measuring = true → s.meterRefGone = true →
    exec (.fmeterDone c stopped) s = .next { s with clk := { s.clk with
      measuring := false, done := true, aborted := true, count := 0 } } ∧
    s.meterJudge = { s with clk := { s.clk with measuring := false, done := true, aborted := true, count := 0 } }) ∧
  (∀ (s : State), (s.clk.measuring = false ∨ s.meterRefGone = false) → s.meterJudge = s)

/-- Idle is entered from Drained alone and WAKE leaves it (R387, R388), and PWR_STATE.moving shows the change until the next
tick (log entry 103); PWR_LIMIT is clamped and never below the admitted sum of a loaded image (R390). -/
def Obligations.PowerStatesAndLimit : Prop :=
  (∀ (s u : State), s.awake = true → s.pwr.state = .drained → s.drainedNow = true →
    State.meterJudge { s with pwr := { s.pwr with state := .idle, moving := true }
                              dram := { s.dram with selfRefresh := true } } = u →
    exec .idle s = .next { u with pwr := { u.pwr with result := Codes.ok } }) ∧
  (∀ (s : State), s.awake = true → (s.pwr.state ≠ .drained ∨ s.drainedNow = false) →
    exec .idle s = .next { s with pwr := { s.pwr with result := Codes.refused } }) ∧
  (∀ (s : State), s.awake = true → s.pwr.state = .idle →
    exec .wake s = .next { s with pwr := { s.pwr with state := .drained, moving := true, result := Codes.ok }
                                  dram := { s.dram with selfRefresh := false } }) ∧
  (∀ (s : State), s.awake = true → s.pwr.state ≠ .idle → exec .wake s = .next { s with pwr := { s.pwr with result := Codes.ok } }) ∧
  (∀ (s : State), s.awake = true → s.pwr.state ≠ .idle →
    exec .powerStateChange s = .next { s with pwr := { s.pwr with
      state := if s.drainedNow then .drained else .active } }) ∧
  (∀ (s : State) (v : W64), s.awake = true → (s.img.loaded = false ∨ s.pwr.admittedSum.toNat ≤ min (fld v 0 32) 2500000) →
    exec (.pwrLimitWrite v) s = .next { s with pwr := { s.pwr with
      limit := BitVec.ofNat 32 (min (fld v 0 32) 2500000), result := Codes.ok } }) ∧
  (∀ (s : State) (v : W64), s.awake = true → s.img.loaded = true → min (fld v 0 32) 2500000 < s.pwr.admittedSum.toNat →
    exec (.pwrLimitWrite v) s = .next { s with pwr := { s.pwr with result := Codes.refused } })

/-- A poll adds up voltage times current of the rails and keeps the average of the last ten polls and its peak, above the
admitted sum it raises PWR_OVER once; a sample keeps the hottest temperature and its peak, at 115 °C it trips; from step 6 of
start-up on a step of VDD_CORE is at most 5 mV towards its target, within 0.600 to 0.750 V; a silent rail is a status once, a
bus that fails is fatal (R391 to R393, R485 to R487). -/
def Obligations.TelemetryAndTemperature : Prop :=
  (∀ (s : State) (rails : List RailSample) (answered : BitVec 5) (p : Pwr) (n : Nat), s.awake = true →
    s.pwr.poll rails answered = p → p.mean = n →
    (s.img.loaded = false ∨ p.above = true ∨ n ≤ p.admittedSum.toNat) →
    exec (.railPoll rails answered) s = .next { s with pwr := { p with
      avg := BitVec.ofNat 32 n, peak := BitVec.ofNat 32 (max p.peak.toNat n) } }) ∧
  (∀ (s u : State) (rails : List RailSample) (answered : BitVec 5) (p : Pwr) (n : Nat), s.awake = true →
    s.pwr.poll rails answered = p → p.mean = n → s.img.loaded = true → p.admittedSum.toNat < n → p.above = false →
    { s with pwr := { p with
      avg := BitVec.ofNat 32 n, peak := BitVec.ofNat 32 (max p.peak.toNat n), above := true
      fault := setBit p.fault 2 } } = u →
    exec (.railPoll rails answered) s = .next (u.raise .stat Codes.pwrOver 8 0 u.pwr.tempWord)) ∧
  (∀ (p : Pwr) (rails : List RailSample), rails.length = 5 → (p.poll rails (BitVec.allOnes 5)).outage = 0 ∧
    (p.poll rails (BitVec.allOnes 5)).polls =
      (p.polls ++ [(rails.map (fun (x : RailSample) => x.mv.toNat * x.ma.toNat / 1000)).sum]).drop (p.polls.length - 9)) ∧
  (∀ (s u : State) (ts : List Int) (t : Int) (i : Nat), s.awake = true →
    hottest (ts.take 96) = some (t, i) → 115 * 16 ≤ t →
    s.pwr.warn ≤ 110 → s.pwr.warned = true → s.pwr.tripOut = false →
    { s with pwr := { s.pwr with
      temp := BitVec.ofInt 16 t, sensor := i, tripOut := true, tripped := true, fault := setBit s.pwr.fault 1
      peakTemp := if s.pwr.peakTemp.toInt < t then BitVec.ofInt 16 t else s.pwr.peakTemp } } = u →
    exec (.temperatureSample ts) s = .next (u.meterJudge.raise .fatal Codes.thermTrip 8 0 u.pwr.tempWord)) ∧
  (∀ (s : State) (ts : List Int) (t : Int) (i : Nat), s.awake = true → hottest (ts.take 96) = some (t, i) → t < 60 * 16 →
    60 ≤ s.pwr.warn → s.pwr.warned = false →
    exec (.temperatureSample ts) s = .next { s with pwr := { s.pwr with
      temp := BitVec.ofInt 16 t, sensor := i, tripOut := false
      peakTemp := if s.pwr.peakTemp.toInt < t then BitVec.ofInt 16 t else s.pwr.peakTemp } }) ∧
  (∀ (s : State) (k want : Int), 6 ≤ s.nvm.phase → k.natAbs ≤ 5000 → 600000 ≤ s.pwr.vddCore + k →
    s.pwr.vddCore + k ≤ 750000 → max 600000 (min 750000 (Config.vddTarget s.pwr.temp)) = want →
    (s.pwr.vddCore + k - want).natAbs < (s.pwr.vddCore - want).natAbs →
    exec (.vddCoreAdjust k) s = .next { s with pwr := { s.pwr with vddCore := s.pwr.vddCore + k } }) ∧
  (∀ (s : State) (k : Int), (s.nvm.phase < 6 ∨ 5000 < k.natAbs ∨ s.pwr.vddCore + k < 600000 ∨ 750000 < s.pwr.vddCore + k) →
    exec (.vddCoreAdjust k) s = .next s) ∧
  (∀ (s : State) (r : Fin 5), s.awake = true → bitOf s.pwr.outage r = false →
    exec (.avsTelemetry r) s = .next (State.logFault { s with pwr := { s.pwr with outage := setBit s.pwr.outage r } }
      .stat Codes.avsTelemetry 8 0 s.pwr.tempWord)) ∧
  (∀ (s : State), s.awake = true → exec .avsFail s = .next (s.raise .fatal Codes.avsFail 8 0 s.pwr.tempWord))

/-! ## Faults -/

/-- Spine damage raises its code and poisons the row it carries (R399), or, where no row is named, the data of the next access
over the spine (log entry 97); failed firmware halts (log entry 80) and stops the part (R400); the oldest record reaches the
ring (R415) and a fence store is asked for, ends and fails (R420, R421; a failed one is log entry 72), each after the stores
requested before it (R458). -/
def Obligations.FaultCommandsComplete : Prop :=
  (∀ (s : State) (h : W64), s.awake = true →
    exec (.spineTransfer .none h) s = .next s ∧
    exec (.spineTransfer (.data none) h) s =
      .next (State.raise { s with flt := { s.flt with spineBad := true } } .cont Codes.spineParity 0 0 h) ∧
    exec (.spineTransfer .header h) s = .next (s.raise .fatal Codes.spineHeader 0 0 h)) ∧
  (∀ (s : State) (h : W64) (p : Fin 4) (ix : Nat) (r : RowReq), s.awake = true →
    (s.plat p).reqs[ix]? = some r →
    exec (.spineTransfer (.data (some (p, ix))) h) s = .next (State.raise (s.setPlat p { s.plat p with
      reqs := (s.plat p).reqs.map (fun q => if q.id == r.id then { q with spoiled := true } else q) })
      .cont Codes.spineParity 0 0 h)) ∧
  (∀ (s : State) (p : Fin 4) (u : State), s.awake = true → s.setPlat p { s.plat p with fwHalted := true } = u →
    exec (.watchdogExpiry p) s = .next (u.raise .fatal Codes.firmwareFault 4 p (s.plat p).dmaFaultLoc) ∧
    exec (.firmwareException p) s = .next (u.raise .fatal Codes.firmwareFault 4 p (s.plat p).dmaFaultLoc) ∧
    exec (.firmwareMemoryError p .ue) s = .next (u.raise .fatal Codes.firmwareFault 4 p (s.plat p).dmaFaultLoc) ∧
    exec (.firmwareMemoryError p .clean) s = .next s ∧
    exec (.firmwareMemoryError p .ce) s = .next (s.logFault .corr Codes.fwCorrected 4 p (s.plat p).dmaFaultLoc)) ∧
  (∀ (s : State) (r : FaultRec) (rs : List FaultRec), s.flt.buffer = r :: rs →
    (∀ q ∈ s.nvm.storeQ, r.seq.toNat < q.head.toNat) →
    ∃ t, exec .faultRecordStore s = .next (State.storeBegun t) ∧ t.flt.buffer = rs ∧
      SMap.get none t.flt.ring (r.seq.toNat % 65536) = some r ∧ { t with flt := s.flt } = s ∧
      ∀ k, k ≠ r.seq.toNat % 65536 → SMap.get none t.flt.ring k = SMap.get none s.flt.ring k) ∧
  (∀ (s : State) (b : BitVec 13) (q : StoreReq), s.awake = true → s.flt.fence.busy = none → fenceBitOk b.toNat = true →
    q = { fence := true, head := s.flt.head } →
    exec (.fenceAdd b) s = .next (State.storeBegun { s with
      flt := { s.flt with fence := { s.flt.fence with busy := some (.add b.toNat) } }
      nvm := { s.nvm with storeQ := s.nvm.storeQ ++ [q] } }) ∧
    exec (.fenceRemove b) s = .next (State.storeBegun { s with
      flt := { s.flt with fence := { s.flt.fence with busy := some (.remove b.toNat) } }
      nvm := { s.nvm with storeQ := s.nvm.storeQ ++ [q] } })) ∧
  (∀ (s : State) (b : BitVec 13), s.awake = true → (s.flt.fence.busy ≠ none ∨ fenceBitOk b.toNat = false) →
    exec (.fenceAdd b) s = .next { s with flt := { s.flt with fence := { s.flt.fence with result := Codes.refused } } } ∧
    exec (.fenceRemove b) s = .next { s with flt := { s.flt with fence := { s.flt.fence with result := Codes.refused } } }) ∧
  (∀ (s : State), s.awake = true → s.flt.fence.busy = none →
    exec .fenceConfirm s = .next (State.storeBegun { s with
      flt := { s.flt with fence := { s.flt.fence with busy := some .confirm } }
      nvm := { s.nvm with storeQ := s.nvm.storeQ ++ [{ fence := true, head := s.flt.head }] } })) ∧
  (∀ (s : State) (b : Nat), s.storeRuns true = true → s.flt.fence.busy = some (.add b) → b < 4128 → s.flt.fence.lost = false →
    s.flt.fence.inUse.seq.toNat + 1 < 2 ^ 64 →
    exec (.fenceStoreDone true) s = .next { s.storeOver with flt := { s.flt with fence := s.flt.fence.stored (.add b) } } ∧
    (s.flt.fence.stored (.add b)).inUse = s.flt.fence.next (.add b) ∧ (s.flt.fence.stored (.add b)).busy = none) ∧
  (∀ (s : State), s.storeRuns true = true → s.flt.fence.busy ≠ none →
    ∃ u : State, exec (.fenceStoreDone false) s = .next (u.raise .stat Codes.nvmWriteFail 9 0 u.nvm.status) ∧ u.flt.fence.busy = none ∧ u.flt.fence.result = Codes.nvmWriteFail ∧ { u with flt := s.flt } = s.storeOver) ∧
  (∀ (s : State), (s.storeRuns true = false → ∀ ok, exec (.fenceStoreDone ok) s = .next s) ∧
    (s.storeRuns false = false → ∀ ok, exec (.commitDone ok) s = .next s) ∧
    s.storeBegun = if s.storeRuns false = true then { s with nvm := s.nvm.putSlot none } else s)

/-! ## Security -/

/-- NONCE, CO_AUTH, CO_LOGOUT, SELF_TEST, ATTEST, GET_CERT, DEBUG_LOCK and RANDOM complete with OK and their output in
SEC_BUF, or with the code of what failed; a service that its checks turn away completes with their code (R433 to R438,
R445, R449; what is raised, and which code a check has, is log entry 73). -/
def Obligations.SessionAndReportServicesComplete : Prop :=
  ∀ (s u : State) (o r q : Order) (k id : Nat) (x : SecSeen) (w : CmdWord), rowOrder o 0 0 8 k = r → k < 256 →
    CmdWord.mk opSec r.desc = w → s.takesNow opSec r (s.secSize w) → s.started opSec r x = u → s.orderId opSec r = id →
    u.heldOrder id = some q →
    (∀ c, u.secCheck (endpointOf q.arrival) k (w.pay32 1).toNat (w.pay32 2).toNat (w.pay32 3).toNat = some c → x = {} →
      ∀ p ∈ [(1, Instr.nonce o), (2, .coAuth o .computed), (3, .coLogout o), (4, .selfTest o 0), (5, .attest o), (6, .getCert o),
          (7, .keyEnroll o), (8, .keyRevoke o), (9, .svnAdvance o), (10, .rosterSet o .computed), (11, .fwUpdate o .computed .computed),
          (12, .debugUnlock o .computed), (13, .debugLock o), (15, .random o)], k = p.1 →
        exec p.2 s = .next ((u.secResult c k 0).complete id { code := c })) ∧
    (u.secCheck (endpointOf q.arrival) k (w.pay32 1).toNat (w.pay32 2).toNat (w.pay32 3).toNat = none →
      ∀ done : State → Code → List Byte → State, (∀ (v : State) (c : Code) (bs : List Byte), done v c bs =
        (State.secResult { v with sec := { v.sec with buf := Memory.write v.sec.buf (w.pay32 2).toNat bs } }
          c k bs.length).complete id { code := c }) →
      (k = 1 → x = {} → exec (.nonce o) s = .next (done { (u.drbgDraw 32).2 with
        sec := { (u.drbgDraw 32).2.sec with nonce := some (sub (u.drbgDraw 32).1 0 32) } } Codes.ok
        (sub (u.drbgDraw 32).1 0 32))) ∧
      (∀ n, k = 2 → x = {} → u.sec.nonce = some n → (u.sec.slot 0).st = 1 →
        Config.slhVerify false (u.sec.slot 0).key (coMessage n u.lxg.ownKeyId (endpointOf q.arrival))
          (Memory.read u.sec.buf 0 coProofLen) = true →
        exec (.coAuth o .computed) s = .next (done { u with sec := { u.sec with
          nonce := none, co := some (endpointOf q.arrival) } } Codes.ok [])) ∧
      (k = 2 → x = {} → (u.sec.nonce = none ∨ (u.sec.slot 0).st ≠ 1) →
        exec (.coAuth o .computed) s = .next (done (State.secRaise { u with sec := { u.sec with nonce := none } } .stat Codes.secAuth 2)
          Codes.secAuth [])) ∧
      (k = 3 → x = {} → exec (.coLogout o) s = .next (done { u with sec := { u.sec with co := none } } Codes.ok [])) ∧
      (k = 4 → x = {} → exec (.selfTest o 0) s = .next (done u Codes.ok [])) ∧
      (∀ f : Byte, k = 4 → x = { failTest := f } → f ≠ 0 →
        exec (.selfTest o f) s = .next (done (u.secError f.toNat) Codes.secSelftest [])) ∧
      (k = 5 → x = {} → exec (.attest o) s = .next (done u Codes.ok (u.report (Memory.read u.sec.buf 0 32)))) ∧
      (k = 6 → x = {} → exec (.getCert o) s = .next (done u Codes.ok u.chain)) ∧
      (k = 0x0D → x = {} → exec (.debugLock o) s = .next (done u.debugRelock Codes.ok [])) ∧
      (∀ n : Nat, k = 0x0F → x = {} → n = (w.pay32 3).toNat → 1 ≤ n → n ≤ 4096 →
        exec (.random o) s = .next (done (u.drbgDraw n).2 Codes.ok (sub (u.drbgDraw n).1 0 n))) ∧
      (∀ n : Nat, k = 0x0F → x = {} → n = (w.pay32 3).toNat → (n = 0 ∨ 4096 < n) →
        exec (.random o) s = .next (done u Codes.secFormat [])))

/-- KEY_ENROLL, KEY_REVOKE, SVN_ADVANCE, ROSTER_SET, FW_UPDATE and DEBUG_UNLOCK have their effect, or complete with the code
of what failed, and ZEROIZE of each scope starts (R432, R440, R446 to R448, R451 to R453; codes and the nonce that is spent are
log entries 73 and 74). What a service changes of the records is stored in the older of their two copies (R430). -/
def Obligations.KeyFirmwareAndZeroizeServicesComplete : Prop :=
  ∀ (s u : State) (o r q : Order) (k id : Nat) (w : CmdWord), rowOrder o 0 0 8 k = r → k < 256 →
    CmdWord.mk opSec r.desc = w → s.takesNow opSec r (s.secSize w) → s.started opSec r = u → s.orderId opSec r = id →
    u.heldOrder id = some q →
    u.secCheck (endpointOf q.arrival) k (w.pay32 1).toNat (w.pay32 2).toNat (w.pay32 3).toNat = none →
    ∀ done : State → Code → State, (∀ (v : State) (c : Code), done v c =
      (State.secResult { v with sec := { v.sec with buf := Memory.write v.sec.buf (w.pay32 2).toNat [] } } c k 0).complete id
        { code := c }) →
    (∀ n : Nat, k = 7 → n = u.sec.bufByte 0 → n ≤ 12 → ((u.sec.slot n).st = 0 ∨ n = 0) →
      exec (.keyEnroll o) s = .next (done { u with
        sec := u.sec.putSlots (SMap.set {} u.sec.slots n { st := 1, key := Memory.read u.sec.buf 1 64 }) } Codes.ok)) ∧
    (∀ n : Nat, k = 7 → n = u.sec.bufByte 0 → (12 < n ∨ ((u.sec.slot n).st ≠ 0 ∧ n ≠ 0)) →
      exec (.keyEnroll o) s = .next (done u Codes.secSlot)) ∧
    (∀ n : Nat, k = 8 → n = u.sec.bufByte 0 → 1 ≤ n → n ≤ 12 → (u.sec.slot n).st = 1 →
      exec (.keyRevoke o) s = .next (done { u with
        sec := u.sec.putSlots (SMap.set {} u.sec.slots n { u.sec.slot n with st := 2 }) } Codes.ok)) ∧
    (∀ (x : Sec) (v : SMap KeySlot) (w : Svns), x.putSlots v = { x with slots := v, mram := { x.mram with slots := x.mram.slots.store v } } ∧
      x.putSvns w = { x with fsfSvn := w.fsf, pcfSvn := w.pcf, imgSvn := w.img, fwkeyMin := w.fwkeyMin,
                             mram := { x.mram with svns := x.mram.svns.store w } }) ∧
    (∀ n : Nat, k = 8 → n = u.sec.bufByte 0 → (n = 0 ∨ 12 < n ∨ (u.sec.slot n).st ≠ 1) →
      exec (.keyRevoke o) s = .next (done u Codes.secSlot)) ∧
    (∀ (i : Nat) (v : W32), k = 9 → leNat (Memory.read u.sec.buf 0 4) = i →
      BitVec.ofNat 32 (leNat (Memory.read u.sec.buf 4 4)) = v →
      (i = 2 → u.sec.imgSvn.toNat < v.toNat → u.img.loaded = true → v.toNat ≤ u.sec.loadedSvn.toNat →
        exec (.svnAdvance o) s = .next (done { u with sec := u.sec.putSvns { u.sec.svns with img := v } } Codes.ok)) ∧
      (i = 0 → u.sec.fsfSvn.toNat < v.toNat → v.toNat ≤ u.sec.fsf.svn.toNat →
        exec (.svnAdvance o) s = .next (done { u with sec := u.sec.putSvns { u.sec.svns with fsf := v } } Codes.ok)) ∧
      (i = 1 → u.sec.pcfSvn.toNat < v.toNat → v.toNat ≤ u.sec.pcf.svn.toNat →
        exec (.svnAdvance o) s = .next (done { u with sec := u.sec.putSvns { u.sec.svns with pcf := v } } Codes.ok)) ∧
      (i = 3 → u.sec.fwkeyMin = 0 → v = 1 → u.sec.fsf.fwKey = 1 → u.sec.pcf.fwKey = 1 →
        exec (.svnAdvance o) s = .next (done { u with sec := u.sec.putSvns { u.sec.svns with fwkeyMin := v } } Codes.ok)) ∧
      (u.sec.svnOk u.img.loaded i v = false → exec (.svnAdvance o) s = .next (done u Codes.secSvn))) ∧
    (∀ (bs msg sig : List Byte) (t : State) (g : Roster) (slot : Nat), k = 0x0A → u.stagedAll = (bs, false, t) →
      rosterParse bs = some (g, slot, msg, sig) → (∀ p, t.sec.roster = some p → p.seq.toNat < g.seq.toNat) →
      (t.sec.slot slot).st = 1 → ∀ v : State, v = { t with sec := { t.sec with
        roster := some g, mram := { t.sec.mram with roster := t.sec.mram.roster.store (some g) } } } →
      (Config.slhVerify false (t.sec.slot slot).key msg sig = true →
        exec (.rosterSet o .computed) s = .next (done v.rosterIsolate Codes.ok)) ∧
      (Config.slhVerify false (t.sec.slot slot).key msg sig = false →
        exec (.rosterSet o .computed) s = .next (done (t.secRaise .stat Codes.secAuth 2) Codes.secAuth))) ∧
    (∀ (bs : List Byte) (bad : Bool) (t : State), k = 0x0A → u.stagedAll = (bs, bad, t) → rosterParse bs = none →
      exec (.rosterSet o .computed) s = .next (done t Codes.secFormat)) ∧
    (∀ (bs : List Byte) (t : State) (h : FwHeader), k = 0x0B → u.stagedAll = (bs, false, t) → fwParse bs = some h →
      h.signed = true → t.sec.fwFresh h.kind h.fwKey h.svn = true → bs.length ≤ fwSlotBytes h.kind →
      exec (.fwUpdate o .computed .computed) s = .next (done { t with sec := { t.sec with
        fwSlots := SMap.set {} t.sec.fwSlots
          (2 * (h.kind - 1) + (if (if h.kind = 1 then t.sec.fsfSlot else t.sec.pcfSlot) then 0 else 1))
          { svn := h.svn, fwKey := h.fwKey, digest := h.digest, image := some bs } } } Codes.ok)) ∧
    (∀ (bs : List Byte) (bad : Bool) (t : State), k = 0x0B → u.stagedAll = (bs, bad, t) →
      (∀ h, fwParse bs = some h → h.signed = false) →
      exec (.fwUpdate o .computed .computed) s = .next (done (t.secRaise .stat Codes.secAuth 2) Codes.secAuth)) ∧
    (∀ tok : List Byte, k = 0x0C → Memory.read u.sec.buf 0 0x80 = tok → (u.sec.slot 12).st = 1 →
      sub tok 0 8 = ascii "BLKDBGT1" → byteAt tok 8 = 1 → allZero (sub tok 9 7) = true → allZero (sub tok 0x78 8) = true →
      u.sec.nonce = some (sub tok 0x18 32) → sub tok 0x38 64 = u.lxg.ownKeyId → u.dtm.time.toNat < leAt tok 0x10 8 →
      Config.slhVerify false (u.sec.slot 12).key (ascii "BLK-DBG-TOK1" ++ tok)
        (Memory.read u.sec.buf 0x80 (Config.sigLen false)) = true →
      (u.monBusy = false →
        exec (.debugUnlock o .computed) s = .next (done { u with sec := { u.sec with
          nonce := none, fwDebug := true, scan := false, expiry := BitVec.ofNat 64 (leAt tok 0x10 8) } } Codes.ok)) ∧
      (u.monBusy = true →
        exec (.debugUnlock o .computed) s = .next (done { u with sec := { u.sec with nonce := none } } Codes.refused))) ∧
    (∀ (z : Order) (scope : Nat), k = 0x0E → o = rowOrder z 0 96 32 scope → (w.pay32 3).toNat = scope →
      (scope = 1 → exec (.zeroizeSession z) s = .next (u.zeroizeStart id 1)) ∧
      (scope = 2 → exec (.zeroizeData z) s = .next (u.zeroizeStart id 2)) ∧
      (scope = 3 → exec (.zeroizeDevice z) s = .next (u.zeroizeStart id 3)))

/-- ZEROIZE of each scope starts at once and ends with SEC_ZEROIZED; nonce, session and debug end at their times; an entropy
sample joins the health tests and a failed one, which names no test (log entry 75), ends in the error state; the DRBG is
reseeded when it is due; a JTAG instruction acts as far as its scope is open (R434, R444, R445, R450 to R454; when ZEROIZE
destroys and completes is log entry 74, bit 0 of IDCODE log entry 49). -/
def Obligations.ZeroizationAndSecurityEvents : Prop :=
  (∀ (s u : State) (o r q : Order) (scope id : Nat), rowOrder (rowOrder o 0 96 32 scope) 0 0 8 0x0E = r →
    s.takesNow opSec r (s.secSize { opcode := opSec, desc := r.desc }) → s.started opSec r = u → s.orderId opSec r = id →
    u.heldOrder id = some q →
    u.secCheck (endpointOf q.arrival) 0x0E ((CmdWord.mk opSec r.desc).pay32 1).toNat ((CmdWord.mk opSec r.desc).pay32 2).toNat
      scope = none →
    (scope = 1 → exec (.zeroizeSession o) s = .next (u.zeroizeStart id 1)) ∧
    (scope = 2 → exec (.zeroizeData o) s = .next (u.zeroizeStart id 2)) ∧
    (scope = 3 → exec (.zeroizeDevice o) s = .next (u.zeroizeStart id 3))) ∧
  (∀ (s : State) (scope id : Nat), s.sec.zeroing = some (scope, id) →
    exec .zeroizationComplete s = .next (((s.zeroEnd scope).secResult Codes.ok 0x0E 0).complete id .ok) ∧
    (s.zeroEnd scope).sec.zeroing = none ∧ (s.zeroEnd scope).sec.zeroMark = 0 ∧
    (scope = 3 → s.sec.state ≠ .error → (s.zeroEnd scope).sec.state = .noIdentity) ∧
    (s.sec.state = .error → (s.zeroEnd scope).sec.state = .error)) ∧
  (∀ (s : State), exec .nonceExpiry s = .next { s with sec := { s.sec with nonce := none } } ∧
    exec .coSessionTimeout s = .next { s with sec := { s.sec with co := none } } ∧
    (s.reseedDue = true → exec .drbgReseed s = .next { s with drbg := s.drbg.reseeded s.dtm.time }) ∧
    (s.reseedDue = false → exec .drbgReseed s = .next s)) ∧
  (∀ (s : State), s.debugOpen = true → s.sec.expiry.toNat ≤ s.dtm.time.toNat →
    exec .debugExpiry s = .next { s with sec := { s.sec with fwDebug := false, scan := false, expiry := 0 } }) ∧
  (∀ (s : State) (v : Byte), s.awake = true → s.sec.state ≠ .error → (s.sec.entropy.take v).bad = false →
    exec (.entropySample v) s = .next { s with sec := { s.sec with entropy := s.sec.entropy.take v } }) ∧
  (∀ (s : State) (v : Byte), s.awake = true → s.sec.state ≠ .error → (s.sec.entropy.take v).bad = true →
    exec (.entropySample v) s =
      .next (State.secError { s with sec := { s.sec with entropy := s.sec.entropy.take v } } 0)) ∧
  (∀ (s t : State) (op : JtagOp), s.awake = true → op ≠ .idcode → { s with smb := { s.smb with jtag := op } } = t →
    exec (.jtagInstruction op) s =
      .next (State.emit { t with sec := t.sec.debugged t.jtagActs } (.jtag t.jtagActs))) ∧
  (∀ (s : State) (p : Fin 4) (op : JtagOp), s.smb.jtag = op → op ∈ [.fwHalt p, .fwRun p, .fwStep p, .fwMem p] →
    s.jtagActs = if s.sec.fwDebug = true then op else .bypass) ∧
  (∀ (s : State), s.smb.jtag = .scan → s.jtagActs = if s.sec.scan = true then .scan else .bypass) ∧
  (∀ (s : State), s.awake = true → exec (.jtagInstruction .idcode) s = .next (State.emit (State.emit { s with smb := { s.smb with
      jtag := .idcode } } (.jtag .idcode)) (.value idcode)))

/-! ## Start-up and settings -/

/-- Reset and loss of power keep the MRAM alone; a start-up runs the first-stage firmware it picks; a commit begins over the
generation its base names, NVM_COMMIT_BASE by register or its own as an order, once the stores before it are done, and its
success makes the new one the one in use (R457 to R471, R489; a commit that fails is log entry 76). -/
def Obligations.ResetAndCommit : Prop :=
  (∀ (s : State), exec .reset s = .next s.inReset ∧ exec .powerLoss s = .next s.inReset ∧
    s.inReset.nvm.phase = 0 ∧ s.inReset.img.state = .held) ∧
  (∀ (s : State) (b : BootSeen) (slot : Nat) (fb : Bool), s.nvm.phase = 0 → b.failTest ≠ 1 → b.failTest ≠ 2 → b.failTest ≠ 3 →
    bitOf b.straps 1 = false → ∀ t : State, t = { s.readMram b.mram with
      nvm := { (s.readMram b.mram).nvm with straps := b.straps, safe := bitOf b.straps 2, phase := 3, booting := some b }
      lxg := { (s.readMram b.mram).lxg with strapBridge := bitOf b.straps 0 }
      clk := { (s.readMram b.mram).clk with refin := true }
      flt := { (s.readMram b.mram).flt with head := (s.readMram b.mram).logHead } } →
    t.sec.pickFw 1 b.fsfValid = some (slot, fb) →
    exec (.resetRelease b) s = .next ((t.runFw 1 slot fb).bootMid b)) ∧
  (∀ (s : State) (path : Path) (base : W64), s.openFor path .nvm → s.nvm.busy = none →
    s.nvm.commitBase = (match s.nvm.genInUse with | some g => g.seq | none => 0) →
    badFields s.nvm.set0 s.nvm.set1 s.nvm.set2 = [] → ∀ t : State, t = { s with nvm := { s.nvm with
      busy := some (s.newGen, none), storeQ := s.nvm.storeQ ++ [{ fence := false, head := s.flt.head }] } } →
    exec (.nvmCommit (.reg path) base) s = .next t.storeBegun ∧
    (s.nvm.storeQ = [] → s.flt.buffer = [] → t.storeBegun = { t with nvm := t.nvm.putSlot none })) ∧
  (∀ (s : State) (path : Path) (base : W64), s.openFor path .nvm →
    (s.nvm.busy ≠ none → exec (.nvmCommit (.reg path) base) s = .next { s with nvm := { s.nvm with result := Codes.nvmBusy } }) ∧
    (s.nvm.busy = none → s.nvm.commitBase ≠ (match s.nvm.genInUse with | some g => g.seq | none => 0) →
      exec (.nvmCommit (.reg path) base) s = .next { s with nvm := { s.nvm with result := Codes.nvmStale } })) ∧
  (∀ (s u : State) (o r : Order) (base : W64) (id : Nat), rowOrder o 0 0 64 base.toNat = r → s.takesNow opNvmCommit r 0 →
    s.started opNvmCommit r = u → s.orderId opNvmCommit r = id → u.nvm.busy = none →
    base = (match u.nvm.genInUse with | some g => g.seq | none => 0) → badFields u.nvm.set0 u.nvm.set1 u.nvm.set2 = [] →
    exec (.nvmCommit (.cmd o) base) s = .next (State.storeBegun { u with nvm := { u.nvm with
      busy := some (u.newGen, some id), storeQ := u.nvm.storeQ ++ [{ fence := false, head := u.flt.head }] } })) ∧
  (∀ (s : State) (g : Gen), s.storeRuns false = true → s.nvm.busy = some (g, none) → ∃ u : State,
    exec (.commitDone false) s = .next (State.nvmResult (State.storeOver (u.nvmRaise .stat Codes.nvmWriteFail))
      Codes.nvmWriteFail) ∧ u.nvm.busy = none ∧ { u with nvm := s.nvm } = s) ∧
  (∀ (s : State) (g : Gen), s.storeRuns false = true → s.nvm.busy = some (g, none) → ∃ t, exec (.commitDone true) s = .next t ∧
    t.nvm.genInUse = some g ∧ t.nvm.busy = none ∧ t.nvm.result = Codes.ok ∧ t.nvm.calDirty = false ∧
    { t with nvm := s.nvm } = s)

/-- The board sends a firmware image in order and it verifies or fails (R467, R494); the SMBus reads a register (R493). -/
def Obligations.SmbusCommandsComplete : Prop :=
  (∀ (s : State) (kind : Byte), s.awake = true → s.smb.awaiting ≠ 0 → kind.toNat = s.smb.awaiting → s.smb.image = none →
    exec (.bootBegin kind) s = .next { s with smb := { s.smb with image := some { kind := kind.toNat }, status := Codes.ok } }) ∧
  (∀ (s : State) (offset : W32) (data : List Byte) (i : BootImage), s.awake = true → s.smb.image = some i → i.ended = false →
    offset.toNat = i.bytes.length → i.bytes.length + data.length ≤ fwSlotBytes i.kind → data ≠ [] → data.length ≤ 240 →
    exec (.bootData offset data) s = .next { s with smb := { s.smb with
      image := some { i with bytes := i.bytes ++ data }, status := Codes.ok } }) ∧
  (∀ (s : State) (i : BootImage), s.awake = true → s.smb.image = some i → i.ended = false →
    exec .bootEnd s = .next { s with smb := { s.smb with image := some { i with ended := true }, status := Codes.notReady } }) ∧
  (∀ (s : State), s.awake = true → exec .bootStatus s = .next (s.emit (.code s.smb.status))) ∧
  (∀ (s : State) (i : BootImage) (b : BootSeen) (h : FwHeader), s.smb.image = some i → s.nvm.booting = some b →
    i.ended = true → fwParse i.bytes = some h → h.kind = i.kind → i.kind = 1 → h.signed = true →
    s.sec.fwFresh h.kind h.fwKey h.svn = true →
    exec (.bootVerifyDone .computed .computed) s = .next (State.bootMid { s with
      smb := { s.smb with image := none, awaiting := 0, status := Codes.ok }
      sec := { s.sec with fsf := { svn := h.svn, fwKey := h.fwKey, digest := h.digest, image := some i.bytes } } } b)) ∧
  (∀ (s : State) (i : BootImage) (b : BootSeen) (h : FwHeader), s.smb.image = some i → s.nvm.booting = some b →
    i.ended = true → fwParse i.bytes = some h → h.kind = i.kind → i.kind ≠ 1 → h.signed = true →
    s.sec.fwFresh h.kind h.fwKey h.svn = true →
    exec (.bootVerifyDone .computed .computed) s = .next (State.bootLate { s with
      smb := { s.smb with image := none, awaiting := 0, status := Codes.ok }
      sec := { s.sec with pcf := { svn := h.svn, fwKey := h.fwKey, digest := h.digest, image := some i.bytes } } } b)) ∧
  (∀ (s : State) (i : BootImage) (b : BootSeen), s.smb.image = some i → s.nvm.booting = some b → i.ended = true →
    (∀ h, fwParse i.bytes = some h → h.signed = false) →
    exec (.bootVerifyDone .computed .computed) s = .next { s with smb := { s.smb with image := none, status := Codes.secAuth } }) ∧
  (∀ (s : State) (a : W64), s.nvm.phase ≠ 0 →
    exec (.regRead a) s = .next { s with smb := { s.smb with regAddr := some a } }) ∧
  (∀ (s : State) (a : W64), s.nvm.phase ≠ 0 → s.smb.regAddr = some a →
    exec .regValue s = .next ((s.emit (.code (s.smbRead a).2)).emit (.value (s.smbRead a).1)))

/-! ## Control space -/

/-- An 8-byte access to a register that lies at its address has its effect: a write is answered with the code that its
register gives it, a read with OK, the value and what reading leaves (R4, R474 to R476); a remote access is the same with
host rights (R332), and a device without a number serves it too (R339, R479; log entry 106); a closed gate answers CLK_GATED,
another size and no register REFUSED. -/
def Obligations.RegisterAccessesComplete : Prop :=
  (∀ (s : State) (p : Fin 4) (a v : W64) (b : Block) (o : Nat), s.pathOpen (.fw p) = true → s.register a = some (b, o) →
    s.accessGated b o = false →
    exec (.registerWrite (.fw p) { addr := a } v) s = .next (((s.woken b).writeAt (.fw p) b o v).1.emit
      (.code ((s.woken b).writeAt (.fw p) b o v).2))) ∧
  (∀ (s : State) (src : W16) (n : Fin 32) (a v : W64) (b : Block) (o : Nat), s.pathOpen (.mgmt src n) = true →
    s.register a = some (b, o) → s.accessGated b o = false →
    exec (.registerWrite (.mgmt src n) { addr := a } v) s =
      .next (((s.woken b).writeAt (.host src n) b o v).1.emit (.code ((s.woken b).writeAt (.host src n) b o v).2))) ∧
  (∀ (s : State) (path : Path) (a : W64) (b : Block) (o : Nat), s.pathOpen path = true → path ≠ .smbus →
    s.register a = some (b, o) → s.blockGated b = false → b ≠ .cmd →
    exec (.readClear path { addr := a }) s = .next ((((s.woken b).afterRead b o).emit (.code Codes.ok)).emit
      (.value (((s.woken b).regValue b o).getD 0)))) ∧
  (∀ (s : State) (path : Path) (a v : W64) (b : Block) (o : Nat), s.pathOpen path = true → path ≠ .smbus →
    s.register a = some (b, o) → s.accessGated b o = true →
    exec (.registerWrite path { addr := a } v) s = .next (s.emit (.code Codes.clkGated))) ∧
  (∀ (s : State) (path : Path) (a v : W64), s.pathOpen path = true → path ≠ .smbus → s.register a = none →
    exec (.registerWrite path { addr := a } v) s = .next (s.emit (.code Codes.refused)) ∧
    exec (.readClear path { addr := a }) s = .next ((s.emit (.code Codes.refused)).emit (.value 0))) ∧
  (∀ (s : State) (a v : W64), s.pathOpen .smbus = true →
    exec (.registerWrite .smbus { addr := a } v) s = .next (s.emit (.code Codes.refused)) ∧
    exec (.readClear .smbus { addr := a }) s = .next ((s.emit (.code (s.smbRead a).2)).emit (.value (s.smbRead a).1))) ∧
  (∀ (s : State) (path : Path) (a v : W64) (size : Nat), s.pathOpen path = true → size ≠ 8 →
    exec (.registerWrite path { addr := a, size := size } v) s = .next (s.emit (.code Codes.refused)) ∧
    exec (.readClear path { addr := a, size := size }) s = .next ((s.emit (.code Codes.refused)).emit (.value 0))) ∧
  (∀ (s u : State) (rx : Rx) (a : W64), s.takes rx (.mgmt false a 0) → s.taken rx (.mgmt false a 0) = u →
    exec (.mgmtRead rx { addr := a }) s = .next ((u.readReg a).2.2.respond (s.headerOf rx) 0x0B (u.readReg a).2.1 (u.readReg a).1)) ∧
  (∀ (s u : State) (rx : Rx) (a v : W64), s.takes rx (.mgmt true a v) → s.taken rx (.mgmt true a v) = u →
    exec (.mgmtWrite rx { addr := a } v) s = .next ((u.writeReg (.host (s.headerOf rx).src rx.port) a v).1.respond (s.headerOf rx) 0x0B
      (u.writeReg (.host (s.headerOf rx).src rx.port) a v).2)) ∧
  (∀ (s u : State) (rx : Rx) (a v : W64), (s.servesOpen rx (.mgmt false a 0) → s.openedHere rx (.mgmt false a 0) = u →
      exec (.mgmtRead rx { addr := a }) s =
        .next ((u.readReg a).2.2.respond (s.headerOf rx) 0x0B (u.readReg a).2.1 (u.readReg a).1)) ∧
    (s.servesOpen rx (.mgmt true a v) → s.openedHere rx (.mgmt true a v) = u →
      exec (.mgmtWrite rx { addr := a } v) s = .next ((u.writeReg (.host (s.headerOf rx).src rx.port) a v).1.respond
        (s.headerOf rx) 0x0B (u.writeReg (.host (s.headerOf rx).src rx.port) a v).2))) ∧
  (∀ (s : State) (rx : Rx) (a : Access) (v : W64), a.size ≠ 8 →
    (s.takes rx (mgmtBody false a 0) → exec (.mgmtRead rx a) s =
      .next ((s.taken rx (mgmtBody false a 0)).respond (s.headerOf rx) 0x0B Codes.refused)) ∧
    (s.takes rx (mgmtBody true a v) → exec (.mgmtWrite rx a v) s =
      .next ((s.taken rx (mgmtBody true a v)).respond (s.headerOf rx) 0x0B Codes.refused)))


/-! ## The whole machine -/

/-- The part after reset meets the invariant. -/
def Obligations.ResetStateMeetsInv : Prop := State.reset.Inv

/-- Every step keeps the invariant, from every state that meets it: canonical memories and arrays, at most 256 buffered
fault records (R415), at most 64 notifications (R364). -/
def Obligations.StepKeepsInv : Prop :=
  ∀ (s t : State), s.Inv → step s = .next t → t.Inv

/-- No command and no state stops the block: the spec names no step after which the part answers nothing. -/
def Obligations.EveryStepGoesOn : Prop :=
  (∀ (s : State), s.goesOn) ∧ (∀ (c : Instr) (s : State), ∃ t, exec c s = .next t)

/-- A step uses up exactly the command at the front, whatever it does; what has left the part stays sent, and the
count of free values drawn only grows (log entries 1 and 4). -/
def Obligations.StepTakesOneCommandAndOnlyAddsOutput : Prop :=
  ∀ (s t : State), step s = .next t →
    t.pending = s.pending.tail ∧ (∃ l, t.out = s.out ++ l) ∧ s.free ≤ t.free

/-- No step lowers an anti-rollback counter: no command, zeroization, reset or power loss (R448), as long as no start-up finds
a copy of their record damaged; every step keeps the copy in use equal to the counters and the numbers of the copies below
the wrap (R430); a start-up reads the values of the copy that is left and lowers none of them. -/
def Obligations.AntiRollbackCountersNeverDecrease : Prop :=
  State.reset.sec.svnsHeld 2 ∧
  (∀ (s t : State) (n : Nat), n + 2 ^ 34 ≤ 2 ^ 64 → s.sec.svnsHeld n → step s = .next t → t.sec.svnsHeld n) ∧
  (∀ (s t : State) (n : Nat), s.sec.svnsHeld n →
    (∀ b, s.pending.head? = some (.resetRelease b) → (3, false) ∉ b.mram.badRecords ∧ (3, true) ∉ b.mram.badRecords) →
    step s = .next t →
    s.sec.fsfSvn.toNat ≤ t.sec.fsfSvn.toNat ∧ s.sec.pcfSvn.toNat ≤ t.sec.pcfSvn.toNat ∧
    s.sec.imgSvn.toNat ≤ t.sec.imgSvn.toNat ∧ s.sec.fwkeyMin.toNat ≤ t.sec.fwkeyMin.toNat) ∧
  (∀ (x : Sec) (bad : List (Fin 4 × Bool)) (a c : W64 × Svns), x.puf = true → x.mram.svns.copy0 = some a →
    x.mram.svns.copy1 = some c →
    ((3, false) ∈ bad → (3, true) ∉ bad → (x.loadRecords bad).svns = c.2) ∧
    ((3, false) ∉ bad → (3, true) ∈ bad → (x.loadRecords bad).svns = a.2)) ∧
  (∀ (s t : State) (b : BootSeen) (v : Svns), s.nvm.phase = 0 → exec (.resetRelease b) s = .next t →
    (s.sec.loadRecords b.mram.badRecords).svns = v →
    v.fsf.toNat ≤ t.sec.fsfSvn.toNat ∧ v.pcf.toNat ≤ t.sec.pcfSvn.toNat ∧ v.img.toNat ≤ t.sec.imgSvn.toNat ∧
    v.fwkeyMin.toNat ≤ t.sec.fwkeyMin.toNat)

/-- A reset from any state leaves the register values the spec gives: HELD with no image (R146, R155), GLB_ID (R478),
step counters 0 (R253), detector and drain settings (R127), MON_CTL.window 8 (R316), CU_CFG and MU_FAULT 0; no buffered
fault record; the anti-rollback counters, the fault ring, the roster and the settings generations are
kept (R415, R448, R457). -/
def Obligations.ResetLeavesTheStatedValues : Prop :=
  ∀ (s : State), ∃ t, exec .reset s = .next t ∧
    t.img.state = .held ∧ t.img.loaded = false ∧ t.regValue .glb 0x000 = some 0x0000000400209600 ∧
    (∀ g : Fin 4, t.regValue (.au g) 0x008 = some 0) ∧
    (∀ p : Fin 4, t.regValue (.trv p) 0x000 = some 0x10010 ∧ t.regValue (.trv p) 0x028 = some 14) ∧
    fld t.mon.ctl 8 6 = 8 ∧
    (∀ p : Fin 4, ∀ n : Fin 256, t.regValue (.cu p n) 0x008 = some 0 ∧ t.regValue (.mu p n) 0x018 = some 0) ∧
    t.flt.buffer = [] ∧ t.flt.ring = s.flt.ring ∧ t.sec.roster = s.sec.roster ∧
    t.sec.fsfSvn = s.sec.fsfSvn ∧ t.sec.pcfSvn = s.sec.pcfSvn ∧ t.sec.imgSvn = s.sec.imgSvn ∧ t.sec.fwkeyMin = s.sec.fwkeyMin ∧
    t.nvm.gen0 = s.nvm.gen0 ∧ t.nvm.gen1 = s.nvm.gen1

/-! ## Rules stated whole -/

/-- R6 and R7: the site at yy:xx of a plat is site 32y + x; it holds a CU when y + x is even and an MU when it is odd, and its
unit is number s >> 1, which CU_ID and MU_ID show with that y and x. -/
def Obligations.SitesAndUnitsOfAPlat : Prop :=
  (∀ (y : Fin 16) (x : Fin 32), siteIsCu (32 * y.val + x.val) = decide ((y.val + x.val) % 2 = 0)) ∧
  (∀ (s : State) (p : Fin 4) (n : Fin 256), ∃ (y : Fin 16) (x : Fin 32),
    siteIsCu (32 * y.val + x.val) = true ∧ (32 * y.val + x.val) >>> 1 = n.val ∧
    s.regValue (.cu p n) 0x000 = some (BitVec.ofNat 64 (n.val + 256 * y.val + 65536 * x.val + 16777216 * p.val))) ∧
  (∀ (s : State) (p : Fin 4) (n : Fin 256), ∃ (y : Fin 16) (x : Fin 32),
    siteIsCu (32 * y.val + x.val) = false ∧ (32 * y.val + x.val) >>> 1 = n.val ∧
    s.regValue (.mu p n) 0x000 = some (BitVec.ofNat 64 (n.val + 256 * y.val + 65536 * x.val + 16777216 * p.val)))

/-- R474: an access of another size than 8 bytes, or whose address is not a multiple of 8 or has a bit above bit 47,
completes with REFUSED and changes nothing, by every path, MGMT transactions among them; a read shows 0. -/
def Obligations.MisalignedAccessesAreRefused : Prop :=
  (∀ (s : State) (path : Path) (a : W64) (size : Nat) (v : W64),
    (size ≠ 8 ∨ a.toNat % 8 ≠ 0 ∨ 2 ^ 48 ≤ a.toNat) → s.pathOpen path = true →
    exec (.registerWrite path { addr := a, size := size } v) s = .next (s.emit (.code Codes.refused)) ∧
    exec (.readClear path { addr := a, size := size }) s = .next ((s.emit (.code Codes.refused)).emit (.value 0))) ∧
  (∀ (s u : State) (rx : Rx) (a v : W64) (size : Nat), (size ≠ 8 ∨ a.toNat % 8 ≠ 0 ∨ 2 ^ 48 ≤ a.toNat) →
    (s.takes rx (mgmtBody false { addr := a, size := size } 0) → s.taken rx (mgmtBody false { addr := a, size := size } 0) = u →
      exec (.mgmtRead rx { addr := a, size := size }) s = .next (u.respond (s.headerOf rx) 0x0B Codes.refused 0)) ∧
    (s.takes rx (mgmtBody true { addr := a, size := size } v) → s.taken rx (mgmtBody true { addr := a, size := size } v) = u →
      exec (.mgmtWrite rx { addr := a, size := size } v) s = .next (u.respond (s.headerOf rx) 0x0B Codes.refused)))

/-- R275: where an address of a range lies. The channel is the set bit of chan_mask that has gi mod c set bits below it. -/
def Obligations.DramRangeMapping : Prop :=
  ∀ (r : DramRange) (a c gi : Nat), r.base ≤ a → a < r.base + r.len →
    ((List.range 16).filter (fun i => r.chans.testBit i)).length = c → 0 < c → (a - r.base) / 2 ^ r.gran = gi →
    (r.map a).1 < 16 ∧ r.chans.testBit (r.map a).1 = true ∧
    ((List.range (r.map a).1).filter (fun i => r.chans.testBit i)).length = gi % c ∧
    (r.map a).2 = r.local0 + ((gi / c) <<< r.gran) + ((a - r.base) &&& (2 ^ r.gran - 1))

/-- R150: UNLOAD from READY, by register or as an order, is REFUSED while a monument stream is in progress, and then only
its result shows; otherwise it clears the configuration (AU_RULE then reads 0, R234), sets every site UNCONFIGURED with epoch 0, clears both image identities and enters HELD, and
clears no MU SRAM and no DRAM. -/
def Obligations.UnloadClearsTheConfiguration : Prop :=
  ∀ cleared : State → State → Prop, (∀ s t : State, cleared s t ↔
      (t.cfg = {} ∧ t.img.state = .held ∧ t.img.loaded = false ∧
      (∀ (p : Fin 4) (n : Fin 256), (t.cu p n).run = .unconfigured ∧ fld (t.cu p n).cfg 36 4 = 0) ∧
      (∀ (p : Fin 4) (n : Fin 256), (t.mu p n).run = .unconfigured ∧ (t.mu p n).epoch = 0) ∧
      (∀ (p : Fin 4) (x : Fin 512), (t.sw p x).run = .unconfigured ∧ (t.sw p x).epoch = 0) ∧
      (∀ (g : Fin 4) (i : Fin 1024), t.regValue (.au g) (0x8000 + 8 * i) = some 0) ∧ t.img.cfgId = List.replicate 64 0 ∧ t.img.fullId = List.replicate 64 0 ∧ t.img.code = Codes.ok ∧
      (∀ (p : Fin 4) (n : Fin 256), (t.mu p n).sram = (s.mu p n).sram) ∧ t.dram.mem = s.dram.mem)) →
  (∀ (s : State) (path : Path), s.Inv → s.openFor path .glb → s.img.state = .ready → s.pwr.state ≠ .idle →
    (s.monBusy = true → exec (.unload (.reg path)) s = .next { s with
      img := { s.img with code := Codes.refused, check := 0, plat := 0xFF, section_ := 0xFFFF, item := 0 } }) ∧
    (s.monBusy = false → ∃ t, exec (.unload (.reg path)) s = .next t ∧ cleared s t)) ∧
  (∀ (s u : State) (o r : Order), rowOrder o 0 0 3 4 = r → s.takesNow opImage r 0 → s.started opImage r = u →
    u.Inv → u.img.state = .ready → u.pwr.state ≠ .idle →
    (u.monBusy = true → exec (.unload (.cmd o)) s = .next (State.complete { u with
      img := { u.img with code := Codes.refused, check := 0, plat := 0xFF, section_ := 0xFFFF, item := 0 } }
      (s.orderId opImage r) { code := Codes.refused })) ∧
    (u.monBusy = false → ∃ t, exec (.unload (.cmd o)) s = .next (t.complete (s.orderId opImage r) .ok) ∧ cleared u t))

/-- R364: a notification goes to the host endpoint of CMD_NOTIFY as a CPL where en is set; otherwise it joins the queue of
64, is counted as dropped where the queue is full, and CMD_NOTIFY_POP reads the oldest. -/
def Obligations.NotificationsGoToHostOrQueue : Prop :=
  (∀ (s : State) (n : Notice), bitOf s.cmd.notify 12 = true →
    s.notify n = s.send {
      src := s.ownSrc, dst := BitVec.ofNat 16 (0x8000 + fld s.cmd.notify 0 12), tag := 0,
      body := .cpl {
        status := Codes.ok, opcode := 0xFFFF, slot := 0xFFFF,
        value := mkWord 64 [(0, 16, n.index), (16, 8, n.tag), (32, 32, n.count.toNat)] } }) ∧
  (∀ (s : State) (n : Notice), bitOf s.cmd.notify 12 = false → s.cmd.notices.length < 64 →
    s.notify n = { s with cmd := { s.cmd with notices := s.cmd.notices ++ [n] } }) ∧
  (∀ (s : State) (n : Notice), bitOf s.cmd.notify 12 = false → 64 ≤ s.cmd.notices.length →
    s.notify n = { s with cmd := { s.cmd with dropped := satAdd 7 s.cmd.dropped 1 } }) ∧
  (∀ (s : State) (n : Notice) (ns : List Notice), s.blockGated .cmd = false → s.cmd.notices = n :: ns →
    ∃ t, exec .notifyPop s = .next t ∧ t.cmd.notices = ns ∧ t.out = s.out ++ [.value s.cmd.popWord])

/-! ## Frames -/

/-- The commands of a compute unit change that unit, the input queues of its own switch, the fault log, the step's state and,
where they fail the step or the unit enters FAULTED, the orders this cancels (R370), the transactions that wait in ports, the
marks of requests in flight and what leaves the part: no other unit or switch, no memory, no benchmark, no plat, no new order,
no table, no system register. -/
def Obligations.ComputeUnitCommandsLeaveTheRest : Prop :=
  ∀ (s t : State) (p : Fin 4) (n : Fin 256),
    (∃ c, c ∈ [Instr.kStep p n false, .kStep p n true, .tileOperationStart p n, .retireSetReadout p n, .readoutComplete p n,
        .rowStreamToken p n false, .rowStreamToken p n true, .scalarInputArrival p n] ∧ exec c s = .next t) ∨
      (∃ k, exec (.checksumComparison p n k) s = .next t) ∨ (∃ es, exec (.accumulatorScrub p n es) s = .next t) →
    s.sameSystem t ∧ t.mus = s.mus ∧ t.plats = s.plats ∧ t.bmks = s.bmks ∧ t.aus = s.aus ∧ (∀ h ∈ t.cmd.held, h ∈ s.cmd.held) ∧
    { t.lxg with reqs := s.lxg.reqs } = s.lxg ∧
    (∀ (q : Fin 4) (m : Fin 256), (q, m) ≠ (p, n) → t.cu q m = s.cu q m) ∧
    (∀ (q : Fin 4) (x : Fin 512), (q.val, x.val) ≠ (p.val, cuSite n) → t.sw q x = s.sw q x) ∧
    { t.sw p (cuSite n) with ins := (s.sw p (cuSite n)).ins } = s.sw p (cuSite n)

/-- The commands of a memory unit leave every compute unit, every other unit's memory and regions, the data of external
memory and the system as they are. A narrow write changes no byte but the 8 it stores; a narrow read changes none. -/
def Obligations.MemoryUnitCommandsLeaveTheRest : Prop :=
  (∀ (s t : State) (p : Fin 4) (n : Fin 256),
    (∃ c, c ∈ [Instr.generatorStartEvent p n, .accumulateSegment p n, .queueTokenIn p n 0, .queueTokenIn p n 1,
        .queueTokenOut p n 0, .queueTokenOut p n 1, .rowCommandDone p n, .scrubLate p n] ∧ exec c s = .next t) ∨
      (∃ a, exec (.pendingWalkStart p n a) s = .next t) ∨ (∃ a, exec (.generatorAddress p n a []) s = .next t) ∨
      (∃ r, exec (.parkedSegmentApply p n r) s = .next t) ∨ (∃ r, exec (.creditReturn p n r) s = .next t) ∨
      (∃ d r e, exec (.fill p n d r e) s = .next t) ∨ (∃ d x r e, exec (.copy p n d x r e) s = .next t) ∨
      (∃ o k v, exec (.narrowWrite p n o k v) s = .next t) ∨ (∃ o k, exec (.narrowRead p n o k []) s = .next t) ∨
      exec (.scrubRow p n []) s = .next t →
    s.sameSystem t ∧ t.cus = s.cus ∧
    ∀ (q : Fin 4) (m : Fin 256), (q, m) ≠ (p, n) → t.mu q m = s.mu q m) ∧
  (∀ (s t : State) (p q : Fin 4) (n m : Fin 256) (off : BitVec 22) (size : Nat) (v : W64) (a : Nat),
    exec (.narrowWrite p n off size v) s = .next t → ((q, m) ≠ (p, n) ∨ a < off.toNat ∨ off.toNat + 8 ≤ a) →
    Memory.byte (t.mu q m).sram a = Memory.byte (s.mu q m).sram a) ∧
  (∀ (s t : State) (p q : Fin 4) (n m : Fin 256) (off : BitVec 22) (size : Nat) (a : Nat),
    exec (.narrowRead p n off size []) s = .next t → Memory.byte (t.mu q m).sram a = Memory.byte (s.mu q m).sram a)

/-- An operation on a benchmark, by any path but an order, leaves every other benchmark, every unit, every memory and the system but
the command block as they are; READ leaves the object's count, threshold and mode too. -/
def Obligations.BenchmarkOperationsLeaveTheRest : Prop :=
  (∀ (s t : State) (src : BmkSrc) (i j : Fin 65536),
    (exec (.bmkRead src i) s = .next t ∨ (∃ v, exec (.bmkAdd src i v) s = .next t) ∨ (∃ v, exec (.bmkSet src i v) s = .next t) ∨
      (∃ v, exec (.bmkWait src i v) s = .next t) ∨ (∃ h m, exec (.bmkArm src i h m) s = .next t) ∨
      (∃ op, exec (.bmkReservedOp src i op) s = .next t)) → (∀ o, src ≠ .cmd o) →
    (j ≠ i → t.bmk j = s.bmk j) ∧ t.cus = s.cus ∧ t.mus = s.mus ∧ s.sameSystem t) ∧
  (∀ (s t : State) (src : BmkSrc) (i : Fin 65536), (∀ o, src ≠ .cmd o) → exec (.bmkRead src i) s = .next t →
    (t.bmk i).count = (s.bmk i).count ∧ (t.bmk i).thr = (s.bmk i).thr ∧ (t.bmk i).mode = (s.bmk i).mode)

/-- Commands of datum time, clock gates and meter, power, fault log and fence, slots, security time-outs, the SMBus and JTAG
leave the array, external memory, the image, the monuments and the ports as they are; a step of datum time moves the instants
of the datum frames the ports remember, the return of the local input starts training of ports, and a refresh that does not
fail for good changes nothing at all (log entry 26). -/
def Obligations.SystemCommandsLeaveTheArray : Prop :=
  (∀ (s t : State) (v : W64), s.Inv → exec (.dtmTimeSet v) s = .next t → s.sameArray { t with ports := s.ports } ∧
    ∀ n : Fin 32, { t.port n with frame := (s.port n).frame, frameSent := (s.port n).frameSent } = s.port n) ∧
  (∀ (s t : State), exec .localInputPresent s = .next t → s.sameArray { t with ports := s.ports }) ∧
  (∀ (s : State) (c : ChanCmd), c.failedRetries < 16 → exec (.dramRefresh c) s = .next s) ∧
  ∀ (s t : State),
    (∃ c, c ∈ [Instr.powerStateChange, .holdoverExpiry, .faultRecordStore, .nonceExpiry, .coSessionTimeout,
        .debugExpiry, .drbgReseed, .bootEnd, .bootStatus, .regValue, .notifyPop, .fenceConfirm] ∧
        exec c s = .next t) ∨
      (∃ v, exec (.gatingModeWrite v) s = .next t) ∨
      (∃ d b, exec (.idleClockStop d b) s = .next t) ∨ (∃ d b, exec (.clockWake d b) s = .next t) ∨
      (∃ d g, exec (.gateOpen d g) s = .next t) ∨ (∃ d g, exec (.gateClose d g) s = .next t) ∨
      (∃ v, exec (.fmeterStart v) s = .next t) ∨ (∃ c b, exec (.fmeterDone c b) s = .next t) ∨
      (∃ v, exec (.pwrLimitWrite v) s = .next t) ∨ (∃ m a, exec (.railPoll m a) s = .next t) ∨
      (∃ r, exec (.avsTelemetry r) s = .next t) ∨ (∃ u, exec (.vddCoreAdjust u) s = .next t) ∨
      (∃ b, exec (.referenceLoss b) s = .next t) ∨ (∃ k, exec (.consume k) s = .next t) ∨
      (∃ k, exec (.slotWord0Read k) s = .next t) ∨ (∃ b, exec (.fenceAdd b) s = .next t) ∨
      (∃ b, exec (.fenceRemove b) s = .next t) ∨ (∃ a, exec (.regRead a) s = .next t) ∨
      (∃ k, exec (.bootBegin k) s = .next t) ∨ (∃ o d, exec (.bootData o d) s = .next t) ∨
      (∃ o, exec (.jtagInstruction o) s = .next t) →
    s.sameArray t
end

