-- ==== Sys2Proof/Laws/Bits.lean ====
section
/-! SUPPORT. Bit fields: what is put is read back, and the other bits stay. -/
namespace Sys2Proof.Machine

theorem fld_ofNat {n : Nat} (v lo len : Nat) (h : lo + len ≤ n) : fld (BitVec.ofNat n v) lo len = v / 2 ^ lo % 2 ^ len := by
  unfold fld
  rw [BitVec.toNat_ofNat]
  apply Nat.eq_of_testBit_eq
  intro i
  simp only [Nat.testBit_mod_two_pow, Nat.testBit_div_two_pow]
  by_cases hi : i < len
  · have : i + lo < n := by omega
    simp [hi, this]
  · simp [hi]

theorem fld_lt {n : Nat} (w : BitVec n) (lo len : Nat) : fld w lo len < 2 ^ len := Nat.mod_lt _ (Nat.two_pow_pos _)

/-- The number a replaced field leaves is smaller than the word. -/
theorem putFld_nat (x lo len v : Nat) :
    x - x / 2 ^ lo % 2 ^ len * 2 ^ lo + v % 2 ^ len * 2 ^ lo =
      (x / 2 ^ lo / 2 ^ len * 2 ^ len + v % 2 ^ len) * 2 ^ lo + x % 2 ^ lo := by
  have h1 : x = x / 2 ^ lo * 2 ^ lo + x % 2 ^ lo := by rw [Nat.mul_comm]; exact (Nat.div_add_mod x (2 ^ lo)).symm
  have h2 : x / 2 ^ lo = x / 2 ^ lo / 2 ^ len * 2 ^ len + x / 2 ^ lo % 2 ^ len := by
    rw [Nat.mul_comm]; exact (Nat.div_add_mod _ (2 ^ len)).symm
  generalize hq : x / 2 ^ lo = q at *
  generalize hr : x % 2 ^ lo = r at *
  generalize hm : q % 2 ^ len = m at *
  generalize ht : q / 2 ^ len * 2 ^ len = t at *
  subst h1
  rw [h2, Nat.add_mul, Nat.add_mul]
  omega

/-- A field that is put is read back. -/
theorem fld_putFld {n : Nat} (w : BitVec n) (lo len v : Nat) (h : lo + len ≤ n) : fld (putFld w lo len v) lo len = v % 2 ^ len := by
  unfold putFld
  simp only
  rw [fld_ofNat _ _ _ h, putFld_nat, Nat.mul_comm, Nat.mul_add_div (Nat.two_pow_pos _), Nat.div_eq_of_lt (Nat.mod_lt _ (Nat.two_pow_pos _)),
    Nat.add_zero, Nat.mul_comm, Nat.mul_add_mod, Nat.mod_mod]

end Sys2Proof.Machine
end

