-- ==== Sys2Proof/Laws/Crypto.lean ====
section
/-! SUPPORT. What the standards make of the keys that the model draws. -/
namespace Sys2Proof.Config

/-- The encapsulation key stands in the decapsulation key. -/
theorem kemDk_ek (rnd : List Byte) : ((kemDk rnd).drop 1536).take 1568 = kemEk rnd := by
  have h1 : ((List.range 1536).map (kemPkeByte rnd)).length = 1536 := by simp
  have h2 : (kemEk rnd).length = 1568 := by simp [kemEk]
  unfold kemDk
  rw [List.drop_append_of_le_length (by omega), List.drop_eq_nil_of_le (by omega), List.nil_append,
    List.take_append_of_le_length (by omega), List.take_of_length_le (by omega)]

/-- A key pair is consistent: what one side encapsulates to it, the other decapsulates (R335, R444). -/
theorem kem_consistent (rnd m : List Byte) : kemDecaps (kemDk rnd) (kemCt (kemEk rnd) m) = kemSs (kemEk rnd) m := by
  rw [kemDecaps, kemDk_ek, kemSs]

end Sys2Proof.Config
end

