-- ==== Sys2Proof/Laws/SMap.lean ====
section
/-! SUPPORT. Sparse arrays: what a write leaves to read, and that every operation keeps the canonical form. -/
namespace Sys2Proof.Machine

variable {α : Type} [DecidableEq α] {d : α}

/-! Reading -/

omit [DecidableEq α] in
@[simp] theorem SMap.get_nil (k : Nat) : SMap.get d ([] : SMap α) k = d := rfl

omit [DecidableEq α] in
theorem SMap.get_erase (m : SMap α) (k j : Nat) :
    SMap.get d (SMap.erase m k) j = if j = k then d else SMap.get d m j := by
  induction m with
  | nil => simp [SMap.erase, SMap.get]
  | cons e t ih =>
    simp only [SMap.erase] at ih ⊢
    by_cases h : e.1 = k
    · simp only [List.filter_cons, h, bne_self_eq_false, Bool.false_eq_true, if_false, ih, SMap.get]
      by_cases hj : j = k
      · simp [hj]
      · simp [hj, Ne.symm hj]
    · simp only [List.filter_cons, bne_iff_ne, ne_eq, h, not_false_eq_true, if_true, SMap.get, ih]
      by_cases hj : e.1 = j
      · simp only [hj, if_true]
        rw [if_neg (fun hk => h (hj.trans hk))]
      · simp [hj]

omit [DecidableEq α] in
theorem SMap.get_ins (m : SMap α) (k j : Nat) (v : α) (h : SMap.get d m k = d ∨ True)
    (hk : ∀ e ∈ m, e.1 ≠ k) :
    SMap.get d (SMap.ins m k v) j = if j = k then v else SMap.get d m j := by
  induction m with
  | nil =>
    simp only [SMap.ins, SMap.get]
    by_cases hj : j = k
    · simp [hj]
    · simp [hj, Ne.symm hj]
  | cons e t ih =>
    have ih := ih (Or.inr trivial) (fun x hx => hk x (List.mem_cons_of_mem _ hx))
    have he : e.1 ≠ k := hk e List.mem_cons_self
    simp only [SMap.ins]
    split
    · simp only [SMap.get]
      by_cases hj : j = k
      · simp [hj]
      · simp [hj, Ne.symm hj]
    · simp only [SMap.get, ih]
      by_cases hj : e.1 = j
      · rw [if_pos hj, if_pos hj, if_neg (fun h => he (hj.trans h))]
      · simp [hj]

/-- A write is read back at its key, and leaves every other key alone. -/
theorem SMap.get_set (m : SMap α) (k j : Nat) (v : α) :
    SMap.get d (SMap.set d m k v) j = if j = k then v else SMap.get d m j := by
  unfold SMap.set
  split
  · rename_i h
    rw [SMap.get_erase, h]
  · rw [SMap.get_ins _ _ _ _ (Or.inr trivial)]
    · rw [SMap.get_erase]
      split <;> rfl
    · intro e he
      simp [SMap.erase] at he
      exact he.2

@[simp] theorem SMap.get_set_self (m : SMap α) (k : Nat) (v : α) : SMap.get d (SMap.set d m k v) k = v := by
  simp [SMap.get_set]

theorem SMap.get_set_ne (m : SMap α) {k j : Nat} (v : α) (h : j ≠ k) :
    SMap.get d (SMap.set d m k v) j = SMap.get d m j := by
  simp [SMap.get_set, h]

/-! The canonical form -/

/-- The canonical form as one statement about the list. -/
theorem SMap.wf_iff (m : SMap α) :
    SMap.wf d m = true ↔ m.Pairwise (fun e f => e.1 < f.1) ∧ ∀ e ∈ m, e.2 ≠ d := by
  induction m with
  | nil => simp [SMap.wf]
  | cons e t ih =>
    cases t with
    | nil => simp [SMap.wf]
    | cons f t =>
      simp only [SMap.wf, Bool.and_eq_true, bne_iff_ne, ne_eq, decide_eq_true_eq, ih, List.pairwise_cons, List.mem_cons,
        forall_eq_or_imp]
      constructor
      · rintro ⟨⟨h1, h2⟩, ⟨h3, h4⟩, h5, h6⟩
        exact ⟨⟨⟨h2, fun a ha => Nat.lt_trans h2 (h3 a ha)⟩, h3, h4⟩, h1, h5, h6⟩
      · rintro ⟨⟨⟨h2, _⟩, h3, h4⟩, h1, h5, h6⟩
        exact ⟨⟨h1, h2⟩, ⟨h3, h4⟩, h5, h6⟩

@[simp] theorem SMap.wf_nil : SMap.wf d ([] : SMap α) = true := rfl

/-- Leaving entries out keeps the form. -/
theorem SMap.wf_filter {m : SMap α} (h : SMap.wf d m = true) (p : Nat × α → Bool) : SMap.wf d (m.filter p) = true := by
  rw [SMap.wf_iff] at h ⊢
  exact ⟨h.1.sublist List.filter_sublist, fun e he => h.2 e (List.mem_filter.1 he).1⟩

theorem SMap.wf_erase {m : SMap α} (h : SMap.wf d m = true) (k : Nat) : SMap.wf d (SMap.erase m k) = true :=
  SMap.wf_filter h _

theorem SMap.wf_clear {m : SMap α} (h : SMap.wf d m = true) (lo hi : Nat) : SMap.wf d (SMap.clear m lo hi) = true :=
  SMap.wf_filter h _

omit [DecidableEq α] in
theorem SMap.mem_ins {m : SMap α} {k : Nat} {v : α} {e : Nat × α} (h : e ∈ SMap.ins m k v) : e = (k, v) ∨ e ∈ m := by
  induction m with
  | nil => simpa [SMap.ins] using h
  | cons f t ih =>
    simp only [SMap.ins] at h
    split at h
    · simpa using h
    · rcases List.mem_cons.1 h with h | h
      · exact Or.inr (h ▸ List.mem_cons_self)
      · rcases ih h with h | h
        · exact Or.inl h
        · exact Or.inr (List.mem_cons_of_mem _ h)

theorem SMap.wf_ins {m : SMap α} (h : SMap.wf d m = true) {k : Nat} {v : α} (hv : v ≠ d) (hk : ∀ e ∈ m, e.1 ≠ k) :
    SMap.wf d (SMap.ins m k v) = true := by
  rw [SMap.wf_iff] at h ⊢
  refine ⟨?_, ?_⟩
  · clear hv
    induction m with
    | nil => simp [SMap.ins]
    | cons f t ih =>
      obtain ⟨h1, h2⟩ := List.pairwise_cons.1 h.1
      simp only [SMap.ins]
      split
      · rename_i hlt
        exact List.pairwise_cons.2 ⟨fun e he => by
          rcases List.mem_cons.1 he with he | he
          · exact he ▸ hlt
          · exact Nat.lt_trans hlt (h1 e he), h.1⟩
      · rename_i hge
        refine List.pairwise_cons.2 ⟨fun e he => ?_, ih ⟨h2, fun e he => h.2 e (List.mem_cons_of_mem _ he)⟩
          (fun e he => hk e (List.mem_cons_of_mem _ he))⟩
        rcases SMap.mem_ins he with he | he
        · have := hk f List.mem_cons_self
          subst he
          simp only
          omega
        · exact h1 e he
  · intro e he
    rcases SMap.mem_ins he with he | he
    · subst he; exact hv
    · exact h.2 e he

/-- Every write keeps the form. -/
theorem SMap.wf_set {m : SMap α} (h : SMap.wf d m = true) (k : Nat) (v : α) : SMap.wf d (SMap.set d m k v) = true := by
  unfold SMap.set
  split
  · exact SMap.wf_erase h k
  · rename_i hv
    refine SMap.wf_ins (SMap.wf_erase h k) hv ?_
    intro e he
    simp [SMap.erase] at he
    exact he.2

theorem SMap.mem_set {m : SMap α} {k : Nat} {v : α} {e : Nat × α} (h : e ∈ SMap.set d m k v) : e = (k, v) ∨ e ∈ m := by
  unfold SMap.set at h
  split at h
  · exact .inr (List.mem_filter.1 h).1
  · rcases SMap.mem_ins h with h | h
    · exact .inl h
    · exact .inr (List.mem_filter.1 h).1

omit [DecidableEq α] in
theorem SMap.get_mem (d : α) : ∀ (m : SMap α) (k : Nat), SMap.get d m k = d ∨ ∃ e ∈ m, e.2 = SMap.get d m k
  | [], _ => .inl rfl
  | e :: t, k => by
    unfold SMap.get
    split
    · exact .inr ⟨e, List.mem_cons_self, rfl⟩
    · rcases SMap.get_mem d t k with h | ⟨x, hx, h⟩
      · exact .inl h
      · exact .inr ⟨x, List.mem_cons_of_mem _ hx, h⟩

theorem SMap.wf_mapVals {m : SMap α} (h : SMap.wf d m = true) (f : Nat → α → α) :
    SMap.wf d (SMap.mapVals d f m) = true := by
  rw [SMap.wf_iff] at h ⊢
  unfold SMap.mapVals
  refine ⟨List.Pairwise.sublist List.filter_sublist ?_, fun e he => by simpa using (List.mem_filter.1 he).2⟩
  rw [List.pairwise_map]
  exact h.1

theorem SMap.run_spec (vs : List α) : ∀ k, (SMap.run d k vs).Pairwise (fun e f => e.1 < f.1) ∧
    ∀ e ∈ SMap.run d k vs, e.2 ≠ d ∧ k ≤ e.1 ∧ e.1 < k + vs.length := by
  induction vs with
  | nil => intro k; simp [SMap.run]
  | cons v t ih =>
    intro k
    obtain ⟨h1, h2⟩ := ih (k + 1)
    simp only [SMap.run, List.length_cons]
    split
    · exact ⟨h1, fun e he => ⟨(h2 e he).1, by have := (h2 e he).2; omega, by have := (h2 e he).2; omega⟩⟩
    · rename_i hv
      refine ⟨List.pairwise_cons.2 ⟨fun e he => ?_, h1⟩, ?_⟩
      · have := (h2 e he).2
        simp only
        omega
      · intro e he
        rcases List.mem_cons.1 he with he | he
        · subst he; exact ⟨hv, by simp, by simp⟩
        · exact ⟨(h2 e he).1, by have := (h2 e he).2; omega, by have := (h2 e he).2; omega⟩

/-- Writing consecutive entries keeps the form. -/
theorem SMap.wf_setList {m : SMap α} (h : SMap.wf d m = true) (k : Nat) (vs : List α) :
    SMap.wf d (SMap.setList d m k vs) = true := by
  rw [SMap.wf_iff] at h ⊢
  obtain ⟨h1, h2⟩ := SMap.run_spec (d := d) vs k
  unfold SMap.setList
  refine ⟨?_, ?_⟩
  · rw [List.pairwise_append, List.pairwise_append]
    refine ⟨⟨h.1.sublist List.filter_sublist, h1, ?_⟩, h.1.sublist List.filter_sublist, ?_⟩
    · intro a ha b hb
      have := of_decide_eq_true (List.mem_filter.1 ha).2
      have := (h2 b hb).2
      omega
    · intro a ha b hb
      have hb := of_decide_eq_true (List.mem_filter.1 hb).2
      rcases List.mem_append.1 ha with ha | ha
      · have := of_decide_eq_true (List.mem_filter.1 ha).2
        omega
      · have := (h2 a ha).2
        omega
  · intro e he
    rcases List.mem_append.1 he with he | he
    · rcases List.mem_append.1 he with he | he
      · exact h.2 e (List.mem_filter.1 he).1
      · exact (h2 e he).1
    · exact h.2 e (List.mem_filter.1 he).1

omit [DecidableEq α] in
theorem SMap.get_append (a b : SMap α) (j : Nat) :
    SMap.get d (a ++ b) j = if a.any (fun e => e.1 == j) then SMap.get d a j else SMap.get d b j := by
  induction a with
  | nil => simp
  | cons e t ih =>
    simp only [List.cons_append, SMap.get, List.any_cons, ih]
    by_cases he : e.1 = j
    · simp [he]
    · have h : (e.1 == j) = false := by simpa using he
      simp only [h, Bool.false_or, if_neg he]

omit [DecidableEq α] in
theorem SMap.get_of_not_mem {m : SMap α} {j : Nat} (h : ∀ e ∈ m, e.1 ≠ j) : SMap.get d m j = d := by
  induction m with
  | nil => rfl
  | cons e t ih =>
    simp only [SMap.get]
    rw [if_neg (h e List.mem_cons_self)]
    exact ih (fun x hx => h x (List.mem_cons_of_mem _ hx))

/-- A change of every value is read at each key, where it leaves the value of an unlisted key. -/
theorem SMap.get_mapVals {m : SMap α} (h : SMap.wf d m = true) (f : Nat → α → α) (j : Nat) (hf : f j d = d) :
    SMap.get d (SMap.mapVals d f m) j = f j (SMap.get d m j) := by
  rw [SMap.wf_iff] at h
  obtain ⟨hp, -⟩ := h
  induction m with
  | nil => exact hf.symm
  | cons e t ih =>
    rw [List.pairwise_cons] at hp
    have it := ih hp.2
    simp only [SMap.mapVals, List.map_cons, List.filter_cons] at it ⊢
    by_cases he : e.1 = j
    · subst he
      have hn : SMap.get d t e.1 = d := SMap.get_of_not_mem fun x hx => Nat.ne_of_gt (hp.1 x hx)
      rw [hn, hf] at it
      by_cases hd : f e.1 e.2 = d
      · simpa [SMap.get, hd] using it
      · simp [SMap.get, hd]
    · split <;> simp only [SMap.get, if_neg he] <;> exact it

omit [DecidableEq α] in
theorem SMap.get_filter (m : SMap α) (p : Nat → Bool) (j : Nat) :
    SMap.get d (m.filter (fun e => p e.1)) j = if p j then SMap.get d m j else d := by
  induction m with
  | nil => simp
  | cons e t ih =>
    simp only [List.filter_cons]
    by_cases hp : p e.1 = true
    · simp only [hp, if_true, SMap.get, ih]
      by_cases he : e.1 = j
      · subst he; simp [hp]
      · simp [he]
    · rw [if_neg hp, ih]
      simp only [SMap.get]
      by_cases he : e.1 = j
      · subst he; simp [hp]
      · simp [he]

theorem SMap.get_run (vs : List α) : ∀ (k j : Nat), SMap.get d (SMap.run d k vs) j =
    if k ≤ j then vs.getD (j - k) d else d := by
  induction vs with
  | nil => intro k j; simp [SMap.run]
  | cons v t ih =>
    intro k j
    simp only [SMap.run]
    split
    · rename_i hv
      rw [ih]
      by_cases h1 : j = k
      · subst h1; rw [if_neg (by omega)]; simp [hv]
      · by_cases h2 : k ≤ j
        · have e : j - k = (j - (k + 1)) + 1 := by omega
          rw [if_pos (by omega), if_pos h2, e, List.getD_cons_succ]
        · rw [if_neg (by omega), if_neg h2]
    · simp only [SMap.get, ih]
      by_cases h1 : k = j
      · subst h1; simp
      · rw [if_neg h1]
        by_cases h2 : k ≤ j
        · have e : j - k = (j - (k + 1)) + 1 := by omega
          rw [if_pos (by omega), if_pos h2, e, List.getD_cons_succ]
        · rw [if_neg (by omega), if_neg h2]

/-- A write of consecutive entries is read back at their keys and leaves every other key alone. -/
theorem SMap.get_setList (m : SMap α) (k j : Nat) (vs : List α) :
    SMap.get d (SMap.setList d m k vs) j = if k ≤ j ∧ j < k + vs.length then vs.getD (j - k) d else SMap.get d m j := by
  have hr := (SMap.run_spec (d := d) vs k).2
  have h1 := SMap.get_filter (d := d) m (fun x => decide (x < k)) j
  have h3 := SMap.get_filter (d := d) m (fun x => decide (k + vs.length ≤ x)) j
  unfold SMap.setList
  rw [SMap.get_append]
  split
  · rename_i ha
    rw [SMap.get_append]
    split
    · rename_i hb
      obtain ⟨e, he, hej⟩ := List.any_eq_true.1 hb
      have he := of_decide_eq_true (List.mem_filter.1 he).2
      have hej := eq_of_beq hej
      rw [h1, if_pos (by simp; omega), if_neg (by omega)]
    · rename_i hb
      obtain ⟨e, he, hej⟩ := List.any_eq_true.1 ha
      have hej := eq_of_beq hej
      rcases List.mem_append.1 he with he | he
      · exact absurd (List.any_eq_true.2 ⟨e, he, by simp [hej]⟩) hb
      · have := (hr e he).2
        rw [SMap.get_run, if_pos (by omega), if_pos (by omega)]
  · rename_i ha
    rw [h3]
    by_cases hj : k + vs.length ≤ j
    · rw [if_pos (by simpa using hj), if_neg (by omega)]
    · rw [if_neg (by simpa using hj)]
      have hnone : ∀ e ∈ m.filter (fun x => decide (x.1 < k)) ++ SMap.run d k vs, e.1 ≠ j := by
        intro e he hej
        exact ha (List.any_eq_true.2 ⟨e, he, by simp [hej]⟩)
      by_cases hk : k ≤ j
      · rw [if_pos ⟨hk, by omega⟩]
        have := SMap.get_of_not_mem (d := d) (fun e he => hnone e (List.mem_append_right _ he))
        rw [SMap.get_run, if_pos hk] at this
        exact this.symm
      · rw [if_neg (by omega)]
        have := SMap.get_of_not_mem (d := d) (fun e he => hnone e (List.mem_append_left _ he))
        rw [h1, if_pos (by simp; omega)] at this
        exact this.symm

omit [DecidableEq α] in
theorem SMap.get_clear (m : SMap α) (lo hi j : Nat) :
    SMap.get d (SMap.clear m lo hi) j = if lo ≤ j ∧ j < hi then d else SMap.get d m j := by
  have h := SMap.get_filter (d := d) m (fun x => decide (x < lo) || decide (hi ≤ x)) j
  unfold SMap.clear
  rw [h]
  by_cases h1 : lo ≤ j ∧ j < hi
  · rw [if_pos h1, if_neg (by simp; omega)]
  · rw [if_neg h1, if_pos (by simp; omega)]

/-! Memory -/

theorem Memory.byte_write (m : Memory) (a j : Nat) (bs : List Byte) :
    Memory.byte (Memory.write m a bs) j = if a ≤ j ∧ j < a + bs.length then bs.getD (j - a) 0 else Memory.byte m j :=
  SMap.get_setList m a j bs

theorem Memory.wf_write {m : Memory} (h : Memory.wf m = true) (a : Nat) (bs : List Byte) :
    Memory.wf (Memory.write m a bs) = true := SMap.wf_setList h a bs

/-- A read gives the bytes at consecutive addresses. -/
theorem Memory.read_eq (m : Memory) (a n : Nat) :
    Memory.read m a n = (List.range n).map (fun i => Memory.byte m (a + i)) := by
  unfold Memory.read SMap.getList Memory.byte
  refine List.map_congr_left (fun i hi => ?_)
  have hi := List.mem_range.1 hi
  have h := SMap.get_filter (d := (0 : Byte)) m (fun x => decide (a ≤ x) && decide (x < a + n)) (a + i)
  rw [if_pos (by simp; omega)] at h
  exact h

@[simp] theorem Memory.read_length (m : Memory) (a n : Nat) : (Memory.read m a n).length = n := by
  simp [Memory.read_eq]

/-- Reading a part of what was just written gives that part. -/
theorem Memory.read_write_part (m : Memory) (a o k : Nat) (bs : List Byte) (h : o + k ≤ bs.length) :
    Memory.read (Memory.write m a bs) (a + o) k = (bs.drop o).take k := by
  rw [Memory.read_eq]
  refine List.ext_getElem (by simp; omega) (fun i h1 h2 => ?_)
  have hi : i < k := by simpa using h1
  simp only [List.getElem_map, List.getElem_range]
  rw [Memory.byte_write, if_pos (by omega)]
  simp [List.getElem_take, List.getElem_drop, show a + o + i - a = o + i by omega, List.getD_eq_getElem?_getD,
    List.getElem?_eq_getElem (show o + i < bs.length by omega)]

/-- Reading what was just written gives it back. -/
theorem Memory.read_write (m : Memory) (a : Nat) (bs : List Byte) : Memory.read (Memory.write m a bs) a bs.length = bs := by
  rw [Memory.read_eq]
  refine List.ext_getElem (by simp) (fun i h1 h2 => ?_)
  simp only [List.getElem_map, List.getElem_range]
  rw [Memory.byte_write, if_pos (by omega)]
  simp [h2]

end Sys2Proof.Machine
end

