-- ==== Sys2Proof/Laws/State.lean ====
section
/-! SUPPORT. One lemma per field per update of the state: what each update leaves, and what it is read back as. -/
namespace Sys2Proof.Machine

variable (s : State)

/-! `setCu` -/

@[simp] theorem State.setCu_pending (p n : Nat) (x : Cu) : (s.setCu p n x).pending = s.pending := rfl
@[simp] theorem State.setCu_out (p n : Nat) (x : Cu) : (s.setCu p n x).out = s.out := rfl
@[simp] theorem State.setCu_free (p n : Nat) (x : Cu) : (s.setCu p n x).free = s.free := rfl
@[simp] theorem State.setCu_img (p n : Nat) (x : Cu) : (s.setCu p n x).img = s.img := rfl
@[simp] theorem State.setCu_cfg (p n : Nat) (x : Cu) : (s.setCu p n x).cfg = s.cfg := rfl
@[simp] theorem State.setCu_adj (p n : Nat) (x : Cu) : (s.setCu p n x).adj = s.adj := rfl
@[simp] theorem State.setCu_mus (p n : Nat) (x : Cu) : (s.setCu p n x).mus = s.mus := rfl
@[simp] theorem State.setCu_sws (p n : Nat) (x : Cu) : (s.setCu p n x).sws = s.sws := rfl
@[simp] theorem State.setCu_plats (p n : Nat) (x : Cu) : (s.setCu p n x).plats = s.plats := rfl
@[simp] theorem State.setCu_bmks (p n : Nat) (x : Cu) : (s.setCu p n x).bmks = s.bmks := rfl
@[simp] theorem State.setCu_aus (p n : Nat) (x : Cu) : (s.setCu p n x).aus = s.aus := rfl
@[simp] theorem State.setCu_dram (p n : Nat) (x : Cu) : (s.setCu p n x).dram = s.dram := rfl
@[simp] theorem State.setCu_mon (p n : Nat) (x : Cu) : (s.setCu p n x).mon = s.mon := rfl
@[simp] theorem State.setCu_ports (p n : Nat) (x : Cu) : (s.setCu p n x).ports = s.ports := rfl
@[simp] theorem State.setCu_lxg (p n : Nat) (x : Cu) : (s.setCu p n x).lxg = s.lxg := rfl
@[simp] theorem State.setCu_dtm (p n : Nat) (x : Cu) : (s.setCu p n x).dtm = s.dtm := rfl
@[simp] theorem State.setCu_cmd (p n : Nat) (x : Cu) : (s.setCu p n x).cmd = s.cmd := rfl
@[simp] theorem State.setCu_flt (p n : Nat) (x : Cu) : (s.setCu p n x).flt = s.flt := rfl
@[simp] theorem State.setCu_clk (p n : Nat) (x : Cu) : (s.setCu p n x).clk = s.clk := rfl
@[simp] theorem State.setCu_pwr (p n : Nat) (x : Cu) : (s.setCu p n x).pwr = s.pwr := rfl
@[simp] theorem State.setCu_sec (p n : Nat) (x : Cu) : (s.setCu p n x).sec = s.sec := rfl
@[simp] theorem State.setCu_drbg (p n : Nat) (x : Cu) : (s.setCu p n x).drbg = s.drbg := rfl
@[simp] theorem State.setCu_nvm (p n : Nat) (x : Cu) : (s.setCu p n x).nvm = s.nvm := rfl
@[simp] theorem State.setCu_smb (p n : Nat) (x : Cu) : (s.setCu p n x).smb = s.smb := rfl
@[simp] theorem State.cu_setCu (p n : Nat) (x : Cu) : (s.setCu p n x).cu p n = x := SMap.get_set_self _ _ _

@[simp] theorem State.mu_of_setCu (p n : Nat) (x : Cu) (q m : Nat) : (s.setCu p n x).mu q m = s.mu q m := rfl
@[simp] theorem State.sw_of_setCu (p n : Nat) (x : Cu) (q m : Nat) : (s.setCu p n x).sw q m = s.sw q m := rfl
@[simp] theorem State.plat_of_setCu (p n : Nat) (x : Cu) (q : Nat) : (s.setCu p n x).plat q = s.plat q := rfl
@[simp] theorem State.bmk_of_setCu (p n : Nat) (x : Cu) (j : Nat) : (s.setCu p n x).bmk j = s.bmk j := rfl
@[simp] theorem State.au_of_setCu (p n : Nat) (x : Cu) (h : Nat) : (s.setCu p n x).au h = s.au h := rfl
@[simp] theorem State.port_of_setCu (p n : Nat) (x : Cu) (m : Nat) : (s.setCu p n x).port m = s.port m := rfl
@[simp] theorem State.chan_of_setCu (p n : Nat) (x : Cu) (e : Nat) : (s.setCu p n x).chan e = s.chan e := rfl
@[simp] theorem State.mg_of_setCu (p n : Nat) (x : Cu) (h : Nat) : (s.setCu p n x).mg h = s.mg h := rfl
@[simp] theorem State.slot_of_setCu (p n : Nat) (x : Cu) (l : Nat) : (s.setCu p n x).slot l = s.slot l := rfl

/-! `setMu` -/

@[simp] theorem State.setMu_pending (p n : Nat) (x : Mu) : (s.setMu p n x).pending = s.pending := rfl
@[simp] theorem State.setMu_out (p n : Nat) (x : Mu) : (s.setMu p n x).out = s.out := rfl
@[simp] theorem State.setMu_free (p n : Nat) (x : Mu) : (s.setMu p n x).free = s.free := rfl
@[simp] theorem State.setMu_img (p n : Nat) (x : Mu) : (s.setMu p n x).img = s.img := rfl
@[simp] theorem State.setMu_cfg (p n : Nat) (x : Mu) : (s.setMu p n x).cfg = s.cfg := rfl
@[simp] theorem State.setMu_adj (p n : Nat) (x : Mu) : (s.setMu p n x).adj = s.adj := rfl
@[simp] theorem State.setMu_cus (p n : Nat) (x : Mu) : (s.setMu p n x).cus = s.cus := rfl
@[simp] theorem State.setMu_sws (p n : Nat) (x : Mu) : (s.setMu p n x).sws = s.sws := rfl
@[simp] theorem State.setMu_plats (p n : Nat) (x : Mu) : (s.setMu p n x).plats = s.plats := rfl
@[simp] theorem State.setMu_bmks (p n : Nat) (x : Mu) : (s.setMu p n x).bmks = s.bmks := rfl
@[simp] theorem State.setMu_aus (p n : Nat) (x : Mu) : (s.setMu p n x).aus = s.aus := rfl
@[simp] theorem State.setMu_dram (p n : Nat) (x : Mu) : (s.setMu p n x).dram = s.dram := rfl
@[simp] theorem State.setMu_mon (p n : Nat) (x : Mu) : (s.setMu p n x).mon = s.mon := rfl
@[simp] theorem State.setMu_ports (p n : Nat) (x : Mu) : (s.setMu p n x).ports = s.ports := rfl
@[simp] theorem State.setMu_lxg (p n : Nat) (x : Mu) : (s.setMu p n x).lxg = s.lxg := rfl
@[simp] theorem State.setMu_dtm (p n : Nat) (x : Mu) : (s.setMu p n x).dtm = s.dtm := rfl
@[simp] theorem State.setMu_cmd (p n : Nat) (x : Mu) : (s.setMu p n x).cmd = s.cmd := rfl
@[simp] theorem State.setMu_flt (p n : Nat) (x : Mu) : (s.setMu p n x).flt = s.flt := rfl
@[simp] theorem State.setMu_clk (p n : Nat) (x : Mu) : (s.setMu p n x).clk = s.clk := rfl
@[simp] theorem State.setMu_pwr (p n : Nat) (x : Mu) : (s.setMu p n x).pwr = s.pwr := rfl
@[simp] theorem State.setMu_sec (p n : Nat) (x : Mu) : (s.setMu p n x).sec = s.sec := rfl
@[simp] theorem State.setMu_drbg (p n : Nat) (x : Mu) : (s.setMu p n x).drbg = s.drbg := rfl
@[simp] theorem State.setMu_nvm (p n : Nat) (x : Mu) : (s.setMu p n x).nvm = s.nvm := rfl
@[simp] theorem State.setMu_smb (p n : Nat) (x : Mu) : (s.setMu p n x).smb = s.smb := rfl
@[simp] theorem State.mu_setMu (p n : Nat) (x : Mu) : (s.setMu p n x).mu p n = x := SMap.get_set_self _ _ _

@[simp] theorem State.cu_of_setMu (p n : Nat) (x : Mu) (q m : Nat) : (s.setMu p n x).cu q m = s.cu q m := rfl
@[simp] theorem State.sw_of_setMu (p n : Nat) (x : Mu) (q m : Nat) : (s.setMu p n x).sw q m = s.sw q m := rfl
@[simp] theorem State.plat_of_setMu (p n : Nat) (x : Mu) (q : Nat) : (s.setMu p n x).plat q = s.plat q := rfl
@[simp] theorem State.bmk_of_setMu (p n : Nat) (x : Mu) (j : Nat) : (s.setMu p n x).bmk j = s.bmk j := rfl
@[simp] theorem State.au_of_setMu (p n : Nat) (x : Mu) (h : Nat) : (s.setMu p n x).au h = s.au h := rfl
@[simp] theorem State.port_of_setMu (p n : Nat) (x : Mu) (m : Nat) : (s.setMu p n x).port m = s.port m := rfl
@[simp] theorem State.chan_of_setMu (p n : Nat) (x : Mu) (e : Nat) : (s.setMu p n x).chan e = s.chan e := rfl
@[simp] theorem State.mg_of_setMu (p n : Nat) (x : Mu) (h : Nat) : (s.setMu p n x).mg h = s.mg h := rfl
@[simp] theorem State.slot_of_setMu (p n : Nat) (x : Mu) (l : Nat) : (s.setMu p n x).slot l = s.slot l := rfl

/-! `setSw` -/

@[simp] theorem State.setSw_pending (p n : Nat) (x : Sw) : (s.setSw p n x).pending = s.pending := rfl
@[simp] theorem State.setSw_out (p n : Nat) (x : Sw) : (s.setSw p n x).out = s.out := rfl
@[simp] theorem State.setSw_free (p n : Nat) (x : Sw) : (s.setSw p n x).free = s.free := rfl
@[simp] theorem State.setSw_img (p n : Nat) (x : Sw) : (s.setSw p n x).img = s.img := rfl
@[simp] theorem State.setSw_cfg (p n : Nat) (x : Sw) : (s.setSw p n x).cfg = s.cfg := rfl
@[simp] theorem State.setSw_adj (p n : Nat) (x : Sw) : (s.setSw p n x).adj = s.adj := rfl
@[simp] theorem State.setSw_cus (p n : Nat) (x : Sw) : (s.setSw p n x).cus = s.cus := rfl
@[simp] theorem State.setSw_mus (p n : Nat) (x : Sw) : (s.setSw p n x).mus = s.mus := rfl
@[simp] theorem State.setSw_plats (p n : Nat) (x : Sw) : (s.setSw p n x).plats = s.plats := rfl
@[simp] theorem State.setSw_bmks (p n : Nat) (x : Sw) : (s.setSw p n x).bmks = s.bmks := rfl
@[simp] theorem State.setSw_aus (p n : Nat) (x : Sw) : (s.setSw p n x).aus = s.aus := rfl
@[simp] theorem State.setSw_dram (p n : Nat) (x : Sw) : (s.setSw p n x).dram = s.dram := rfl
@[simp] theorem State.setSw_mon (p n : Nat) (x : Sw) : (s.setSw p n x).mon = s.mon := rfl
@[simp] theorem State.setSw_ports (p n : Nat) (x : Sw) : (s.setSw p n x).ports = s.ports := rfl
@[simp] theorem State.setSw_lxg (p n : Nat) (x : Sw) : (s.setSw p n x).lxg = s.lxg := rfl
@[simp] theorem State.setSw_dtm (p n : Nat) (x : Sw) : (s.setSw p n x).dtm = s.dtm := rfl
@[simp] theorem State.setSw_cmd (p n : Nat) (x : Sw) : (s.setSw p n x).cmd = s.cmd := rfl
@[simp] theorem State.setSw_flt (p n : Nat) (x : Sw) : (s.setSw p n x).flt = s.flt := rfl
@[simp] theorem State.setSw_clk (p n : Nat) (x : Sw) : (s.setSw p n x).clk = s.clk := rfl
@[simp] theorem State.setSw_pwr (p n : Nat) (x : Sw) : (s.setSw p n x).pwr = s.pwr := rfl
@[simp] theorem State.setSw_sec (p n : Nat) (x : Sw) : (s.setSw p n x).sec = s.sec := rfl
@[simp] theorem State.setSw_drbg (p n : Nat) (x : Sw) : (s.setSw p n x).drbg = s.drbg := rfl
@[simp] theorem State.setSw_nvm (p n : Nat) (x : Sw) : (s.setSw p n x).nvm = s.nvm := rfl
@[simp] theorem State.setSw_smb (p n : Nat) (x : Sw) : (s.setSw p n x).smb = s.smb := rfl
@[simp] theorem State.sw_setSw (p n : Nat) (x : Sw) : (s.setSw p n x).sw p n = x := SMap.get_set_self _ _ _

@[simp] theorem State.cu_of_setSw (p n : Nat) (x : Sw) (q m : Nat) : (s.setSw p n x).cu q m = s.cu q m := rfl
@[simp] theorem State.mu_of_setSw (p n : Nat) (x : Sw) (q m : Nat) : (s.setSw p n x).mu q m = s.mu q m := rfl
@[simp] theorem State.plat_of_setSw (p n : Nat) (x : Sw) (q : Nat) : (s.setSw p n x).plat q = s.plat q := rfl
@[simp] theorem State.bmk_of_setSw (p n : Nat) (x : Sw) (j : Nat) : (s.setSw p n x).bmk j = s.bmk j := rfl
@[simp] theorem State.au_of_setSw (p n : Nat) (x : Sw) (h : Nat) : (s.setSw p n x).au h = s.au h := rfl
@[simp] theorem State.port_of_setSw (p n : Nat) (x : Sw) (m : Nat) : (s.setSw p n x).port m = s.port m := rfl
@[simp] theorem State.chan_of_setSw (p n : Nat) (x : Sw) (e : Nat) : (s.setSw p n x).chan e = s.chan e := rfl
@[simp] theorem State.mg_of_setSw (p n : Nat) (x : Sw) (h : Nat) : (s.setSw p n x).mg h = s.mg h := rfl
@[simp] theorem State.slot_of_setSw (p n : Nat) (x : Sw) (l : Nat) : (s.setSw p n x).slot l = s.slot l := rfl

/-! `setPlat` -/

@[simp] theorem State.setPlat_pending (p : Nat) (x : Plat) : (s.setPlat p x).pending = s.pending := rfl
@[simp] theorem State.setPlat_out (p : Nat) (x : Plat) : (s.setPlat p x).out = s.out := rfl
@[simp] theorem State.setPlat_free (p : Nat) (x : Plat) : (s.setPlat p x).free = s.free := rfl
@[simp] theorem State.setPlat_img (p : Nat) (x : Plat) : (s.setPlat p x).img = s.img := rfl
@[simp] theorem State.setPlat_cfg (p : Nat) (x : Plat) : (s.setPlat p x).cfg = s.cfg := rfl
@[simp] theorem State.setPlat_adj (p : Nat) (x : Plat) : (s.setPlat p x).adj = s.adj := rfl
@[simp] theorem State.setPlat_cus (p : Nat) (x : Plat) : (s.setPlat p x).cus = s.cus := rfl
@[simp] theorem State.setPlat_mus (p : Nat) (x : Plat) : (s.setPlat p x).mus = s.mus := rfl
@[simp] theorem State.setPlat_sws (p : Nat) (x : Plat) : (s.setPlat p x).sws = s.sws := rfl
@[simp] theorem State.setPlat_bmks (p : Nat) (x : Plat) : (s.setPlat p x).bmks = s.bmks := rfl
@[simp] theorem State.setPlat_aus (p : Nat) (x : Plat) : (s.setPlat p x).aus = s.aus := rfl
@[simp] theorem State.setPlat_dram (p : Nat) (x : Plat) : (s.setPlat p x).dram = s.dram := rfl
@[simp] theorem State.setPlat_mon (p : Nat) (x : Plat) : (s.setPlat p x).mon = s.mon := rfl
@[simp] theorem State.setPlat_ports (p : Nat) (x : Plat) : (s.setPlat p x).ports = s.ports := rfl
@[simp] theorem State.setPlat_lxg (p : Nat) (x : Plat) : (s.setPlat p x).lxg = s.lxg := rfl
@[simp] theorem State.setPlat_dtm (p : Nat) (x : Plat) : (s.setPlat p x).dtm = s.dtm := rfl
@[simp] theorem State.setPlat_cmd (p : Nat) (x : Plat) : (s.setPlat p x).cmd = s.cmd := rfl
@[simp] theorem State.setPlat_flt (p : Nat) (x : Plat) : (s.setPlat p x).flt = s.flt := rfl
@[simp] theorem State.setPlat_clk (p : Nat) (x : Plat) : (s.setPlat p x).clk = s.clk := rfl
@[simp] theorem State.setPlat_pwr (p : Nat) (x : Plat) : (s.setPlat p x).pwr = s.pwr := rfl
@[simp] theorem State.setPlat_sec (p : Nat) (x : Plat) : (s.setPlat p x).sec = s.sec := rfl
@[simp] theorem State.setPlat_drbg (p : Nat) (x : Plat) : (s.setPlat p x).drbg = s.drbg := rfl
@[simp] theorem State.setPlat_nvm (p : Nat) (x : Plat) : (s.setPlat p x).nvm = s.nvm := rfl
@[simp] theorem State.setPlat_smb (p : Nat) (x : Plat) : (s.setPlat p x).smb = s.smb := rfl
@[simp] theorem State.plat_setPlat (p : Nat) (x : Plat) : (s.setPlat p x).plat p = x := SMap.get_set_self _ _ _

@[simp] theorem State.cu_of_setPlat (p : Nat) (x : Plat) (q m : Nat) : (s.setPlat p x).cu q m = s.cu q m := rfl
@[simp] theorem State.mu_of_setPlat (p : Nat) (x : Plat) (q m : Nat) : (s.setPlat p x).mu q m = s.mu q m := rfl
@[simp] theorem State.sw_of_setPlat (p : Nat) (x : Plat) (q m : Nat) : (s.setPlat p x).sw q m = s.sw q m := rfl
@[simp] theorem State.bmk_of_setPlat (p : Nat) (x : Plat) (j : Nat) : (s.setPlat p x).bmk j = s.bmk j := rfl
@[simp] theorem State.au_of_setPlat (p : Nat) (x : Plat) (h : Nat) : (s.setPlat p x).au h = s.au h := rfl
@[simp] theorem State.port_of_setPlat (p : Nat) (x : Plat) (m : Nat) : (s.setPlat p x).port m = s.port m := rfl
@[simp] theorem State.chan_of_setPlat (p : Nat) (x : Plat) (e : Nat) : (s.setPlat p x).chan e = s.chan e := rfl
@[simp] theorem State.mg_of_setPlat (p : Nat) (x : Plat) (h : Nat) : (s.setPlat p x).mg h = s.mg h := rfl
@[simp] theorem State.slot_of_setPlat (p : Nat) (x : Plat) (l : Nat) : (s.setPlat p x).slot l = s.slot l := rfl

/-! `setBmk` -/

@[simp] theorem State.setBmk_pending (i : Nat) (x : Bmk) : (s.setBmk i x).pending = s.pending := rfl
@[simp] theorem State.setBmk_out (i : Nat) (x : Bmk) : (s.setBmk i x).out = s.out := rfl
@[simp] theorem State.setBmk_free (i : Nat) (x : Bmk) : (s.setBmk i x).free = s.free := rfl
@[simp] theorem State.setBmk_img (i : Nat) (x : Bmk) : (s.setBmk i x).img = s.img := rfl
@[simp] theorem State.setBmk_cfg (i : Nat) (x : Bmk) : (s.setBmk i x).cfg = s.cfg := rfl
@[simp] theorem State.setBmk_adj (i : Nat) (x : Bmk) : (s.setBmk i x).adj = s.adj := rfl
@[simp] theorem State.setBmk_cus (i : Nat) (x : Bmk) : (s.setBmk i x).cus = s.cus := rfl
@[simp] theorem State.setBmk_mus (i : Nat) (x : Bmk) : (s.setBmk i x).mus = s.mus := rfl
@[simp] theorem State.setBmk_sws (i : Nat) (x : Bmk) : (s.setBmk i x).sws = s.sws := rfl
@[simp] theorem State.setBmk_plats (i : Nat) (x : Bmk) : (s.setBmk i x).plats = s.plats := rfl
@[simp] theorem State.setBmk_aus (i : Nat) (x : Bmk) : (s.setBmk i x).aus = s.aus := rfl
@[simp] theorem State.setBmk_dram (i : Nat) (x : Bmk) : (s.setBmk i x).dram = s.dram := rfl
@[simp] theorem State.setBmk_mon (i : Nat) (x : Bmk) : (s.setBmk i x).mon = s.mon := rfl
@[simp] theorem State.setBmk_ports (i : Nat) (x : Bmk) : (s.setBmk i x).ports = s.ports := rfl
@[simp] theorem State.setBmk_lxg (i : Nat) (x : Bmk) : (s.setBmk i x).lxg = s.lxg := rfl
@[simp] theorem State.setBmk_dtm (i : Nat) (x : Bmk) : (s.setBmk i x).dtm = s.dtm := rfl
@[simp] theorem State.setBmk_cmd (i : Nat) (x : Bmk) : (s.setBmk i x).cmd = s.cmd := rfl
@[simp] theorem State.setBmk_flt (i : Nat) (x : Bmk) : (s.setBmk i x).flt = s.flt := rfl
@[simp] theorem State.setBmk_clk (i : Nat) (x : Bmk) : (s.setBmk i x).clk = s.clk := rfl
@[simp] theorem State.setBmk_pwr (i : Nat) (x : Bmk) : (s.setBmk i x).pwr = s.pwr := rfl
@[simp] theorem State.setBmk_sec (i : Nat) (x : Bmk) : (s.setBmk i x).sec = s.sec := rfl
@[simp] theorem State.setBmk_drbg (i : Nat) (x : Bmk) : (s.setBmk i x).drbg = s.drbg := rfl
@[simp] theorem State.setBmk_nvm (i : Nat) (x : Bmk) : (s.setBmk i x).nvm = s.nvm := rfl
@[simp] theorem State.setBmk_smb (i : Nat) (x : Bmk) : (s.setBmk i x).smb = s.smb := rfl
@[simp] theorem State.bmk_setBmk (i : Nat) (x : Bmk) : (s.setBmk i x).bmk i = x := SMap.get_set_self _ _ _

@[simp] theorem State.cu_of_setBmk (i : Nat) (x : Bmk) (q m : Nat) : (s.setBmk i x).cu q m = s.cu q m := rfl
@[simp] theorem State.mu_of_setBmk (i : Nat) (x : Bmk) (q m : Nat) : (s.setBmk i x).mu q m = s.mu q m := rfl
@[simp] theorem State.sw_of_setBmk (i : Nat) (x : Bmk) (q m : Nat) : (s.setBmk i x).sw q m = s.sw q m := rfl
@[simp] theorem State.plat_of_setBmk (i : Nat) (x : Bmk) (q : Nat) : (s.setBmk i x).plat q = s.plat q := rfl
@[simp] theorem State.au_of_setBmk (i : Nat) (x : Bmk) (h : Nat) : (s.setBmk i x).au h = s.au h := rfl
@[simp] theorem State.port_of_setBmk (i : Nat) (x : Bmk) (m : Nat) : (s.setBmk i x).port m = s.port m := rfl
@[simp] theorem State.chan_of_setBmk (i : Nat) (x : Bmk) (e : Nat) : (s.setBmk i x).chan e = s.chan e := rfl
@[simp] theorem State.mg_of_setBmk (i : Nat) (x : Bmk) (h : Nat) : (s.setBmk i x).mg h = s.mg h := rfl
@[simp] theorem State.slot_of_setBmk (i : Nat) (x : Bmk) (l : Nat) : (s.setBmk i x).slot l = s.slot l := rfl

/-! `setAu` -/

@[simp] theorem State.setAu_pending (g : Nat) (x : Au) : (s.setAu g x).pending = s.pending := rfl
@[simp] theorem State.setAu_out (g : Nat) (x : Au) : (s.setAu g x).out = s.out := rfl
@[simp] theorem State.setAu_free (g : Nat) (x : Au) : (s.setAu g x).free = s.free := rfl
@[simp] theorem State.setAu_img (g : Nat) (x : Au) : (s.setAu g x).img = s.img := rfl
@[simp] theorem State.setAu_cfg (g : Nat) (x : Au) : (s.setAu g x).cfg = s.cfg := rfl
@[simp] theorem State.setAu_adj (g : Nat) (x : Au) : (s.setAu g x).adj = s.adj := rfl
@[simp] theorem State.setAu_cus (g : Nat) (x : Au) : (s.setAu g x).cus = s.cus := rfl
@[simp] theorem State.setAu_mus (g : Nat) (x : Au) : (s.setAu g x).mus = s.mus := rfl
@[simp] theorem State.setAu_sws (g : Nat) (x : Au) : (s.setAu g x).sws = s.sws := rfl
@[simp] theorem State.setAu_plats (g : Nat) (x : Au) : (s.setAu g x).plats = s.plats := rfl
@[simp] theorem State.setAu_bmks (g : Nat) (x : Au) : (s.setAu g x).bmks = s.bmks := rfl
@[simp] theorem State.setAu_dram (g : Nat) (x : Au) : (s.setAu g x).dram = s.dram := rfl
@[simp] theorem State.setAu_mon (g : Nat) (x : Au) : (s.setAu g x).mon = s.mon := rfl
@[simp] theorem State.setAu_ports (g : Nat) (x : Au) : (s.setAu g x).ports = s.ports := rfl
@[simp] theorem State.setAu_lxg (g : Nat) (x : Au) : (s.setAu g x).lxg = s.lxg := rfl
@[simp] theorem State.setAu_dtm (g : Nat) (x : Au) : (s.setAu g x).dtm = s.dtm := rfl
@[simp] theorem State.setAu_cmd (g : Nat) (x : Au) : (s.setAu g x).cmd = s.cmd := rfl
@[simp] theorem State.setAu_flt (g : Nat) (x : Au) : (s.setAu g x).flt = s.flt := rfl
@[simp] theorem State.setAu_clk (g : Nat) (x : Au) : (s.setAu g x).clk = s.clk := rfl
@[simp] theorem State.setAu_pwr (g : Nat) (x : Au) : (s.setAu g x).pwr = s.pwr := rfl
@[simp] theorem State.setAu_sec (g : Nat) (x : Au) : (s.setAu g x).sec = s.sec := rfl
@[simp] theorem State.setAu_drbg (g : Nat) (x : Au) : (s.setAu g x).drbg = s.drbg := rfl
@[simp] theorem State.setAu_nvm (g : Nat) (x : Au) : (s.setAu g x).nvm = s.nvm := rfl
@[simp] theorem State.setAu_smb (g : Nat) (x : Au) : (s.setAu g x).smb = s.smb := rfl
@[simp] theorem State.au_setAu (g : Nat) (x : Au) : (s.setAu g x).au g = x := SMap.get_set_self _ _ _

@[simp] theorem State.cu_of_setAu (g : Nat) (x : Au) (q m : Nat) : (s.setAu g x).cu q m = s.cu q m := rfl
@[simp] theorem State.mu_of_setAu (g : Nat) (x : Au) (q m : Nat) : (s.setAu g x).mu q m = s.mu q m := rfl
@[simp] theorem State.sw_of_setAu (g : Nat) (x : Au) (q m : Nat) : (s.setAu g x).sw q m = s.sw q m := rfl
@[simp] theorem State.plat_of_setAu (g : Nat) (x : Au) (q : Nat) : (s.setAu g x).plat q = s.plat q := rfl
@[simp] theorem State.bmk_of_setAu (g : Nat) (x : Au) (j : Nat) : (s.setAu g x).bmk j = s.bmk j := rfl
@[simp] theorem State.port_of_setAu (g : Nat) (x : Au) (m : Nat) : (s.setAu g x).port m = s.port m := rfl
@[simp] theorem State.chan_of_setAu (g : Nat) (x : Au) (e : Nat) : (s.setAu g x).chan e = s.chan e := rfl
@[simp] theorem State.mg_of_setAu (g : Nat) (x : Au) (h : Nat) : (s.setAu g x).mg h = s.mg h := rfl
@[simp] theorem State.slot_of_setAu (g : Nat) (x : Au) (l : Nat) : (s.setAu g x).slot l = s.slot l := rfl

/-! `setPort` -/

@[simp] theorem State.setPort_pending (n : Nat) (x : Port) : (s.setPort n x).pending = s.pending := rfl
@[simp] theorem State.setPort_out (n : Nat) (x : Port) : (s.setPort n x).out = s.out := rfl
@[simp] theorem State.setPort_free (n : Nat) (x : Port) : (s.setPort n x).free = s.free := rfl
@[simp] theorem State.setPort_img (n : Nat) (x : Port) : (s.setPort n x).img = s.img := rfl
@[simp] theorem State.setPort_cfg (n : Nat) (x : Port) : (s.setPort n x).cfg = s.cfg := rfl
@[simp] theorem State.setPort_adj (n : Nat) (x : Port) : (s.setPort n x).adj = s.adj := rfl
@[simp] theorem State.setPort_cus (n : Nat) (x : Port) : (s.setPort n x).cus = s.cus := rfl
@[simp] theorem State.setPort_mus (n : Nat) (x : Port) : (s.setPort n x).mus = s.mus := rfl
@[simp] theorem State.setPort_sws (n : Nat) (x : Port) : (s.setPort n x).sws = s.sws := rfl
@[simp] theorem State.setPort_plats (n : Nat) (x : Port) : (s.setPort n x).plats = s.plats := rfl
@[simp] theorem State.setPort_bmks (n : Nat) (x : Port) : (s.setPort n x).bmks = s.bmks := rfl
@[simp] theorem State.setPort_aus (n : Nat) (x : Port) : (s.setPort n x).aus = s.aus := rfl
@[simp] theorem State.setPort_dram (n : Nat) (x : Port) : (s.setPort n x).dram = s.dram := rfl
@[simp] theorem State.setPort_mon (n : Nat) (x : Port) : (s.setPort n x).mon = s.mon := rfl
@[simp] theorem State.setPort_lxg (n : Nat) (x : Port) : (s.setPort n x).lxg = s.lxg := rfl
@[simp] theorem State.setPort_dtm (n : Nat) (x : Port) : (s.setPort n x).dtm = s.dtm := rfl
@[simp] theorem State.setPort_cmd (n : Nat) (x : Port) : (s.setPort n x).cmd = s.cmd := rfl
@[simp] theorem State.setPort_flt (n : Nat) (x : Port) : (s.setPort n x).flt = s.flt := rfl
@[simp] theorem State.setPort_clk (n : Nat) (x : Port) : (s.setPort n x).clk = s.clk := rfl
@[simp] theorem State.setPort_pwr (n : Nat) (x : Port) : (s.setPort n x).pwr = s.pwr := rfl
@[simp] theorem State.setPort_sec (n : Nat) (x : Port) : (s.setPort n x).sec = s.sec := rfl
@[simp] theorem State.setPort_drbg (n : Nat) (x : Port) : (s.setPort n x).drbg = s.drbg := rfl
@[simp] theorem State.setPort_nvm (n : Nat) (x : Port) : (s.setPort n x).nvm = s.nvm := rfl
@[simp] theorem State.setPort_smb (n : Nat) (x : Port) : (s.setPort n x).smb = s.smb := rfl
@[simp] theorem State.port_setPort (n : Nat) (x : Port) : (s.setPort n x).port n = x := SMap.get_set_self _ _ _

@[simp] theorem State.cu_of_setPort (n : Nat) (x : Port) (q m : Nat) : (s.setPort n x).cu q m = s.cu q m := rfl
@[simp] theorem State.mu_of_setPort (n : Nat) (x : Port) (q m : Nat) : (s.setPort n x).mu q m = s.mu q m := rfl
@[simp] theorem State.sw_of_setPort (n : Nat) (x : Port) (q m : Nat) : (s.setPort n x).sw q m = s.sw q m := rfl
@[simp] theorem State.plat_of_setPort (n : Nat) (x : Port) (q : Nat) : (s.setPort n x).plat q = s.plat q := rfl
@[simp] theorem State.bmk_of_setPort (n : Nat) (x : Port) (j : Nat) : (s.setPort n x).bmk j = s.bmk j := rfl
@[simp] theorem State.au_of_setPort (n : Nat) (x : Port) (h : Nat) : (s.setPort n x).au h = s.au h := rfl
@[simp] theorem State.chan_of_setPort (n : Nat) (x : Port) (e : Nat) : (s.setPort n x).chan e = s.chan e := rfl
@[simp] theorem State.mg_of_setPort (n : Nat) (x : Port) (h : Nat) : (s.setPort n x).mg h = s.mg h := rfl
@[simp] theorem State.slot_of_setPort (n : Nat) (x : Port) (l : Nat) : (s.setPort n x).slot l = s.slot l := rfl

/-! `setChan` -/

@[simp] theorem State.setChan_pending (c : Nat) (x : Chan) : (s.setChan c x).pending = s.pending := rfl
@[simp] theorem State.setChan_out (c : Nat) (x : Chan) : (s.setChan c x).out = s.out := rfl
@[simp] theorem State.setChan_free (c : Nat) (x : Chan) : (s.setChan c x).free = s.free := rfl
@[simp] theorem State.setChan_img (c : Nat) (x : Chan) : (s.setChan c x).img = s.img := rfl
@[simp] theorem State.setChan_cfg (c : Nat) (x : Chan) : (s.setChan c x).cfg = s.cfg := rfl
@[simp] theorem State.setChan_adj (c : Nat) (x : Chan) : (s.setChan c x).adj = s.adj := rfl
@[simp] theorem State.setChan_cus (c : Nat) (x : Chan) : (s.setChan c x).cus = s.cus := rfl
@[simp] theorem State.setChan_mus (c : Nat) (x : Chan) : (s.setChan c x).mus = s.mus := rfl
@[simp] theorem State.setChan_sws (c : Nat) (x : Chan) : (s.setChan c x).sws = s.sws := rfl
@[simp] theorem State.setChan_plats (c : Nat) (x : Chan) : (s.setChan c x).plats = s.plats := rfl
@[simp] theorem State.setChan_bmks (c : Nat) (x : Chan) : (s.setChan c x).bmks = s.bmks := rfl
@[simp] theorem State.setChan_aus (c : Nat) (x : Chan) : (s.setChan c x).aus = s.aus := rfl
@[simp] theorem State.setChan_mon (c : Nat) (x : Chan) : (s.setChan c x).mon = s.mon := rfl
@[simp] theorem State.setChan_ports (c : Nat) (x : Chan) : (s.setChan c x).ports = s.ports := rfl
@[simp] theorem State.setChan_lxg (c : Nat) (x : Chan) : (s.setChan c x).lxg = s.lxg := rfl
@[simp] theorem State.setChan_dtm (c : Nat) (x : Chan) : (s.setChan c x).dtm = s.dtm := rfl
@[simp] theorem State.setChan_cmd (c : Nat) (x : Chan) : (s.setChan c x).cmd = s.cmd := rfl
@[simp] theorem State.setChan_flt (c : Nat) (x : Chan) : (s.setChan c x).flt = s.flt := rfl
@[simp] theorem State.setChan_clk (c : Nat) (x : Chan) : (s.setChan c x).clk = s.clk := rfl
@[simp] theorem State.setChan_pwr (c : Nat) (x : Chan) : (s.setChan c x).pwr = s.pwr := rfl
@[simp] theorem State.setChan_sec (c : Nat) (x : Chan) : (s.setChan c x).sec = s.sec := rfl
@[simp] theorem State.setChan_drbg (c : Nat) (x : Chan) : (s.setChan c x).drbg = s.drbg := rfl
@[simp] theorem State.setChan_nvm (c : Nat) (x : Chan) : (s.setChan c x).nvm = s.nvm := rfl
@[simp] theorem State.setChan_smb (c : Nat) (x : Chan) : (s.setChan c x).smb = s.smb := rfl
@[simp] theorem State.chan_setChan (c : Nat) (x : Chan) : (s.setChan c x).chan c = x := SMap.get_set_self _ _ _

@[simp] theorem State.cu_of_setChan (c : Nat) (x : Chan) (q m : Nat) : (s.setChan c x).cu q m = s.cu q m := rfl
@[simp] theorem State.mu_of_setChan (c : Nat) (x : Chan) (q m : Nat) : (s.setChan c x).mu q m = s.mu q m := rfl
@[simp] theorem State.sw_of_setChan (c : Nat) (x : Chan) (q m : Nat) : (s.setChan c x).sw q m = s.sw q m := rfl
@[simp] theorem State.plat_of_setChan (c : Nat) (x : Chan) (q : Nat) : (s.setChan c x).plat q = s.plat q := rfl
@[simp] theorem State.bmk_of_setChan (c : Nat) (x : Chan) (j : Nat) : (s.setChan c x).bmk j = s.bmk j := rfl
@[simp] theorem State.au_of_setChan (c : Nat) (x : Chan) (h : Nat) : (s.setChan c x).au h = s.au h := rfl
@[simp] theorem State.port_of_setChan (c : Nat) (x : Chan) (m : Nat) : (s.setChan c x).port m = s.port m := rfl
@[simp] theorem State.mg_of_setChan (c : Nat) (x : Chan) (h : Nat) : (s.setChan c x).mg h = s.mg h := rfl
@[simp] theorem State.slot_of_setChan (c : Nat) (x : Chan) (l : Nat) : (s.setChan c x).slot l = s.slot l := rfl

/-! `setMg` -/

@[simp] theorem State.setMg_pending (g : Nat) (x : Mg) : (s.setMg g x).pending = s.pending := rfl
@[simp] theorem State.setMg_out (g : Nat) (x : Mg) : (s.setMg g x).out = s.out := rfl
@[simp] theorem State.setMg_free (g : Nat) (x : Mg) : (s.setMg g x).free = s.free := rfl
@[simp] theorem State.setMg_img (g : Nat) (x : Mg) : (s.setMg g x).img = s.img := rfl
@[simp] theorem State.setMg_cfg (g : Nat) (x : Mg) : (s.setMg g x).cfg = s.cfg := rfl
@[simp] theorem State.setMg_adj (g : Nat) (x : Mg) : (s.setMg g x).adj = s.adj := rfl
@[simp] theorem State.setMg_cus (g : Nat) (x : Mg) : (s.setMg g x).cus = s.cus := rfl
@[simp] theorem State.setMg_mus (g : Nat) (x : Mg) : (s.setMg g x).mus = s.mus := rfl
@[simp] theorem State.setMg_sws (g : Nat) (x : Mg) : (s.setMg g x).sws = s.sws := rfl
@[simp] theorem State.setMg_plats (g : Nat) (x : Mg) : (s.setMg g x).plats = s.plats := rfl
@[simp] theorem State.setMg_bmks (g : Nat) (x : Mg) : (s.setMg g x).bmks = s.bmks := rfl
@[simp] theorem State.setMg_aus (g : Nat) (x : Mg) : (s.setMg g x).aus = s.aus := rfl
@[simp] theorem State.setMg_mon (g : Nat) (x : Mg) : (s.setMg g x).mon = s.mon := rfl
@[simp] theorem State.setMg_ports (g : Nat) (x : Mg) : (s.setMg g x).ports = s.ports := rfl
@[simp] theorem State.setMg_lxg (g : Nat) (x : Mg) : (s.setMg g x).lxg = s.lxg := rfl
@[simp] theorem State.setMg_dtm (g : Nat) (x : Mg) : (s.setMg g x).dtm = s.dtm := rfl
@[simp] theorem State.setMg_cmd (g : Nat) (x : Mg) : (s.setMg g x).cmd = s.cmd := rfl
@[simp] theorem State.setMg_flt (g : Nat) (x : Mg) : (s.setMg g x).flt = s.flt := rfl
@[simp] theorem State.setMg_clk (g : Nat) (x : Mg) : (s.setMg g x).clk = s.clk := rfl
@[simp] theorem State.setMg_pwr (g : Nat) (x : Mg) : (s.setMg g x).pwr = s.pwr := rfl
@[simp] theorem State.setMg_sec (g : Nat) (x : Mg) : (s.setMg g x).sec = s.sec := rfl
@[simp] theorem State.setMg_drbg (g : Nat) (x : Mg) : (s.setMg g x).drbg = s.drbg := rfl
@[simp] theorem State.setMg_nvm (g : Nat) (x : Mg) : (s.setMg g x).nvm = s.nvm := rfl
@[simp] theorem State.setMg_smb (g : Nat) (x : Mg) : (s.setMg g x).smb = s.smb := rfl
@[simp] theorem State.mg_setMg (g : Nat) (x : Mg) : (s.setMg g x).mg g = x := SMap.get_set_self _ _ _

@[simp] theorem State.cu_of_setMg (g : Nat) (x : Mg) (q m : Nat) : (s.setMg g x).cu q m = s.cu q m := rfl
@[simp] theorem State.mu_of_setMg (g : Nat) (x : Mg) (q m : Nat) : (s.setMg g x).mu q m = s.mu q m := rfl
@[simp] theorem State.sw_of_setMg (g : Nat) (x : Mg) (q m : Nat) : (s.setMg g x).sw q m = s.sw q m := rfl
@[simp] theorem State.plat_of_setMg (g : Nat) (x : Mg) (q : Nat) : (s.setMg g x).plat q = s.plat q := rfl
@[simp] theorem State.bmk_of_setMg (g : Nat) (x : Mg) (j : Nat) : (s.setMg g x).bmk j = s.bmk j := rfl
@[simp] theorem State.au_of_setMg (g : Nat) (x : Mg) (h : Nat) : (s.setMg g x).au h = s.au h := rfl
@[simp] theorem State.port_of_setMg (g : Nat) (x : Mg) (m : Nat) : (s.setMg g x).port m = s.port m := rfl
@[simp] theorem State.chan_of_setMg (g : Nat) (x : Mg) (e : Nat) : (s.setMg g x).chan e = s.chan e := rfl
@[simp] theorem State.slot_of_setMg (g : Nat) (x : Mg) (l : Nat) : (s.setMg g x).slot l = s.slot l := rfl

/-! `setSlot` -/

@[simp] theorem State.setSlot_pending (k : Nat) (x : Slot) : (s.setSlot k x).pending = s.pending := rfl
@[simp] theorem State.setSlot_out (k : Nat) (x : Slot) : (s.setSlot k x).out = s.out := rfl
@[simp] theorem State.setSlot_free (k : Nat) (x : Slot) : (s.setSlot k x).free = s.free := rfl
@[simp] theorem State.setSlot_img (k : Nat) (x : Slot) : (s.setSlot k x).img = s.img := rfl
@[simp] theorem State.setSlot_cfg (k : Nat) (x : Slot) : (s.setSlot k x).cfg = s.cfg := rfl
@[simp] theorem State.setSlot_adj (k : Nat) (x : Slot) : (s.setSlot k x).adj = s.adj := rfl
@[simp] theorem State.setSlot_cus (k : Nat) (x : Slot) : (s.setSlot k x).cus = s.cus := rfl
@[simp] theorem State.setSlot_mus (k : Nat) (x : Slot) : (s.setSlot k x).mus = s.mus := rfl
@[simp] theorem State.setSlot_sws (k : Nat) (x : Slot) : (s.setSlot k x).sws = s.sws := rfl
@[simp] theorem State.setSlot_plats (k : Nat) (x : Slot) : (s.setSlot k x).plats = s.plats := rfl
@[simp] theorem State.setSlot_bmks (k : Nat) (x : Slot) : (s.setSlot k x).bmks = s.bmks := rfl
@[simp] theorem State.setSlot_aus (k : Nat) (x : Slot) : (s.setSlot k x).aus = s.aus := rfl
@[simp] theorem State.setSlot_dram (k : Nat) (x : Slot) : (s.setSlot k x).dram = s.dram := rfl
@[simp] theorem State.setSlot_mon (k : Nat) (x : Slot) : (s.setSlot k x).mon = s.mon := rfl
@[simp] theorem State.setSlot_ports (k : Nat) (x : Slot) : (s.setSlot k x).ports = s.ports := rfl
@[simp] theorem State.setSlot_lxg (k : Nat) (x : Slot) : (s.setSlot k x).lxg = s.lxg := rfl
@[simp] theorem State.setSlot_dtm (k : Nat) (x : Slot) : (s.setSlot k x).dtm = s.dtm := rfl
@[simp] theorem State.setSlot_flt (k : Nat) (x : Slot) : (s.setSlot k x).flt = s.flt := rfl
@[simp] theorem State.setSlot_clk (k : Nat) (x : Slot) : (s.setSlot k x).clk = s.clk := rfl
@[simp] theorem State.setSlot_pwr (k : Nat) (x : Slot) : (s.setSlot k x).pwr = s.pwr := rfl
@[simp] theorem State.setSlot_sec (k : Nat) (x : Slot) : (s.setSlot k x).sec = s.sec := rfl
@[simp] theorem State.setSlot_drbg (k : Nat) (x : Slot) : (s.setSlot k x).drbg = s.drbg := rfl
@[simp] theorem State.setSlot_nvm (k : Nat) (x : Slot) : (s.setSlot k x).nvm = s.nvm := rfl
@[simp] theorem State.setSlot_smb (k : Nat) (x : Slot) : (s.setSlot k x).smb = s.smb := rfl
@[simp] theorem State.slot_setSlot (k : Nat) (x : Slot) : (s.setSlot k x).slot k = x := SMap.get_set_self _ _ _

@[simp] theorem State.cu_of_setSlot (k : Nat) (x : Slot) (q m : Nat) : (s.setSlot k x).cu q m = s.cu q m := rfl
@[simp] theorem State.mu_of_setSlot (k : Nat) (x : Slot) (q m : Nat) : (s.setSlot k x).mu q m = s.mu q m := rfl
@[simp] theorem State.sw_of_setSlot (k : Nat) (x : Slot) (q m : Nat) : (s.setSlot k x).sw q m = s.sw q m := rfl
@[simp] theorem State.plat_of_setSlot (k : Nat) (x : Slot) (q : Nat) : (s.setSlot k x).plat q = s.plat q := rfl
@[simp] theorem State.bmk_of_setSlot (k : Nat) (x : Slot) (j : Nat) : (s.setSlot k x).bmk j = s.bmk j := rfl
@[simp] theorem State.au_of_setSlot (k : Nat) (x : Slot) (h : Nat) : (s.setSlot k x).au h = s.au h := rfl
@[simp] theorem State.port_of_setSlot (k : Nat) (x : Slot) (m : Nat) : (s.setSlot k x).port m = s.port m := rfl
@[simp] theorem State.chan_of_setSlot (k : Nat) (x : Slot) (e : Nat) : (s.setSlot k x).chan e = s.chan e := rfl
@[simp] theorem State.mg_of_setSlot (k : Nat) (x : Slot) (h : Nat) : (s.setSlot k x).mg h = s.mg h := rfl

/-! `emit` -/

@[simp] theorem State.emit_pending (o : Out) : (s.emit o).pending = s.pending := rfl
@[simp] theorem State.emit_free (o : Out) : (s.emit o).free = s.free := rfl
@[simp] theorem State.emit_img (o : Out) : (s.emit o).img = s.img := rfl
@[simp] theorem State.emit_cfg (o : Out) : (s.emit o).cfg = s.cfg := rfl
@[simp] theorem State.emit_adj (o : Out) : (s.emit o).adj = s.adj := rfl
@[simp] theorem State.emit_cus (o : Out) : (s.emit o).cus = s.cus := rfl
@[simp] theorem State.emit_mus (o : Out) : (s.emit o).mus = s.mus := rfl
@[simp] theorem State.emit_sws (o : Out) : (s.emit o).sws = s.sws := rfl
@[simp] theorem State.emit_plats (o : Out) : (s.emit o).plats = s.plats := rfl
@[simp] theorem State.emit_bmks (o : Out) : (s.emit o).bmks = s.bmks := rfl
@[simp] theorem State.emit_aus (o : Out) : (s.emit o).aus = s.aus := rfl
@[simp] theorem State.emit_dram (o : Out) : (s.emit o).dram = s.dram := rfl
@[simp] theorem State.emit_mon (o : Out) : (s.emit o).mon = s.mon := rfl
@[simp] theorem State.emit_ports (o : Out) : (s.emit o).ports = s.ports := rfl
@[simp] theorem State.emit_lxg (o : Out) : (s.emit o).lxg = s.lxg := rfl
@[simp] theorem State.emit_dtm (o : Out) : (s.emit o).dtm = s.dtm := rfl
@[simp] theorem State.emit_cmd (o : Out) : (s.emit o).cmd = s.cmd := rfl
@[simp] theorem State.emit_flt (o : Out) : (s.emit o).flt = s.flt := rfl
@[simp] theorem State.emit_clk (o : Out) : (s.emit o).clk = s.clk := rfl
@[simp] theorem State.emit_pwr (o : Out) : (s.emit o).pwr = s.pwr := rfl
@[simp] theorem State.emit_sec (o : Out) : (s.emit o).sec = s.sec := rfl
@[simp] theorem State.emit_drbg (o : Out) : (s.emit o).drbg = s.drbg := rfl
@[simp] theorem State.emit_nvm (o : Out) : (s.emit o).nvm = s.nvm := rfl
@[simp] theorem State.emit_smb (o : Out) : (s.emit o).smb = s.smb := rfl

@[simp] theorem State.cu_of_emit (o : Out) (q m : Nat) : (s.emit o).cu q m = s.cu q m := rfl
@[simp] theorem State.mu_of_emit (o : Out) (q m : Nat) : (s.emit o).mu q m = s.mu q m := rfl
@[simp] theorem State.sw_of_emit (o : Out) (q m : Nat) : (s.emit o).sw q m = s.sw q m := rfl
@[simp] theorem State.plat_of_emit (o : Out) (q : Nat) : (s.emit o).plat q = s.plat q := rfl
@[simp] theorem State.bmk_of_emit (o : Out) (j : Nat) : (s.emit o).bmk j = s.bmk j := rfl
@[simp] theorem State.au_of_emit (o : Out) (h : Nat) : (s.emit o).au h = s.au h := rfl
@[simp] theorem State.port_of_emit (o : Out) (m : Nat) : (s.emit o).port m = s.port m := rfl
@[simp] theorem State.chan_of_emit (o : Out) (e : Nat) : (s.emit o).chan e = s.chan e := rfl
@[simp] theorem State.mg_of_emit (o : Out) (h : Nat) : (s.emit o).mg h = s.mg h := rfl
@[simp] theorem State.slot_of_emit (o : Out) (l : Nat) : (s.emit o).slot l = s.slot l := rfl

/-! Another unit keeps its contents -/

theorem State.cu_setCu_ne (p n q m : Nat) (x : Cu) (h : unitKey q m ≠ unitKey p n) : (s.setCu p n x).cu q m = s.cu q m :=
  SMap.get_set_ne _ _ h
theorem State.mu_setMu_ne (p n q m : Nat) (x : Mu) (h : unitKey q m ≠ unitKey p n) : (s.setMu p n x).mu q m = s.mu q m :=
  SMap.get_set_ne _ _ h
theorem State.sw_setSw_ne (p n q m : Nat) (x : Sw) (h : siteKey q m ≠ siteKey p n) : (s.setSw p n x).sw q m = s.sw q m :=
  SMap.get_set_ne _ _ h
theorem State.plat_setPlat_ne (p q : Nat) (x : Plat) (h : q ≠ p) : (s.setPlat p x).plat q = s.plat q := SMap.get_set_ne _ _ h
theorem State.bmk_setBmk_ne (i j : Nat) (x : Bmk) (h : j ≠ i) : (s.setBmk i x).bmk j = s.bmk j := SMap.get_set_ne _ _ h
theorem State.au_setAu_ne (g h : Nat) (x : Au) (e : h ≠ g) : (s.setAu g x).au h = s.au h := SMap.get_set_ne _ _ e
theorem State.port_setPort_ne (n m : Nat) (x : Port) (h : m ≠ n) : (s.setPort n x).port m = s.port m := SMap.get_set_ne _ _ h

/-- Units of different plats, and different units of a plat, have different keys. -/
theorem unitKey_inj {p q : Fin 4} {n m : Fin 256} : unitKey p n = unitKey q m ↔ p = q ∧ n = m := by
  unfold unitKey
  constructor
  · intro h
    have := n.isLt
    have := m.isLt
    exact ⟨Fin.ext (by omega), Fin.ext (by omega)⟩
  · rintro ⟨rfl, rfl⟩
    rfl

theorem siteKey_inj {p q : Fin 4} {n m : Fin 512} : siteKey p n = siteKey q m ↔ p = q ∧ n = m := by
  unfold siteKey
  constructor
  · intro h
    have := n.isLt
    have := m.isLt
    exact ⟨Fin.ext (by omega), Fin.ext (by omega)⟩
  · rintro ⟨rfl, rfl⟩
    rfl

/-! Writing twice -/

theorem SMap.erase_ins {α : Type} (m : SMap α) (k : Nat) (v : α) (h : ∀ e ∈ m, e.1 ≠ k) : SMap.erase (SMap.ins m k v) k = m := by
  induction m with
  | nil => simp [SMap.ins, SMap.erase]
  | cons f t ih =>
    have hf := h f List.mem_cons_self
    have ht := fun e he => h e (List.mem_cons_of_mem f he)
    have he : (f :: t).filter (fun e => e.1 != k) = f :: t := List.filter_eq_self.2 (fun e he => by simpa using h e he)
    simp only [SMap.ins]
    split
    · simpa [SMap.erase] using he
    · have := ih ht
      simp only [SMap.erase] at this ⊢
      simp [hf, this]

theorem SMap.erase_erase {α : Type} (m : SMap α) (k : Nat) : SMap.erase (SMap.erase m k) k = SMap.erase m k := by
  simp [SMap.erase]

/-- The second write of a key stands. -/
@[simp] theorem SMap.set_set {α : Type} [DecidableEq α] (d : α) (m : SMap α) (k : Nat) (v w : α) :
    SMap.set d (SMap.set d m k v) k w = SMap.set d m k w := by
  have h : SMap.erase (SMap.set d m k v) k = SMap.erase m k := by
    unfold SMap.set
    split
    · exact SMap.erase_erase m k
    · refine SMap.erase_ins _ _ _ (fun e he => ?_)
      simp [SMap.erase] at he
      exact he.2
  simp only [SMap.set, h] at h ⊢

@[simp] theorem State.setCu_setCu (p n : Nat) (x y : Cu) : (s.setCu p n x).setCu p n y = s.setCu p n y := by simp [State.setCu]
@[simp] theorem State.setMu_setMu (p n : Nat) (x y : Mu) : (s.setMu p n x).setMu p n y = s.setMu p n y := by simp [State.setMu]
@[simp] theorem State.setSw_setSw (p n : Nat) (x y : Sw) : (s.setSw p n x).setSw p n y = s.setSw p n y := by simp [State.setSw]
@[simp] theorem State.setPlat_setPlat (p : Nat) (x y : Plat) : (s.setPlat p x).setPlat p y = s.setPlat p y := by
  simp [State.setPlat]
@[simp] theorem State.setAu_setAu (g : Nat) (x y : Au) : (s.setAu g x).setAu g y = s.setAu g y := by simp [State.setAu]
@[simp] theorem State.setPort_setPort (n : Nat) (x y : Port) : (s.setPort n x).setPort n y = s.setPort n y := by
  simp [State.setPort]
@[simp] theorem State.setSlot_setSlot (k : Nat) (x y : Slot) : (s.setSlot k x).setSlot k y = s.setSlot k y := by
  simp [State.setSlot]

end Sys2Proof.Machine
end

