-- ==== Sys2Proof/Laws/Frames.lean ====
section
/-! SUPPORT. What completing, answering, sending and recording leave alone: everything but the messages sent, the ports,
the command block and the fault records. One lemma per shared operation. -/
namespace Sys2Proof.Machine

/-- t is s but for what it has sent, its ports, its orders and slots, and its fault records; a step failed or under way
stays so. -/
structure Reports (s t : State) : Prop where
  same : { t with out := s.out, ports := s.ports, cmd := s.cmd, flt := s.flt, drbg := s.drbg } = s
  stepState : t.flt.stepState = s.flt.stepState
  restarting : t.flt.restarting = s.flt.restarting
  fence : t.flt.fence = s.flt.fence

theorem Reports.refl (s : State) : Reports s s := ⟨rfl, rfl, rfl, rfl⟩

theorem Reports.trans {r s t : State} (h : Reports r s) (k : Reports s t) : Reports r t := by
  refine ⟨?_, k.stepState.trans h.stepState, k.restarting.trans h.restarting, k.fence.trans h.fence⟩
  have hk := congrArg (fun x : State => { x with out := r.out, ports := r.ports, cmd := r.cmd, flt := r.flt, drbg := r.drbg }) k.same
  exact hk.trans h.same

theorem Reports.foldl {α : Type} (f : State → α → State) (h : ∀ s a, Reports s (f s a)) (l : List α) (s : State) :
    Reports s (l.foldl f s) := by
  induction l generalizing s with
  | nil => exact .refl s
  | cons a t ih => exact (h s a).trans (ih _)

section
variable {s t : State} (h : Reports s t)
include h
theorem Reports.img : t.img = s.img := by
  have e := congrArg State.img h.same; exact e
theorem Reports.cfg : t.cfg = s.cfg := by
  have e := congrArg State.cfg h.same; exact e
theorem Reports.adj : t.adj = s.adj := by
  have e := congrArg State.adj h.same; exact e
theorem Reports.cus : t.cus = s.cus := by
  have e := congrArg State.cus h.same; exact e
theorem Reports.mus : t.mus = s.mus := by
  have e := congrArg State.mus h.same; exact e
theorem Reports.sws : t.sws = s.sws := by
  have e := congrArg State.sws h.same; exact e
theorem Reports.plats : t.plats = s.plats := by
  have e := congrArg State.plats h.same; exact e
theorem Reports.bmks : t.bmks = s.bmks := by
  have e := congrArg State.bmks h.same; exact e
theorem Reports.aus : t.aus = s.aus := by
  have e := congrArg State.aus h.same; exact e
theorem Reports.dram : t.dram = s.dram := by
  have e := congrArg State.dram h.same; exact e
theorem Reports.mon : t.mon = s.mon := by
  have e := congrArg State.mon h.same; exact e
theorem Reports.lxg : t.lxg = s.lxg := by
  have e := congrArg State.lxg h.same; exact e
theorem Reports.dtm : t.dtm = s.dtm := by
  have e := congrArg State.dtm h.same; exact e
theorem Reports.clk : t.clk = s.clk := by
  have e := congrArg State.clk h.same; exact e
theorem Reports.pwr : t.pwr = s.pwr := by
  have e := congrArg State.pwr h.same; exact e
theorem Reports.sec : t.sec = s.sec := by
  have e := congrArg State.sec h.same; exact e
theorem Reports.nvm : t.nvm = s.nvm := by
  have e := congrArg State.nvm h.same; exact e
theorem Reports.smb : t.smb = s.smb := by
  have e := congrArg State.smb h.same; exact e
theorem Reports.pending : t.pending = s.pending := by
  have e := congrArg State.pending h.same; exact e
theorem Reports.free : t.free = s.free := by
  have e := congrArg State.free h.same; exact e
theorem Reports.plat (p : Nat) : t.plat p = s.plat p := by simp [State.plat, h.plats]
theorem Reports.cu (p n : Nat) : t.cu p n = s.cu p n := by simp [State.cu, h.cus]
theorem Reports.mu (p n : Nat) : t.mu p n = s.mu p n := by simp [State.mu, h.mus]
theorem Reports.sw (p n : Nat) : t.sw p n = s.sw p n := by simp [State.sw, h.sws]
theorem Reports.bmk (i : Nat) : t.bmk i = s.bmk i := by simp [State.bmk, h.bmks]
theorem Reports.au (g : Nat) : t.au g = s.au g := by simp [State.au, h.aus]
end

theorem State.emit_reports (s : State) (o : Out) : Reports s (s.emit o) := ⟨rfl, rfl, rfl, rfl⟩
theorem State.setPort_reports (s : State) (n : Nat) (x : Port) : Reports s (s.setPort n x) := ⟨rfl, rfl, rfl, rfl⟩
theorem State.setSlot_reports (s : State) (n : Nat) (x : Slot) : Reports s (s.setSlot n x) := ⟨rfl, rfl, rfl, rfl⟩

theorem State.drbgDraw_reports (s : State) (len : Nat) : Reports s (s.drbgDraw len).2 := ⟨rfl, rfl, rfl, rfl⟩

theorem State.queueAnnounce_reports (s : State) (n : Nat) : Reports s (s.queueAnnounce n) := by
  unfold State.queueAnnounce
  split
  · exact .refl s
  · exact ((s.drbgDraw_reports 32).trans (State.drbgDraw_reports _ 64)).trans (State.setPort_reports _ _ _)

theorem State.rekeyIfDue_reports (s : State) (n : Nat) : Reports s (s.rekeyIfDue n) := by
  unfold State.rekeyIfDue
  split
  · exact (s.setPort_reports _ _).trans (State.queueAnnounce_reports _ _)
  · exact .refl s

theorem State.emitFlits_reports (s : State) (n : Nat) (fs : List Flit) : Reports s (s.emitFlits n fs) := ⟨rfl, rfl, rfl, rfl⟩

theorem State.startOn_reports (s : State) (n : Nat) (t : Trans) (d : List Nat) : Reports s (s.startOn n t d) := by
  unfold State.startOn
  dsimp only
  exact (((s.setPort_reports _ _).trans (State.emit_reports _ _)).trans (State.emitFlits_reports _ _ _)).trans
    (State.rekeyIfDue_reports _ _)

theorem pump_reports (n fuel : Nat) (s : State) : Reports s (pump n fuel s) := by
  induction fuel generalizing s with
  | zero => exact .refl s
  | succ k ih =>
    unfold pump
    dsimp only
    split
    · exact (s.startOn_reports _ _ _).trans (ih _)
    · split
      · exact (s.startOn_reports _ _ _).trans (ih _)
      · exact .refl s

theorem State.pumpPort_reports (s : State) (n : Nat) : Reports s (s.pumpPort n) := pump_reports _ _ _
theorem State.put_reports (s : State) (n : Nat) (t : Trans) : Reports s (s.put n t) :=
  (s.setPort_reports _ _).trans (State.pumpPort_reports _ _)

theorem State.trySend_reports (s : State) (t : Trans) : Reports s (s.trySend t).1 := by
  unfold State.trySend
  split
  · exact .refl s
  · split
    · exact s.put_reports _ _
    · exact .refl s

theorem State.putOn_reports (s : State) (n : Nat) (t : Trans) : Reports s (s.putOn n t) :=
  (s.setPort_reports _ _).trans (State.put_reports _ _ _)

theorem State.flood_reports (s : State) (e : Option Nat) (t : Trans) : Reports s (s.flood e t) :=
  Reports.foldl _ (fun s n => by
    split
    · exact s.putOn_reports n t
    · exact s.put_reports n t) _ s

theorem Flt.push_step (f : Flt) (r : FaultRec) : (f.push r).stepState = f.stepState ∧
    (f.push r).restarting = f.restarting ∧ (f.push r).fence = f.fence := by
  unfold Flt.push
  dsimp only
  repeat' split
  all_goals exact ⟨rfl, rfl, rfl⟩

theorem Flt.merge_step {f g : Flt} {c : FClass} {code : Code} {kind inst : Nat} {now : W64}
    (h : f.merge c code kind inst now = some g) :
    g.stepState = f.stepState ∧ g.restarting = f.restarting ∧ g.fence = f.fence := by
  unfold Flt.merge at h
  split at h
  · cases h
  · split at h
    · cases h
    · cases h; exact ⟨rfl, rfl, rfl⟩

theorem Flt.count_step (f : Flt) (c : FClass) : (f.count c).stepState = f.stepState ∧
    (f.count c).restarting = f.restarting ∧ (f.count c).fence = f.fence := by
  cases c <;> exact ⟨rfl, rfl, rfl⟩

/-- The step part of a record file stands as in f. -/
def Flt.StepAs (f g : Flt) : Prop := g.stepState = f.stepState ∧ g.restarting = f.restarting ∧ g.fence = f.fence

theorem Flt.StepAs.trans {f g h : Flt} (a : f.StepAs g) (b : g.StepAs h) : f.StepAs h :=
  ⟨b.1.trans a.1, b.2.1.trans a.2.1, b.2.2.trans a.2.2⟩

theorem State.logFault_flt (s : State) (c : FClass) (code : Code) (kind inst : Nat) (d : W64) :
    s.flt.StepAs (s.logFault c code kind inst d).flt := by
  unfold State.logFault
  dsimp only
  generalize (c == .cont && s.adj.inStep && !s.flt.first.valid) = latch
  have hl : s.flt.StepAs (if latch = true then { s.flt.count c with first := { code := code, srcKind := kind, srcInst := inst, valid := true } }
      else s.flt.count c) := by
    split <;> exact Flt.count_step s.flt c
  generalize (if latch = true then { s.flt.count c with first := { code := code, srcKind := kind, srcInst := inst, valid := true } }
      else s.flt.count c) = f at hl
  split
  · rename_i g hm; exact hl.trans (Flt.merge_step hm)
  · exact hl.trans (Flt.push_step _ _)

theorem State.logFault_reports (s : State) (c : FClass) (code : Code) (kind inst : Nat) (d : W64) :
    Reports s (s.logFault c code kind inst d) :=
  have h := s.logFault_flt c code kind inst d
  ⟨rfl, h.1, h.2.1, h.2.2⟩

theorem State.logPort_reports (s : State) (c : FClass) (code : Code) (n : Nat) : Reports s (s.logPort c code n) :=
  s.logFault_reports _ _ _ _ _

theorem State.sendQuiet_reports (s : State) (t : Trans) : Reports s (s.sendQuiet t) := by
  have h := s.trySend_reports t
  unfold State.sendQuiet
  split
  · rename_i x hx; rw [hx] at h; exact h
  · rename_i x c hx; rw [hx] at h; exact h.trans (State.logPort_reports _ _ _ _)

theorem State.sendCpl_reports (s : State) (a : Arrival) (c : Cpl) : Reports s (s.sendCpl a c) := by
  unfold State.sendCpl
  dsimp only
  repeat' split
  all_goals first | exact .refl s | exact s.sendQuiet_reports _ | exact ⟨rfl, rfl, rfl, rfl⟩

theorem State.finish_reports (s : State) (w : CmdWord) (a : Arrival) (r : Reply) : Reports s (s.finish w a r) := by
  unfold State.finish
  dsimp only
  split
  · exact (s.setSlot_reports _ _).trans (State.sendCpl_reports _ _ _)
  · exact State.sendCpl_reports _ _ _

theorem State.missRecord_reports (s : State) (h : Held) : Reports s (s.missRecord h) := by
  unfold State.missRecord
  split
  · exact s.logFault_reports _ _ _ _ _
  · exact .refl s

theorem State.complete_reports (s : State) (id : Nat) (r : Reply) : Reports s (s.complete id r) := by
  unfold State.complete
  split
  · exact .refl s
  · rename_i h _
    have e : Reports s { s with cmd := { s.cmd with held := s.cmd.held.filter (fun x => x.id != id) } } := ⟨rfl, rfl, rfl, rfl⟩
    exact (e.trans (State.missRecord_reports _ _)).trans (State.finish_reports _ _ _ _)

theorem State.completeAll_reports (s : State) (op : W16) (f : Nat → Bool) (r : Reply) :
    Reports s (s.completeAll op f r) := Reports.foldl _ (fun s _ => s.complete_reports _ r) _ s

theorem State.admission_reports (s : State) (a : Arrival) (c : Code) : Reports s (s.admission a c) := by
  unfold State.admission
  repeat' split
  all_goals first | exact .refl s | exact s.sendQuiet_reports _ | exact ⟨rfl, rfl, rfl, rfl⟩

theorem State.waitReply_reports (s : State) (src : BmkSrc) (c : Code) (v : W32) : Reports s (s.waitReply src c v) := by
  unfold State.waitReply
  repeat' split
  all_goals first | exact .refl s | exact s.complete_reports _ _ | exact s.sendQuiet_reports _ | exact s.emit_reports _

theorem State.bmkReply_reports (s : State) (src : BmkSrc) (c : Code) (v : W64) (o : List Byte) :
    Reports s (s.bmkReply src c v o) := by
  unfold State.bmkReply
  split
  · exact s.sendQuiet_reports _
  · exact s.emit_reports _

/-- A corrected error or a status is recorded and does nothing else (R397, R398). -/
theorem State.raise_corr_reports (s : State) (code : Code) (kind inst : Nat) (d : W64) :
    Reports s (s.raise .corr code kind inst d) := s.logFault_reports _ _ _ _ _
theorem State.raise_stat_reports (s : State) (code : Code) (kind inst : Nat) (d : W64) :
    Reports s (s.raise .stat code kind inst d) := s.logFault_reports _ _ _ _ _

/-- t is s but for messages, orders, records, the adjustment's own file and the list of requests in flight: what a
contained fault can touch (R403, R404). -/
def Contained (s t : State) : Prop :=
  { t with out := s.out, ports := s.ports, cmd := s.cmd, flt := s.flt, adj := s.adj, lxg := s.lxg, drbg := s.drbg } = s

theorem Contained.trans {r s t : State} (h : Contained r s) (k : Contained s t) : Contained r t := by
  have hk := congrArg (fun x : State =>
    { x with out := r.out, ports := r.ports, cmd := r.cmd, flt := r.flt, adj := r.adj, lxg := r.lxg, drbg := r.drbg }) k
  exact hk.trans h

theorem Contained.adjSet {s t : State} (h : Contained s t) (a : Adj) : Contained s { t with adj := a } := h

theorem Reports.contained {s t : State} (h : Reports s t) : Contained s t := by
  have hk := congrArg (fun x : State => { x with adj := s.adj, lxg := s.lxg }) h.same
  exact hk

section
variable {s t : State} (h : Contained s t)
include h
theorem Contained.img : t.img = s.img := by
  have e := congrArg State.img h; exact e
theorem Contained.cfg : t.cfg = s.cfg := by
  have e := congrArg State.cfg h; exact e
theorem Contained.cus : t.cus = s.cus := by
  have e := congrArg State.cus h; exact e
theorem Contained.mus : t.mus = s.mus := by
  have e := congrArg State.mus h; exact e
theorem Contained.sws : t.sws = s.sws := by
  have e := congrArg State.sws h; exact e
theorem Contained.plats : t.plats = s.plats := by
  have e := congrArg State.plats h; exact e
theorem Contained.bmks : t.bmks = s.bmks := by
  have e := congrArg State.bmks h; exact e
theorem Contained.aus : t.aus = s.aus := by
  have e := congrArg State.aus h; exact e
theorem Contained.dram : t.dram = s.dram := by
  have e := congrArg State.dram h; exact e
theorem Contained.mon : t.mon = s.mon := by
  have e := congrArg State.mon h; exact e
theorem Contained.dtm : t.dtm = s.dtm := by
  have e := congrArg State.dtm h; exact e
theorem Contained.clk : t.clk = s.clk := by
  have e := congrArg State.clk h; exact e
theorem Contained.pwr : t.pwr = s.pwr := by
  have e := congrArg State.pwr h; exact e
theorem Contained.sec : t.sec = s.sec := by
  have e := congrArg State.sec h; exact e
theorem Contained.nvm : t.nvm = s.nvm := by
  have e := congrArg State.nvm h; exact e
theorem Contained.smb : t.smb = s.smb := by
  have e := congrArg State.smb h; exact e
theorem Contained.pending : t.pending = s.pending := by
  have e := congrArg State.pending h; exact e
end

theorem State.sendNorm_contained (s : State) (r : NormRec) : Contained s (s.sendNorm r) := by
  unfold State.sendNorm
  generalize s.cfg.plan.seals.filter (fun e => e.dev != s.cfg.plan.dev) = l
  induction l generalizing s with
  | nil => exact rfl
  | cons a l ih =>
    rw [List.foldl_cons]
    refine Contained.trans ?_ (ih _)
    have h := (s.trySend_reports { src := s.ownSrc, dst := BitVec.ofNat 16 a.dev, tag := 0, array := true
                                   body := .norm r }).contained
    dsimp only
    generalize (s.trySend { src := s.ownSrc, dst := BitVec.ofNat 16 a.dev, tag := 0, array := true
                            body := .norm r }) = x at h
    split
    · exact h
    · rename_i c _
      have hk := h.adjSet { x.1.adj with kFault := true }
      generalize { x.1 with adj := { x.1.adj with kFault := true } } = y at hk
      exact hk.trans (y.logPort_reports .cont c _).contained

theorem State.sendFail_contained (s : State) : Contained s s.sendFail := by
  unfold State.sendFail
  dsimp only
  repeat' split
  · exact rfl
  all_goals exact Contained.trans (Contained.adjSet (rfl : Contained s s) _) (State.sendNorm_contained _ _)

theorem State.enterFailed_contained (s : State) : Contained s s.enterFailed := by
  unfold State.enterFailed
  dsimp only
  have h : Contained s (if s.adj.inStep then s.sendFail else s) := by
    split
    · exact s.sendFail_contained
    · exact rfl
  generalize (if s.adj.inStep then s.sendFail else s) = t at h
  exact Contained.trans h rfl

theorem State.raise_cont_contained (s : State) (code : Code) (kind inst : Nat) (d : W64) :
    Contained s (s.raise .cont code kind inst d) := by
  unfold State.raise
  dsimp only
  refine ((s.logFault_reports .cont code kind inst d).contained).trans ?_
  generalize s.logFault .cont code kind inst d = t
  unfold State.stepFail
  split
  · exact Contained.trans (Contained.adjSet (rfl : Contained t t) _) (State.enterFailed_contained _)
  · exact rfl

/-- Cancelling the orders of class 0 leaves all but the command block alone, and no step waits to start. -/
theorem State.cancelClass0_reports (s : State) :
    Reports { s with adj := { s.adj with nextStart := none } } s.cancelClass0 :=
  Reports.foldl _ (fun s _ => s.complete_reports _ _) _ _

end Sys2Proof.Machine
end

