-- ==== Sys2Proof/Laws/Keeps.lean ====
section
/-! SUPPORT. What every meaning leaves true of the state it starts from: the queue stays, canonical form and bounds stay,
anti-rollback counters and the output never go back. One lemma per operation, in the files that follow. -/
namespace Sys2Proof.Machine

/-- What state t keeps of state r. -/
structure Keeps (r t : State) : Prop where
  pending : t.pending = r.pending
  out : ∃ l, t.out = r.out ++ l
  free : r.free ≤ t.free
  cus : SMap.wf {} r.cus = true → SMap.wf {} t.cus = true
  mus : SMap.wf {} r.mus = true → SMap.wf {} t.mus = true
  sws : SMap.wf {} r.sws = true → SMap.wf {} t.sws = true
  plats : SMap.wf {} r.plats = true → SMap.wf {} t.plats = true
  bmks : SMap.wf {} r.bmks = true → SMap.wf {} t.bmks = true
  aus : SMap.wf {} r.aus = true → SMap.wf {} t.aus = true
  ports : SMap.wf {} r.ports = true → SMap.wf {} t.ports = true
  mem : Memory.wf r.dram.mem = true → Memory.wf t.dram.mem = true
  buf : Memory.wf r.sec.buf = true → Memory.wf t.sec.buf = true
  sram : (∀ e ∈ r.mus, Memory.wf e.2.sram = true) → ∀ e ∈ t.mus, Memory.wf e.2.sram = true
  fsf : r.sec.fsfSvn.toNat ≤ t.sec.fsfSvn.toNat
  pcf : r.sec.pcfSvn.toNat ≤ t.sec.pcfSvn.toNat
  img : r.sec.imgSvn.toNat ≤ t.sec.imgSvn.toNat
  key : r.sec.fwkeyMin.toNat ≤ t.sec.fwkeyMin.toNat
  held : ∀ n, n + 2 ^ 34 ≤ 2 ^ 64 → r.sec.svnsHeld n → t.sec.svnsHeld n
  buffer : r.flt.buffer.length ≤ 256 → t.flt.buffer.length ≤ 256
  notices : r.cmd.notices.length ≤ 64 → t.cmd.notices.length ≤ 64

theorem Keeps.refl (r : State) : Keeps r r :=
  { pending := rfl, out := ⟨[], by simp⟩, free := Nat.le_refl _, cus := id, mus := id, sws := id, plats := id, bmks := id
    aus := id, ports := id, mem := id, buf := id, sram := id, fsf := Nat.le_refl _, pcf := Nat.le_refl _
    img := Nat.le_refl _, key := Nat.le_refl _, held := fun _ _ x => x, buffer := id, notices := id }

theorem Keeps.trans {r s t : State} (h : Keeps r s) (k : Keeps s t) : Keeps r t :=
  { pending := k.pending.trans h.pending
    out := by
      obtain ⟨l, hl⟩ := h.out; obtain ⟨m, hm⟩ := k.out
      exact ⟨l ++ m, by rw [hm, hl, List.append_assoc]⟩
    free := Nat.le_trans h.free k.free, cus := fun x => k.cus (h.cus x), mus := fun x => k.mus (h.mus x)
    sws := fun x => k.sws (h.sws x), plats := fun x => k.plats (h.plats x), bmks := fun x => k.bmks (h.bmks x)
    aus := fun x => k.aus (h.aus x), ports := fun x => k.ports (h.ports x), mem := fun x => k.mem (h.mem x)
    buf := fun x => k.buf (h.buf x), sram := fun x => k.sram (h.sram x), fsf := Nat.le_trans h.fsf k.fsf
    pcf := Nat.le_trans h.pcf k.pcf, img := Nat.le_trans h.img k.img, key := Nat.le_trans h.key k.key
    held := fun n l x => k.held n l (h.held n l x)
    buffer := fun x => k.buffer (h.buffer x), notices := fun x => k.notices (h.notices x) }

/-- A change of fields that `Keeps` does not speak of. -/
theorem Keeps.rest {r s t : State} (h : Keeps r s)
    (e : (t.pending, t.out, t.free, t.cus, t.mus, t.sws, t.plats) = (s.pending, s.out, s.free, s.cus, s.mus, s.sws, s.plats))
    (f : (t.bmks, t.aus, t.ports, t.dram.mem, t.sec.buf) = (s.bmks, s.aus, s.ports, s.dram.mem, s.sec.buf))
    (g : (t.sec.fsfSvn, t.sec.pcfSvn, t.sec.imgSvn, t.sec.fwkeyMin, t.flt.buffer, t.cmd.notices, t.sec.mram.svns) =
      (s.sec.fsfSvn, s.sec.pcfSvn, s.sec.imgSvn, s.sec.fwkeyMin, s.flt.buffer, s.cmd.notices, s.sec.mram.svns)) :
    Keeps r t := by
  simp only [Prod.mk.injEq] at e f g
  obtain ⟨e1, e2, e3, e4, e5, e6, e7⟩ := e
  obtain ⟨f1, f2, f3, f4, f5⟩ := f
  obtain ⟨g1, g2, g3, g4, g5, g6, g7⟩ := g
  have g8 : t.sec.svns = s.sec.svns := by unfold Sec.svns; rw [g1, g2, g3, g4]
  refine ⟨?_, ?_, ?_, ?_, ?_, ?_, ?_, ?_, ?_, ?_, ?_, ?_, ?_, ?_, ?_, ?_, ?_, ?_, ?_, ?_⟩ <;>
    simp only [e1, e2, e3, e4, e5, e6, e7, f1, f2, f3, f4, f5, g1, g2, g3, g4, g5, g6, Sec.svnsHeld, g7, g8]
  · exact h.pending
  · exact h.out
  · exact h.free
  · exact h.cus
  · exact h.mus
  · exact h.sws
  · exact h.plats
  · exact h.bmks
  · exact h.aus
  · exact h.ports
  · exact h.mem
  · exact h.buf
  · exact h.sram
  · exact h.fsf
  · exact h.pcf
  · exact h.img
  · exact h.key
  · exact h.held
  · exact h.buffer
  · exact h.notices

theorem Keeps.ite {r a b : State} {c : Prop} [Decidable c] (ha : Keeps r a) (hb : Keeps r b) :
    Keeps r (if c then a else b) := by split <;> assumption

theorem Keeps.foldl {r : State} {α : Type} (f : State → α → State) (hf : ∀ u a, Keeps r u → Keeps r (f u a)) :
    ∀ (l : List α) (s : State), Keeps r s → Keeps r (l.foldl f s)
  | [], _, h => h
  | a :: l, s, h => Keeps.foldl f hf l (f s a) (hf s a h)

theorem Keeps.foldl2 {r : State} {α β : Type} (f : β × State → α → β × State)
    (hf : ∀ u a, Keeps r u.2 → Keeps r (f u a).2) :
    ∀ (l : List α) (s : β × State), Keeps r s.2 → Keeps r (l.foldl f s).2
  | [], _, h => h
  | a :: l, s, h => Keeps.foldl2 f hf l (f s a) (hf s a h)

theorem Keeps.foldl3 {r : State} {α β γ : Type} (f : β × γ × State → α → β × γ × State)
    (hf : ∀ u a, Keeps r u.2.2 → Keeps r (f u a).2.2) :
    ∀ (l : List α) (s : β × γ × State), Keeps r s.2.2 → Keeps r (l.foldl f s).2.2
  | [], _, h => h
  | a :: l, s, h => Keeps.foldl3 f hf l (f s a) (hf s a h)

/-- A record update of fields that `Keeps` does not speak of, and of parts of fields it does. -/
theorem Keeps.made {r s : State} {img cfg adj dram mon lxg dtm cmd flt clk pwr sec drbg nvm smb} (h : Keeps r s)
    (e1 : dram.mem = s.dram.mem) (e2 : sec.buf = s.sec.buf) (e3 : sec.fsfSvn = s.sec.fsfSvn) (e4 : sec.pcfSvn = s.sec.pcfSvn)
    (e5 : sec.imgSvn = s.sec.imgSvn) (e6 : sec.fwkeyMin = s.sec.fwkeyMin) (e7 : flt.buffer = s.flt.buffer)
    (e8 : cmd.notices = s.cmd.notices) (e9 : sec.mram.svns = s.sec.mram.svns) :
    Keeps r { pending := s.pending, out := s.out, free := s.free, img := img, cfg := cfg, adj := adj, cus := s.cus
              mus := s.mus, sws := s.sws, plats := s.plats, bmks := s.bmks, aus := s.aus, dram := dram, mon := mon
              ports := s.ports, lxg := lxg, dtm := dtm, cmd := cmd, flt := flt, clk := clk, pwr := pwr, sec := sec
              drbg := drbg, nvm := nvm, smb := smb } :=
  h.rest rfl (by rw [e1, e2]) (by rw [e3, e4, e5, e6, e7, e8, e9])

/-- The same, with arrays that change as a whole. -/
theorem Keeps.mapped {r s : State} {img cfg adj cus mus sws plats bmks aus ports dram mon lxg dtm cmd flt clk pwr sec drbg nvm smb}
    (h : Keeps r s) (h1 : SMap.wf {} s.cus = true → SMap.wf {} cus = true) (h2 : SMap.wf {} s.mus = true → SMap.wf {} mus = true)
    (h3 : SMap.wf {} s.sws = true → SMap.wf {} sws = true) (h4 : SMap.wf {} s.plats = true → SMap.wf {} plats = true)
    (h0 : SMap.wf {} s.bmks = true → SMap.wf {} bmks = true)
    (h5 : SMap.wf {} s.aus = true → SMap.wf {} aus = true) (h6 : SMap.wf {} s.ports = true → SMap.wf {} ports = true)
    (h7 : (∀ e ∈ s.mus, Memory.wf e.2.sram = true) → ∀ e ∈ mus, Memory.wf e.2.sram = true)
    (e1 : Memory.wf s.dram.mem = true → Memory.wf dram.mem = true) (e2 : sec.buf = s.sec.buf)
    (e3 : sec.fsfSvn = s.sec.fsfSvn) (e4 : sec.pcfSvn = s.sec.pcfSvn)
    (e5 : sec.imgSvn = s.sec.imgSvn) (e6 : sec.fwkeyMin = s.sec.fwkeyMin) (e7 : flt.buffer = s.flt.buffer)
    (e8 : cmd.notices = s.cmd.notices) (e9 : sec.mram.svns = s.sec.mram.svns) :
    Keeps r { pending := s.pending, out := s.out, free := s.free, img := img, cfg := cfg, adj := adj, cus := cus
              mus := mus, sws := sws, plats := plats, bmks := bmks, aus := aus, dram := dram, mon := mon
              ports := ports, lxg := lxg, dtm := dtm, cmd := cmd, flt := flt, clk := clk, pwr := pwr, sec := sec
              drbg := drbg, nvm := nvm, smb := smb } :=
  { pending := h.pending, out := h.out, free := h.free, cus := fun x => h1 (h.cus x), mus := fun x => h2 (h.mus x)
    sws := fun x => h3 (h.sws x), plats := fun x => h4 (h.plats x), bmks := fun x => h0 (h.bmks x), aus := fun x => h5 (h.aus x)
    ports := fun x => h6 (h.ports x), mem := fun x => e1 (h.mem x), buf := fun x => by show Memory.wf sec.buf = true; rw [e2]; exact h.buf x
    sram := fun x => h7 (h.sram x), fsf := by show _ ≤ sec.fsfSvn.toNat; rw [e3]; exact h.fsf
    pcf := by show _ ≤ sec.pcfSvn.toNat; rw [e4]; exact h.pcf
    img := by show _ ≤ sec.imgSvn.toNat; rw [e5]; exact h.img
    key := by show _ ≤ sec.fwkeyMin.toNat; rw [e6]; exact h.key
    held := fun n l x => by
      have g8 : sec.svns = s.sec.svns := by unfold Sec.svns; rw [e3, e4, e5, e6]
      show sec.svnsHeld n
      simp only [Sec.svnsHeld, e9, g8]; exact h.held n l x
    buffer := fun x => by show flt.buffer.length ≤ 256; rw [e7]; exact h.buffer x
    notices := fun x => by show cmd.notices.length ≤ 64; rw [e8]; exact h.notices x }

/-- A state on the way, with what it keeps. -/
theorem Keeps.cut {r s : State} {Q : Prop} (h : Keeps r s) (k : Keeps r s → Q) : Q := k h

/-- What holds of every such state, said as one. -/
theorem Keeps.all {r : State} {P : State → Prop} (h : ∀ u, Keeps r u → P u) : ∀ u, Keeps r u → P u := h

/-! Results that carry a state -/

theorem Keeps.of1 {r u : State} {α : Type} {p : State × α} {x : α} (e : p = (u, x)) (h : Keeps r p.1) : Keeps r u := by
  rw [e] at h; exact h
theorem Keeps.of2 {r u : State} {α : Type} {p : α × State} {x : α} (e : p = (x, u)) (h : Keeps r p.2) : Keeps r u := by
  rw [e] at h; exact h
theorem Keeps.of3 {r u : State} {α β : Type} {p : α × β × State} {x : α} {y : β} (e : p = (x, y, u)) (h : Keeps r p.2.2) :
    Keeps r u := by
  rw [e] at h; exact h
theorem Keeps.ite1 {r : State} {α : Type} {a b : State × α} {c : Prop} [Decidable c] (ha : Keeps r a.1) (hb : Keeps r b.1) :
    Keeps r (if c then a else b).1 := by split <;> assumption
theorem Keeps.ite2 {r : State} {α : Type} {a b : α × State} {c : Prop} [Decidable c] (ha : Keeps r a.2) (hb : Keeps r b.2) :
    Keeps r (if c then a else b).2 := by split <;> assumption
theorem Keeps.ite3 {r : State} {α β : Type} {a b : α × β × State} {c : Prop} [Decidable c] (ha : Keeps r a.2.2)
    (hb : Keeps r b.2.2) : Keeps r (if c then a else b).2.2 := by split <;> assumption

/-! Accessors -/

theorem State.setCu_keeps {r s : State} (h : Keeps r s) (p n : Nat) (c : Cu) : Keeps r (s.setCu p n c) :=
  { h with cus := fun x => SMap.wf_set (h.cus x) _ _ }
theorem State.setSw_keeps {r s : State} (h : Keeps r s) (p n : Nat) (w : Sw) : Keeps r (s.setSw p n w) :=
  { h with sws := fun x => SMap.wf_set (h.sws x) _ _ }
theorem State.setPlat_keeps {r s : State} (h : Keeps r s) (p : Nat) (x : Plat) : Keeps r (s.setPlat p x) :=
  { h with plats := fun x => SMap.wf_set (h.plats x) _ _ }
theorem State.setBmk_keeps {r s : State} (h : Keeps r s) (i : Nat) (b : Bmk) : Keeps r (s.setBmk i b) :=
  { h with bmks := fun x => SMap.wf_set (h.bmks x) _ _ }
theorem State.setAu_keeps {r s : State} (h : Keeps r s) (g : Nat) (a : Au) : Keeps r (s.setAu g a) :=
  { h with aus := fun x => SMap.wf_set (h.aus x) _ _ }
theorem State.setPort_keeps {r s : State} (h : Keeps r s) (n : Nat) (p : Port) : Keeps r (s.setPort n p) :=
  { h with ports := fun x => SMap.wf_set (h.ports x) _ _ }
theorem State.emit_keeps {r s : State} (h : Keeps r s) (o : Out) : Keeps r (s.emit o) :=
  { h with out := by obtain ⟨l, hl⟩ := h.out; exact ⟨l ++ [o], by simp [State.emit, hl]⟩ }
theorem State.setChan_keeps {r s : State} (h : Keeps r s) (c : Nat) (x : Chan) : Keeps r (s.setChan c x) := { h with }
theorem State.setMg_keeps {r s : State} (h : Keeps r s) (g : Nat) (x : Mg) : Keeps r (s.setMg g x) := { h with }
theorem State.setSlot_keeps {r s : State} (h : Keeps r s) (k : Nat) (x : Slot) : Keeps r (s.setSlot k x) := { h with }

/-- The memory of one unit is kept. -/
theorem Keeps.mu {r s : State} (h : Keeps r s) (p n : Nat) (x : ∀ e ∈ r.mus, Memory.wf e.2.sram = true) :
    Memory.wf (s.mu p n).sram = true := by
  rcases SMap.get_mem ({} : Mu) s.mus (unitKey p n) with e | ⟨e, he, h2⟩
  · show Memory.wf (SMap.get {} s.mus (unitKey p n)).sram = true
    rw [e]; rfl
  · show Memory.wf (SMap.get {} s.mus (unitKey p n)).sram = true
    rw [← h2]; exact h.sram x e he

theorem State.setMu_keeps {r s : State} (h : Keeps r s) (p n : Nat) (m : Mu)
    (hm : (∀ e ∈ r.mus, Memory.wf e.2.sram = true) → Memory.wf m.sram = true) : Keeps r (s.setMu p n m) :=
  { h with
    mus := fun x => SMap.wf_set (h.mus x) _ _
    sram := fun x e he => by
      rcases SMap.mem_set he with rfl | he
      · exact hm x
      · exact h.sram x e he }

/-- Every unit changed by a function that keeps its memory. -/
theorem sram_mapVals {m : SMap Mu} {f : Nat → Mu → Mu} (h : ∀ e ∈ m, Memory.wf e.2.sram = true)
    (hf : ∀ k x, Memory.wf x.sram = true → Memory.wf (f k x).sram = true) :
    ∀ e ∈ SMap.mapVals {} f m, Memory.wf e.2.sram = true := by
  intro e he
  unfold SMap.mapVals at he
  obtain ⟨x, hx, rfl⟩ := List.mem_map.1 (List.mem_filter.1 he).1
  exact hf _ _ (h x hx)

end Sys2Proof.Machine
end

