-- ==== Sys2Proof/Laws/KeepsOps.lean ====
section
/-! SUPPORT. What the operations of Machine/Ops.lean keep. -/
namespace Sys2Proof.Machine

theorem Mu.wf_mk {epoch run fault eccCe eccLoc scrubExp scrubLate scrubPasses scrubRow cntConflict cntPoison fillPat cmd cmdResult regions ags sram poison tags ecc tagEcc events qin segs} (h : Memory.wf sram = true) :
    Memory.wf (Mu.mk epoch run fault eccCe eccLoc scrubExp scrubLate scrubPasses scrubRow cntConflict cntPoison fillPat cmd cmdResult regions ags sram poison tags ecc tagEcc events qin segs).sram = true := h
theorem Mu.wf_ite {a b : Mu} {c : Prop} [Decidable c] (ha : Memory.wf a.sram = true) (hb : Memory.wf b.sram = true) :
    Memory.wf (if c then a else b).sram = true := by split <;> assumption
theorem Mu.wf_clear {m : Mu} (h : Memory.wf m.sram = true) : Memory.wf m.clear.sram = true := h

theorem State.takeFree_keeps {r0 s : State} (hk : Keeps r0 s) : Keeps r0 (s.takeFree).2 :=
  { hk with free := Nat.le_succ_of_le hk.free }

theorem State.freeBytes_keeps {r0 : State} : ∀ (k : Nat) {s : State}, Keeps r0 s → Keeps r0 (s.freeBytes k).2
  | 0, _, h => h
  | k + 1, s, h => by
    unfold State.freeBytes
    exact State.freeBytes_keeps k (State.takeFree_keeps h)

theorem State.drbgStart_keeps {r0 s : State} (hk : Keeps r0 s) :
    Keeps r0 (State.drbgStart s) := by
  unfold State.drbgStart
  repeat' first
    | (with_reducible assumption) | ((try lift_lets); intro v; dsimp only [v]; clear v) | dsimp only
    | (with_reducible refine Keeps.made ?_ ?_ ?_ ?_ ?_ ?_ ?_ ?_ ?_ ?_)

theorem State.drbgDraw_keeps {r0 s : State} (hk : Keeps r0 s) (len : Nat) :
    Keeps r0 (State.drbgDraw s len).2 := by
  unfold State.drbgDraw
  repeat' first
    | (with_reducible assumption) | ((try lift_lets); intro v; dsimp only [v]; clear v) | dsimp only | split
    | (with_reducible refine Keeps.made ?_ ?_ ?_ ?_ ?_ ?_ ?_ ?_ ?_ ?_)

theorem State.queueAnnounce_keeps {r0 s : State} (hk : Keeps r0 s) (n : Nat) :
    Keeps r0 (State.queueAnnounce s n) := by
  unfold State.queueAnnounce
  repeat' first
    | (with_reducible assumption) | (with_reducible apply Keeps.ite) | (with_reducible apply State.drbgDraw_keeps)
    | (with_reducible apply State.setPort_keeps)

theorem State.rekeyIfDue_keeps {r0 s : State} (hk : Keeps r0 s) (n : Nat) :
    Keeps r0 (State.rekeyIfDue s n) := by
  unfold State.rekeyIfDue
  repeat' first
    | (with_reducible assumption) | ((try lift_lets); intro v; dsimp only [v]; clear v)
    | (with_reducible apply Keeps.ite) | (with_reducible apply State.setPort_keeps)
    | (with_reducible apply State.queueAnnounce_keeps)

theorem State.emitFlits_keeps {r0 s : State} (hk : Keeps r0 s) (n : Nat) (fs : List Flit) : Keeps r0 (s.emitFlits n fs) :=
  { hk with out := by obtain ⟨l, hl⟩ := hk.out; exact ⟨l ++ fs.map (.flit n), by simp [State.emitFlits, hl]⟩ }

theorem State.startOn_keeps {r0 s : State} (hk : Keeps r0 s) (n : Nat) (t : Trans) (deficit : List Nat) :
    Keeps r0 (State.startOn s n t deficit) := by
  unfold State.startOn
  repeat' first
    | (with_reducible assumption) | ((try lift_lets); intro v; dsimp only [v]; clear v)
    | (with_reducible apply State.setPort_keeps) | (with_reducible apply State.emit_keeps)
    | (with_reducible apply State.emitFlits_keeps) | (with_reducible apply State.rekeyIfDue_keeps)

theorem pump_keeps {r0 : State} (n : Nat) : ∀ (k : Nat) (s : State), Keeps r0 s → Keeps r0 (pump n k s)
  | 0, _, h => h
  | k + 1, s, h => by
    unfold pump
    dsimp only
    split
    · exact pump_keeps n k _ (State.startOn_keeps h _ _ _)
    · split
      · exact pump_keeps n k _ (State.startOn_keeps h _ _ _)
      · exact h

theorem State.pumpPort_keeps {r0 s : State} (hk : Keeps r0 s) (n : Nat) : Keeps r0 (s.pumpPort n) := pump_keeps n _ _ hk

theorem State.put_keeps {r0 s : State} (hk : Keeps r0 s) (n : Nat) (t : Trans) :
    Keeps r0 (State.put s n t) := by
  unfold State.put
  repeat' first
    | (with_reducible assumption) | ((try lift_lets); intro v; dsimp only [v]; clear v)
    | (with_reducible apply State.setPort_keeps) | (with_reducible apply State.pumpPort_keeps)

theorem State.trySend_keeps {r0 s : State} (hk : Keeps r0 s) (t : Trans) :
    Keeps r0 (State.trySend s t).1 := by
  unfold State.trySend
  repeat' first
    | (with_reducible assumption) | (with_reducible apply State.put_keeps) | (with_reducible apply Keeps.ite1) | split

theorem State.putOn_keeps {r0 s : State} (hk : Keeps r0 s) (n : Nat) (t : Trans) :
    Keeps r0 (State.putOn s n t) := by
  unfold State.putOn
  repeat' first
    | (with_reducible assumption) | ((try lift_lets); intro v; dsimp only [v]; clear v)
    | (with_reducible apply State.setPort_keeps) | (with_reducible apply State.put_keeps)

theorem State.unkeep_keeps {r0 s : State} (hk : Keeps r0 s) (t : Trans) :
    Keeps r0 (State.unkeep s t) := by
  unfold State.unkeep
  repeat' first
    | (with_reducible assumption) | (with_reducible apply State.setPort_keeps) | dsimp only | split

theorem State.passOn_keeps {r0 s : State} (hk : Keeps r0 s) (t : Trans) :
    Keeps r0 (State.passOn s t) := by
  unfold State.passOn
  repeat' first
    | (with_reducible assumption)
    | ((try lift_lets); intro v; refine Keeps.cut (r := r0) (s := v) ?_ ?_; dsimp only [v]; clear v;
       rotate_left; intro hv; clear_value v; revert v; refine Keeps.all ?_; intro v hv)
    | ((try lift_lets); intro v; dsimp only [v]; clear v) | (with_reducible apply State.putOn_keeps)
    | (with_reducible apply State.setPort_keeps) | dsimp only | split
    | (with_reducible refine Keeps.made ?_ ?_ ?_ ?_ ?_ ?_ ?_ ?_ ?_ ?_)

theorem State.retryHeld_keeps {r0 s : State} (hk : Keeps r0 s) :
    Keeps r0 (State.retryHeld s) := by
  unfold State.retryHeld
  repeat' first
    | (with_reducible assumption) | (refine fun _ _ h => ?_) | ((try lift_lets); intro v; dsimp only [v]; clear v)
    | (with_reducible apply State.unkeep_keeps) | (with_reducible apply State.passOn_keeps) | dsimp only
    | (with_reducible refine Keeps.foldl _ ?_ _ _ ?_)
    | (with_reducible refine Keeps.made ?_ ?_ ?_ ?_ ?_ ?_ ?_ ?_ ?_ ?_)

theorem State.bufferGone_keeps {r0 s : State} (hk : Keeps r0 s) (n : Nat) :
    Keeps r0 (State.bufferGone s n) := by
  unfold State.bufferGone
  repeat' first
    | (with_reducible assumption) | ((try lift_lets); intro v; dsimp only [v]; clear v) | dsimp only
    | (with_reducible refine Keeps.made ?_ ?_ ?_ ?_ ?_ ?_ ?_ ?_ ?_ ?_)

theorem State.flood_keeps {r0 s : State} (hk : Keeps r0 s) (except_ : Option Nat) (t : Trans) :
    Keeps r0 (State.flood s except_ t) := by
  unfold State.flood
  repeat' first
    | (with_reducible assumption) | (refine fun _ _ h => ?_) | (with_reducible apply Keeps.ite)
    | (with_reducible apply State.putOn_keeps) | (with_reducible apply State.put_keeps)
    | (with_reducible refine Keeps.foldl _ ?_ _ _ ?_)

theorem Flt.push_bound {f : Flt} (h : f.buffer.length ≤ 256) (x : FaultRec) : (f.push x).buffer.length ≤ 256 := by
  unfold Flt.push
  dsimp only
  split
  · split
    · simp only [List.length_append, List.length_singleton]; omega
    · exact h
  · split
    · simp only [List.length_append, List.length_singleton]; omega
    · split
      · rename_i v hv
        have hm : v ∈ f.buffer := by simpa using List.mem_of_find?_eq_some hv
        have := List.length_erase_of_mem hm
        have hp : 0 < f.buffer.length := List.length_pos_of_mem hm
        simp only [List.length_append, List.length_singleton]; omega
      · exact h

theorem Flt.merge_length {f g : Flt} {c : FClass} {code : Code} {k i : Nat} {t : W64} (h : f.merge c code k i t = some g) :
    g.buffer.length = f.buffer.length := by
  unfold Flt.merge at h
  split at h
  · cases h
  · split at h
    · cases h
    · cases h; simp

theorem Flt.count_buffer (f : Flt) (c : FClass) : (f.count c).buffer = f.buffer := by cases c <;> rfl

theorem State.logFault_keeps {r0 s : State} (hk : Keeps r0 s) (c : FClass) (code : Code) (kind inst : Nat) (detail : W64) :
    Keeps r0 (s.logFault c code kind inst detail) := by
  refine { hk with buffer := fun x => ?_ }
  have hb := hk.buffer x
  unfold State.logFault
  dsimp only
  split
  · rename_i g hg
    rw [Flt.merge_length hg]; split <;> simpa [Flt.count_buffer] using hb
  · apply Flt.push_bound; split <;> simpa [Flt.count_buffer] using hb

theorem State.logPort_keeps {r0 s : State} (hk : Keeps r0 s) (c : FClass) (code : Code) (n : Nat) :
    Keeps r0 (State.logPort s c code n) := by
  unfold State.logPort
  repeat' first
    | (with_reducible assumption) | (with_reducible apply State.logFault_keeps)

theorem State.sendNorm_keeps {r0 s : State} (hk : Keeps r0 s) (r : NormRec) :
    Keeps r0 (State.sendNorm s r) := by
  unfold State.sendNorm
  repeat' first
    | (with_reducible assumption) | (refine fun _ _ h => ?_) | (with_reducible apply State.trySend_keeps)
    | (with_reducible apply State.logPort_keeps) | dsimp only | (with_reducible refine Keeps.foldl _ ?_ _ _ ?_)
    | split | (with_reducible refine Keeps.made ?_ ?_ ?_ ?_ ?_ ?_ ?_ ?_ ?_ ?_)

theorem State.sendFail_keeps {r0 s : State} (hk : Keeps r0 s) :
    Keeps r0 (State.sendFail s) := by
  unfold State.sendFail
  repeat' first
    | (with_reducible assumption) | (with_reducible apply Keeps.ite) | (with_reducible apply State.sendNorm_keeps)
    | dsimp only | (with_reducible refine Keeps.made ?_ ?_ ?_ ?_ ?_ ?_ ?_ ?_ ?_ ?_)

theorem State.enterFailed_keeps {r0 s : State} (hk : Keeps r0 s) :
    Keeps r0 (State.enterFailed s) := by
  unfold State.enterFailed
  repeat' first
    | (with_reducible assumption)
    | ((try lift_lets); intro v; refine Keeps.cut (r := r0) (s := v) ?_ ?_; dsimp only [v]; clear v;
       rotate_left; intro hv; clear_value v; revert v; refine Keeps.all ?_; intro v hv)
    | ((try lift_lets); intro v; dsimp only [v]; clear v) | (with_reducible apply Keeps.ite)
    | (with_reducible apply State.sendFail_keeps) | dsimp only
    | (with_reducible refine Keeps.made ?_ ?_ ?_ ?_ ?_ ?_ ?_ ?_ ?_ ?_)

theorem State.stepFail_keeps {r0 s : State} (hk : Keeps r0 s) :
    Keeps r0 (State.stepFail s) := by
  unfold State.stepFail
  repeat' first
    | (with_reducible assumption) | (with_reducible apply Keeps.ite) | (with_reducible apply State.enterFailed_keeps)

theorem State.sendQuiet_keeps {r0 s : State} (hk : Keeps r0 s) (t : Trans) :
    Keeps r0 (State.sendQuiet s t) := by
  unfold State.sendQuiet
  repeat' first
    | (with_reducible assumption) | (with_reducible apply State.trySend_keeps)
    | (with_reducible apply State.logPort_keeps) | (refine Keeps.of1 (by with_reducible assumption) ?_) | split

theorem State.sendCpl_keeps {r0 s : State} (hk : Keeps r0 s) (a : Arrival) (c : Cpl) :
    Keeps r0 (State.sendCpl s a c) := by
  unfold State.sendCpl
  repeat' first
    | (with_reducible assumption) | (with_reducible apply Keeps.ite) | (with_reducible apply State.sendQuiet_keeps)
    | dsimp only | split | (with_reducible refine Keeps.made ?_ ?_ ?_ ?_ ?_ ?_ ?_ ?_ ?_ ?_)

theorem State.finish_keeps {r0 s : State} (hk : Keeps r0 s) (w : CmdWord) (a : Arrival) (r : Reply) :
    Keeps r0 (State.finish s w a r) := by
  unfold State.finish
  repeat' first
    | (with_reducible assumption) | ((try lift_lets); intro v; dsimp only [v]; clear v)
    | (with_reducible apply Keeps.ite) | (with_reducible apply State.setSlot_keeps)
    | (with_reducible apply State.sendCpl_keeps)

theorem State.missRecord_keeps {r0 s : State} (hk : Keeps r0 s) (h : Held) :
    Keeps r0 (State.missRecord s h) := by
  unfold State.missRecord
  repeat' first
    | (with_reducible assumption) | (with_reducible apply Keeps.ite) | (with_reducible apply State.logFault_keeps)

theorem State.complete_keeps {r0 s : State} (hk : Keeps r0 s) (id : Nat) (r : Reply) :
    Keeps r0 (State.complete s id r) := by
  unfold State.complete
  repeat' first
    | (with_reducible assumption) | ((try lift_lets); intro v; dsimp only [v]; clear v)
    | (with_reducible apply State.missRecord_keeps) | (with_reducible apply State.finish_keeps) | dsimp only | split
    | (with_reducible refine Keeps.made ?_ ?_ ?_ ?_ ?_ ?_ ?_ ?_ ?_ ?_)

theorem State.waitReply_keeps {r0 s : State} (hk : Keeps r0 s) (src : BmkSrc) (code : Code) (v : W32) :
    Keeps r0 (State.waitReply s src code v) := by
  unfold State.waitReply
  repeat' first
    | (with_reducible assumption) | (with_reducible apply State.complete_keeps)
    | (with_reducible apply State.sendQuiet_keeps) | (with_reducible apply State.emit_keeps) | split

theorem State.bmkReply_keeps {r0 s : State} (hk : Keeps r0 s) (src : BmkSrc) (code : Code) (v : W64) (obj : List Byte) :
    Keeps r0 (State.bmkReply s src code v obj) := by
  unfold State.bmkReply
  repeat' first
    | (with_reducible assumption) | (with_reducible apply State.sendQuiet_keeps)
    | (with_reducible apply State.emit_keeps) | split

theorem State.abandonWaits_keeps {r0 s : State} (hk : Keeps r0 s) :
    Keeps r0 (State.abandonWaits s) := by
  unfold State.abandonWaits
  repeat' first
    | (with_reducible assumption) | (refine fun _ _ h => ?_) | (with_reducible apply State.setPlat_keeps)
    | (with_reducible apply State.waitReply_keeps) | dsimp only | (with_reducible refine Keeps.foldl _ ?_ _ _ ?_)

theorem State.completeAll_keeps {r0 s : State} (hk : Keeps r0 s) (op : W16) (f : Nat → Bool) (r : Reply) :
    Keeps r0 (State.completeAll s op f r) := by
  unfold State.completeAll
  repeat' first
    | (with_reducible assumption) | (refine fun _ _ h => ?_) | (with_reducible apply State.complete_keeps)
    | (with_reducible refine Keeps.foldl _ ?_ _ _ ?_)

theorem State.monEnd_keeps {r0 s : State} (hk : Keeps r0 s) (code : Code) (step : Nat) :
    Keeps r0 (State.monEnd s code step) := by
  unfold State.monEnd
  repeat' first
    | (with_reducible assumption) | ((try lift_lets); intro v; dsimp only [v]; clear v)
    | (with_reducible apply State.completeAll_keeps) | dsimp only
    | (with_reducible refine Keeps.made ?_ ?_ ?_ ?_ ?_ ?_ ?_ ?_ ?_ ?_)

theorem State.monFatal_keeps {r0 s : State} (hk : Keeps r0 s) :
    Keeps r0 (State.monFatal s) := by
  unfold State.monFatal
  repeat' first
    | (with_reducible assumption)
    | ((try lift_lets); intro v; refine Keeps.cut (r := r0) (s := v) ?_ ?_; dsimp only [v]; clear v;
       rotate_left; intro hv; clear_value v; revert v; refine Keeps.all ?_; intro v hv)
    | ((try lift_lets); intro v; dsimp only [v]; clear v) | (with_reducible apply State.logFault_keeps)
    | (with_reducible apply State.monEnd_keeps) | dsimp only | split
    | (with_reducible refine Keeps.made ?_ ?_ ?_ ?_ ?_ ?_ ?_ ?_ ?_ ?_)

theorem State.sendLinkstate_keeps {r0 s : State} (hk : Keeps r0 s) :
    Keeps r0 (State.sendLinkstate s) := by
  unfold State.sendLinkstate
  repeat' first
    | (with_reducible assumption) | ((try lift_lets); intro v; dsimp only [v]; clear v)
    | (with_reducible apply State.flood_keeps) | dsimp only
    | (with_reducible refine Keeps.made ?_ ?_ ?_ ?_ ?_ ?_ ?_ ?_ ?_ ?_)

theorem State.endSession_keeps {r0 s : State} (hk : Keeps r0 s) :
    Keeps r0 (State.endSession s) := by
  unfold State.endSession
  repeat' first
    | (with_reducible assumption) | ((try lift_lets); intro v; dsimp only [v]; clear v)
    | (with_reducible apply Keeps.ite) | dsimp only | split
    | (with_reducible refine Keeps.made ?_ ?_ ?_ ?_ ?_ ?_ ?_ ?_ ?_ ?_)

theorem State.leftSecure_keeps {r0 s : State} (hk : Keeps r0 s) :
    Keeps r0 (State.leftSecure s) := by
  unfold State.leftSecure
  repeat' first
    | (with_reducible assumption) | (with_reducible apply State.sendLinkstate_keeps)
    | (with_reducible apply State.endSession_keeps)

theorem State.redirect_keeps {r0 s : State} (hk : Keeps r0 s) (lost : State → Trans → Code → State) (ts : List Trans) (hlost : ∀ u x1 x2, Keeps r0 u → Keeps r0 (lost u x1 x2)) :
    Keeps r0 (State.redirect s lost ts) := by
  unfold State.redirect
  repeat' first
    | (with_reducible assumption) | (refine fun _ _ h => ?_) | (with_reducible apply Keeps.ite)
    | (with_reducible apply hlost) | (with_reducible apply State.trySend_keeps)
    | (with_reducible apply State.passOn_keeps) | (refine Keeps.of1 (by with_reducible assumption) ?_)
    | (with_reducible refine Keeps.foldl _ ?_ _ _ ?_) | split

theorem State.dropReq_keeps {r0 s : State} (hk : Keeps r0 s) (t : Trans) :
    Keeps r0 (State.dropReq s t) := by
  unfold State.dropReq
  repeat' first
    | (with_reducible assumption) | ((try lift_lets); intro v; dsimp only [v]; clear v) | dsimp only
    | (with_reducible refine Keeps.made ?_ ?_ ?_ ?_ ?_ ?_ ?_ ?_ ?_ ?_)

theorem State.lostQuiet_keeps {r0 s : State} (hk : Keeps r0 s) (t : Trans) (c : Code) :
    Keeps r0 (State.lostQuiet s t c) := by
  unfold State.lostQuiet
  repeat' first
    | (with_reducible assumption) | (with_reducible apply State.dropReq_keeps)
    | (with_reducible apply State.logPort_keeps)

theorem State.closePort_keeps {r0 s : State} (hk : Keeps r0 s) (n : Nat) (lost : State → Trans → Code → State) (hlost : ∀ u x1 x2, Keeps r0 u → Keeps r0 (lost u x1 x2)) :
    Keeps r0 (State.closePort s n lost) := by
  unfold State.closePort
  repeat' first
    | (with_reducible assumption) | (with_reducible apply Keeps.ite) | (with_reducible apply State.setPort_keeps)
    | (with_reducible apply State.bufferGone_keeps) | (with_reducible apply State.leftSecure_keeps)
    | (with_reducible apply State.redirect_keeps)

theorem State.bridgeLeft_keeps {r0 s : State} (hk : Keeps r0 s) : Keeps r0 s.bridgeLeft := by
  unfold State.bridgeLeft
  refine Keeps.foldl _ (fun u n hu => ?_) _ _ hk
  dsimp only
  exact Keeps.ite (State.logPort_keeps (State.redirect_keeps (State.leftSecure_keeps (State.setPort_keeps hu _ _)) _ _
    (fun _ _ _ h => State.lostQuiet_keeps h _ _)) _ _ _) hu

theorem State.tableEffect_keeps {r0 s : State} (hk : Keeps r0 s) (t : MTable) : Keeps r0 (s.tableEffect t) := by
  unfold State.tableEffect
  refine State.retryHeld_keeps (State.bridgeLeft_keeps ?_)
  exact Keeps.mapped hk id id id id id id (fun x => SMap.wf_mapVals x _) id id rfl rfl rfl rfl rfl rfl rfl rfl

theorem State.tableNow_keeps {r0 s : State} (hk : Keeps r0 s) :
    Keeps r0 (State.tableNow s) := by
  unfold State.tableNow
  repeat' first
    | (with_reducible assumption) | (with_reducible apply State.tableEffect_keeps) | split

theorem State.closeFenced_keeps {r0 s : State} (hk : Keeps r0 s) : Keeps r0 s.closeFenced := by
  unfold State.closeFenced
  refine Keeps.foldl _ (fun u n hu => ?_) _ _ hk
  exact Keeps.ite (State.closePort_keeps hu _ _ (fun _ _ _ h => State.lostQuiet_keeps h _ _)) hu

theorem State.purgeArray_keeps {r0 s : State} (hk : Keeps r0 s) : Keeps r0 s.purgeArray := by
  unfold State.purgeArray
  exact Keeps.mapped hk id id id id id id (fun x => SMap.wf_mapVals x _) id id rfl rfl rfl rfl rfl rfl rfl rfl

theorem State.clearConfig_keeps {r0 s : State} (hk : Keeps r0 s) : Keeps r0 s.clearConfig := by
  unfold State.clearConfig
  have h : Keeps r0 s.abandonWaits.purgeArray := State.purgeArray_keeps (State.abandonWaits_keeps hk)
  revert h
  generalize s.abandonWaits.purgeArray = u
  intro h
  dsimp only
  refine State.tableNow_keeps (State.closeFenced_keeps ?_)
  exact Keeps.mapped h (fun x => SMap.wf_mapVals x _) (fun x => SMap.wf_mapVals x _) (fun x => SMap.wf_mapVals x _)
    (fun x => SMap.wf_mapVals x _) id (fun x => SMap.wf_mapVals x _) id (fun x => sram_mapVals x (fun _ _ hm => hm)) id
    rfl rfl rfl rfl rfl rfl rfl rfl

theorem State.imgEnd_keeps {r0 s : State} (hk : Keeps r0 s) (op : Nat) (code : Code) :
    Keeps r0 (State.imgEnd s op code) := by
  unfold State.imgEnd
  repeat' first
    | (with_reducible assumption) | ((try lift_lets); intro v; dsimp only [v]; clear v)
    | (with_reducible apply State.completeAll_keeps) | dsimp only
    | (with_reducible refine Keeps.made ?_ ?_ ?_ ?_ ?_ ?_ ?_ ?_ ?_ ?_)

theorem State.noteOrder_keeps {r0 s : State} (hk : Keeps r0 s) (id : Option Nat) (r : Rival) :
    Keeps r0 (State.noteOrder s id r) := by
  unfold State.noteOrder
  repeat' first
    | (with_reducible assumption) | ((try lift_lets); intro v; dsimp only [v]; clear v) | dsimp only
    | (with_reducible refine Keeps.made ?_ ?_ ?_ ?_ ?_ ?_ ?_ ?_ ?_ ?_)

theorem State.cancelClass0_keeps {r0 s : State} (hk : Keeps r0 s) :
    Keeps r0 (State.cancelClass0 s) := by
  unfold State.cancelClass0
  repeat' first
    | (with_reducible assumption) | (refine fun _ _ h => ?_) | ((try lift_lets); intro v; dsimp only [v]; clear v)
    | (with_reducible apply State.complete_keeps) | dsimp only | (with_reducible refine Keeps.foldl _ ?_ _ _ ?_)
    | (with_reducible refine Keeps.made ?_ ?_ ?_ ?_ ?_ ?_ ?_ ?_ ?_ ?_)

theorem State.contain_keeps {r0 s : State} (hk : Keeps r0 s) :
    Keeps r0 (State.contain s) := by
  unfold State.contain
  repeat' first
    | (with_reducible assumption) | (with_reducible apply State.cancelClass0_keeps)
    | (with_reducible apply State.takeFree_keeps) | (with_reducible apply State.noteOrder_keeps)

theorem State.fatalStop_keeps {r0 s : State} (hk : Keeps r0 s) (code : Code) :
    Keeps r0 (State.fatalStop s code) := by
  unfold State.fatalStop
  repeat' first
    | (with_reducible assumption)
    | ((try lift_lets); intro v; refine Keeps.cut (r := r0) (s := v) ?_ ?_; dsimp only [v]; clear v;
       rotate_left; intro hv; clear_value v; revert v; refine Keeps.all ?_; intro v hv)
    | ((try lift_lets); intro v; dsimp only [v]; clear v) | (with_reducible apply Keeps.ite)
    | (with_reducible apply State.complete_keeps) | (with_reducible apply State.contain_keeps)
    | (with_reducible apply State.monFatal_keeps) | (with_reducible apply State.imgEnd_keeps)
    | (with_reducible apply State.clearConfig_keeps) | dsimp only | split
    | (with_reducible refine Keeps.made ?_ ?_ ?_ ?_ ?_ ?_ ?_ ?_ ?_ ?_)

theorem State.raise_keeps {r0 s : State} (hk : Keeps r0 s) (c : FClass) (code : Code) (kind : Nat) (inst : Nat) (detail : W64) :
    Keeps r0 (State.raise s c code kind inst detail) := by
  unfold State.raise
  repeat' first
    | (with_reducible assumption)
    | ((try lift_lets); intro v; refine Keeps.cut (r := r0) (s := v) ?_ ?_; dsimp only [v]; clear v;
       rotate_left; intro hv; clear_value v; revert v; refine Keeps.all ?_; intro v hv)
    | ((try lift_lets); intro v; dsimp only [v]; clear v) | (with_reducible apply State.logFault_keeps)
    | (with_reducible apply State.stepFail_keeps) | (with_reducible apply State.fatalStop_keeps) | dsimp only | split
    | (with_reducible refine Keeps.made ?_ ?_ ?_ ?_ ?_ ?_ ?_ ?_ ?_ ?_)

theorem State.lost_keeps {r0 s : State} (hk : Keeps r0 s) (t : Trans) (c : Code) :
    Keeps r0 (State.lost s t c) := by
  unfold State.lost
  repeat' first
    | (with_reducible assumption) | ((try lift_lets); intro v; dsimp only [v]; clear v)
    | (with_reducible apply State.dropReq_keeps) | (with_reducible apply State.emit_keeps)
    | (with_reducible apply State.raise_keeps)

theorem State.send_keeps {r0 s : State} (hk : Keeps r0 s) (t : Trans) :
    Keeps r0 (State.send s t) := by
  unfold State.send
  repeat' first
    | (with_reducible assumption) | (with_reducible apply State.trySend_keeps)
    | (with_reducible apply State.lost_keeps) | (refine Keeps.of1 (by with_reducible assumption) ?_) | split

theorem State.request_keeps {r0 s : State} (hk : Keeps r0 s) (dst : W16) (array : Bool) (kind : ReqKind) (body : TBody) :
    Keeps r0 (State.request s dst array kind body) := by
  unfold State.request
  repeat' first
    | (with_reducible assumption) | ((try lift_lets); intro v; dsimp only [v]; clear v)
    | (with_reducible apply State.send_keeps) | dsimp only
    | (with_reducible refine Keeps.made ?_ ?_ ?_ ?_ ?_ ?_ ?_ ?_ ?_ ?_)

theorem State.respond_keeps {r0 s : State} (hk : Keeps r0 s) (rx : Rx) (typ : Nat) (code : Code) (v : W64) (data : List Byte) (spoiled : Bool) :
    Keeps r0 (State.respond s rx typ code v data spoiled) := by
  unfold State.respond
  repeat' first
    | (with_reducible assumption) | ((try lift_lets); intro v; dsimp only [v]; clear v)
    | (with_reducible apply Keeps.ite) | (with_reducible apply State.flood_keeps)
    | (with_reducible apply State.send_keeps)

end Sys2Proof.Machine
end

