-- ==== Sys2Proof/Laws/KeepsBlocks.lean ====
section
/-! SUPPORT. What the operations of Machine/Blocks.lean keep. -/
namespace Sys2Proof.Machine

theorem State.whenAwake_keeps {r0 s : State} (hk : Keeps r0 s) (f : State → State) (hf : ∀ u, Keeps r0 u → Keeps r0 (f u)) :
    Keeps r0 (State.whenAwake s f) := by
  unfold State.whenAwake
  repeat' first
    | (with_reducible assumption) | (with_reducible apply Keeps.ite) | (with_reducible apply hf)

theorem State.woken_keeps {r0 s : State} (hk : Keeps r0 s) (b : Block) :
    Keeps r0 (State.woken s b) := by
  unfold State.woken
  repeat' first
    | (with_reducible assumption) | (refine fun _ _ h => ?_) | dsimp only
    | (with_reducible refine Keeps.foldl _ ?_ _ _ ?_)
    | (with_reducible refine Keeps.made ?_ ?_ ?_ ?_ ?_ ?_ ?_ ?_ ?_ ?_)

theorem State.atBlock_keeps {r0 s : State} (hk : Keeps r0 s) (b : Block) (f : State → State) (hf : ∀ u, Keeps r0 u → Keeps r0 (f u)) :
    Keeps r0 (State.atBlock s b f) := by
  unfold State.atBlock
  repeat' first
    | (with_reducible assumption) | (with_reducible apply Keeps.ite) | (with_reducible apply hf)
    | (with_reducible apply State.emit_keeps) | (with_reducible apply State.woken_keeps)

theorem State.writeBy_keeps {r0 s : State} (hk : Keeps r0 s) (path : Path) (b : Block) (f : State → State) (hf : ∀ u, Keeps r0 u → Keeps r0 (f u)) :
    Keeps r0 (State.writeBy s path b f) := by
  unfold State.writeBy
  repeat' first
    | (with_reducible assumption) | (with_reducible apply Keeps.ite) | (with_reducible apply State.emit_keeps)
    | (with_reducible apply State.atBlock_keeps) | split

end Sys2Proof.Machine
end

