-- ==== Sys2Proof/Laws/KeepsLinkOps.lean ====
section
/-! SUPPORT. What the operations of Machine/LinkOps.lean keep. -/
namespace Sys2Proof.Machine

theorem State.raisePort_keeps {r0 s : State} (hk : Keeps r0 s) (c : FClass) (code : Code) (n : Nat) :
    Keeps r0 (State.raisePort s c code n) := by
  unfold State.raisePort
  repeat' first
    | (with_reducible assumption) | (with_reducible apply State.raise_keeps)

theorem State.retrainPort_keeps {r0 s : State} (hk : Keeps r0 s) (n : Nat) (p : Port) :
    Keeps r0 (State.retrainPort s n p) := by
  unfold State.retrainPort
  repeat' first
    | (with_reducible assumption) | (with_reducible apply State.setPort_keeps)

theorem State.dropLink_keeps {r0 s : State} (hk : Keeps r0 s) (n : Nat) : Keeps r0 (s.dropLink n) := by
  unfold State.dropLink
  dsimp only
  have h1 : Keeps r0 ((s.retrainPort n ((s.port n).unlinked .down)).bufferGone n) :=
    State.bufferGone_keeps (State.retrainPort_keeps hk _ _) _
  refine Keeps.ite (State.raise_keeps (State.setPort_keeps (State.redirect_keeps ?_ _ _ ?_) _ _) _ _ _ _ _) h1
  · exact Keeps.ite (State.leftSecure_keeps h1) h1
  · exact fun _ _ _ h => State.lost_keeps h _ _

theorem State.authFail_keeps {r0 s : State} (hk : Keeps r0 s) (n : Nat) :
    Keeps r0 (State.authFail s n) := by
  unfold State.authFail
  repeat' first
    | (with_reducible assumption)
    | ((try lift_lets); intro v; refine Keeps.cut (r := r0) (s := v) ?_ ?_; dsimp only [v]; clear v;
       rotate_left; intro hv; clear_value v; revert v; refine Keeps.all ?_; intro v hv)
    | (with_reducible apply State.setPort_keeps) | (with_reducible apply State.raisePort_keeps)
    | (with_reducible apply State.dropLink_keeps)

theorem State.arrive_keeps {r0 s : State} (hk : Keeps r0 s) (rx : Rx) (body : TBody) (f : State → Rx → State) (hf : ∀ u x1, Keeps r0 u → Keeps r0 (f u x1)) :
    Keeps r0 (State.arrive s rx body f) := by
  unfold State.arrive
  repeat' first
    | (with_reducible assumption) | ((try lift_lets); intro v; dsimp only [v]; clear v)
    | (with_reducible apply Keeps.ite) | (with_reducible apply hf) | (with_reducible apply State.authFail_keeps)
    | (with_reducible apply State.setPort_keeps) | (with_reducible apply State.rekeyIfDue_keeps)

theorem State.floodMark_keeps {r0 s : State} (hk : Keeps r0 s) (rx : Rx) :
    Keeps r0 (State.floodMark s rx) := by
  unfold State.floodMark
  repeat' first
    | (with_reducible assumption) | ((try lift_lets); intro v; dsimp only [v]; clear v) | dsimp only
    | (with_reducible refine Keeps.made ?_ ?_ ?_ ?_ ?_ ?_ ?_ ?_ ?_ ?_)

theorem State.forward_keeps {r0 s : State} (hk : Keeps r0 s) (rx : Rx) (body : TBody) :
    Keeps r0 (State.forward s rx body) := by
  unfold State.forward
  repeat' first
    | (with_reducible assumption) | ((try lift_lets); intro v; dsimp only [v]; clear v)
    | (with_reducible apply Keeps.ite) | (with_reducible apply State.floodMark_keeps)
    | (with_reducible apply State.flood_keeps) | (with_reducible apply State.passOn_keeps)

theorem State.dropParts_keeps {r0 s : State} (hk : Keeps r0 s) (rx : Rx) (body : TBody) :
    Keeps r0 (State.dropParts s rx body) := by
  unfold State.dropParts
  repeat' first
    | (with_reducible assumption) | ((try lift_lets); intro v; dsimp only [v]; clear v) | dsimp only | split
    | (with_reducible refine Keeps.made ?_ ?_ ?_ ?_ ?_ ?_ ?_ ?_ ?_ ?_)

theorem State.keepPart_keeps {r0 s : State} (hk : Keeps r0 s) (rx : Rx) (body : TBody) :
    Keeps r0 (State.keepPart s rx body) := by
  unfold State.keepPart
  repeat' first
    | (with_reducible assumption)
    | ((try lift_lets); intro v; refine Keeps.cut (r := r0) (s := v) ?_ ?_; dsimp only [v]; clear v;
       rotate_left; intro hv; clear_value v; revert v; refine Keeps.all ?_; intro v hv)
    | ((try lift_lets); intro v; dsimp only [v]; clear v) | (with_reducible apply State.dropParts_keeps) | dsimp only
    | split | (with_reducible refine Keeps.made ?_ ?_ ?_ ?_ ?_ ?_ ?_ ?_ ?_ ?_)

theorem State.handed_keeps {r0 s : State} (hk : Keeps r0 s) (rx : Rx) (body : TBody) :
    Keeps r0 (State.handed s rx body) := by
  unfold State.handed
  repeat' first
    | (with_reducible assumption) | (with_reducible apply Keeps.ite) | (with_reducible apply State.floodMark_keeps)
    | (with_reducible apply State.dropParts_keeps)

theorem State.take_keeps {r0 s : State} (hk : Keeps r0 s) (rx : Rx) (body : TBody) (f : State → Rx → State) (hf : ∀ u x1, Keeps r0 u → Keeps r0 (f u x1)) :
    Keeps r0 (State.take s rx body f) := by
  unfold State.take
  repeat' first
    | (with_reducible assumption) | (refine fun _ _ h => ?_)
    | ((try lift_lets); intro v; refine Keeps.cut (r := r0) (s := v) ?_ ?_; dsimp only [v]; clear v;
       rotate_left; intro hv; clear_value v; revert v; refine Keeps.all ?_; intro v hv)
    | (with_reducible apply Keeps.ite) | (with_reducible apply hf) | (with_reducible apply State.arrive_keeps)
    | (with_reducible apply State.forward_keeps) | (with_reducible apply State.floodMark_keeps)
    | (with_reducible apply State.handed_keeps) | (with_reducible apply State.keepPart_keeps)

end Sys2Proof.Machine
end

