-- ==== Sys2Proof/Laws/KeepsMemOps.lean ====
section
/-! SUPPORT. What the operations of Machine/MemOps.lean keep. -/
namespace Sys2Proof.Machine

theorem Mu.wf_setReg {m : Mu} (h : Memory.wf m.sram = true) (r : Nat) (x : RegSt) : Memory.wf (m.setReg r x).sram = true := h
theorem Mu.wf_setPoison {m : Mu} (h : Memory.wf m.sram = true) (r : Nat) (b : Bool) : Memory.wf (m.setPoison r b).sram = true := h
theorem Mu.wf_flag {m : Mu} (h : Memory.wf m.sram = true) (b : Nat) : Memory.wf (m.flag b).sram = true := h

theorem Mu.wf_fillRow {m : Mu} (h : Memory.wf m.sram = true) (o k : Nat) : Memory.wf (m.fillRow o k).sram = true := by
  unfold Mu.fillRow; split <;> exact h

theorem Mu.wf_writeWide {m : Mu} (h : Memory.wf m.sram = true) (off : Nat) (bs : List Byte) (p : Bool) :
    Memory.wf (m.writeWide off bs p).sram = true := by
  have hf : ∀ (l : List Nat) (x : Mu), Memory.wf x.sram = true →
      Memory.wf (l.foldl (fun m r =>
        if off ≤ 512 * r && 512 * r + 512 ≤ off + bs.length then m.setPoison r p
        else if p then m.setPoison r true else m) x).sram = true := by
    intro l
    induction l with
    | nil => exact fun x hx => hx
    | cons a l ih =>
      intro x hx
      refine ih _ ?_
      dsimp only
      split
      · exact hx
      · split <;> exact hx
  unfold Mu.writeWide
  dsimp only
  split
  · exact h
  · exact hf _ _ (Memory.wf_write h _ _)

theorem Keeps.struck {r s : State} (h : Keeps r s) (p n k : Nat) (bs : List Byte) :
    Keeps r (s.setMu p n { s.mu p n with sram := (s.mu p n).sram.write k bs }) :=
  State.setMu_keeps h _ _ _ (fun x => Memory.wf_write (Keeps.mu h p n x) _ _)

theorem State.strikeWord_keeps {r0 s : State} (hk : Keeps r0 s) (p n w : Nat) (e : EccKind) :
    Keeps r0 (s.strikeWord p n w e) := by
  unfold State.strikeWord
  dsimp only
  refine Keeps.ite (Keeps.struck (State.freeBytes_keeps 1 ?_) _ _ _ _) ?_
  all_goals exact State.setMu_keeps hk _ _ _ (fun x => Keeps.mu hk p n x)

theorem Keeps.stored {r s : State} (h : Keeps r s) (k : Nat) (bs : List Byte) (x : SMap Bool) (y : SMap (List DevHit)) :
    Keeps r { s with dram := { s.dram with mem := s.dram.mem.write k bs, poison := x, err := y } } :=
  { h with mem := fun z => Memory.wf_write (h.mem z) _ _ }

theorem State.strikeBurst_keeps {r0 s : State} (hk : Keeps r0 s) (c burst word rank device : Nat) :
    Keeps r0 (s.strikeBurst c burst word rank device) := by
  unfold State.strikeBurst
  dsimp only
  have h1 : ∀ y, Keeps r0 { s with dram := { s.dram with err := y } } := fun y => { hk with }
  refine Keeps.ite ?_ (h1 _)
  exact Keeps.stored (State.freeBytes_keeps 2 (h1 _)) _ _ _ _

theorem State.strike_keeps {r0 s : State} (hk : Keeps r0 s) (u : Upset) :
    Keeps r0 (State.strike s u) := by
  unfold State.strike
  repeat' first
    | (with_reducible assumption) | (refine fun (x : ∀ e ∈ r0.mus, Memory.wf e.2.sram = true) => ?_)
    | (with_reducible refine Keeps.mu ?_ _ _ (by with_reducible assumption))
    | (with_reducible apply State.strikeWord_keeps) | (with_reducible apply State.setMu_keeps)
    | (with_reducible apply State.strikeBurst_keeps) | dsimp only | split

theorem State.strikes_keeps {r0 s : State} (hk : Keeps r0 s) (us : List Upset) :
    Keeps r0 (State.strikes s us) := by
  unfold State.strikes
  repeat' first
    | (with_reducible assumption) | (refine fun _ _ h => ?_) | (with_reducible apply State.strike_keeps)
    | (with_reducible refine Keeps.foldl _ ?_ _ _ ?_)

theorem State.raiseMu_keeps {r0 s : State} (hk : Keeps r0 s) (code : Code) (p : Nat) (n : Nat) (r : Nat) (bit : Option Nat) :
    Keeps r0 (State.raiseMu s code p n r bit) := by
  unfold State.raiseMu
  repeat' first
    | (with_reducible assumption) | (refine fun (x : ∀ e ∈ r0.mus, Memory.wf e.2.sram = true) => ?_)
    | (with_reducible refine Keeps.mu ?_ _ _ (by with_reducible assumption)) | (with_reducible apply Mu.wf_flag)
    | ((try lift_lets); intro v; dsimp only [v]; clear v) | (with_reducible apply State.setMu_keeps)
    | (with_reducible apply State.raise_keeps) | split

theorem State.muWordRead_keeps {r0 s : State} (hk : Keeps r0 s) (p : Nat) (n : Nat) (rd : MuReader) (w : Nat) (e : EccKind) :
    Keeps r0 (State.muWordRead s p n rd w e) := by
  unfold State.muWordRead
  repeat' first
    | (with_reducible assumption) | (refine fun (x : ∀ e ∈ r0.mus, Memory.wf e.2.sram = true) => ?_)
    | (with_reducible refine Keeps.mu ?_ _ _ (by with_reducible assumption)) | (with_reducible apply Mu.wf_setPoison)
    | (with_reducible apply Mu.wf_flag) | ((try lift_lets); intro v; dsimp only [v]; clear v)
    | (with_reducible apply State.setMu_keeps) | (with_reducible apply State.raise_keeps) | split

theorem State.muTagRead_keeps {r0 s : State} (hk : Keeps r0 s) (p : Nat) (n : Nat) (rd : MuReader) (k : Nat) (e : EccKind) :
    Keeps r0 (State.muTagRead s p n rd k e) := by
  unfold State.muTagRead
  repeat' first
    | (with_reducible assumption) | (refine fun (x : ∀ e ∈ r0.mus, Memory.wf e.2.sram = true) => ?_)
    | (with_reducible refine Keeps.mu ?_ _ _ (by with_reducible assumption)) | (with_reducible apply Mu.wf_setPoison)
    | (with_reducible apply Mu.wf_flag) | ((try lift_lets); intro v; dsimp only [v]; clear v)
    | (with_reducible apply State.setMu_keeps) | (with_reducible apply State.raise_keeps) | split

theorem State.muCheck_keeps {r0 s : State} (hk : Keeps r0 s) (p : Nat) (n : Nat) (off : Nat) (len : Nat) (rd : MuReader) :
    Keeps r0 (State.muCheck s p n off len rd) := by
  unfold State.muCheck
  repeat' first
    | (with_reducible assumption) | (refine fun _ _ h => ?_) | (with_reducible apply Keeps.ite)
    | (with_reducible apply State.muTagRead_keeps) | (with_reducible apply State.muWordRead_keeps) | dsimp only
    | (with_reducible refine Keeps.foldl _ ?_ _ _ ?_)

theorem State.muRead_keeps {r0 s : State} (hk : Keeps r0 s) (p : Nat) (n : Nat) (off : Nat) (len : Nat) (rd : MuReader) :
    Keeps r0 (State.muRead s p n off len rd).2.2 := by
  unfold State.muRead
  repeat' first
    | (with_reducible assumption)
    | ((try lift_lets); intro v; refine Keeps.cut (r := r0) (s := v) ?_ ?_; dsimp only [v]; clear v;
       rotate_left; intro hv; clear_value v; revert v; refine Keeps.all ?_; intro v hv)
    | (with_reducible apply State.muCheck_keeps)

theorem State.muWrite_keeps {r0 s : State} (hk : Keeps r0 s) (p n off : Nat) (bs : List Byte) (poison : Bool) :
    Keeps r0 (s.muWrite p n off bs poison) :=
  State.setMu_keeps hk _ _ _ (fun x => Mu.wf_writeWide (Keeps.mu hk _ _ x) _ _ _)

theorem State.dramCorrect_keeps {r0 s : State} (hk : Keeps r0 s) (c : Nat) (key : Nat) (h : DevHit) :
    Keeps r0 (State.dramCorrect s c key h) := by
  unfold State.dramCorrect
  repeat' first
    | (with_reducible assumption) | ((try lift_lets); intro v; dsimp only [v]; clear v)
    | (with_reducible apply State.setChan_keeps) | (with_reducible apply State.setMg_keeps)
    | (with_reducible apply State.raise_keeps) | dsimp only
    | (with_reducible refine Keeps.made ?_ ?_ ?_ ?_ ?_ ?_ ?_ ?_ ?_ ?_)

theorem State.burstFix_keeps {r0 s : State} (hk : Keeps r0 s) (c : Nat) (key : Nat) :
    Keeps r0 (State.burstFix s c key) := by
  unfold State.burstFix
  repeat' first
    | (with_reducible assumption) | (refine fun _ _ h => ?_) | ((try lift_lets); intro v; dsimp only [v]; clear v)
    | (with_reducible apply State.dramCorrect_keeps) | (with_reducible refine Keeps.foldl _ ?_ _ _ ?_)

theorem State.burstLost_keeps {r0 s : State} (hk : Keeps r0 s) (key : Nat) :
    Keeps r0 (State.burstLost s key).2 := by
  unfold State.burstLost
  repeat' first
    | (with_reducible assumption) | (with_reducible apply State.takeFree_keeps) | dsimp only
    | (with_reducible apply Keeps.ite2)

theorem State.burstDecode_keeps {r0 s : State} (hk : Keeps r0 s) (c : Nat) (key : Nat) :
    Keeps r0 (State.burstDecode s c key).2 := by
  unfold State.burstDecode
  repeat' first
    | (with_reducible assumption) | (with_reducible apply State.burstLost_keeps)
    | (with_reducible apply State.burstFix_keeps)

theorem State.burstRead_keeps {r0 s : State} (hk : Keeps r0 s) (u : DramUser) (c : Nat) (l : Nat) :
    Keeps r0 (State.burstRead s u c l).2 := by
  unfold State.burstRead
  repeat' first
    | (with_reducible assumption) | (with_reducible apply Keeps.ite) | (with_reducible apply State.setMg_keeps)
    | (with_reducible apply State.raise_keeps) | (with_reducible apply State.burstLost_keeps)
    | (with_reducible apply State.burstFix_keeps) | dsimp only | (with_reducible apply Keeps.ite2)

theorem State.dramRead_keeps {r0 s : State} (hk : Keeps r0 s) (u : DramUser) (a : Nat) (n : Nat) :
    Keeps r0 (State.dramRead s u a n).2.2 := by
  unfold State.dramRead
  repeat' first
    | (with_reducible assumption) | (refine fun _ _ h => ?_) | (with_reducible apply State.burstRead_keeps)
    | dsimp only | (with_reducible refine Keeps.foldl2 _ ?_ _ _ ?_) | split

theorem State.burstWrite_keeps {r0 s : State} (hk : Keeps r0 s) (u : DramUser) (c l : Nat) (bs : List Byte) (poison : Bool) :
    Keeps r0 (s.burstWrite u c l bs poison) := by
  unfold State.burstWrite
  dsimp only
  have h1 : Keeps r0 (s.setMg (c / 4) { s.mg (c / 4) with cntWr := (s.mg (c / 4)).cntWr + 128 }) := State.setMg_keeps hk _ _
  revert h1
  generalize s.setMg (c / 4) { s.mg (c / 4) with cntWr := (s.mg (c / 4)).cntWr + 128 } = t
  intro h1
  refine Keeps.stored ?_ _ _ _ _
  exact Keeps.ite2 h1 (State.burstRead_keeps h1 _ _ _)

theorem State.dramWrite_keeps {r0 s : State} (hk : Keeps r0 s) (u : DramUser) (a : Nat) (bs : List Byte) (poison : Bool) :
    Keeps r0 (State.dramWrite s u a bs poison) := by
  unfold State.dramWrite
  repeat' first
    | (with_reducible assumption) | (refine fun _ _ h => ?_) | (with_reducible apply Keeps.ite)
    | (with_reducible apply State.burstWrite_keeps) | dsimp only | (with_reducible refine Keeps.foldl _ ?_ _ _ ?_)
    | split

theorem State.muPoisonIn_keeps {r0 s : State} (hk : Keeps r0 s) (p n : Nat) (bad : Bool) :
    Keeps r0 (s.muPoisonIn p n bad) :=
  Keeps.ite (State.setMu_keeps hk _ _ _ (fun x => Keeps.mu hk p n x)) hk

theorem State.takeSpine_keeps {r0 s : State} (hk : Keeps r0 s) :
    Keeps r0 (State.takeSpine s).2 := by
  unfold State.takeSpine
  repeat' first
    | (with_reducible assumption) | ((try lift_lets); intro v; dsimp only [v]; clear v) | dsimp only
    | (with_reducible refine Keeps.made ?_ ?_ ?_ ?_ ?_ ?_ ?_ ?_ ?_ ?_)

theorem State.spaceRead_keeps {r0 s : State} (hk : Keeps r0 s) (u : DramUser) (a : Nat) (n : Nat) :
    Keeps r0 (State.spaceRead s u a n).2.2 := by
  unfold State.spaceRead
  repeat' first
    | (with_reducible assumption) | (with_reducible apply State.takeSpine_keeps)
    | (with_reducible apply State.muRead_keeps) | (with_reducible apply State.dramRead_keeps) | dsimp only | split

theorem State.spaceWrite_keeps {r0 s : State} (hk : Keeps r0 s) (u : DramUser) (a : Nat) (bs : List Byte) (poison : Bool) :
    Keeps r0 (State.spaceWrite s u a bs poison) := by
  unfold State.spaceWrite
  repeat' first
    | (with_reducible assumption) | (with_reducible apply State.takeSpine_keeps)
    | (with_reducible apply State.muWrite_keeps) | (with_reducible apply State.muPoisonIn_keeps)
    | (with_reducible apply State.dramWrite_keeps) | dsimp only | split

theorem State.burstFill_keeps {r0 s : State} (hk : Keeps r0 s) (c l : Nat) (bs : List Byte) :
    Keeps r0 (s.burstFill c l bs) := by
  unfold State.burstFill
  dsimp only
  have h1 : Keeps r0 (if l % 128 = 0 then s.setMg (c / 4) { s.mg (c / 4) with cntWr := (s.mg (c / 4)).cntWr + 128 } else s) :=
    Keeps.ite (State.setMg_keeps hk _ _) hk
  revert h1
  generalize (if l % 128 = 0 then s.setMg (c / 4) { s.mg (c / 4) with cntWr := (s.mg (c / 4)).cntWr + 128 } else s) = t
  intro h1
  split <;> exact Keeps.stored h1 _ _ _ _

theorem State.auStore_keeps {r0 s : State} (hk : Keeps r0 s) (dense : Bool) (a : Nat) (bs : List Byte) (poison : Bool) :
    Keeps r0 (s.auStore dense a bs poison) := by
  unfold State.auStore
  split
  · rename_i p m o h
    dsimp only
    have h1 := State.muPoisonIn_keeps (State.muWrite_keeps (State.takeSpine_keeps hk) p m o bs (poison || s.takeSpine.1)) p m
      (poison || s.takeSpine.1)
    exact Keeps.ite (State.setMu_keeps h1 _ _ _ (fun x => Mu.wf_fillRow (Keeps.mu h1 p m x) _ _)) h1
  · refine Keeps.ite (Keeps.foldl _ (fun u b hu => ?_) _ _ hk) (State.dramWrite_keeps hk _ _ _ _)
    dsimp only
    split
    · exact State.burstFill_keeps hu _ _ _
    · exact hu

theorem State.settle_keeps {r0 s : State} (hk : Keeps r0 s) (a : Nat) (b : Nat) :
    Keeps r0 (State.settle s a b) := by
  unfold State.settle
  repeat' first
    | (with_reducible assumption) | (refine fun _ _ h => ?_)
    | (refine fun (x : ∀ e ∈ r0.mus, Memory.wf e.2.sram = true) => ?_)
    | (with_reducible refine Keeps.mu ?_ _ _ (by with_reducible assumption))
    | (with_reducible apply State.setMu_keeps) | dsimp only | (with_reducible refine Keeps.foldl _ ?_ _ _ ?_) | split
    | (with_reducible refine Keeps.made ?_ ?_ ?_ ?_ ?_ ?_ ?_ ?_ ?_ ?_)

end Sys2Proof.Machine
end

