-- ==== Sys2Proof/Laws/KeepsRule.lean ====
section
/-! SUPPORT. What the operations of Machine/Rule.lean keep. -/
namespace Sys2Proof.Machine

theorem State.readStored_keeps {r0 s : State} (hk : Keeps r0 s) (u : DramUser) (t : Stored) (first : Nat) (n : Nat) :
    Keeps r0 (State.readStored s u t first n).2.2 := by
  unfold State.readStored
  repeat' first
    | (with_reducible assumption) | (refine fun _ _ h => ?_) | ((try lift_lets); intro v; dsimp only [v]; clear v)
    | (with_reducible apply State.spaceRead_keeps) | dsimp only | (with_reducible refine Keeps.foldl3 _ ?_ _ _ ?_)
    | (with_reducible apply Keeps.ite3)

theorem State.writeStored_keeps {r0 s : State} (hk : Keeps r0 s) (dense : Bool) (t : Stored) (first : Nat) (xs : List W32) :
    Keeps r0 (State.writeStored s dense t first xs) := by
  unfold State.writeStored
  repeat' first
    | (with_reducible assumption) | ((try lift_lets); intro v; dsimp only [v]; clear v)
    | (with_reducible apply Keeps.ite) | (with_reducible apply State.auStore_keeps)

end Sys2Proof.Machine
end

