-- ==== Sys2Proof/Laws/KeepsAdjust.lean ====
section
/-! SUPPORT. What the operations of Machine/Adjust.lean keep. -/
namespace Sys2Proof.Machine

theorem State.writePlane_keeps {r0 s : State} (hk : Keeps r0 s) (t : Stored) (k : Nat) (xs : List W32) (bad : List Nat) :
    Keeps r0 (State.writePlane s t k xs bad) := by
  unfold State.writePlane
  repeat' first
    | (with_reducible assumption) | (refine fun _ _ h => ?_)
    | (refine fun (x : ∀ e ∈ r0.mus, Memory.wf e.2.sram = true) => ?_)
    | (with_reducible refine Keeps.mu ?_ _ _ (by with_reducible assumption)) | (with_reducible apply Mu.wf_setPoison)
    | ((try lift_lets); intro v; refine Keeps.cut (r := r0) (s := v) ?_ ?_; dsimp only [v]; clear v;
       rotate_left; intro hv; clear_value v; revert v; refine Keeps.all ?_; intro v hv)
    | (with_reducible apply State.spaceWrite_keeps) | (with_reducible apply State.setMu_keeps)
    | (with_reducible refine Keeps.foldl _ ?_ _ _ ?_) | split

theorem State.requantWrite_keeps {r0 s : State} (hk : Keeps r0 s) (item : Nat) (p : Piece) (h : HoldAt) (n : Nat) (k : Nat) (x : List W32) (bad : List Nat) :
    Keeps r0 (State.requantWrite s item p h n k x bad) := by
  unfold State.requantWrite
  repeat' first
    | (with_reducible assumption)
    | ((try lift_lets); intro v; refine Keeps.cut (r := r0) (s := v) ?_ ?_; dsimp only [v]; clear v;
       rotate_left; intro hv; clear_value v; revert v; refine Keeps.all ?_; intro v hv)
    | ((try lift_lets); intro v; dsimp only [v]; clear v) | (with_reducible apply State.writePlane_keeps) | dsimp only
    | split | (with_reducible refine Keeps.made ?_ ?_ ?_ ?_ ?_ ?_ ?_ ?_ ?_ ?_)

theorem State.roundTaken_keeps {r0 s : State} (hk : Keeps r0 s) (p : Piece) :
    Keeps r0 (State.roundTaken s p) := by
  unfold State.roundTaken
  repeat' first
    | (with_reducible assumption) | (refine fun (x : ∀ e ∈ r0.mus, Memory.wf e.2.sram = true) => ?_)
    | (with_reducible refine Keeps.mu ?_ _ _ (by with_reducible assumption)) | (with_reducible apply Mu.wf_setReg)
    | ((try lift_lets); intro v; dsimp only [v]; clear v) | (with_reducible apply State.setMu_keeps)

theorem State.requantRead_keeps {r0 s : State} (hk : Keeps r0 s) (p : Piece) (ep : Stored) (k : Nat) :
    Keeps r0 (State.requantRead s p ep k).2 := by
  unfold State.requantRead
  repeat' first
    | (with_reducible assumption) | ((try lift_lets); intro v; dsimp only [v]; clear v)
    | (with_reducible apply State.muRead_keeps) | (with_reducible apply State.readStored_keeps)
    | (with_reducible apply Keeps.ite2)

theorem requantisation_keeps {r0 s : State} (hk : Keeps r0 s) (item : Nat) (ups : List Upset) :
    Keeps r0 (requantisation item ups s) := by
  unfold requantisation
  repeat' first
    | (with_reducible assumption)
    | ((try lift_lets); intro v; refine Keeps.cut (r := r0) (s := v) ?_ ?_; dsimp only [v]; clear v;
       rotate_left; intro hv; clear_value v; revert v; refine Keeps.all ?_; intro v hv)
    | ((try lift_lets); intro v; dsimp only [v]; clear v) | (with_reducible apply Keeps.ite)
    | (with_reducible apply State.strikes_keeps) | (with_reducible apply State.requantRead_keeps)
    | (with_reducible apply State.requantWrite_keeps) | (with_reducible apply State.roundTaken_keeps)
    | (with_reducible apply State.raise_keeps) | split

theorem State.raiseResidue_keeps {r0 s : State} (hk : Keeps r0 s) :
    Keeps r0 (State.raiseResidue s) := by
  unfold State.raiseResidue
  repeat' first
    | (with_reducible assumption) | (refine fun _ _ h => ?_) | (with_reducible apply State.raiseMu_keeps)
    | (with_reducible refine Keeps.foldl _ ?_ _ _ ?_)

theorem State.setPhase_keeps {r0 s : State} (hk : Keeps r0 s) (ph : Nat) :
    Keeps r0 (State.setPhase s ph) := by
  unfold State.setPhase
  repeat' first
    | (with_reducible assumption) | (refine fun _ _ h => ?_) | (with_reducible apply Keeps.ite)
    | (with_reducible apply State.setAu_keeps) | dsimp only | (with_reducible refine Keeps.foldl _ ?_ _ _ ?_)

theorem State.auFlagAll_keeps {r0 s : State} (hk : Keeps r0 s) (b : Nat) :
    Keeps r0 (State.auFlagAll s b) := by
  unfold State.auFlagAll
  repeat' first
    | (with_reducible assumption) | (refine fun _ _ h => ?_) | (with_reducible apply State.setAu_keeps) | dsimp only
    | (with_reducible refine Keeps.foldl _ ?_ _ _ ?_)

theorem State.keepRec_keeps {r0 s : State} (hk : Keeps r0 s) (r : NormRec) :
    Keeps r0 (State.keepRec s r) := by
  unfold State.keepRec
  repeat' first
    | (with_reducible assumption) | ((try lift_lets); intro v; dsimp only [v]; clear v) | dsimp only
    | (with_reducible refine Keeps.made ?_ ?_ ?_ ?_ ?_ ?_ ?_ ?_ ?_ ?_)

theorem State.exchFail_keeps {r0 s : State} (hk : Keeps r0 s) (dev : Nat) (typ : Nat) (fault : Code) (bit : Nat) (code : Code) :
    Keeps r0 (State.exchFail s dev typ fault bit code) := by
  unfold State.exchFail
  repeat' first
    | (with_reducible assumption) | ((try lift_lets); intro v; dsimp only [v]; clear v)
    | (with_reducible apply State.auFlagAll_keeps) | (with_reducible apply State.raise_keeps) | dsimp only
    | (with_reducible refine Keeps.made ?_ ?_ ?_ ?_ ?_ ?_ ?_ ?_ ?_ ?_)

theorem State.judgeBad_keeps {r0 s : State} (hk : Keeps r0 s) :
    Keeps r0 (State.judgeBad s) := by
  unfold State.judgeBad
  repeat' first
    | (with_reducible assumption) | (with_reducible apply Keeps.ite) | (with_reducible apply State.exchFail_keeps)
    | split

theorem State.judgeSeal_keeps {r0 s : State} (hk : Keeps r0 s) :
    Keeps r0 (State.judgeSeal s) := by
  unfold State.judgeSeal
  repeat' first
    | (with_reducible assumption) | ((try lift_lets); intro v; dsimp only [v]; clear v)
    | (with_reducible apply Keeps.ite) | dsimp only | (with_reducible refine Keeps.made ?_ ?_ ?_ ?_ ?_ ?_ ?_ ?_ ?_ ?_)

theorem State.sendVote_keeps {r0 s : State} (hk : Keeps r0 s) (r : NormRec) :
    Keeps r0 (State.sendVote s r) := by
  unfold State.sendVote
  repeat' first
    | (with_reducible assumption)
    | ((try lift_lets); intro v; refine Keeps.cut (r := r0) (s := v) ?_ ?_; dsimp only [v]; clear v;
       rotate_left; intro hv; clear_value v; revert v; refine Keeps.all ?_; intro v hv)
    | (with_reducible apply Keeps.ite) | (with_reducible apply State.sendNorm_keeps)
    | (with_reducible apply State.stepFail_keeps)

theorem sealSend_keeps {r0 s : State} (hk : Keeps r0 s) :
    Keeps r0 (sealSend s) := by
  unfold sealSend
  repeat' first
    | (with_reducible assumption) | ((try lift_lets); intro v; dsimp only [v]; clear v)
    | (with_reducible apply Keeps.ite) | (with_reducible apply State.raiseResidue_keeps)
    | (with_reducible apply State.stepFail_keeps) | (with_reducible apply State.setPhase_keeps)
    | (with_reducible apply State.sendVote_keeps) | (with_reducible apply State.keepRec_keeps)
    | (with_reducible apply State.judgeSeal_keeps) | (with_reducible apply State.judgeBad_keeps) | dsimp only
    | (with_reducible refine Keeps.made ?_ ?_ ?_ ?_ ?_ ?_ ?_ ?_ ?_ ?_)

theorem pass1Start_keeps {r0 s : State} (hk : Keeps r0 s) :
    Keeps r0 (pass1Start s) := by
  unfold pass1Start
  repeat' first
    | (with_reducible assumption) | (refine fun _ _ h => ?_) | (with_reducible apply Keeps.ite)
    | (with_reducible apply State.setAu_keeps) | (with_reducible apply State.raise_keeps) | dsimp only
    | (with_reducible refine Keeps.foldl _ ?_ _ _ ?_)

theorem State.heldGrad_keeps {r0 s : State} (hk : Keeps r0 s) (r : Region) (first : Nat) (n : Nat) :
    Keeps r0 (State.heldGrad s r first n).2.2 := by
  unfold State.heldGrad
  repeat' first
    | (with_reducible assumption) | (refine fun _ _ h => ?_) | (with_reducible apply State.readStored_keeps)
    | dsimp only | (with_reducible refine Keeps.foldl3 _ ?_ _ _ ?_) | (with_reducible apply Keeps.ite3)

theorem State.evalBatch_keeps {r0 s : State} (hk : Keeps r0 s) (g : Nat) (u : DramUser) (r : Region) (first : Nat) (gh : List W32) :
    Keeps r0 (State.evalBatch s g u r first gh).2 := by
  unfold State.evalBatch
  repeat' first
    | (with_reducible assumption) | ((try lift_lets); intro v; dsimp only [v]; clear v)
    | (with_reducible apply Keeps.ite) | (with_reducible apply State.readStored_keeps)
    | (with_reducible apply State.setAu_keeps) | (with_reducible apply State.raise_keeps) | dsimp only | split

theorem State.writeBatch_keeps {r0 s : State} (hk : Keeps r0 s) (g : Nat) (r : Region) (first : Nat) (b : Batch) :
    Keeps r0 (State.writeBatch s g r first b) := by
  unfold State.writeBatch
  repeat' first
    | (with_reducible assumption) | ((try lift_lets); intro v; dsimp only [v]; clear v)
    | (with_reducible apply State.writeStored_keeps) | split

theorem State.fillGaps_keeps {r0 s : State} (hk : Keeps r0 s) (r : Region) :
    Keeps r0 (State.fillGaps s r) := by
  unfold State.fillGaps
  repeat' first
    | (with_reducible assumption) | (refine fun _ _ h => ?_) | (with_reducible apply State.auStore_keeps) | dsimp only
    | (with_reducible refine Keeps.foldl _ ?_ _ _ ?_)

theorem State.sealPlanes_keeps {r0 s : State} (hk : Keeps r0 s) (r : Region) :
    Keeps r0 (State.sealPlanes s r) := by
  unfold State.sealPlanes
  repeat' first
    | (with_reducible assumption) | ((try lift_lets); intro v; dsimp only [v]; clear v)
    | (with_reducible apply State.fillGaps_keeps) | (with_reducible apply State.settle_keeps)

theorem State.copyForward_keeps {r0 s : State} (hk : Keeps r0 s) (r : Region) (first : Nat) (n : Nat) :
    Keeps r0 (State.copyForward s r first n) := by
  unfold State.copyForward
  repeat' first
    | (with_reducible assumption) | (refine fun _ _ h => ?_) | ((try lift_lets); intro v; dsimp only [v]; clear v)
    | (with_reducible apply Keeps.ite) | (with_reducible apply State.spaceRead_keeps)
    | (with_reducible apply State.raise_keeps) | (with_reducible apply State.auStore_keeps)
    | (with_reducible refine Keeps.foldl _ ?_ _ _ ?_)

theorem State.rowBit_keeps {r0 s : State} (hk : Keeps r0 s) (r : Region) (which : Nat) (row : Nat) :
    Keeps r0 (State.rowBit s r which row).2 := by
  unfold State.rowBit
  repeat' first
    | (with_reducible assumption) | (with_reducible apply State.dramRead_keeps)

theorem State.setRowBit_keeps {r0 s : State} (hk : Keeps r0 s) (r : Region) (which : Nat) (row : Nat) (b : Bool) :
    Keeps r0 (State.setRowBit s r which row b) := by
  unfold State.setRowBit
  repeat' first
    | (with_reducible assumption) | (with_reducible apply Keeps.ite) | (with_reducible apply State.dramWrite_keeps)

theorem State.setDbit_keeps {r0 s : State} (hk : Keeps r0 s) (r : Region) (b : Bool) :
    Keeps r0 (State.setDbit s r b) := by
  unfold State.setDbit
  repeat' first
    | (with_reducible assumption) | ((try lift_lets); intro v; dsimp only [v]; clear v) | dsimp only | split
    | (with_reducible refine Keeps.made ?_ ?_ ?_ ?_ ?_ ?_ ?_ ?_ ?_ ?_)

theorem State.masters_keeps {r0 s : State} (hk : Keeps r0 s) (r : Region) (n : Nat) :
    Keeps r0 (State.masters s r n).2 := by
  unfold State.masters
  repeat' first
    | (with_reducible assumption) | (refine fun _ _ h => ?_) | (with_reducible apply State.spaceRead_keeps)
    | dsimp only | (with_reducible refine Keeps.foldl3 _ ?_ _ _ ?_)

theorem Mu.wf_foldPoison {b : Nat} : ∀ (l : List Nat) {m : Mu}, Memory.wf m.sram = true →
    Memory.wf (l.foldl (fun u t => u.setPoison (b + t) true) m).sram = true
  | [], _, h => h
  | _ :: l, _, h => Mu.wf_foldPoison l (Mu.wf_setPoison h _ _)

theorem State.regenWhole_keeps {r0 s : State} (hk : Keeps r0 s) (r : Region) (cd : CopyDesc) (m : Masters) :
    Keeps r0 (State.regenWhole s r cd m).2 := by
  unfold State.regenWhole
  have hf : ∀ (b : Nat) (ps : List (Nat × List Byte)), Keeps r0 (ps.foldl
      (fun s (x : Nat × List Byte) => s.muWrite cd.plat cd.mu (b * 512 + x.1) (padRow x.2) false) s) := fun b ps =>
    Keeps.foldl _ (fun _ _ h => State.muWrite_keeps h _ _ _ _ _) _ _ hk
  exact State.setMu_keeps (hf _ _) _ _ _ (fun x => Mu.wf_foldPoison _ (Keeps.mu (hf _ _) _ _ x))

theorem State.regenRow_keeps {r0 s : State} (hk : Keeps r0 s) (r : Region) (cd : CopyDesc) (m : Masters) (i : Nat) :
    Keeps r0 (State.regenRow s r cd m i).2 := by
  unfold State.regenRow
  repeat' first
    | (with_reducible assumption) | (refine fun _ _ h => ?_) | ((try lift_lets); intro v; dsimp only [v]; clear v)
    | (with_reducible apply State.muWrite_keeps) | (with_reducible refine Keeps.foldl _ ?_ _ _ ?_)

theorem State.regenCopy_keeps {r0 s : State} (hk : Keeps r0 s) (r : Region) (cd : CopyDesc) (m : Masters) (row : Option Nat) :
    Keeps r0 (State.regenCopy s r cd m row).2 := by
  unfold State.regenCopy
  repeat' first
    | (with_reducible assumption) | (with_reducible apply State.regenWhole_keeps)
    | (with_reducible apply State.regenRow_keeps) | (with_reducible apply Keeps.ite2) | split

theorem State.gather_keeps {r0 s : State} (hk : Keeps r0 s) (cd : CopyDesc) (rows : List Nat) :
    Keeps r0 (State.gather s cd rows) := by
  unfold State.gather
  repeat' first
    | (with_reducible assumption) | (refine fun _ _ h => ?_) | ((try lift_lets); intro v; dsimp only [v]; clear v)
    | (with_reducible apply Keeps.ite) | (with_reducible apply State.request_keeps)
    | (with_reducible refine Keeps.foldl _ ?_ _ _ ?_)

theorem State.regenWritten_keeps {r0 s : State} (hk : Keeps r0 s) (r : Region) (row : Option Nat) :
    Keeps r0 (State.regenWritten s r row) := by
  unfold State.regenWritten
  repeat' first
    | (with_reducible assumption) | ((try lift_lets); intro v; dsimp only [v]; clear v)
    | (with_reducible apply Keeps.ite) | (with_reducible apply State.regenCopy_keeps)
    | (with_reducible apply State.gather_keeps)

theorem State.regenAll_keeps {r0 s : State} (hk : Keeps r0 s) :
    Keeps r0 (State.regenAll s) := by
  unfold State.regenAll
  repeat' first
    | (with_reducible assumption) | (refine fun _ _ h => ?_) | (with_reducible apply State.masters_keeps)
    | (with_reducible apply State.regenCopy_keeps) | dsimp only | (with_reducible refine Keeps.foldl _ ?_ _ _ ?_)

theorem State.forwardRow_keeps {r0 s : State} (hk : Keeps r0 s) (r : Region) (row : Nat) :
    Keeps r0 (State.forwardRow s r row) := by
  unfold State.forwardRow
  repeat' first
    | (with_reducible assumption)
    | ((try lift_lets); intro v; refine Keeps.cut (r := r0) (s := v) ?_ ?_; dsimp only [v]; clear v;
       rotate_left; intro hv; clear_value v; revert v; refine Keeps.all ?_; intro v hv)
    | (with_reducible apply Keeps.ite) | (with_reducible apply State.copyForward_keeps)
    | (with_reducible apply State.setRowBit_keeps)

theorem State.evalSlot_keeps {r0 s : State} (hk : Keeps r0 s) (g : Nat) (r : Region) (p : Piece) (slot : Nat) (row : Nat) :
    Keeps r0 (State.evalSlot s g r p slot row) := by
  unfold State.evalSlot
  repeat' first
    | (with_reducible assumption)
    | ((try lift_lets); intro v; refine Keeps.cut (r := r0) (s := v) ?_ ?_; dsimp only [v]; clear v;
       rotate_left; intro hv; clear_value v; revert v; refine Keeps.all ?_; intro v hv)
    | (with_reducible apply Keeps.ite) | (with_reducible apply State.readStored_keeps)
    | (with_reducible apply State.evalBatch_keeps) | (with_reducible apply State.rowBit_keeps)
    | (with_reducible apply State.forwardRow_keeps) | (with_reducible apply State.writeBatch_keeps)
    | (with_reducible apply State.setRowBit_keeps) | (with_reducible apply State.regenWritten_keeps)

theorem State.copyClean_keeps {r0 s : State} (hk : Keeps r0 s) (r : Region) :
    Keeps r0 (State.copyClean s r) := by
  unfold State.copyClean
  repeat' first
    | (with_reducible assumption) | (refine fun _ _ h => ?_)
    | (refine fun (x : ∀ e ∈ r0.mus, Memory.wf e.2.sram = true) => ?_)
    | (with_reducible refine Keeps.mu ?_ _ _ (by with_reducible assumption)) | (with_reducible apply Keeps.ite)
    | (with_reducible apply State.setMu_keeps) | dsimp only | (with_reducible refine Keeps.foldl _ ?_ _ _ ?_) | split

theorem State.sparseTail_keeps {r0 s : State} (hk : Keeps r0 s) (r : Region) :
    Keeps r0 (State.sparseTail s r) := by
  unfold State.sparseTail
  repeat' first
    | (with_reducible assumption) | (refine fun _ _ h => ?_) | (with_reducible apply Keeps.ite)
    | (with_reducible apply State.rowBit_keeps) | (with_reducible apply State.forwardRow_keeps)
    | (with_reducible apply State.copyClean_keeps) | dsimp only | (with_reducible refine Keeps.foldl _ ?_ _ _ ?_)

theorem State.closeRegion_keeps {r0 s : State} (hk : Keeps r0 s) (g : Nat) (r : Region) :
    Keeps r0 (State.closeRegion s g r) := by
  unfold State.closeRegion
  repeat' first
    | (with_reducible assumption) | (with_reducible apply Keeps.ite) | (with_reducible apply State.sparseTail_keeps)
    | (with_reducible apply State.sealPlanes_keeps) | (with_reducible apply State.setDbit_keeps)
    | (with_reducible apply State.fillGaps_keeps) | (with_reducible apply State.regenWritten_keeps)

theorem State.endRegion_keeps {r0 s : State} (hk : Keeps r0 s) (g : Nat) (r : Region) :
    Keeps r0 (State.endRegion s g r) := by
  unfold State.endRegion
  repeat' first
    | (with_reducible assumption) | (with_reducible apply Keeps.ite) | (with_reducible apply State.setAu_keeps)
    | (with_reducible apply State.closeRegion_keeps)

theorem State.denseBatch_keeps {r0 s : State} (hk : Keeps r0 s) (g : Nat) (r : Region) :
    Keeps r0 (State.denseBatch s g r) := by
  unfold State.denseBatch
  repeat' first
    | (with_reducible assumption)
    | ((try lift_lets); intro v; refine Keeps.cut (r := r0) (s := v) ?_ ?_; dsimp only [v]; clear v;
       rotate_left; intro hv; clear_value v; revert v; refine Keeps.all ?_; intro v hv)
    | ((try lift_lets); intro v; dsimp only [v]; clear v) | (with_reducible apply Keeps.ite)
    | (with_reducible apply State.heldGrad_keeps) | (with_reducible apply State.evalBatch_keeps)
    | (with_reducible apply State.copyForward_keeps) | (with_reducible apply State.writeBatch_keeps)
    | (with_reducible apply State.setDbit_keeps) | (with_reducible apply State.setAu_keeps)

theorem State.sparseSlot_keeps {r0 s : State} (hk : Keeps r0 s) (g : Nat) (r : Region) :
    Keeps r0 (State.sparseSlot s g r) := by
  unfold State.sparseSlot
  repeat' first
    | (with_reducible assumption) | (with_reducible apply Keeps.ite) | (with_reducible apply State.setAu_keeps)
    | (with_reducible apply State.raise_keeps) | (with_reducible apply State.evalSlot_keeps) | dsimp only | split

theorem auElementEvaluate_keeps {r0 s : State} (hk : Keeps r0 s) (g : Nat) (ups : List Upset) :
    Keeps r0 (auElementEvaluate g ups s) := by
  unfold auElementEvaluate
  repeat' first
    | (with_reducible assumption)
    | ((try lift_lets); intro v; refine Keeps.cut (r := r0) (s := v) ?_ ?_; dsimp only [v]; clear v;
       rotate_left; intro hv; clear_value v; revert v; refine Keeps.all ?_; intro v hv)
    | (with_reducible apply Keeps.ite) | (with_reducible apply State.strikes_keeps)
    | (with_reducible apply State.setAu_keeps) | (with_reducible apply State.endRegion_keeps)
    | (with_reducible apply State.sparseSlot_keeps) | (with_reducible apply State.denseBatch_keeps) | split

theorem parkedSlotEvaluate_keeps {r0 s : State} (hk : Keeps r0 s) (g : Nat) (slot : Nat) (ups : List Upset) :
    Keeps r0 (parkedSlotEvaluate g slot ups s) := by
  unfold parkedSlotEvaluate
  repeat' first
    | (with_reducible assumption) | (with_reducible apply Keeps.ite) | (with_reducible apply State.strikes_keeps)
    | (with_reducible apply State.setAu_keeps) | (with_reducible apply State.evalSlot_keeps)
    | (with_reducible apply State.closeRegion_keeps) | dsimp only | split

theorem State.judgeGate_keeps {r0 s : State} (hk : Keeps r0 s) :
    Keeps r0 (State.judgeGate s) := by
  unfold State.judgeGate
  repeat' first
    | (with_reducible assumption) | ((try lift_lets); intro v; dsimp only [v]; clear v)
    | (with_reducible apply Keeps.ite) | dsimp only | (with_reducible refine Keeps.made ?_ ?_ ?_ ?_ ?_ ?_ ?_ ?_ ?_ ?_)

theorem State.judge_keeps {r0 s : State} (hk : Keeps r0 s) :
    Keeps r0 (State.judge s) := by
  unfold State.judge
  repeat' first
    | (with_reducible assumption) | (with_reducible apply State.judgeBad_keeps)
    | (with_reducible apply State.judgeSeal_keeps) | (with_reducible apply State.judgeGate_keeps)

theorem gateSend_keeps {r0 s : State} (hk : Keeps r0 s) :
    Keeps r0 (gateSend s) := by
  unfold gateSend
  repeat' first
    | (with_reducible assumption) | ((try lift_lets); intro v; dsimp only [v]; clear v)
    | (with_reducible apply Keeps.ite) | (with_reducible apply State.setPhase_keeps)
    | (with_reducible apply State.sendVote_keeps) | (with_reducible apply State.keepRec_keeps)
    | (with_reducible apply State.judge_keeps) | dsimp only
    | (with_reducible refine Keeps.made ?_ ?_ ?_ ?_ ?_ ?_ ?_ ?_ ?_ ?_)

theorem commitSend_keeps {r0 s : State} (hk : Keeps r0 s) :
    Keeps r0 (commitSend s) := by
  unfold commitSend
  repeat' first
    | (with_reducible assumption) | ((try lift_lets); intro v; dsimp only [v]; clear v)
    | (with_reducible apply Keeps.ite) | (with_reducible apply State.setPhase_keeps)
    | (with_reducible apply State.sendVote_keeps) | (with_reducible apply State.keepRec_keeps) | dsimp only
    | (with_reducible refine Keeps.made ?_ ?_ ?_ ?_ ?_ ?_ ?_ ?_ ?_ ?_)

theorem exchangeTimeout_keeps {r0 s : State} (hk : Keeps r0 s) :
    Keeps r0 (exchangeTimeout s) := by
  unfold exchangeTimeout
  repeat' first
    | (with_reducible assumption) | (with_reducible apply Keeps.ite) | (with_reducible apply State.exchFail_keeps)
    | split

theorem State.exchRecord_keeps {r0 s : State} (hk : Keeps r0 s) (r : NormRec) :
    Keeps r0 (State.exchRecord s r) := by
  unfold State.exchRecord
  repeat' first
    | (with_reducible assumption) | ((try lift_lets); intro v; dsimp only [v]; clear v)
    | (with_reducible apply Keeps.ite) | (with_reducible apply State.keepRec_keeps)
    | (with_reducible apply State.judge_keeps) | dsimp only
    | (with_reducible refine Keeps.made ?_ ?_ ?_ ?_ ?_ ?_ ?_ ?_ ?_ ?_)

end Sys2Proof.Machine
end

