-- ==== Sys2Proof/Laws/KeepsCmdOps.lean ====
section
/-! SUPPORT. What the operations of Machine/CmdOps.lean keep. -/
namespace Sys2Proof.Machine

theorem State.admission_keeps {r0 s : State} (hk : Keeps r0 s) (a : Arrival) (c : Code) :
    Keeps r0 (State.admission s a c) := by
  unfold State.admission
  repeat' first
    | (with_reducible assumption) | ((try lift_lets); intro v; dsimp only [v]; clear v)
    | (with_reducible apply Keeps.ite) | dsimp only | (with_reducible refine Keeps.made ?_ ?_ ?_ ?_ ?_ ?_ ?_ ?_ ?_ ?_)

theorem State.reject_keeps {r0 s : State} (hk : Keeps r0 s) (w : CmdWord) (a : Arrival) (c : Code) :
    Keeps r0 (State.reject s w a c) := by
  unfold State.reject
  repeat' first
    | (with_reducible assumption) | (with_reducible apply State.admission_keeps)
    | (with_reducible apply State.finish_keeps)

theorem State.logConflict_keeps {r0 s : State} (hk : Keeps r0 s) (w : CmdWord) (org : Origin) (port : Nat) (r : Rival) :
    Keeps r0 (State.logConflict s w org port r) := by
  unfold State.logConflict
  repeat' first
    | (with_reducible assumption) | ((try lift_lets); intro v; dsimp only [v]; clear v)
    | (with_reducible apply State.raise_keeps) | dsimp only | split
    | (with_reducible refine Keeps.made ?_ ?_ ?_ ?_ ?_ ?_ ?_ ?_ ?_ ?_)

theorem State.outdo_keeps {r0 s : State} (hk : Keeps r0 s) (r : Rival) (h : Held) :
    Keeps r0 (State.outdo s r h) := by
  unfold State.outdo
  repeat' first
    | (with_reducible assumption) | ((try lift_lets); intro v; dsimp only [v]; clear v)
    | (with_reducible apply Keeps.ite) | (with_reducible apply State.logConflict_keeps)
    | (with_reducible apply State.complete_keeps) | dsimp only
    | (with_reducible refine Keeps.made ?_ ?_ ?_ ?_ ?_ ?_ ?_ ?_ ?_ ?_)

theorem State.runOrder_keeps {r0 s : State} (hk : Keeps r0 s) (id : Nat) (eff : Nat → State → State × Option Reply) (heff : ∀ x0 u, Keeps r0 u → Keeps r0 (eff x0 u).1) :
    Keeps r0 (State.runOrder s id eff) := by
  unfold State.runOrder
  repeat' first
    | (with_reducible assumption) | ((try lift_lets); intro v; dsimp only [v]; clear v) | (with_reducible apply heff)
    | (with_reducible apply State.complete_keeps) | dsimp only | split
    | (with_reducible refine Keeps.made ?_ ?_ ?_ ?_ ?_ ?_ ?_ ?_ ?_ ?_)

theorem State.cmdHere_keeps {r0 s : State} (hk : Keeps r0 s) (op : W16) (o : Order) (size : Nat) (eff : Nat → State → State × Option Reply) (seen : SecSeen) (heff : ∀ x0 u, Keeps r0 u → Keeps r0 (eff x0 u).1) :
    Keeps r0 (State.cmdHere s op o size eff seen) := by
  unfold State.cmdHere
  repeat' first
    | (with_reducible assumption) | (refine fun _ _ h => ?_)
    | ((try lift_lets); intro v; refine Keeps.cut (r := r0) (s := v) ?_ ?_; dsimp only [v]; clear v;
       rotate_left; intro hv; clear_value v; revert v; refine Keeps.all ?_; intro v hv)
    | ((try lift_lets); intro v; dsimp only [v]; clear v) | (with_reducible apply Keeps.ite)
    | (with_reducible apply State.admission_keeps) | (with_reducible apply State.sendCpl_keeps)
    | (with_reducible apply State.setSlot_keeps) | (with_reducible apply State.reject_keeps)
    | (with_reducible apply State.noteOrder_keeps) | (with_reducible apply State.logConflict_keeps)
    | (with_reducible apply State.outdo_keeps) | (with_reducible apply State.runOrder_keeps) | dsimp only
    | (with_reducible refine Keeps.foldl _ ?_ _ _ ?_) | split
    | (with_reducible refine Keeps.made ?_ ?_ ?_ ?_ ?_ ?_ ?_ ?_ ?_ ?_)

theorem State.cmdArrive_keeps {r0 s : State} (hk : Keeps r0 s) (op : W16) (o : Order) (size : Nat) (eff : Nat → State → State × Option Reply) (seen : SecSeen) (heff : ∀ x0 u, Keeps r0 u → Keeps r0 (eff x0 u).1) :
    Keeps r0 (State.cmdArrive s op o size eff seen) := by
  unfold State.cmdArrive
  repeat' first
    | (with_reducible assumption) | (refine fun _ _ h => ?_) | (with_reducible apply Keeps.ite)
    | (with_reducible apply State.take_keeps) | (with_reducible apply State.cmdHere_keeps) | split

theorem State.notify_keeps {r0 s : State} (hk : Keeps r0 s) (n : Notice) : Keeps r0 (s.notify n) := by
  unfold State.notify
  split
  · exact State.send_keeps hk _
  · split
    · rename_i h
      refine { hk with notices := fun _ => ?_ }
      show (s.cmd.notices ++ [n]).length ≤ 64
      simp only [List.length_append, List.length_singleton]
      omega
    · exact hk.rest rfl rfl rfl

end Sys2Proof.Machine
end

