-- ==== Sys2Proof/Laws/KeepsAdjCmds.lean ====
section
/-! SUPPORT. What the operations of Machine/AdjCmds.lean keep. -/
namespace Sys2Proof.Machine

theorem State.coefEntry_keeps {r0 s : State} (hk : Keeps r0 s) (w : BitVec 128) :
    Keeps r0 (State.coefEntry s w).2 := by
  unfold State.coefEntry
  repeat' first
    | (with_reducible assumption) | dsimp only | (with_reducible apply Keeps.ite2)
    | (with_reducible refine Keeps.made ?_ ?_ ?_ ?_ ?_ ?_ ?_ ?_ ?_ ?_)

theorem State.coefSetApply_keeps {r0 s : State} (hk : Keeps r0 s) (w : CmdWord) :
    Keeps r0 (State.coefSetApply s w).1 := by
  unfold State.coefSetApply
  repeat' first
    | (with_reducible assumption) | (with_reducible apply State.coefEntry_keeps) | dsimp only
    | (with_reducible apply Keeps.ite1)

theorem coefSetEff_keeps {r0 s : State} (hk : Keeps r0 s) (w : CmdWord) :
    Keeps r0 (coefSetEff w s).1 := by
  unfold coefSetEff
  repeat' first
    | (with_reducible assumption) | (with_reducible apply State.coefSetApply_keeps)

theorem coefSet_keeps {r0 s : State} (hk : Keeps r0 s) (o : Order) :
    Keeps r0 (coefSet o s) := by
  unfold coefSet
  repeat' first
    | (with_reducible assumption) | (refine fun _ _ h => ?_) | (with_reducible apply State.cmdArrive_keeps)
    | (with_reducible apply coefSetEff_keeps)

theorem State.freezeApply_keeps {r0 s : State} (hk : Keeps r0 s) (w : CmdWord) :
    Keeps r0 (State.freezeApply s w).1 := by
  unfold State.freezeApply
  repeat' first
    | (with_reducible assumption) | dsimp only | (with_reducible apply Keeps.ite1)
    | (with_reducible refine Keeps.made ?_ ?_ ?_ ?_ ?_ ?_ ?_ ?_ ?_ ?_)

theorem freezeSetEff_keeps {r0 s : State} (hk : Keeps r0 s) (w : CmdWord) :
    Keeps r0 (freezeSetEff w s).1 := by
  unfold freezeSetEff
  repeat' first
    | (with_reducible assumption) | (with_reducible apply State.freezeApply_keeps)

theorem freezeSet_keeps {r0 s : State} (hk : Keeps r0 s) (o : Order) :
    Keeps r0 (freezeSet o s) := by
  unfold freezeSet
  repeat' first
    | (with_reducible assumption) | (refine fun _ _ h => ?_) | (with_reducible apply State.cmdArrive_keeps)
    | (with_reducible apply freezeSetEff_keeps)

theorem State.applyFreezes_keeps {r0 s : State} (hk : Keeps r0 s) :
    Keeps r0 (State.applyFreezes s) := by
  unfold State.applyFreezes
  repeat' first
    | (with_reducible assumption) | ((try lift_lets); intro v; dsimp only [v]; clear v) | dsimp only
    | (with_reducible refine Keeps.made ?_ ?_ ?_ ?_ ?_ ?_ ?_ ?_ ?_ ?_)

theorem auStepWrite_keeps {r0 s : State} (hk : Keeps r0 s) (g : Nat) (v : W64) :
    Keeps r0 (auStepWrite g v s) := by
  unfold auStepWrite
  repeat' first
    | (with_reducible assumption) | ((try lift_lets); intro v; dsimp only [v]; clear v)
    | (with_reducible apply Keeps.ite) | (with_reducible apply State.setAu_keeps)

end Sys2Proof.Machine
end

