-- ==== Sys2Proof/Laws/KeepsTokens.lean ====
section
/-! SUPPORT. What the operations of Machine/Tokens.lean keep. -/
namespace Sys2Proof.Machine

theorem State.pushLink_keeps {r0 s : State} (hk : Keeps r0 s) (p : Nat) (site : Nat) (net : Nat) (chan : Nat) (t : Tok) :
    Keeps r0 (State.pushLink s p site net chan t) := by
  unfold State.pushLink
  repeat' first
    | (with_reducible assumption) | ((try lift_lets); intro v; dsimp only [v]; clear v)
    | (with_reducible apply State.setSw_keeps)

theorem State.injectEvent_keeps {r0 s : State} (hk : Keeps r0 s) (p : Nat) (site : Nat) (tag : Nat) :
    Keeps r0 (State.injectEvent s p site tag) := by
  unfold State.injectEvent
  repeat' first
    | (with_reducible assumption) | (with_reducible apply State.pushLink_keeps)

end Sys2Proof.Machine
end

