-- ==== Sys2Proof/Laws/KeepsBenchmarks.lean ====
section
/-! SUPPORT. What the operations of Machine/Benchmarks.lean keep. -/
namespace Sys2Proof.Machine

theorem State.armedAction_keeps {r0 s : State} (hk : Keeps r0 s) (i : Nat) (b : Bmk) :
    Keeps r0 (State.armedAction s i b) := by
  unfold State.armedAction
  repeat' first
    | (with_reducible assumption) | (with_reducible apply Keeps.ite) | (with_reducible apply State.injectEvent_keeps)
    | (with_reducible apply State.notify_keeps)

theorem State.releaseWaits_keeps {r0 s : State} (hk : Keeps r0 s) (i : Nat) :
    Keeps r0 (State.releaseWaits s i) := by
  unfold State.releaseWaits
  repeat' first
    | (with_reducible assumption) | (refine fun _ _ h => ?_) | ((try lift_lets); intro v; dsimp only [v]; clear v)
    | (with_reducible apply State.setPlat_keeps) | (with_reducible apply State.waitReply_keeps)
    | (with_reducible refine Keeps.foldl _ ?_ _ _ ?_)

theorem State.bmkEval_keeps {r0 s : State} (hk : Keeps r0 s) (i : Nat) :
    Keeps r0 (State.bmkEval s i) := by
  unfold State.bmkEval
  repeat' first
    | (with_reducible assumption) | (refine fun _ _ h => ?_) | ((try lift_lets); intro v; dsimp only [v]; clear v)
    | (with_reducible apply State.setBmk_keeps) | (with_reducible apply State.armedAction_keeps)
    | (with_reducible apply State.releaseWaits_keeps) | (with_reducible refine Keeps.foldl _ ?_ _ _ ?_)

theorem State.countOp_keeps {r0 s : State} (hk : Keeps r0 s) (i : Nat) :
    Keeps r0 (State.countOp s i) := by
  unfold State.countOp
  repeat' first
    | (with_reducible assumption) | ((try lift_lets); intro v; dsimp only [v]; clear v)
    | (with_reducible apply State.setPlat_keeps)

theorem State.bmkAdd_keeps {r0 s : State} (hk : Keeps r0 s) (i : Nat) (v : W32) :
    Keeps r0 (State.bmkAdd s i v) := by
  unfold State.bmkAdd
  repeat' first
    | (with_reducible assumption) | ((try lift_lets); intro v; dsimp only [v]; clear v)
    | (with_reducible apply State.countOp_keeps) | (with_reducible apply State.setBmk_keeps)
    | (with_reducible apply State.bmkEval_keeps)

theorem State.bmkAfter_keeps {r0 s : State} (hk : Keeps r0 s) (i : Nat) (op : BmkOp) :
    Keeps r0 (State.bmkAfter s i op) := by
  unfold State.bmkAfter
  repeat' first
    | (with_reducible assumption) | (with_reducible apply Keeps.ite) | (with_reducible apply State.bmkEval_keeps)
    | split

theorem State.bmkApply_keeps {r0 s : State} (hk : Keeps r0 s) (src : BmkSrc) (i : Nat) (op : BmkOp) :
    Keeps r0 (State.bmkApply s src i op).1 := by
  unfold State.bmkApply
  repeat' first
    | (with_reducible assumption) | (with_reducible apply State.countOp_keeps)
    | (with_reducible apply State.setBmk_keeps) | (with_reducible apply State.setPlat_keeps) | dsimp only
    | (with_reducible apply Keeps.ite1) | split

theorem State.bmkDeny_keeps {r0 s : State} (hk : Keeps r0 s) (dev : W16) (i : Nat) (op : BmkOp) :
    Keeps r0 (State.bmkDeny s dev i op) := by
  unfold State.bmkDeny
  repeat' first
    | (with_reducible assumption) | ((try lift_lets); intro v; dsimp only [v]; clear v)
    | (with_reducible apply State.setPlat_keeps) | (with_reducible apply State.raise_keeps)

theorem State.bmkDo_keeps {r0 s : State} (hk : Keeps r0 s) (src : BmkSrc) (i : Nat) (op : BmkOp) :
    Keeps r0 (State.bmkDo s src i op) := by
  unfold State.bmkDo
  repeat' first
    | (with_reducible assumption) | (with_reducible apply Keeps.ite) | (with_reducible apply State.bmkDeny_keeps)
    | (with_reducible apply State.bmkReply_keeps) | (with_reducible apply State.bmkApply_keeps)
    | (with_reducible apply State.bmkAfter_keeps) | dsimp only | (refine Keeps.of1 (by with_reducible assumption) ?_)
    | split

theorem bmkOrder_keeps {r0 s : State} (hk : Keeps r0 s) (id : Nat) (i : Nat) (op : BmkOp) :
    Keeps r0 (bmkOrder id i op s).1 := by
  unfold bmkOrder
  repeat' first
    | (with_reducible assumption) | (with_reducible apply State.bmkApply_keeps)
    | (with_reducible apply State.complete_keeps) | (with_reducible apply State.bmkAfter_keeps) | dsimp only
    | (refine Keeps.of1 (by with_reducible assumption) ?_) | split

theorem bmkOp_keeps {r0 s : State} (hk : Keeps r0 s) (src : BmkSrc) (i : Nat) (op : BmkOp) :
    Keeps r0 (bmkOp src i op s) := by
  unfold bmkOp
  repeat' first
    | (with_reducible assumption) | (refine fun _ _ h => ?_) | (refine fun _ h => ?_)
    | (with_reducible apply State.cmdArrive_keeps) | (with_reducible apply bmkOrder_keeps)
    | (with_reducible apply State.take_keeps) | (with_reducible apply State.bmkDo_keeps)
    | (with_reducible apply State.writeBy_keeps) | (with_reducible apply State.atBlock_keeps) | dsimp only | split

theorem State.restoreBmks_keeps {r0 s : State} (hk : Keeps r0 s) : Keeps r0 s.restoreBmks := by
  unfold State.restoreBmks
  dsimp only
  refine Keeps.foldl _ ?_ _ _ ?_
  · intro u p h
    exact Keeps.foldl _ (fun u w h => State.waitReply_keeps h _ _ _) _ _ (State.setPlat_keeps h _ _)
  · refine { hk with bmks := fun x => ?_ }
    have hf : ∀ (l : List (Nat × W64 × W64)) (m : SMap Bmk), SMap.wf {} m = true → SMap.wf {} (l.foldl (fun (m : SMap Bmk) x =>
        if (SMap.get {} s.bmks x.1).keep then m
        else SMap.set {} m x.1 { count := BitVec.ofNat 32 (fld x.2.1 0 32), thr := BitVec.ofNat 32 (fld x.2.1 32 32), mode := BitVec.ofNat 32 (fld x.2.2 0 32) }) m) = true := by
      intro l
      induction l with
      | nil => exact fun m h => h
      | cons a l ih =>
        intro m h
        refine ih _ ?_
        dsimp only
        split
        · exact h
        · exact SMap.wf_set h _ _
    exact hf _ _ (SMap.wf_filter (hk.bmks x) _)

end Sys2Proof.Machine
end

