-- ==== Sys2Proof/Laws/KeepsComputeUnits.lean ====
section
/-! SUPPORT. What the operations of Machine/ComputeUnits.lean keep. -/
namespace Sys2Proof.Machine

theorem State.raiseCu_keeps {r0 s : State} (hk : Keeps r0 s) (cls : FClass) (code : Code) (p : Nat) (n : Nat) :
    Keeps r0 (State.raiseCu s cls code p n) := by
  unfold State.raiseCu
  repeat' first
    | (with_reducible assumption) | (with_reducible apply State.raise_keeps)

theorem State.cuFaulted_keeps {r0 s : State} (hk : Keeps r0 s) (p : Nat) (n : Nat) (code : Code) (bit : Nat) (d : Option TileDesc) :
    Keeps r0 (State.cuFaulted s p n code bit d) := by
  unfold State.cuFaulted
  repeat' first
    | (with_reducible assumption)
    | ((try lift_lets); intro v; refine Keeps.cut (r := r0) (s := v) ?_ ?_; dsimp only [v]; clear v;
       rotate_left; intro hv; clear_value v; revert v; refine Keeps.all ?_; intro v hv)
    | (with_reducible apply State.contain_keeps) | (with_reducible apply State.setCu_keeps)
    | (with_reducible apply State.raiseCu_keeps)

theorem State.packBlock_keeps {r0 s : State} (hk : Keeps r0 s) (f : Fmt) (g : Nat) (nb : Nat) (xs : List VLane) :
    Keeps r0 (State.packBlock s f g nb xs).2 := by
  unfold State.packBlock
  repeat' first
    | (with_reducible assumption) | (with_reducible apply State.freeBytes_keeps) | dsimp only
    | (with_reducible apply Keeps.ite2)

theorem State.cuEmitV_keeps {r0 s : State} (hk : Keeps r0 s) (p : Nat) (n : Nat) (ts : List VIn) :
    Keeps r0 (State.cuEmitV s p n ts) := by
  unfold State.cuEmitV
  repeat' first
    | (with_reducible assumption) | (refine fun _ _ h => ?_) | (with_reducible apply State.pushLink_keeps)
    | (with_reducible refine Keeps.foldl _ ?_ _ _ ?_)

theorem State.cuEmitS_keeps {r0 s : State} (hk : Keeps r0 s) (p : Nat) (n : Nat) (t : SIn) :
    Keeps r0 (State.cuEmitS s p n t) := by
  unfold State.cuEmitS
  repeat' first
    | (with_reducible assumption) | (with_reducible apply State.pushLink_keeps)

theorem kStep_keeps {r0 s : State} (hk : Keeps r0 s) (p : Nat) (n : Nat) (scaleSeen : Bool) :
    Keeps r0 (kStep p n scaleSeen s) := by
  unfold kStep
  repeat' first
    | (with_reducible assumption) | (with_reducible apply Keeps.ite) | (with_reducible apply State.setCu_keeps)
    | (with_reducible apply State.cuFaulted_keeps) | dsimp only | split

theorem tileOperationStart_keeps {r0 s : State} (hk : Keeps r0 s) (p : Nat) (n : Nat) :
    Keeps r0 (tileOperationStart p n s) := by
  unfold tileOperationStart
  repeat' first
    | (with_reducible assumption) | (with_reducible apply Keeps.ite) | (with_reducible apply State.setCu_keeps)
    | (with_reducible apply State.cuFaulted_keeps) | split

theorem checksumComparison_keeps {r0 s : State} (hk : Keeps r0 s) (p : Nat) (n : Nat) (t : Nat) :
    Keeps r0 (checksumComparison p n t s) := by
  unfold checksumComparison
  repeat' first
    | (with_reducible assumption) | (with_reducible apply Keeps.ite) | (with_reducible apply State.setCu_keeps)
    | (with_reducible apply State.raiseCu_keeps)

theorem State.packRow_keeps {r0 s : State} (hk : Keeps r0 s) (c : Cu) (row : List VLane) :
    Keeps r0 (State.packRow s c row).2 := by
  unfold State.packRow
  repeat' first
    | (with_reducible assumption) | (refine fun _ _ h => ?_) | (with_reducible apply State.packBlock_keeps)
    | dsimp only | (with_reducible refine Keeps.foldl2 _ ?_ _ _ ?_)

theorem retireSetReadout_keeps {r0 s : State} (hk : Keeps r0 s) (p : Nat) (n : Nat) :
    Keeps r0 (retireSetReadout p n s) := by
  unfold retireSetReadout
  repeat' first
    | (with_reducible assumption) | (refine fun _ _ h => ?_) | (with_reducible apply Keeps.ite)
    | (with_reducible apply State.setCu_keeps) | (with_reducible apply State.packRow_keeps)
    | (with_reducible apply State.cuEmitV_keeps) | dsimp only | (with_reducible refine Keeps.foldl _ ?_ _ _ ?_)
    | split

theorem readoutComplete_keeps {r0 s : State} (hk : Keeps r0 s) (p : Nat) (n : Nat) :
    Keeps r0 (readoutComplete p n s) := by
  unfold readoutComplete
  repeat' first
    | (with_reducible assumption) | ((try lift_lets); intro v; dsimp only [v]; clear v)
    | (with_reducible apply Keeps.ite) | (with_reducible apply State.setCu_keeps) | split

theorem State.scrubWord_keeps {r0 s : State} (hk : Keeps r0 s) (p : Nat) (n : Nat) (t : Nat) (e : EccKind) :
    Keeps r0 (State.scrubWord s p n t e) := by
  unfold State.scrubWord
  repeat' first
    | (with_reducible assumption) | ((try lift_lets); intro v; dsimp only [v]; clear v)
    | (with_reducible apply Keeps.ite) | (with_reducible apply State.setCu_keeps)
    | (with_reducible apply State.raiseCu_keeps) | split

theorem accumulatorScrub_keeps {r0 s : State} (hk : Keeps r0 s) (p : Nat) (n : Nat) (errs : List (Nat × EccKind)) :
    Keeps r0 (accumulatorScrub p n errs s) := by
  unfold accumulatorScrub
  repeat' first
    | (with_reducible assumption) | (refine fun _ _ h => ?_) | (with_reducible apply Keeps.ite)
    | (with_reducible apply State.scrubWord_keeps) | (with_reducible refine Keeps.foldl _ ?_ _ _ ?_)

theorem State.rowEnd_keeps {r0 s : State} (hk : Keeps r0 s) (p : Nat) (n : Nat) :
    Keeps r0 (State.rowEnd s p n) := by
  unfold State.rowEnd
  repeat' first
    | (with_reducible assumption) | (with_reducible apply Keeps.ite) | (with_reducible apply State.cuEmitS_keeps)
    | (with_reducible apply State.setCu_keeps) | (with_reducible apply State.cuFaulted_keeps)

theorem State.owedLanes_keeps {r0 s : State} (hk : Keeps r0 s) (p n got : Nat) (last : Bool) :
    Keeps r0 (s.owedLanes p n got last).2 := by
  unfold State.owedLanes
  dsimp only
  split
  · exact { hk with free := Nat.le_trans hk.free (Nat.le_add_right _ _) }
  · exact hk

theorem State.stage6_keeps {r0 s : State} (hk : Keeps r0 s) (p : Nat) (n : Nat) (xs : List VLane) (last : Bool) :
    Keeps r0 (State.stage6 s p n xs last) := by
  unfold State.stage6
  repeat' first
    | (with_reducible assumption) | (refine fun _ _ h => ?_) | ((try lift_lets); intro v; dsimp only [v]; clear v)
    | (with_reducible apply Keeps.ite) | (with_reducible apply State.owedLanes_keeps)
    | (with_reducible apply State.setCu_keeps) | (with_reducible apply State.packBlock_keeps)
    | (with_reducible apply State.cuEmitV_keeps) | (with_reducible refine Keeps.foldl2 _ ?_ _ _ ?_)

theorem State.beatRun_keeps {r0 s : State} (hk : Keeps r0 s) (p : Nat) (n : Nat) (b : Beat) (ys : List VLane) :
    Keeps r0 (State.beatRun s p n b ys) := by
  unfold State.beatRun
  repeat' first
    | (with_reducible assumption) | (with_reducible apply Keeps.ite) | (with_reducible apply State.setCu_keeps)
    | (with_reducible apply State.stage6_keeps) | (with_reducible apply State.rowEnd_keeps)

theorem State.vecAdvance_keeps {r0 : State} (p n : Nat) : ∀ (k : Nat) {s : State}, Keeps r0 s → Keeps r0 (s.vecAdvance p n k)
  | 0, _, h => h
  | k + 1, s, h => by
    have go : ∀ {u : State}, Keeps r0 u → ∀ b ys c, Keeps r0 (((u.setCu p n c).beatRun p n b ys).vecAdvance p n k) :=
      fun hu b ys c => State.vecAdvance_keeps p n k (State.beatRun_keeps (State.setCu_keeps hu _ _ _) _ _ _ _)
    unfold State.vecAdvance
    dsimp only
    split
    · exact h
    · refine Keeps.ite h (Keeps.ite ?_ (go h _ _ _))
      split
      · exact h
      · exact Keeps.ite (go (State.cuFaulted_keeps h _ _ _ _ _) _ _ _) (go h _ _ _)

theorem State.vecFaulted_keeps {r0 s : State} (hk : Keeps r0 s) (p : Nat) (n : Nat) :
    Keeps r0 (State.vecFaulted s p n) := by
  unfold State.vecFaulted
  repeat' first
    | (with_reducible assumption)
    | ((try lift_lets); intro v; refine Keeps.cut (r := r0) (s := v) ?_ ?_; dsimp only [v]; clear v;
       rotate_left; intro hv; clear_value v; revert v; refine Keeps.all ?_; intro v hv)
    | (with_reducible apply State.cuFaulted_keeps) | (with_reducible apply State.vecAdvance_keeps)

theorem rowStreamToken_keeps {r0 s : State} (hk : Keeps r0 s) (p : Nat) (n : Nat) (streamY : Bool) :
    Keeps r0 (rowStreamToken p n streamY s) := by
  unfold rowStreamToken
  repeat' first
    | (with_reducible assumption) | (with_reducible apply Keeps.ite) | (with_reducible apply State.setCu_keeps)
    | (with_reducible apply State.vecFaulted_keeps) | (with_reducible apply State.vecAdvance_keeps) | dsimp only
    | split

theorem scalarInputArrival_keeps {r0 s : State} (hk : Keeps r0 s) (p : Nat) (n : Nat) :
    Keeps r0 (scalarInputArrival p n s) := by
  unfold scalarInputArrival
  repeat' first
    | (with_reducible assumption) | (with_reducible apply Keeps.ite) | (with_reducible apply State.setCu_keeps)
    | (with_reducible apply State.vecFaulted_keeps) | (with_reducible apply State.vecAdvance_keeps) | dsimp only
    | split

end Sys2Proof.Machine
end

