-- ==== Sys2Proof/Laws/KeepsDatum.lean ====
section
/-! SUPPORT. What the operations of Machine/Datum.lean keep. -/
namespace Sys2Proof.Machine

theorem State.setPlls_keeps {r0 s : State} (hk : Keeps r0 s) (f : Pll → Pll) :
    Keeps r0 (State.setPlls s f) := by
  unfold State.setPlls
  repeat' first
    | (with_reducible assumption) | ((try lift_lets); intro v; dsimp only [v]; clear v) | dsimp only
    | (with_reducible refine Keeps.made ?_ ?_ ?_ ?_ ?_ ?_ ?_ ?_ ?_ ?_)

theorem State.meterJudge_keeps {r0 s : State} (hk : Keeps r0 s) :
    Keeps r0 (State.meterJudge s) := by
  unfold State.meterJudge
  repeat' first
    | (with_reducible assumption) | ((try lift_lets); intro v; dsimp only [v]; clear v)
    | (with_reducible apply Keeps.ite) | dsimp only | (with_reducible refine Keeps.made ?_ ?_ ?_ ?_ ?_ ?_ ?_ ?_ ?_ ?_)

theorem State.coast_keeps {r0 s : State} (hk : Keeps r0 s) :
    Keeps r0 (State.coast s) := by
  unfold State.coast
  repeat' first
    | (with_reducible assumption)
    | ((try lift_lets); intro v; refine Keeps.cut (r := r0) (s := v) ?_ ?_; dsimp only [v]; clear v;
       rotate_left; intro hv; clear_value v; revert v; refine Keeps.all ?_; intro v hv)
    | ((try lift_lets); intro v; dsimp only [v]; clear v) | (with_reducible apply State.setPlls_keeps)
    | (with_reducible apply State.meterJudge_keeps) | dsimp only
    | (with_reducible refine Keeps.made ?_ ?_ ?_ ?_ ?_ ?_ ?_ ?_ ?_ ?_)

theorem datumFrameSend_keeps {r0 s : State} (hk : Keeps r0 s) (n : Nat) :
    Keeps r0 (datumFrameSend n s) := by
  unfold datumFrameSend
  repeat' first
    | (with_reducible assumption) | ((try lift_lets); intro v; dsimp only [v]; clear v)
    | (with_reducible apply Keeps.ite) | (with_reducible apply State.setPort_keeps)
    | (with_reducible apply State.put_keeps)

theorem State.stepDatum_keeps {r0 s : State} (hk : Keeps r0 s) (by_ : Int) : Keeps r0 (s.stepDatum by_) :=
  Keeps.mapped hk id id id id id id (fun x => SMap.wf_mapVals x _) id id rfl rfl rfl rfl rfl rfl rfl rfl

theorem State.setDatum_keeps {r0 s : State} (hk : Keeps r0 s) (v : W64) :
    Keeps r0 (State.setDatum s v) := by
  unfold State.setDatum
  repeat' first
    | (with_reducible assumption) | (with_reducible apply State.stepDatum_keeps)

theorem State.stepRecovered_keeps {r0 s : State} (hk : Keeps r0 s) :
    Keeps r0 (State.stepRecovered s) := by
  unfold State.stepRecovered
  repeat' first
    | (with_reducible assumption) | (with_reducible apply State.stepDatum_keeps)

theorem State.tryLock_keeps {r0 s : State} (hk : Keeps r0 s) :
    Keeps r0 (State.tryLock s) := by
  unfold State.tryLock
  repeat' first
    | (with_reducible assumption)
    | ((try lift_lets); intro v; refine Keeps.cut (r := r0) (s := v) ?_ ?_; dsimp only [v]; clear v;
       rotate_left; intro hv; clear_value v; revert v; refine Keeps.all ?_; intro v hv)
    | ((try lift_lets); intro v; dsimp only [v]; clear v) | (with_reducible apply Keeps.ite)
    | (with_reducible apply State.stepRecovered_keeps) | dsimp only | split
    | (with_reducible refine Keeps.made ?_ ?_ ?_ ?_ ?_ ?_ ?_ ?_ ?_ ?_)

theorem State.loseReference_keeps {r0 s : State} (hk : Keeps r0 s) :
    Keeps r0 (State.loseReference s) := by
  unfold State.loseReference
  repeat' first
    | (with_reducible assumption) | ((try lift_lets); intro v; dsimp only [v]; clear v)
    | (with_reducible apply State.coast_keeps) | (with_reducible apply State.raise_keeps) | dsimp only
    | (with_reducible refine Keeps.made ?_ ?_ ?_ ?_ ?_ ?_ ?_ ?_ ?_ ?_)

theorem referenceLoss_keeps {r0 s : State} (hk : Keeps r0 s) (portLeft : Bool) :
    Keeps r0 (referenceLoss portLeft s) := by
  unfold referenceLoss
  repeat' first
    | (with_reducible assumption) | (with_reducible apply Keeps.ite)
    | (with_reducible apply State.loseReference_keeps)

theorem State.frameIn_keeps {r0 s : State} (hk : Keeps r0 s) (n : Nat) (f : DatumFrame) (t4frac : W16) :
    Keeps r0 (State.frameIn s n f t4frac) := by
  unfold State.frameIn
  repeat' first
    | (with_reducible assumption)
    | ((try lift_lets); intro v; refine Keeps.cut (r := r0) (s := v) ?_ ?_; dsimp only [v]; clear v;
       rotate_left; intro hv; clear_value v; revert v; refine Keeps.all ?_; intro v hv)
    | ((try lift_lets); intro v; dsimp only [v]; clear v) | (with_reducible apply Keeps.ite)
    | (with_reducible apply State.loseReference_keeps) | (with_reducible apply State.setPort_keeps)
    | (with_reducible apply State.tryLock_keeps) | dsimp only | split
    | (with_reducible refine Keeps.made ?_ ?_ ?_ ?_ ?_ ?_ ?_ ?_ ?_ ?_)

theorem datumFrame_keeps {r0 s : State} (hk : Keeps r0 s) (rx : Rx) (f : DatumFrame) (t4frac : W16) :
    Keeps r0 (datumFrame rx f t4frac s) := by
  unfold datumFrame
  repeat' first
    | (with_reducible assumption) | (refine fun _ _ h => ?_) | (with_reducible apply State.arrive_keeps)
    | (with_reducible apply State.frameIn_keeps)

theorem holdoverExpiry_keeps {r0 s : State} (hk : Keeps r0 s) :
    Keeps r0 (holdoverExpiry s) := by
  unfold holdoverExpiry
  repeat' first
    | (with_reducible assumption) | ((try lift_lets); intro v; dsimp only [v]; clear v)
    | (with_reducible apply Keeps.ite) | dsimp only | split
    | (with_reducible refine Keeps.made ?_ ?_ ?_ ?_ ?_ ?_ ?_ ?_ ?_ ?_)

theorem State.refSelect_keeps {r0 s : State} (hk : Keeps r0 s) (op : Nat) :
    Keeps r0 (State.refSelect s op).1 := by
  unfold State.refSelect
  repeat' first
    | (with_reducible assumption) | ((try lift_lets); intro v; dsimp only [v]; clear v) | dsimp only
    | (with_reducible apply Keeps.ite1) | split | (with_reducible refine Keeps.made ?_ ?_ ?_ ?_ ?_ ?_ ?_ ?_ ?_ ?_)

theorem refEff_keeps {r0 s : State} (hk : Keeps r0 s) (w : CmdWord) :
    Keeps r0 (refEff w s).1 := by
  unfold refEff
  repeat' first
    | (with_reducible assumption) | (with_reducible apply State.refSelect_keeps)

theorem refVia_keeps {r0 s : State} (hk : Keeps r0 s) (op : Nat) (via : Via) :
    Keeps r0 (refVia op via s) := by
  unfold refVia
  repeat' first
    | (with_reducible assumption) | (refine fun _ _ h => ?_) | (refine fun _ h => ?_)
    | (with_reducible apply State.writeBy_keeps) | (with_reducible apply State.refSelect_keeps)
    | (with_reducible apply State.cmdArrive_keeps) | (with_reducible apply refEff_keeps) | dsimp only | split

theorem dtmTimeSet_keeps {r0 s : State} (hk : Keeps r0 s) (v : W64) :
    Keeps r0 (dtmTimeSet v s) := by
  unfold dtmTimeSet
  repeat' first
    | (with_reducible assumption) | (with_reducible apply Keeps.ite) | (with_reducible apply State.setDatum_keeps)

theorem State.setRole_keeps {r0 s : State} (hk : Keeps r0 s) (master : Bool) :
    Keeps r0 (State.setRole s master) := by
  unfold State.setRole
  repeat' first
    | (with_reducible assumption)
    | ((try lift_lets); intro v; refine Keeps.cut (r := r0) (s := v) ?_ ?_; dsimp only [v]; clear v;
       rotate_left; intro hv; clear_value v; revert v; refine Keeps.all ?_; intro v hv)
    | ((try lift_lets); intro v; dsimp only [v]; clear v) | (with_reducible apply Keeps.ite)
    | (with_reducible apply State.setDatum_keeps) | dsimp only
    | (with_reducible refine Keeps.made ?_ ?_ ?_ ?_ ?_ ?_ ?_ ?_ ?_ ?_)

end Sys2Proof.Machine
end

