-- ==== Sys2Proof/Laws/KeepsLumouxPorts.lean ====
section
/-! SUPPORT. What the operations of Machine/LumouxPorts.lean keep. -/
namespace Sys2Proof.Machine

theorem laserLost_keeps {r0 s : State} (hk : Keeps r0 s) (i : Nat) :
    Keeps r0 (laserLost i s) := by
  unfold laserLost
  repeat' first
    | (with_reducible assumption) | (refine fun _ _ h => ?_) | ((try lift_lets); intro v; dsimp only [v]; clear v)
    | (with_reducible apply Keeps.ite) | (with_reducible apply State.setPort_keeps)
    | (with_reducible apply State.dropLink_keeps) | (with_reducible apply State.raisePort_keeps)
    | (with_reducible refine Keeps.foldl _ ?_ _ _ ?_)

theorem laserReturn_keeps {r0 s : State} (hk : Keeps r0 s) (i : Nat) :
    Keeps r0 (laserReturn i s) := by
  unfold laserReturn
  repeat' first
    | (with_reducible assumption) | (refine fun _ _ h => ?_) | (refine fun _ h => ?_)
    | (with_reducible apply State.whenAwake_keeps) | (with_reducible apply State.retrainPort_keeps) | dsimp only
    | (with_reducible refine Keeps.foldl _ ?_ _ _ ?_)

theorem receiveSignal_keeps {r0 s : State} (hk : Keeps r0 s) (n : Nat) :
    Keeps r0 (receiveSignal n s) := by
  unfold receiveSignal
  repeat' first
    | (with_reducible assumption) | (refine fun _ h => ?_) | ((try lift_lets); intro v; dsimp only [v]; clear v)
    | (with_reducible apply State.whenAwake_keeps) | (with_reducible apply State.retrainPort_keeps)

theorem laneLockLoss_keeps {r0 s : State} (hk : Keeps r0 s) (n : Nat) (lane : Nat) :
    Keeps r0 (laneLockLoss n lane s) := by
  unfold laneLockLoss
  repeat' first
    | (with_reducible assumption) | (with_reducible apply Keeps.ite) | (with_reducible apply State.setPort_keeps)
    | (with_reducible apply State.dropLink_keeps)

theorem State.sendAnnounce_keeps {r0 s : State} (hk : Keeps r0 s) (n : Nat) :
    Keeps r0 (State.sendAnnounce s n) := by
  unfold State.sendAnnounce
  repeat' first
    | (with_reducible assumption) | (with_reducible apply State.queueAnnounce_keeps)
    | (with_reducible apply State.pumpPort_keeps)

theorem State.lxCalibrate_keeps {r0 s : State} (hk : Keeps r0 s) (n : Nat) (key : List Byte) :
    Keeps r0 (State.lxCalibrate s n key) := by
  unfold State.lxCalibrate
  repeat' first
    | (with_reducible assumption) | ((try lift_lets); intro v; dsimp only [v]; clear v) | dsimp only
    | (with_reducible refine Keeps.made ?_ ?_ ?_ ?_ ?_ ?_ ?_ ?_ ?_ ?_)

theorem State.lxTrained_keeps {r0 s : State} (hk : Keeps r0 s) (n : Nat) :
    Keeps r0 (State.lxTrained s n) := by
  unfold State.lxTrained
  repeat' first
    | (with_reducible assumption) | ((try lift_lets); intro v; dsimp only [v]; clear v)
    | (with_reducible apply State.lxCalibrate_keeps) | dsimp only
    | (with_reducible refine Keeps.made ?_ ?_ ?_ ?_ ?_ ?_ ?_ ?_ ?_ ?_)

theorem trainingDone_keeps {r0 s : State} (hk : Keeps r0 s) (n : Nat) :
    Keeps r0 (trainingDone n s) := by
  unfold trainingDone
  repeat' first
    | (with_reducible assumption) | (with_reducible apply Keeps.ite) | (with_reducible apply State.setPort_keeps)
    | (with_reducible apply State.lxTrained_keeps) | (with_reducible apply State.sendAnnounce_keeps)

theorem State.isolate_keeps {r0 s : State} (hk : Keeps r0 s) (n : Nat) (code : Option (Code × Nat)) :
    Keeps r0 (State.isolate s n code) := by
  unfold State.isolate
  repeat' first
    | (with_reducible assumption) | (refine fun _ _ _ h => ?_) | (with_reducible apply Keeps.ite)
    | (with_reducible apply State.setPort_keeps) | (with_reducible apply State.leftSecure_keeps)
    | (with_reducible apply State.redirect_keeps) | (with_reducible apply State.lost_keeps)
    | (with_reducible apply State.raisePort_keeps) | dsimp only | split

theorem State.sendKeyx_keeps {r0 s : State} (hk : Keeps r0 s) (n : Nat) (mine : Announce) (peer : Announce) :
    Keeps r0 (State.sendKeyx s n mine peer) := by
  unfold State.sendKeyx
  repeat' first
    | (with_reducible assumption) | ((try lift_lets); intro v; dsimp only [v]; clear v)
    | (with_reducible apply State.drbgDraw_keeps) | (with_reducible apply State.setPort_keeps)
    | (with_reducible apply State.put_keeps)

theorem announceArrive_keeps {r0 s : State} (hk : Keeps r0 s) (n : Nat) (a : Announce) :
    Keeps r0 (announceArrive n a s) := by
  unfold announceArrive
  repeat' first
    | (with_reducible assumption)
    | ((try lift_lets); intro v; refine Keeps.cut (r := r0) (s := v) ?_ ?_; dsimp only [v]; clear v;
       rotate_left; intro hv; clear_value v; revert v; refine Keeps.all ?_; intro v hv)
    | (with_reducible apply Keeps.ite) | (with_reducible apply State.setPort_keeps)
    | (with_reducible apply State.isolate_keeps) | (with_reducible apply State.sendAnnounce_keeps)
    | (with_reducible apply State.lxCalibrate_keeps) | (with_reducible apply State.sendKeyx_keeps) | split

theorem keyxArrive_keeps {r0 s : State} (hk : Keeps r0 s) (n : Nat) (ct : List Byte) (transcript : List Byte) (sig : List Byte) :
    Keeps r0 (keyxArrive n ct transcript sig s) := by
  unfold keyxArrive
  repeat' first
    | (with_reducible assumption)
    | ((try lift_lets); intro v; refine Keeps.cut (r := r0) (s := v) ?_ ?_; dsimp only [v]; clear v;
       rotate_left; intro hv; clear_value v; revert v; refine Keeps.all ?_; intro v hv)
    | (with_reducible apply Keeps.ite) | (with_reducible apply State.setPort_keeps)
    | (with_reducible apply State.isolate_keeps) | (with_reducible apply State.sendLinkstate_keeps)
    | (with_reducible apply State.retryHeld_keeps) | dsimp only | split

theorem rekey_keeps {r0 s : State} (hk : Keeps r0 s) (n : Nat) :
    Keeps r0 (rekey n s) := by
  unfold rekey
  repeat' first
    | (with_reducible assumption) | (with_reducible apply Keeps.ite) | (with_reducible apply State.setPort_keeps)
    | (with_reducible apply State.sendAnnounce_keeps)

theorem rekeyTimeout_keeps {r0 s : State} (hk : Keeps r0 s) (n : Nat) :
    Keeps r0 (rekeyTimeout n s) := by
  unfold rekeyTimeout
  repeat' first
    | (with_reducible assumption) | (with_reducible apply Keeps.ite) | (with_reducible apply State.dropLink_keeps)

theorem keyPhaseGraceEnd_keeps {r0 s : State} (hk : Keeps r0 s) (n : Nat) :
    Keeps r0 (keyPhaseGraceEnd n s) := by
  unfold keyPhaseGraceEnd
  repeat' first
    | (with_reducible assumption) | ((try lift_lets); intro v; dsimp only [v]; clear v)
    | (with_reducible apply State.setPort_keeps)

theorem retrain_keeps {r0 s : State} (hk : Keeps r0 s) (n : Nat) :
    Keeps r0 (retrain n s) := by
  unfold retrain
  repeat' first
    | (with_reducible assumption) | (with_reducible apply Keeps.ite) | (with_reducible apply State.dropLink_keeps)

theorem State.sendLink_keeps {r0 s : State} (hk : Keeps r0 s) (n : Nat) (o : LinkOps) (seq : W16) :
    Keeps r0 (State.sendLink s n o seq) := by
  unfold State.sendLink
  repeat' first
    | (with_reducible assumption) | (with_reducible apply State.emit_keeps)

theorem State.sendNak_keeps {r0 s : State} (hk : Keeps r0 s) (n : Nat) (q : W16) :
    Keeps r0 (State.sendNak s n q) := by
  unfold State.sendNak
  repeat' first
    | (with_reducible assumption) | (with_reducible apply State.sendLink_keeps)

theorem State.fecSeen_keeps {r0 s : State} (hk : Keeps r0 s) (n : Nat) (fec : Fec) :
    Keeps r0 (State.fecSeen s n fec) := by
  unfold State.fecSeen
  repeat' first
    | (with_reducible assumption) | ((try lift_lets); intro v; dsimp only [v]; clear v)
    | (with_reducible apply State.setPort_keeps)

theorem State.badFlit_keeps {r0 s : State} (hk : Keeps r0 s) (n : Nat) :
    Keeps r0 (State.badFlit s n) := by
  unfold State.badFlit
  repeat' first
    | (with_reducible assumption) | ((try lift_lets); intro v; dsimp only [v]; clear v)
    | (with_reducible apply State.setPort_keeps) | (with_reducible apply State.sendNak_keeps)

theorem dataFlit_keeps {r0 s : State} (hk : Keeps r0 s) (n : Nat) (f : Flit) (fec : Fec) :
    Keeps r0 (dataFlit n f fec s) := by
  unfold dataFlit
  repeat' first
    | (with_reducible assumption)
    | ((try lift_lets); intro v; refine Keeps.cut (r := r0) (s := v) ?_ ?_; dsimp only [v]; clear v;
       rotate_left; intro hv; clear_value v; revert v; refine Keeps.all ?_; intro v hv)
    | (with_reducible apply Keeps.ite) | (with_reducible apply State.fecSeen_keeps)
    | (with_reducible apply State.badFlit_keeps) | (with_reducible apply State.setPort_keeps)

theorem State.onNak_keeps {r0 s : State} (hk : Keeps r0 s) (n : Nat) (seq : W16) :
    Keeps r0 (State.onNak s n seq) := by
  unfold State.onNak
  repeat' first
    | (with_reducible assumption) | ((try lift_lets); intro v; dsimp only [v]; clear v)
    | (with_reducible apply Keeps.ite) | (with_reducible apply State.dropLink_keeps)
    | (with_reducible apply State.setPort_keeps) | (with_reducible apply State.sendLink_keeps)
    | (with_reducible apply State.emitFlits_keeps)

theorem linkFlit_keeps {r0 s : State} (hk : Keeps r0 s) (n : Nat) (f : Flit) (fec : Fec) :
    Keeps r0 (linkFlit n f fec s) := by
  unfold linkFlit
  repeat' first
    | (with_reducible assumption)
    | ((try lift_lets); intro v; refine Keeps.cut (r := r0) (s := v) ?_ ?_; dsimp only [v]; clear v;
       rotate_left; intro hv; clear_value v; revert v; refine Keeps.all ?_; intro v hv)
    | (with_reducible apply Keeps.ite) | (with_reducible apply State.fecSeen_keeps)
    | (with_reducible apply State.badFlit_keeps) | (with_reducible apply State.setPort_keeps)
    | (with_reducible apply State.onNak_keeps) | (with_reducible apply State.pumpPort_keeps)

theorem ackReport_keeps {r0 s : State} (hk : Keeps r0 s) (n : Nat) :
    Keeps r0 (ackReport n s) := by
  unfold ackReport
  repeat' first
    | (with_reducible assumption) | (with_reducible apply Keeps.ite) | (with_reducible apply State.setPort_keeps)
    | (with_reducible apply State.sendLink_keeps)

theorem nakRepeat_keeps {r0 s : State} (hk : Keeps r0 s) (n : Nat) :
    Keeps r0 (nakRepeat n s) := by
  unfold nakRepeat
  repeat' first
    | (with_reducible assumption) | (with_reducible apply State.sendNak_keeps) | split

theorem replayLimit_keeps {r0 s : State} (hk : Keeps r0 s) (n : Nat) :
    Keeps r0 (replayLimit n s) := by
  unfold replayLimit
  repeat' first
    | (with_reducible assumption) | (with_reducible apply Keeps.ite) | (with_reducible apply State.dropLink_keeps)

end Sys2Proof.Machine
end

