-- ==== Sys2Proof/Laws/KeepsMemoryUnits.lean ====
section
/-! SUPPORT. What the operations of Machine/MemoryUnits.lean keep. -/
namespace Sys2Proof.Machine

theorem Mu.wf_setAg {m : Mu} (h : Memory.wf m.sram = true) (a : Nat) (x : AgSt) : Memory.wf (m.setAg a x).sram = true := h
theorem Mu.wf_setTag {m : Mu} (h : Memory.wf m.sram = true) (k : Nat) (t : TokTag) : Memory.wf (m.setTag k t).sram = true := h
theorem Mu.wf_setTags {α : Type} (k : α → Nat) (t : Mu → α → TokTag) : ∀ (l : List α) {m : Mu}, Memory.wf m.sram = true →
    Memory.wf (l.foldl (fun m x => m.setTag (k x) (t m x)) m).sram = true
  | [], _, h => h
  | _ :: l, _, h => Mu.wf_setTags k t l (Mu.wf_setTag h _ _)

theorem narrowRead_keeps {r0 s : State} (hk : Keeps r0 s) (p : Nat) (n : Nat) (off : Nat) (size : Nat) (ups : List Upset) :
    Keeps r0 (narrowRead p n off size ups s) := by
  unfold narrowRead
  repeat' first
    | (with_reducible assumption)
    | ((try lift_lets); intro v; refine Keeps.cut (r := r0) (s := v) ?_ ?_; dsimp only [v]; clear v;
       rotate_left; intro hv; clear_value v; revert v; refine Keeps.all ?_; intro v hv)
    | (with_reducible apply Keeps.ite) | (with_reducible apply State.emit_keeps)
    | (with_reducible apply State.strikes_keeps) | (with_reducible apply State.muRead_keeps)

theorem narrowWrite_keeps {r0 s : State} (hk : Keeps r0 s) (p : Nat) (n : Nat) (off : Nat) (size : Nat) (v : W64) :
    Keeps r0 (narrowWrite p n off size v s) := by
  unfold narrowWrite
  repeat' first
    | (with_reducible assumption) | (refine fun (x : ∀ e ∈ r0.mus, Memory.wf e.2.sram = true) => ?_)
    | (with_reducible refine Keeps.mu ?_ _ _ (by with_reducible assumption)) | (with_reducible apply Mu.wf_flag)
    | (with_reducible apply Keeps.ite) | (with_reducible apply State.emit_keeps)
    | (with_reducible apply State.setMu_keeps) | (with_reducible apply State.muWrite_keeps)

theorem State.startWalk_keeps {r0 s : State} (hk : Keeps r0 s) (p : Nat) (n : Nat) (a : Nat) :
    Keeps r0 (State.startWalk s p n a) := by
  unfold State.startWalk
  repeat' first
    | (with_reducible assumption) | (refine fun (x : ∀ e ∈ r0.mus, Memory.wf e.2.sram = true) => ?_)
    | (with_reducible refine Keeps.mu ?_ _ _ (by with_reducible assumption)) | (with_reducible apply Mu.wf_setAg)
    | ((try lift_lets); intro v; dsimp only [v]; clear v) | (with_reducible apply State.setMu_keeps)

theorem generatorStartEvent_keeps {r0 s : State} (hk : Keeps r0 s) (p : Nat) (n : Nat) :
    Keeps r0 (generatorStartEvent p n s) := by
  unfold generatorStartEvent
  repeat' first
    | (with_reducible assumption) | (refine fun _ _ h => ?_)
    | (refine fun (x : ∀ e ∈ r0.mus, Memory.wf e.2.sram = true) => ?_)
    | (with_reducible refine Keeps.mu ?_ _ _ (by with_reducible assumption)) | (with_reducible apply Mu.wf_setAg)
    | (with_reducible apply Keeps.ite) | (with_reducible apply State.setMu_keeps)
    | (with_reducible apply State.startWalk_keeps) | dsimp only | (with_reducible refine Keeps.foldl _ ?_ _ _ ?_)
    | split

theorem pendingWalkStart_keeps {r0 s : State} (hk : Keeps r0 s) (p : Nat) (n : Nat) (a : Nat) :
    Keeps r0 (pendingWalkStart p n a s) := by
  unfold pendingWalkStart
  repeat' first
    | (with_reducible assumption) | (refine fun (x : ∀ e ∈ r0.mus, Memory.wf e.2.sram = true) => ?_)
    | (with_reducible refine Keeps.mu ?_ _ _ (by with_reducible assumption)) | (with_reducible apply Mu.wf_setAg)
    | ((try lift_lets); intro v; dsimp only [v]; clear v) | (with_reducible apply Keeps.ite)
    | (with_reducible apply State.setMu_keeps) | (with_reducible apply State.startWalk_keeps)

theorem State.agEmit_keeps {r0 s : State} (hk : Keeps r0 s) (p : Nat) (n : Nat) (chan : Nat) (ts : List VIn) :
    Keeps r0 (State.agEmit s p n chan ts) := by
  unfold State.agEmit
  repeat' first
    | (with_reducible assumption) | (refine fun _ _ h => ?_) | (with_reducible apply State.pushLink_keeps)
    | (with_reducible refine Keeps.foldl _ ?_ _ _ ?_)

theorem State.agAdvance_keeps {r0 s : State} (hk : Keeps r0 s) (p : Nat) (n : Nat) (a : Nat) (addr : Int) :
    Keeps r0 (State.agAdvance s p n a addr) := by
  unfold State.agAdvance
  repeat' first
    | (with_reducible assumption) | (refine fun (x : ∀ e ∈ r0.mus, Memory.wf e.2.sram = true) => ?_)
    | (with_reducible refine Keeps.mu ?_ _ _ (by with_reducible assumption)) | (with_reducible apply Mu.wf_setAg)
    | ((try lift_lets); intro v; dsimp only [v]; clear v) | (with_reducible apply State.setMu_keeps)

theorem State.freeToken_keeps {r0 s : State} (hk : Keeps r0 s) (last : Bool) :
    Keeps r0 (State.freeToken s last).2 := by
  unfold State.freeToken
  repeat' first
    | (with_reducible assumption) | (with_reducible apply State.freeBytes_keeps)

theorem State.agBounds_keeps {r0 s : State} (hk : Keeps r0 s) (p : Nat) (n : Nat) (a : Nat) :
    Keeps r0 (State.agBounds s p n a) := by
  unfold State.agBounds
  repeat' first
    | (with_reducible assumption) | (refine fun (x : ∀ e ∈ r0.mus, Memory.wf e.2.sram = true) => ?_)
    | (with_reducible refine Keeps.mu ?_ _ _ (by with_reducible assumption)) | (with_reducible apply Mu.wf_setAg)
    | ((try lift_lets); intro v; dsimp only [v]; clear v) | (with_reducible apply State.setMu_keeps)
    | (with_reducible apply State.raiseMu_keeps)

theorem State.directRead_keeps {r0 s : State} (hk : Keeps r0 s) (p : Nat) (n : Nat) (a : Nat) (line : Int) :
    Keeps r0 (State.directRead s p n a line) := by
  unfold State.directRead
  repeat' first
    | (with_reducible assumption) | ((try lift_lets); intro v; dsimp only [v]; clear v)
    | (with_reducible apply Keeps.ite) | (with_reducible apply State.agBounds_keeps)
    | (with_reducible apply State.freeToken_keeps) | (with_reducible apply State.muRead_keeps)
    | (with_reducible apply State.agEmit_keeps) | (with_reducible apply State.agAdvance_keeps)
    | (with_reducible apply Keeps.ite2)

theorem State.directWrite_keeps {r0 s : State} (hk : Keeps r0 s) (p : Nat) (n : Nat) (a : Nat) (line : Int) :
    Keeps r0 (State.directWrite s p n a line) := by
  unfold State.directWrite
  repeat' first
    | (with_reducible assumption) | (refine fun (x : ∀ e ∈ r0.mus, Memory.wf e.2.sram = true) => ?_)
    | (with_reducible refine Keeps.mu ?_ _ _ (by with_reducible assumption)) | (with_reducible apply Mu.wf_setAg)
    | (with_reducible apply Keeps.ite) | (with_reducible apply State.setMu_keeps)
    | (with_reducible apply State.agBounds_keeps) | (with_reducible apply State.muWrite_keeps)
    | (with_reducible apply State.agAdvance_keeps) | dsimp only | split

theorem State.transposeRead_keeps {r0 s : State} (hk : Keeps r0 s) (p : Nat) (n : Nat) (a : Nat) (line : Int) :
    Keeps r0 (State.transposeRead s p n a line) := by
  unfold State.transposeRead
  repeat' first
    | (with_reducible assumption) | (refine fun (x : ∀ e ∈ r0.mus, Memory.wf e.2.sram = true) => ?_)
    | (with_reducible refine Keeps.mu ?_ _ _ (by with_reducible assumption)) | (with_reducible apply Mu.wf_setAg)
    | ((try lift_lets); intro v; refine Keeps.cut (r := r0) (s := v) ?_ ?_; dsimp only [v]; clear v;
       rotate_left; intro hv; clear_value v; revert v; refine Keeps.all ?_; intro v hv)
    | (with_reducible apply Keeps.ite) | (with_reducible apply State.agBounds_keeps)
    | (with_reducible apply State.freeBytes_keeps) | (with_reducible apply State.muRead_keeps)
    | (with_reducible apply State.setMu_keeps) | (with_reducible apply State.agEmit_keeps)
    | (with_reducible apply State.agAdvance_keeps) | dsimp only | (with_reducible apply Keeps.ite2)

theorem State.accumulateTake_keeps {r0 s : State} (hk : Keeps r0 s) (p : Nat) (n : Nat) (a : Nat) (line : Int) :
    Keeps r0 (State.accumulateTake s p n a line) := by
  unfold State.accumulateTake
  repeat' first
    | (with_reducible assumption) | (refine fun (x : ∀ e ∈ r0.mus, Memory.wf e.2.sram = true) => ?_)
    | (with_reducible refine Keeps.mu ?_ _ _ (by with_reducible assumption)) | (with_reducible apply Mu.wf_setAg)
    | (with_reducible apply Keeps.ite) | (with_reducible apply State.setMu_keeps)
    | (with_reducible apply State.agBounds_keeps) | (with_reducible apply State.raiseMu_keeps)
    | (with_reducible apply State.agAdvance_keeps) | dsimp only | split

theorem generatorAddress_keeps {r0 s : State} (hk : Keeps r0 s) (p : Nat) (n : Nat) (a : Nat) (ups : List Upset) :
    Keeps r0 (generatorAddress p n a ups s) := by
  unfold generatorAddress
  repeat' first
    | (with_reducible assumption)
    | ((try lift_lets); intro v; refine Keeps.cut (r := r0) (s := v) ?_ ?_; dsimp only [v]; clear v;
       rotate_left; intro hv; clear_value v; revert v; refine Keeps.all ?_; intro v hv)
    | (with_reducible apply Keeps.ite) | (with_reducible apply State.strikes_keeps)
    | (with_reducible apply State.directRead_keeps) | (with_reducible apply State.directWrite_keeps)
    | (with_reducible apply State.transposeRead_keeps) | (with_reducible apply State.accumulateTake_keeps) | split

theorem walkEnd_keeps {r0 s : State} (hk : Keeps r0 s) (p : Nat) (n : Nat) (a : Nat) :
    Keeps r0 (walkEnd p n a s) := by
  unfold walkEnd
  repeat' first
    | (with_reducible assumption) | (refine fun (x : ∀ e ∈ r0.mus, Memory.wf e.2.sram = true) => ?_)
    | (with_reducible refine Keeps.mu ?_ _ _ (by with_reducible assumption)) | (with_reducible apply Mu.wf_setAg)
    | ((try lift_lets); intro v; refine Keeps.cut (r := r0) (s := v) ?_ ?_; dsimp only [v]; clear v;
       rotate_left; intro hv; clear_value v; revert v; refine Keeps.all ?_; intro v hv)
    | (with_reducible apply Keeps.ite) | (with_reducible apply State.setMu_keeps)
    | (with_reducible apply State.bmkAdd_keeps)

theorem State.segAdd_keeps {r0 s : State} (hk : Keeps r0 s) (p : Nat) (n : Nat) (r : RegSt) (x : Segment) :
    Keeps r0 (State.segAdd s p n r x) := by
  unfold State.segAdd
  repeat' first
    | (with_reducible assumption) | (refine fun _ _ h => ?_) | ((try lift_lets); intro v; dsimp only [v]; clear v)
    | (with_reducible apply State.muRead_keeps) | (with_reducible apply State.muWrite_keeps)
    | (with_reducible refine Keeps.foldl _ ?_ _ _ ?_)

theorem State.parkSegment_keeps {r0 s : State} (hk : Keeps r0 s) (p n : Nat) (x : Segment) :
    Keeps r0 (s.parkSegment p n x) := by
  unfold State.parkSegment
  dsimp only
  have h : Keeps r0 ((((((s.mu p n).reg x.region).parkFree).take x.parkNeed).zipIdx).foldl (fun s (row, i) =>
      let ts := (x.tokens.drop (4 * i)).take 4
      let bs := ts.flatMap VIn.bytes
      let s := s.muWrite p n (512 * row) (bs ++ List.replicate (512 - bs.length) 0) false
      let m := s.mu p n
      s.setMu p n (ts.zipIdx.foldl (fun m (v, j) =>
        m.setTag (4 * row + j) { last := v.last, poison := v.poison, epoch := m.epoch }) m)) s) := by
    refine Keeps.foldl _ (fun u a hu => ?_) _ _ hk
    have w := State.muWrite_keeps hu p n (512 * a.1) (((x.tokens.drop (4 * a.2)).take 4).flatMap VIn.bytes ++
      List.replicate (512 - (((x.tokens.drop (4 * a.2)).take 4).flatMap VIn.bytes).length) 0) false
    exact State.setMu_keeps w _ _ _ (fun x => Mu.wf_setTags _ _ _ (Keeps.mu w p n x))
  exact State.setMu_keeps h _ _ _ (fun x => Mu.wf_setReg (Keeps.mu h p n x) _ _)

theorem State.unparkTokens_keeps {r0 s : State} (hk : Keeps r0 s) (p : Nat) (n : Nat) (x : Segment) :
    Keeps r0 (State.unparkTokens s p n x).2 := by
  unfold State.unparkTokens
  repeat' first
    | (with_reducible assumption) | (refine fun _ _ h => ?_) | (with_reducible apply State.muRead_keeps) | dsimp only
    | (with_reducible refine Keeps.foldl2 _ ?_ _ _ ?_)

theorem State.holdRound_keeps {r0 s : State} (hk : Keeps r0 s) (g : Nat) :
    Keeps r0 (State.holdRound s g) := by
  unfold State.holdRound
  repeat' first
    | (with_reducible assumption) | ((try lift_lets); intro v; dsimp only [v]; clear v)
    | (with_reducible apply State.setAu_keeps) | (with_reducible apply State.raise_keeps)

theorem State.roundCheck_keeps {r0 s : State} (hk : Keeps r0 s) (p : Nat) (n : Nat) (r : Nat) :
    Keeps r0 (State.roundCheck s p n r) := by
  unfold State.roundCheck
  repeat' first
    | (with_reducible assumption) | (refine fun (x : ∀ e ∈ r0.mus, Memory.wf e.2.sram = true) => ?_)
    | (with_reducible refine Keeps.mu ?_ _ _ (by with_reducible assumption)) | (with_reducible apply Mu.wf_setReg)
    | ((try lift_lets); intro v; dsimp only [v]; clear v) | (with_reducible apply Keeps.ite)
    | (with_reducible apply State.setMu_keeps) | (with_reducible apply State.holdRound_keeps)
    | (with_reducible apply State.bmkAdd_keeps) | split

theorem State.segApply_keeps {r0 s : State} (hk : Keeps r0 s) (p : Nat) (n : Nat) (x : Segment) :
    Keeps r0 (State.segApply s p n x) := by
  unfold State.segApply
  repeat' first
    | (with_reducible assumption) | (refine fun (x : ∀ e ∈ r0.mus, Memory.wf e.2.sram = true) => ?_)
    | (with_reducible refine Keeps.mu ?_ _ _ (by with_reducible assumption)) | (with_reducible apply Mu.wf_setReg)
    | ((try lift_lets); intro v; dsimp only [v]; clear v) | (with_reducible apply State.segAdd_keeps)
    | (with_reducible apply State.setMu_keeps) | (with_reducible apply State.roundCheck_keeps)

theorem State.freeRows_keeps {r0 s : State} (hk : Keeps r0 s) (p : Nat) (n : Nat) (r : Nat) (k : Nat) :
    Keeps r0 (State.freeRows s p n r k) := by
  unfold State.freeRows
  repeat' first
    | (with_reducible assumption) | (refine fun (x : ∀ e ∈ r0.mus, Memory.wf e.2.sram = true) => ?_)
    | (with_reducible refine Keeps.mu ?_ _ _ (by with_reducible assumption)) | (with_reducible apply Mu.wf_setReg)
    | ((try lift_lets); intro v; dsimp only [v]; clear v) | (with_reducible apply State.setMu_keeps)

theorem State.segAccept_keeps {r0 s t : State} (hk : Keeps r0 s) {p n : Nat} {x : Segment} (h : s.segAccept p n x = some t) :
    Keeps r0 t := by
  unfold State.segAccept at h
  dsimp only at h
  split at h
  · cases h
    exact State.raiseMu_keeps (Keeps.ite (State.freeRows_keeps hk _ _ _ _) hk) _ _ _ _ _
  · split at h
    · cases h
      exact Keeps.ite (State.freeRows_keeps (State.segApply_keeps hk _ _ _) _ _ _ _) (State.segApply_keeps hk _ _ _)
    · split at h
      · cases h
      · cases h
        exact State.parkSegment_keeps hk _ _ _

theorem accumulateSegment_keeps {r0 s : State} (hk : Keeps r0 s) (p n : Nat) : Keeps r0 (accumulateSegment p n s) := by
  unfold accumulateSegment
  dsimp only
  split
  · exact hk
  · refine Keeps.ite hk ?_
    split
    · rename_i h
      refine State.segAccept_keeps (State.setMu_keeps hk _ _ _ (fun x => ?_)) h
      refine Mu.wf_mk ?_
      exact Keeps.mu hk _ _ x
    · exact hk

theorem parkedSegmentApply_keeps {r0 s : State} (hk : Keeps r0 s) (p : Nat) (n : Nat) (r : Nat) :
    Keeps r0 (parkedSegmentApply p n r s) := by
  unfold parkedSegmentApply
  repeat' first
    | (with_reducible assumption) | (refine fun (x : ∀ e ∈ r0.mus, Memory.wf e.2.sram = true) => ?_)
    | (with_reducible refine Keeps.mu ?_ _ _ (by with_reducible assumption)) | (with_reducible apply Mu.wf_setReg)
    | ((try lift_lets); intro v; dsimp only [v]; clear v) | (with_reducible apply Keeps.ite)
    | (with_reducible apply State.setMu_keeps) | (with_reducible apply State.unparkTokens_keeps)
    | (with_reducible apply State.segApply_keeps) | (with_reducible apply State.freeRows_keeps) | split

theorem State.fifoPut_keeps {r0 s : State} (hk : Keeps r0 s) (p n r : Nat) (t : VIn) (epoch : Nat) :
    Keeps r0 (s.fifoPut p n r t epoch) := by
  unfold State.fifoPut
  dsimp only
  exact State.setMu_keeps hk _ _ _ (fun x => Mu.wf_setReg (Mu.wf_setTag (Mu.wf_writeWide (Keeps.mu hk p n x) _ _ _) _ _) _ _)

theorem State.fifoTake_keeps {r0 s : State} (hk : Keeps r0 s) (p : Nat) (n : Nat) (r : Nat) :
    Keeps r0 (State.fifoTake s p n r).2 := by
  unfold State.fifoTake
  repeat' first
    | (with_reducible assumption) | (refine fun (x : ∀ e ∈ r0.mus, Memory.wf e.2.sram = true) => ?_)
    | (with_reducible refine Keeps.mu ?_ _ _ (by with_reducible assumption)) | (with_reducible apply Mu.wf_setReg)
    | ((try lift_lets); intro v; dsimp only [v]; clear v) | (with_reducible apply State.muRead_keeps)
    | (with_reducible apply State.setMu_keeps)

theorem queueTokenIn_keeps {r0 s : State} (hk : Keeps r0 s) (p : Nat) (n : Nat) (k : Nat) :
    Keeps r0 (queueTokenIn p n k s) := by
  unfold queueTokenIn
  repeat' first
    | (with_reducible assumption) | (refine fun (x : ∀ e ∈ r0.mus, Memory.wf e.2.sram = true) => ?_)
    | (with_reducible refine Keeps.mu ?_ _ _ (by with_reducible assumption)) | (with_reducible apply Keeps.ite)
    | (with_reducible apply State.setMu_keeps) | (with_reducible apply State.fifoPut_keeps) | dsimp only | split

theorem queueTokenOut_keeps {r0 s : State} (hk : Keeps r0 s) (p : Nat) (n : Nat) (k : Nat) :
    Keeps r0 (queueTokenOut p n k s) := by
  unfold queueTokenOut
  repeat' first
    | (with_reducible assumption) | (with_reducible apply Keeps.ite) | (with_reducible apply State.fifoTake_keeps)
    | (with_reducible apply State.agEmit_keeps) | dsimp only | split

theorem State.rowCommand_keeps {r0 s : State} (hk : Keeps r0 s) (p : Nat) (n : Nat) (c : RowCmd) (byEvent : Bool) :
    Keeps r0 (State.rowCommand s p n c byEvent) := by
  unfold State.rowCommand
  repeat' first
    | (with_reducible assumption) | (refine fun _ _ h => ?_)
    | (refine fun (x : ∀ e ∈ r0.mus, Memory.wf e.2.sram = true) => ?_)
    | (with_reducible refine Keeps.mu ?_ _ _ (by with_reducible assumption))
    | ((try lift_lets); intro v; dsimp only [v]; clear v) | (with_reducible apply Keeps.ite)
    | (with_reducible apply State.emit_keeps) | (with_reducible apply State.setMu_keeps)
    | (with_reducible apply State.muRead_keeps) | (with_reducible apply State.muWrite_keeps)
    | (with_reducible refine Keeps.foldl _ ?_ _ _ ?_) | (with_reducible refine Keeps.foldl2 _ ?_ _ _ ?_)
    | (with_reducible apply Keeps.ite2)

theorem rowCommandDone_keeps {r0 s : State} (hk : Keeps r0 s) (p : Nat) (n : Nat) :
    Keeps r0 (rowCommandDone p n s) := by
  unfold rowCommandDone
  repeat' first
    | (with_reducible assumption) | (refine fun (x : ∀ e ∈ r0.mus, Memory.wf e.2.sram = true) => ?_)
    | (with_reducible refine Keeps.mu ?_ _ _ (by with_reducible assumption)) | (with_reducible apply Keeps.ite)
    | (with_reducible apply State.setMu_keeps)

theorem State.grant_keeps {r0 s : State} (hk : Keeps r0 s) (p : Nat) (n : Nat) (r : Nat) (k : Nat) :
    Keeps r0 (State.grant s p n r k) := by
  unfold State.grant
  repeat' first
    | (with_reducible assumption) | (refine fun (x : ∀ e ∈ r0.mus, Memory.wf e.2.sram = true) => ?_)
    | (with_reducible refine Keeps.mu ?_ _ _ (by with_reducible assumption)) | (with_reducible apply Mu.wf_setReg)
    | ((try lift_lets); intro v; dsimp only [v]; clear v) | (with_reducible apply Keeps.ite)
    | (with_reducible apply State.setMu_keeps) | (with_reducible apply State.bmkAdd_keeps)
    | (with_reducible apply State.request_keeps)

theorem creditReturn_keeps {r0 s : State} (hk : Keeps r0 s) (p : Nat) (n : Nat) (r : Nat) :
    Keeps r0 (creditReturn p n r s) := by
  unfold creditReturn
  repeat' first
    | (with_reducible assumption) | (with_reducible apply Keeps.ite) | (with_reducible apply State.grant_keeps)

theorem State.remoteWrite_keeps {r0 s : State} (hk : Keeps r0 s) (p n off : Nat) (bs : List Byte) (poison : Bool) :
    Keeps r0 (s.remoteWrite p n off bs poison).1 := by
  unfold State.remoteWrite
  dsimp only
  have h := State.muPoisonIn_keeps (State.takeSpine_keeps hk) p n (poison || s.takeSpine.1)
  revert h
  generalize s.takeSpine.2.muPoisonIn p n (poison || s.takeSpine.1) = u
  intro h
  split
  · with_reducible exact State.raiseMu_keeps h _ _ _ _ _
  · split
    · with_reducible exact State.raiseMu_keeps h _ _ _ _ _
    · split
      · with_reducible exact State.raiseMu_keeps h _ _ _ _ _
      · with_reducible refine State.setMu_keeps h _ _ _ (fun x => Mu.wf_setReg ?_ _ _)
        have w := Mu.wf_writeWide (Keeps.mu h p n x) off bs (poison || s.takeSpine.1)
        with_reducible refine Mu.wf_ite ?_ w
        exact Mu.wf_setTags _ _ _ w

theorem State.remoteSegment_keeps {r0 s : State} (hk : Keeps r0 s) (p : Nat) (n : Nat) (off : Nat) (contrib : Nat) (ts : List VIn) :
    Keeps r0 (State.remoteSegment s p n off contrib ts).1 := by
  unfold State.remoteSegment
  repeat' first
    | (with_reducible assumption) | (refine fun (x : ∀ e ∈ r0.mus, Memory.wf e.2.sram = true) => ?_)
    | (with_reducible refine Keeps.mu ?_ _ _ (by with_reducible assumption)) | (with_reducible apply Mu.wf_setReg)
    | (with_reducible apply State.takeSpine_keeps) | (with_reducible apply State.muPoisonIn_keeps)
    | (with_reducible apply State.raiseMu_keeps) | (with_reducible apply State.setMu_keeps)
    | (with_reducible apply State.freeRows_keeps) | (refine State.segAccept_keeps ?_ (by with_reducible assumption))
    | dsimp only | (with_reducible apply Keeps.ite1) | split

theorem scrubRow_keeps {r0 s : State} (hk : Keeps r0 s) (p : Nat) (n : Nat) (ups : List Upset) :
    Keeps r0 (scrubRow p n ups s) := by
  unfold scrubRow
  repeat' first
    | (with_reducible assumption) | (refine fun _ _ h => ?_)
    | (refine fun (x : ∀ e ∈ r0.mus, Memory.wf e.2.sram = true) => ?_)
    | (with_reducible refine Keeps.mu ?_ _ _ (by with_reducible assumption))
    | ((try lift_lets); intro v; refine Keeps.cut (r := r0) (s := v) ?_ ?_; dsimp only [v]; clear v;
       rotate_left; intro hv; clear_value v; revert v; refine Keeps.all ?_; intro v hv)
    | (with_reducible apply Keeps.ite) | (with_reducible apply State.strikes_keeps)
    | (with_reducible apply State.muCheck_keeps) | (with_reducible apply State.setMu_keeps)
    | (with_reducible refine Keeps.foldl _ ?_ _ _ ?_)

theorem scrubLate_keeps {r0 s : State} (hk : Keeps r0 s) (p : Nat) (n : Nat) :
    Keeps r0 (scrubLate p n s) := by
  unfold scrubLate
  repeat' first
    | (with_reducible assumption) | (refine fun (x : ∀ e ∈ r0.mus, Memory.wf e.2.sram = true) => ?_)
    | (with_reducible refine Keeps.mu ?_ _ _ (by with_reducible assumption))
    | ((try lift_lets); intro v; dsimp only [v]; clear v) | (with_reducible apply Keeps.ite)
    | (with_reducible apply State.setMu_keeps)

end Sys2Proof.Machine
end

