-- ==== Sys2Proof/Laws/KeepsTraverse.lean ====
section
/-! SUPPORT. What the operations of Machine/Traverse.lean keep. -/
namespace Sys2Proof.Machine

theorem Mu.wf_takeFlags {m : Mu} (h : Memory.wf m.sram = true) (p b : Bool) : Memory.wf (m.takeFlags p b).sram = true := by
  cases p <;> cases b <;> exact h

theorem State.deliver_keeps {r0 s : State} (hk : Keeps r0 s) (p : Nat) (bad : Bool) (t : Tok) (d : Dest) :
    Keeps r0 (State.deliver s p bad t d) := by
  unfold State.deliver
  repeat' first
    | (with_reducible assumption) | (refine fun (x : ∀ e ∈ r0.mus, Memory.wf e.2.sram = true) => ?_)
    | (with_reducible refine Keeps.mu ?_ _ _ (by with_reducible assumption)) | (with_reducible apply Mu.wf_setAg)
    | (with_reducible apply Mu.wf_takeFlags) | (with_reducible apply State.pushLink_keeps)
    | (with_reducible apply State.setCu_keeps) | (with_reducible apply State.setMu_keeps) | dsimp only | split

theorem State.unspill_keeps {r0 s : State} (hk : Keeps r0 s) (p : Nat) (site : Nat) (net : Nat) (chan : Nat) :
    Keeps r0 (State.unspill s p site net chan) := by
  unfold State.unspill
  repeat' first
    | (with_reducible assumption) | (with_reducible apply Keeps.ite) | (with_reducible apply State.fifoTake_keeps)
    | (with_reducible apply State.setSw_keeps)

theorem State.raiseSw_keeps {r0 s : State} (hk : Keeps r0 s) (code : Code) (p : Nat) (site : Nat) (bit : Nat) :
    Keeps r0 (State.raiseSw s code p site bit) := by
  unfold State.raiseSw
  repeat' first
    | (with_reducible assumption) | ((try lift_lets); intro v; dsimp only [v]; clear v)
    | (with_reducible apply Keeps.ite) | (with_reducible apply State.stepFail_keeps)
    | (with_reducible apply State.setSw_keeps) | (with_reducible apply State.raise_keeps) | dsimp only | split
    | (with_reducible refine Keeps.made ?_ ?_ ?_ ?_ ?_ ?_ ?_ ?_ ?_ ?_) | rfl

theorem State.enqueue_keeps {r0 s : State} (hk : Keeps r0 s) (p : Nat) (site : Nat) (net : Nat) (chan : Nat) (t : Tok) :
    Keeps r0 (State.enqueue s p site net chan t) := by
  unfold State.enqueue
  repeat' first
    | (with_reducible assumption) | ((try lift_lets); intro v; dsimp only [v]; clear v)
    | (with_reducible apply Keeps.ite) | (with_reducible apply State.setSw_keeps)
    | (with_reducible apply State.fifoPut_keeps)

theorem State.bridgeParity_keeps {r0 s : State} (hk : Keeps r0 s) (p : Nat) (net : Nat) (chan : Nat) :
    Keeps r0 (State.bridgeParity s p net chan) := by
  unfold State.bridgeParity
  repeat' first
    | (with_reducible assumption) | ((try lift_lets); intro v; dsimp only [v]; clear v)
    | (with_reducible apply Keeps.ite) | (with_reducible apply State.setPlat_keeps)

theorem tokenArrival_keeps {r0 s : State} (hk : Keeps r0 s) (p : Nat) (site : Nat) (net : Net) (chan : Nat) (flips : Tok) :
    Keeps r0 (tokenArrival p site net chan flips s) := by
  unfold tokenArrival
  repeat' first
    | (with_reducible assumption) | (with_reducible apply Keeps.ite) | (with_reducible apply State.setSw_keeps)
    | (with_reducible apply State.enqueue_keeps) | (with_reducible apply State.raiseSw_keeps)
    | (with_reducible apply State.bridgeParity_keeps) | dsimp only | split

theorem tokenDeparture_keeps {r0 s : State} (hk : Keeps r0 s) (p : Nat) (site : Nat) (net : Net) (chan : Nat) (unitReady : Bool) (parityBad : Bool) :
    Keeps r0 (tokenDeparture p site net chan unitReady parityBad s) := by
  unfold tokenDeparture
  repeat' first
    | (with_reducible assumption) | (refine fun _ _ h => ?_) | ((try lift_lets); intro v; dsimp only [v]; clear v)
    | (with_reducible apply Keeps.ite) | (with_reducible apply State.setSw_keeps)
    | (with_reducible apply State.deliver_keeps) | (with_reducible apply State.unspill_keeps)
    | (with_reducible refine Keeps.foldl _ ?_ _ _ ?_) | split

theorem queueBlocked_keeps {r0 s : State} (hk : Keeps r0 s) (p : Nat) (site : Nat) (net : Net) (chan : Nat) :
    Keeps r0 (queueBlocked p site net chan s) := by
  unfold queueBlocked
  repeat' first
    | (with_reducible assumption) | ((try lift_lets); intro v; dsimp only [v]; clear v)
    | (with_reducible apply Keeps.ite) | (with_reducible apply State.setSw_keeps)

theorem deadlockResolution_keeps {r0 s : State} (hk : Keeps r0 s) (p : Nat) (cycle : List CycleNode) :
    Keeps r0 (deadlockResolution p cycle s) := by
  unfold deadlockResolution
  repeat' first
    | (with_reducible assumption) | (with_reducible apply Keeps.ite) | (with_reducible apply State.setSw_keeps)
    | (with_reducible apply State.setPlat_keeps) | (with_reducible apply State.raise_keeps) | dsimp only | split

theorem spillEnd_keeps {r0 s : State} (hk : Keeps r0 s) (p : Nat) (site : Nat) :
    Keeps r0 (spillEnd p site s) := by
  unfold spillEnd
  repeat' first
    | (with_reducible assumption) | (with_reducible apply Keeps.ite) | (with_reducible apply State.setSw_keeps)

theorem State.closeInputs_keeps {r0 s : State} (hk : Keeps r0 s) (p : Nat) (site : Nat) :
    Keeps r0 (State.closeInputs s p site) := by
  unfold State.closeInputs
  repeat' first
    | (with_reducible assumption) | ((try lift_lets); intro v; dsimp only [v]; clear v)
    | (with_reducible apply State.setSw_keeps)

theorem State.drainCode_keeps {r0 s : State} (hk : Keeps r0 s) (p : Nat) (c : Code) :
    Keeps r0 (State.drainCode s p c) := by
  unfold State.drainCode
  repeat' first
    | (with_reducible assumption) | ((try lift_lets); intro v; dsimp only [v]; clear v)
    | (with_reducible apply State.setPlat_keeps)

theorem State.beginDrain_keeps {r0 s : State} (hk : Keeps r0 s) (p : Nat) (mask : W16) :
    Keeps r0 (State.beginDrain s p mask) := by
  unfold State.beginDrain
  repeat' first
    | (with_reducible assumption) | (refine fun _ _ h => ?_) | ((try lift_lets); intro v; dsimp only [v]; clear v)
    | (with_reducible apply State.setSw_keeps) | (with_reducible apply State.setPlat_keeps)
    | (with_reducible apply State.closeInputs_keeps) | (with_reducible refine Keeps.foldl _ ?_ _ _ ?_)

theorem State.drainOrder_keeps {r0 s : State} (hk : Keeps r0 s) (p : Nat) (mask : W16) :
    Keeps r0 (State.drainOrder s p mask).1 := by
  unfold State.drainOrder
  repeat' first
    | (with_reducible assumption) | (with_reducible apply State.drainCode_keeps)
    | (with_reducible apply State.beginDrain_keeps) | dsimp only | (with_reducible apply Keeps.ite1)

theorem State.reopen_keeps {r0 s : State} (hk : Keeps r0 s) (p : Nat) (mask : W16) :
    Keeps r0 (State.reopen s p mask) := by
  unfold State.reopen
  repeat' first
    | (with_reducible assumption) | (refine fun _ _ h => ?_)
    | (refine fun (x : ∀ e ∈ r0.mus, Memory.wf e.2.sram = true) => ?_)
    | (with_reducible refine Keeps.mu ?_ _ _ (by with_reducible assumption))
    | ((try lift_lets); intro v; dsimp only [v]; clear v) | (with_reducible apply Keeps.ite)
    | (with_reducible apply State.setSw_keeps) | (with_reducible apply State.setCu_keeps)
    | (with_reducible apply State.setMu_keeps) | (with_reducible apply State.setPlat_keeps)
    | (with_reducible refine Keeps.foldl _ ?_ _ _ ?_)

theorem State.resumeOrder_keeps {r0 s : State} (hk : Keeps r0 s) (p : Nat) (mask : W16) :
    Keeps r0 (State.resumeOrder s p mask).1 := by
  unfold State.resumeOrder
  repeat' first
    | (with_reducible assumption) | (with_reducible apply State.drainCode_keeps)
    | (with_reducible apply State.reopen_keeps) | (with_reducible apply Keeps.ite1)

theorem State.drainWord_keeps {r0 s : State} (hk : Keeps r0 s) (p : Nat) (w : W64) :
    Keeps r0 (State.drainWord s p w).1 := by
  unfold State.drainWord
  repeat' first
    | (with_reducible assumption) | ((try lift_lets); intro v; dsimp only [v]; clear v)
    | (with_reducible apply State.drainOrder_keeps) | (with_reducible apply State.resumeOrder_keeps)
    | (with_reducible apply State.drainCode_keeps) | split

theorem drainEff_keeps {r0 s : State} (hk : Keeps r0 s) (w : CmdWord) :
    Keeps r0 (drainEff w s).1 := by
  unfold drainEff
  repeat' first
    | (with_reducible assumption) | (with_reducible apply State.drainWord_keeps) | dsimp only
    | (with_reducible apply Keeps.ite1)

theorem drain_keeps {r0 s : State} (hk : Keeps r0 s) (p : Nat) (mask : W16) (via : Via) :
    Keeps r0 (drain p mask via s) := by
  unfold drain
  repeat' first
    | (with_reducible assumption) | (refine fun _ _ h => ?_) | (refine fun _ h => ?_)
    | (with_reducible apply State.writeBy_keeps) | (with_reducible apply State.drainOrder_keeps)
    | (with_reducible apply State.cmdArrive_keeps) | (with_reducible apply drainEff_keeps) | dsimp only | split

theorem resume_keeps {r0 s : State} (hk : Keeps r0 s) (p : Nat) (mask : W16) (via : Via) :
    Keeps r0 (resume p mask via s) := by
  unfold resume
  repeat' first
    | (with_reducible assumption) | (refine fun _ _ h => ?_) | (refine fun _ h => ?_)
    | (with_reducible apply State.writeBy_keeps) | (with_reducible apply State.resumeOrder_keeps)
    | (with_reducible apply State.cmdArrive_keeps) | (with_reducible apply drainEff_keeps) | dsimp only | split

theorem State.completeDrains_keeps {r0 s : State} (hk : Keeps r0 s) (p : Nat) (code : Code) (f : W16 → Bool) :
    Keeps r0 (State.completeDrains s p code f) := by
  unfold State.completeDrains
  repeat' first
    | (with_reducible assumption) | (refine fun _ _ h => ?_) | (with_reducible apply State.complete_keeps)
    | (with_reducible refine Keeps.foldl _ ?_ _ _ ?_)

theorem drainComplete_keeps {r0 s : State} (hk : Keeps r0 s) (p : Nat) (mask : W16) :
    Keeps r0 (drainComplete p mask s) := by
  unfold drainComplete
  repeat' first
    | (with_reducible assumption) | (refine fun _ _ h => ?_)
    | (refine fun (x : ∀ e ∈ r0.mus, Memory.wf e.2.sram = true) => ?_)
    | (with_reducible refine Keeps.mu ?_ _ _ (by with_reducible assumption))
    | ((try lift_lets); intro v; dsimp only [v]; clear v) | (with_reducible apply Keeps.ite)
    | (with_reducible apply State.setSw_keeps) | (with_reducible apply State.setCu_keeps)
    | (with_reducible apply State.setMu_keeps) | (with_reducible apply State.setPlat_keeps)
    | (with_reducible apply State.completeDrains_keeps) | (with_reducible refine Keeps.foldl _ ?_ _ _ ?_)

theorem drainTimeout_keeps {r0 s : State} (hk : Keeps r0 s) (p : Nat) (mask : W16) :
    Keeps r0 (drainTimeout p mask s) := by
  unfold drainTimeout
  repeat' first
    | (with_reducible assumption) | ((try lift_lets); intro v; dsimp only [v]; clear v)
    | (with_reducible apply Keeps.ite) | (with_reducible apply State.setPlat_keeps)
    | (with_reducible apply State.completeDrains_keeps) | (with_reducible apply State.raise_keeps)
    | (with_reducible apply State.enterFailed_keeps)

end Sys2Proof.Machine
end

