-- ==== Sys2Proof/Laws/KeepsClocks.lean ====
section
/-! SUPPORT. What the operations of Machine/Clocks.lean keep. -/
namespace Sys2Proof.Machine

theorem Keeps.forget {r s : State} (h : Keeps r s) (c : Clk) (a : Adj) :
    Keeps r { s with clk := c, dram := s.dram.forget, adj := a } :=
  { h with mem := fun _ => rfl }

theorem pllLockFail_keeps {r0 s : State} (hk : Keeps r0 s) (d : Nat) :
    Keeps r0 (pllLockFail d s) := by
  unfold pllLockFail
  repeat' first
    | (with_reducible assumption) | ((try lift_lets); intro v; dsimp only [v]; clear v)
    | (with_reducible apply Keeps.ite) | (with_reducible apply State.meterJudge_keeps)
    | (with_reducible apply State.raise_keeps) | dsimp only
    | (with_reducible refine Keeps.made ?_ ?_ ?_ ?_ ?_ ?_ ?_ ?_ ?_ ?_)

theorem pllRelock_keeps {r0 s : State} (hk : Keeps r0 s) :
    Keeps r0 (pllRelock s) := by
  unfold pllRelock
  repeat' first
    | (with_reducible assumption)
    | ((try lift_lets); intro v; refine Keeps.cut (r := r0) (s := v) ?_ ?_; dsimp only [v]; clear v;
       rotate_left; intro hv; clear_value v; revert v; refine Keeps.all ?_; intro v hv)
    | ((try lift_lets); intro v; dsimp only [v]; clear v) | (with_reducible apply Keeps.ite)
    | (with_reducible apply State.setPlls_keeps) | (with_reducible apply State.stepRecovered_keeps) | dsimp only
    | split | (with_reducible refine Keeps.made ?_ ?_ ?_ ?_ ?_ ?_ ?_ ?_ ?_ ?_)

theorem refinLost_keeps {r0 s : State} (hk : Keeps r0 s) :
    Keeps r0 (refinLost s) := by
  unfold refinLost
  repeat' first
    | (with_reducible assumption) | (refine fun _ _ h => ?_) | ((try lift_lets); intro v; dsimp only [v]; clear v)
    | (with_reducible apply Keeps.ite) | (with_reducible apply State.meterJudge_keeps)
    | (with_reducible apply State.coast_keeps) | (with_reducible apply State.setPort_keeps)
    | (with_reducible apply State.dropLink_keeps) | (with_reducible apply State.raise_keeps)
    | (with_reducible apply Keeps.forget) | (with_reducible refine Keeps.foldl _ ?_ _ _ ?_)

theorem localInputPresent_keeps {r0 s : State} (hk : Keeps r0 s) :
    Keeps r0 (localInputPresent s) := by
  unfold localInputPresent
  repeat' first
    | (with_reducible assumption) | (refine fun _ _ h => ?_) | ((try lift_lets); intro v; dsimp only [v]; clear v)
    | (with_reducible apply Keeps.ite) | (with_reducible apply State.retrainPort_keeps) | dsimp only
    | (with_reducible refine Keeps.foldl _ ?_ _ _ ?_)
    | (with_reducible refine Keeps.made ?_ ?_ ?_ ?_ ?_ ?_ ?_ ?_ ?_ ?_)

theorem gatingModeWrite_keeps {r0 s : State} (hk : Keeps r0 s) (v : W64) :
    Keeps r0 (gatingModeWrite v s) := by
  unfold gatingModeWrite
  repeat' first
    | (with_reducible assumption) | (refine fun _ h => ?_) | ((try lift_lets); intro v; dsimp only [v]; clear v)
    | (with_reducible apply State.whenAwake_keeps) | dsimp only
    | (with_reducible refine Keeps.made ?_ ?_ ?_ ?_ ?_ ?_ ?_ ?_ ?_ ?_)

theorem idleClockStop_keeps {r0 s : State} (hk : Keeps r0 s) (d : Nat) (block : Nat) :
    Keeps r0 (idleClockStop d block s) := by
  unfold idleClockStop
  repeat' first
    | (with_reducible assumption) | ((try lift_lets); intro v; dsimp only [v]; clear v)
    | (with_reducible apply Keeps.ite) | dsimp only | (with_reducible refine Keeps.made ?_ ?_ ?_ ?_ ?_ ?_ ?_ ?_ ?_ ?_)

theorem clockWake_keeps {r0 s : State} (hk : Keeps r0 s) (d : Nat) (block : Nat) :
    Keeps r0 (clockWake d block s) := by
  unfold clockWake
  repeat' first
    | (with_reducible assumption) | ((try lift_lets); intro v; dsimp only [v]; clear v)
    | (with_reducible apply Keeps.ite) | dsimp only | (with_reducible refine Keeps.made ?_ ?_ ?_ ?_ ?_ ?_ ?_ ?_ ?_ ?_)

theorem State.wakeBusy_keeps {r0 s : State} (hk : Keeps r0 s) :
    Keeps r0 (State.wakeBusy s) := by
  unfold State.wakeBusy
  repeat' first
    | (with_reducible assumption) | ((try lift_lets); intro v; dsimp only [v]; clear v) | dsimp only
    | (with_reducible refine Keeps.made ?_ ?_ ?_ ?_ ?_ ?_ ?_ ?_ ?_ ?_)

theorem State.gateCmd_keeps {r0 s : State} (hk : Keeps r0 s) (d : Nat) (g : Nat) (open_ : Bool) :
    Keeps r0 (State.gateCmd s d g open_) := by
  unfold State.gateCmd
  repeat' first
    | (with_reducible assumption) | (refine fun _ h => ?_) | ((try lift_lets); intro v; dsimp only [v]; clear v)
    | (with_reducible apply Keeps.ite) | (with_reducible apply State.whenAwake_keeps)
    | (with_reducible apply State.meterJudge_keeps) | dsimp only
    | (with_reducible refine Keeps.made ?_ ?_ ?_ ?_ ?_ ?_ ?_ ?_ ?_ ?_)

theorem gateOpen_keeps {r0 s : State} (hk : Keeps r0 s) (d : Nat) (g : Nat) :
    Keeps r0 (gateOpen d g s) := by
  unfold gateOpen
  repeat' first
    | (with_reducible assumption) | (with_reducible apply State.gateCmd_keeps)

theorem gateClose_keeps {r0 s : State} (hk : Keeps r0 s) (d : Nat) (g : Nat) :
    Keeps r0 (gateClose d g s) := by
  unfold gateClose
  repeat' first
    | (with_reducible assumption) | (with_reducible apply State.gateCmd_keeps)

theorem fmeterStart_keeps {r0 s : State} (hk : Keeps r0 s) (v : W64) :
    Keeps r0 (fmeterStart v s) := by
  unfold fmeterStart
  repeat' first
    | (with_reducible assumption) | (refine fun _ h => ?_) | ((try lift_lets); intro v; dsimp only [v]; clear v)
    | (with_reducible apply State.whenAwake_keeps) | (with_reducible apply State.meterJudge_keeps) | dsimp only
    | split | (with_reducible refine Keeps.made ?_ ?_ ?_ ?_ ?_ ?_ ?_ ?_ ?_ ?_)

theorem fmeterDone_keeps {r0 s : State} (hk : Keeps r0 s) (count : BitVec 48) (refStopped : Bool) :
    Keeps r0 (fmeterDone count refStopped s) := by
  unfold fmeterDone
  repeat' first
    | (with_reducible assumption) | ((try lift_lets); intro v; dsimp only [v]; clear v)
    | (with_reducible apply Keeps.ite) | dsimp only | split
    | (with_reducible refine Keeps.made ?_ ?_ ?_ ?_ ?_ ?_ ?_ ?_ ?_ ?_)

theorem State.pwrResult_keeps {r0 s : State} (hk : Keeps r0 s) (c : Code) :
    Keeps r0 (State.pwrResult s c) := by
  unfold State.pwrResult
  repeat' first
    | (with_reducible assumption) | ((try lift_lets); intro v; dsimp only [v]; clear v) | dsimp only
    | (with_reducible refine Keeps.made ?_ ?_ ?_ ?_ ?_ ?_ ?_ ?_ ?_ ?_)

theorem idle_keeps {r0 s : State} (hk : Keeps r0 s) :
    Keeps r0 (idle s) := by
  unfold idle
  repeat' first
    | (with_reducible assumption) | (refine fun _ h => ?_) | ((try lift_lets); intro v; dsimp only [v]; clear v)
    | (with_reducible apply Keeps.ite) | (with_reducible apply State.whenAwake_keeps)
    | (with_reducible apply State.pwrResult_keeps) | (with_reducible apply State.meterJudge_keeps) | dsimp only
    | (with_reducible refine Keeps.made ?_ ?_ ?_ ?_ ?_ ?_ ?_ ?_ ?_ ?_)

theorem wake_keeps {r0 s : State} (hk : Keeps r0 s) :
    Keeps r0 (wake s) := by
  unfold wake
  repeat' first
    | (with_reducible assumption) | (refine fun _ h => ?_) | ((try lift_lets); intro v; dsimp only [v]; clear v)
    | (with_reducible apply Keeps.ite) | (with_reducible apply State.whenAwake_keeps)
    | (with_reducible apply State.pwrResult_keeps) | dsimp only
    | (with_reducible refine Keeps.made ?_ ?_ ?_ ?_ ?_ ?_ ?_ ?_ ?_ ?_)

theorem powerStateChange_keeps {r0 s : State} (hk : Keeps r0 s) :
    Keeps r0 (powerStateChange s) := by
  unfold powerStateChange
  repeat' first
    | (with_reducible assumption) | ((try lift_lets); intro v; dsimp only [v]; clear v)
    | (with_reducible apply Keeps.ite) | dsimp only | split
    | (with_reducible refine Keeps.made ?_ ?_ ?_ ?_ ?_ ?_ ?_ ?_ ?_ ?_)

theorem pwrLimitWrite_keeps {r0 s : State} (hk : Keeps r0 s) (v : W64) :
    Keeps r0 (pwrLimitWrite v s) := by
  unfold pwrLimitWrite
  repeat' first
    | (with_reducible assumption) | (refine fun _ h => ?_) | ((try lift_lets); intro v; dsimp only [v]; clear v)
    | (with_reducible apply Keeps.ite) | (with_reducible apply State.whenAwake_keeps)
    | (with_reducible apply State.pwrResult_keeps) | dsimp only
    | (with_reducible refine Keeps.made ?_ ?_ ?_ ?_ ?_ ?_ ?_ ?_ ?_ ?_)

theorem railPoll_keeps {r0 s : State} (hk : Keeps r0 s) (rails : List RailSample) (answered : BitVec 5) :
    Keeps r0 (railPoll rails answered s) := by
  unfold railPoll
  repeat' first
    | (with_reducible assumption) | (refine fun _ h => ?_) | (with_reducible apply Keeps.ite)
    | (with_reducible apply State.whenAwake_keeps) | (with_reducible apply State.raise_keeps) | dsimp only | split
    | (with_reducible refine Keeps.made ?_ ?_ ?_ ?_ ?_ ?_ ?_ ?_ ?_ ?_)

theorem vddCoreAdjust_keeps {r0 s : State} (hk : Keeps r0 s) (step : Int) :
    Keeps r0 (vddCoreAdjust step s) := by
  unfold vddCoreAdjust
  repeat' first
    | (with_reducible assumption) | ((try lift_lets); intro v; dsimp only [v]; clear v)
    | (with_reducible apply Keeps.ite) | dsimp only | (with_reducible refine Keeps.made ?_ ?_ ?_ ?_ ?_ ?_ ?_ ?_ ?_ ?_)

theorem avsFail_keeps {r0 s : State} (hk : Keeps r0 s) :
    Keeps r0 (avsFail s) := by
  unfold avsFail
  repeat' first
    | (with_reducible assumption) | (refine fun _ h => ?_) | (with_reducible apply State.whenAwake_keeps)
    | (with_reducible apply State.raise_keeps)

theorem avsTelemetry_keeps {r0 s : State} (hk : Keeps r0 s) (r : Nat) :
    Keeps r0 (avsTelemetry r s) := by
  unfold avsTelemetry
  repeat' first
    | (with_reducible assumption) | ((try lift_lets); intro v; dsimp only [v]; clear v)
    | (with_reducible apply Keeps.ite) | (with_reducible apply State.raise_keeps) | dsimp only
    | (with_reducible refine Keeps.made ?_ ?_ ?_ ?_ ?_ ?_ ?_ ?_ ?_ ?_)

theorem temperatureSample_keeps {r0 s : State} (hk : Keeps r0 s) (ts : List Int) :
    Keeps r0 (temperatureSample ts s) := by
  unfold temperatureSample
  repeat' first
    | (with_reducible assumption) | (refine fun _ h => ?_) | (with_reducible apply Keeps.ite)
    | (with_reducible apply State.whenAwake_keeps) | (with_reducible apply State.meterJudge_keeps)
    | (with_reducible apply State.raise_keeps) | dsimp only | split
    | (with_reducible refine Keeps.made ?_ ?_ ?_ ?_ ?_ ?_ ?_ ?_ ?_ ?_)

end Sys2Proof.Machine
end

