-- ==== Sys2Proof/Laws/KeepsStash.lean ====
section
/-! SUPPORT. What the operations of Machine/Stash.lean keep. -/
namespace Sys2Proof.Machine

theorem State.moveFrame_keeps {r0 s : State} (hk : Keeps r0 s) (p : Nat) (n : Nat) (r : Nat) (spill : Bool) (count : Nat) (rows : Nat) (x : DramRange) :
    Keeps r0 (State.moveFrame s p n r spill count rows x) := by
  unfold State.moveFrame
  repeat' first
    | (with_reducible assumption) | ((try lift_lets); intro v; dsimp only [v]; clear v)
    | (with_reducible apply State.setPlat_keeps)

theorem State.agFinish_keeps {r0 s : State} (hk : Keeps r0 s) (p : Nat) (n : Nat) (a : Nat) (input : List VIn) :
    Keeps r0 (State.agFinish s p n a input) := by
  unfold State.agFinish
  repeat' first
    | (with_reducible assumption) | (refine fun (x : ∀ e ∈ r0.mus, Memory.wf e.2.sram = true) => ?_)
    | (with_reducible refine Keeps.mu ?_ _ _ (by with_reducible assumption)) | (with_reducible apply Mu.wf_setAg)
    | ((try lift_lets); intro v; dsimp only [v]; clear v) | (with_reducible apply State.setMu_keeps)

theorem State.setReg_keeps {r0 s : State} (hk : Keeps r0 s) (p : Nat) (n : Nat) (r : Nat) (f : RegSt → RegSt) :
    Keeps r0 (State.setReg s p n r f) := by
  unfold State.setReg
  repeat' first
    | (with_reducible assumption) | (refine fun (x : ∀ e ∈ r0.mus, Memory.wf e.2.sram = true) => ?_)
    | (with_reducible refine Keeps.mu ?_ _ _ (by with_reducible assumption)) | (with_reducible apply Mu.wf_setReg)
    | ((try lift_lets); intro v; dsimp only [v]; clear v) | (with_reducible apply State.setMu_keeps)

theorem pushWalk_keeps {r0 s : State} (hk : Keeps r0 s) (p : Nat) (n : Nat) (a : Nat) (ups : List Upset) :
    Keeps r0 (pushWalk p n a ups s) := by
  unfold pushWalk
  repeat' first
    | (with_reducible assumption) | (refine fun _ _ h => ?_)
    | ((try lift_lets); intro v; refine Keeps.cut (r := r0) (s := v) ?_ ?_; dsimp only [v]; clear v;
       rotate_left; intro hv; clear_value v; revert v; refine Keeps.all ?_; intro v hv)
    | ((try lift_lets); intro v; dsimp only [v]; clear v) | (with_reducible apply Keeps.ite)
    | (with_reducible apply State.strikes_keeps) | (with_reducible apply State.agFinish_keeps)
    | (with_reducible apply State.raiseMu_keeps) | (with_reducible apply State.muWrite_keeps)
    | (with_reducible apply State.setReg_keeps) | (with_reducible apply State.muCheck_keeps)
    | (with_reducible refine Keeps.foldl _ ?_ _ _ ?_)

theorem State.poisonFrame_keeps {r0 s : State} (h : Keeps r0 s) (g : AgSt) : ∀ (k : Nat), Keeps r0 (s.poisonFrame g k).2
  | 0 => h
  | k + 1 => by
    unfold State.poisonFrame
    exact State.freeToken_keeps (State.poisonFrame_keeps h g k) (g.lastAt k)

theorem popWalk_keeps {r0 s : State} (hk : Keeps r0 s) (p : Nat) (n : Nat) (a : Nat) (ups : List Upset) :
    Keeps r0 (popWalk p n a ups s) := by
  unfold popWalk
  repeat' first
    | (with_reducible assumption) | (refine fun _ _ h => ?_)
    | ((try lift_lets); intro v; refine Keeps.cut (r := r0) (s := v) ?_ ?_; dsimp only [v]; clear v;
       rotate_left; intro hv; clear_value v; revert v; refine Keeps.all ?_; intro v hv)
    | ((try lift_lets); intro v; dsimp only [v]; clear v) | (with_reducible apply Keeps.ite)
    | (with_reducible apply State.strikes_keeps) | (with_reducible apply State.setReg_keeps)
    | (with_reducible apply State.poisonFrame_keeps) | (with_reducible apply State.agEmit_keeps)
    | (with_reducible apply State.agFinish_keeps) | (with_reducible apply State.raiseMu_keeps)
    | (with_reducible apply State.muRead_keeps) | (with_reducible refine Keeps.foldl2 _ ?_ _ _ ?_)

theorem stashSpill_keeps {r0 s : State} (hk : Keeps r0 s) (p : Nat) (n : Nat) (r : Nat) (ups : List Upset) :
    Keeps r0 (stashSpill p n r ups s) := by
  unfold stashSpill
  repeat' first
    | (with_reducible assumption)
    | ((try lift_lets); intro v; refine Keeps.cut (r := r0) (s := v) ?_ ?_; dsimp only [v]; clear v;
       rotate_left; intro hv; clear_value v; revert v; refine Keeps.all ?_; intro v hv)
    | (with_reducible apply Keeps.ite) | (with_reducible apply State.strikes_keeps)
    | (with_reducible apply State.muCheck_keeps) | (with_reducible apply State.setReg_keeps)
    | (with_reducible apply State.raise_keeps) | (with_reducible apply State.moveFrame_keeps) | dsimp only | split

theorem State.frameSpilled_keeps {r0 s : State} (hk : Keeps r0 s) (p : Nat) (f : StashMove) :
    Keeps r0 (State.frameSpilled s p f) := by
  unfold State.frameSpilled
  repeat' first
    | (with_reducible assumption) | (with_reducible apply State.setReg_keeps)

theorem State.reserveTop_keeps {r0 s : State} (hk : Keeps r0 s) (p : Nat) (x : DramRange) (bottom : Nat) :
    Keeps r0 (State.reserveTop s p x bottom).2 := by
  unfold State.reserveTop
  repeat' first
    | (with_reducible assumption) | (with_reducible apply State.dramRead_keeps)

theorem stashRefill_keeps {r0 s : State} (hk : Keeps r0 s) (p : Nat) (n : Nat) (r : Nat) (ups : List Upset) :
    Keeps r0 (stashRefill p n r ups s) := by
  unfold stashRefill
  repeat' first
    | (with_reducible assumption) | (with_reducible apply Keeps.ite) | (with_reducible apply State.strikes_keeps)
    | (with_reducible apply State.reserveTop_keeps) | (with_reducible apply State.raiseMu_keeps)
    | (with_reducible apply State.moveFrame_keeps) | (with_reducible apply State.setReg_keeps) | dsimp only | split

end Sys2Proof.Machine
end

