-- ==== Sys2Proof/Laws/KeepsDma.lean ====
section
/-! SUPPORT. What the operations of Machine/Dma.lean keep. -/
namespace Sys2Proof.Machine

theorem dmaDescriptorStart_keeps {r0 s : State} (hk : Keeps r0 s) (p : Nat) :
    Keeps r0 (dmaDescriptorStart p s) := by
  unfold dmaDescriptorStart
  repeat' first
    | (with_reducible assumption) | ((try lift_lets); intro v; dsimp only [v]; clear v)
    | (with_reducible apply Keeps.ite) | (with_reducible apply State.setPlat_keeps) | split

theorem State.dmaFail_keeps {r0 s : State} (hk : Keeps r0 s) (p : Nat) (a : DmaActive) :
    Keeps r0 (State.dmaFail s p a) := by
  unfold State.dmaFail
  repeat' first
    | (with_reducible assumption) | ((try lift_lets); intro v; dsimp only [v]; clear v)
    | (with_reducible apply State.setPlat_keeps)

theorem State.dmaAddrCode_keeps {r0 s : State} (hk : Keeps r0 s) (p : Nat) (rank : Nat) (index : Nat) :
    Keeps r0 (State.dmaAddrCode s p rank index) := by
  unfold State.dmaAddrCode
  repeat' first
    | (with_reducible assumption) | ((try lift_lets); intro v; dsimp only [v]; clear v)
    | (with_reducible apply State.setPlat_keeps) | (with_reducible apply State.raise_keeps)

theorem State.dmaAddr_keeps {r0 s : State} (hk : Keeps r0 s) (p : Nat) (a : DmaActive) :
    Keeps r0 (State.dmaAddr s p a) := by
  unfold State.dmaAddr
  repeat' first
    | (with_reducible assumption) | (with_reducible apply State.dmaFail_keeps)
    | (with_reducible apply State.dmaAddrCode_keeps)

theorem State.dmaRefused_keeps {r0 s : State} (hk : Keeps r0 s) (p : Nat) (a : DmaActive) :
    Keeps r0 (State.dmaRefused s p a) := by
  unfold State.dmaRefused
  repeat' first
    | (with_reducible assumption)
    | ((try lift_lets); intro v; refine Keeps.cut (r := r0) (s := v) ?_ ?_; dsimp only [v]; clear v;
       rotate_left; intro hv; clear_value v; revert v; refine Keeps.all ?_; intro v hv)
    | ((try lift_lets); intro v; dsimp only [v]; clear v) | (with_reducible apply Keeps.ite)
    | (with_reducible apply State.dmaFail_keeps) | (with_reducible apply State.setPlat_keeps)

theorem State.serveRow_keeps {r0 s : State} (hk : Keeps r0 s) (p : Nat) (r : RowReq) :
    Keeps r0 (State.serveRow s p r) := by
  unfold State.serveRow
  repeat' first
    | (with_reducible assumption) | ((try lift_lets); intro v; dsimp only [v]; clear v)
    | (with_reducible apply Keeps.ite) | (with_reducible apply State.setPlat_keeps) | dsimp only
    | (with_reducible refine Keeps.made ?_ ?_ ?_ ?_ ?_ ?_ ?_ ?_ ?_ ?_)

theorem State.serveRows_keeps {r0 s : State} (hk : Keeps r0 s) :
    Keeps r0 (State.serveRows s) := by
  unfold State.serveRows
  repeat' first
    | (with_reducible assumption) | (refine fun _ _ h => ?_) | (with_reducible apply State.serveRow_keeps)
    | (with_reducible refine Keeps.foldl _ ?_ _ _ ?_)

theorem rowRequestIssue_keeps {r0 s : State} (hk : Keeps r0 s) (p : Nat) :
    Keeps r0 (rowRequestIssue p s) := by
  unfold rowRequestIssue
  repeat' first
    | (with_reducible assumption) | ((try lift_lets); intro v; dsimp only [v]; clear v)
    | (with_reducible apply Keeps.ite) | (with_reducible apply State.setPlat_keeps)
    | (with_reducible apply State.dmaRefused_keeps) | (with_reducible apply State.dmaAddr_keeps) | dsimp only | split
    | (with_reducible refine Keeps.made ?_ ?_ ?_ ?_ ?_ ?_ ?_ ?_ ?_ ?_)

theorem State.rowFinished_keeps {r0 s : State} (hk : Keeps r0 s) (p : Nat) (r : RowReq) (moved : Bool) :
    Keeps r0 (State.rowFinished s p r moved) := by
  unfold State.rowFinished
  repeat' first
    | (with_reducible assumption) | ((try lift_lets); intro v; dsimp only [v]; clear v)
    | (with_reducible apply State.setPlat_keeps) | (with_reducible apply State.serveRows_keeps)

theorem State.rowCopied_keeps {r0 s : State} (hk : Keeps r0 s) (p : Nat) (r : RowReq) (bad : Bool) :
    Keeps r0 (State.rowCopied s p r bad) := by
  unfold State.rowCopied
  repeat' first
    | (with_reducible assumption) | ((try lift_lets); intro v; dsimp only [v]; clear v)
    | (with_reducible apply Keeps.ite) | (with_reducible apply State.setPlat_keeps)
    | (with_reducible apply State.rowFinished_keeps)

theorem State.rowMove_keeps {r0 s : State} (hk : Keeps r0 s) (p : Nat) (r : RowReq) (a : DmaActive) :
    Keeps r0 (State.rowMove s p r a) := by
  unfold State.rowMove
  repeat' first
    | (with_reducible assumption) | ((try lift_lets); intro v; dsimp only [v]; clear v)
    | (with_reducible apply Keeps.ite) | (with_reducible apply State.spaceRead_keeps)
    | (with_reducible apply State.rowFinished_keeps) | (with_reducible apply State.setPlat_keeps)
    | (with_reducible apply State.request_keeps) | (with_reducible apply State.remoteWrite_keeps)
    | (with_reducible apply State.rowCopied_keeps) | (with_reducible apply State.dmaFail_keeps)
    | (with_reducible apply State.spaceWrite_keeps) | split

theorem rowRequestDone_keeps {r0 s : State} (hk : Keeps r0 s) (p : Nat) (ix : Nat) (ups : List Upset) :
    Keeps r0 (rowRequestDone p ix ups s) := by
  unfold rowRequestDone
  repeat' first
    | (with_reducible assumption) | ((try lift_lets); intro v; dsimp only [v]; clear v)
    | (with_reducible apply Keeps.ite) | (with_reducible apply State.setPlat_keeps)
    | (with_reducible apply State.serveRows_keeps) | (with_reducible apply State.strikes_keeps)
    | (with_reducible apply State.rowFinished_keeps) | (with_reducible apply State.dmaRefused_keeps)
    | (with_reducible apply State.dmaAddr_keeps) | (with_reducible apply State.rowMove_keeps) | split

theorem State.dmaComplete_keeps {r0 s : State} (hk : Keeps r0 s) (p : Nat) (a : DmaActive) :
    Keeps r0 (State.dmaComplete s p a) := by
  unfold State.dmaComplete
  repeat' first
    | (with_reducible assumption) | ((try lift_lets); intro v; dsimp only [v]; clear v)
    | (with_reducible apply Keeps.ite) | (with_reducible apply State.setPlat_keeps)
    | (with_reducible apply State.frameSpilled_keeps) | (with_reducible apply State.bmkAdd_keeps) | split

theorem dmaHqPush_keeps {r0 s : State} (hk : Keeps r0 s) (p : Nat) (go : Bool) :
    Keeps r0 (dmaHqPush p go s) := by
  unfold dmaHqPush
  repeat' first
    | (with_reducible assumption) | ((try lift_lets); intro v; dsimp only [v]; clear v)
    | (with_reducible apply Keeps.ite) | (with_reducible apply State.setPlat_keeps)

theorem triggerFire_keeps {r0 s : State} (hk : Keeps r0 s) (p : Nat) (t : Nat) :
    Keeps r0 (triggerFire p t s) := by
  unfold triggerFire
  repeat' first
    | (with_reducible assumption) | (with_reducible apply Keeps.ite) | (with_reducible apply State.setPlat_keeps)
    | (with_reducible apply State.injectEvent_keeps) | dsimp only | split

end Sys2Proof.Machine
end

