-- ==== Sys2Proof/Laws/KeepsSequencer.lean ====
section
/-! SUPPORT. What the operations of Machine/Sequencer.lean keep. -/
namespace Sys2Proof.Machine

theorem State.driveWalk_keeps {r0 s : State} (hk : Keeps r0 s) (p : Nat) (n : Nat) (line : Nat) :
    Keeps r0 (State.driveWalk s p n line) := by
  unfold State.driveWalk
  repeat' first
    | (with_reducible assumption) | (refine fun (x : ∀ e ∈ r0.mus, Memory.wf e.2.sram = true) => ?_)
    | (with_reducible refine Keeps.mu ?_ _ _ (by with_reducible assumption)) | (with_reducible apply Mu.wf_setAg)
    | ((try lift_lets); intro v; dsimp only [v]; clear v) | (with_reducible apply State.setMu_keeps)

theorem State.seqIssue_keeps {r0 s : State} (hk : Keeps r0 s) (p : Nat) (q : Macro) (ix : Nat) (z0 : SeqJob) :
    Keeps r0 (State.seqIssue s p q ix z0) := by
  unfold State.seqIssue
  repeat' first
    | (with_reducible assumption) | ((try lift_lets); intro v; dsimp only [v]; clear v)
    | (with_reducible apply State.setPlat_keeps) | (with_reducible apply State.setCu_keeps)
    | (with_reducible apply State.driveWalk_keeps) | split

theorem seqStep_keeps {r0 : State} (p : Nat) : ∀ (k : Nat) {s : State}, Keeps r0 s → Keeps r0 (seqStep p k s)
  | 0, _, h => h
  | k + 1, s, h => by
    unfold seqStep
    split
    · exact h
    · split
      · exact State.setPlat_keeps h _ _
      · split
        · exact State.setPlat_keeps h _ _
        · split
          · exact seqStep_keeps p k (State.seqIssue_keeps (State.setPlat_keeps h _ _) _ _ _ _)
          · split
            · exact h
            · dsimp only
              refine seqStep_keeps p k ?_
              split
              · exact State.setPlat_keeps h _ _
              · have h2 := State.bmkAdd_keeps (State.setPlat_keeps h p { s.plat p with seqMacros := (s.plat p).seqMacros + 1 })
                refine Keeps.ite (State.setPlat_keeps (h2 _ _) _ _) ?_
                split <;> exact State.setPlat_keeps (h2 _ _) _ _
              · exact State.setPlat_keeps h _ _

theorem State.seqAdvance_keeps {r0 s : State} (hk : Keeps r0 s) (p : Nat) :
    Keeps r0 (State.seqAdvance s p) := by
  unfold State.seqAdvance
  repeat' first
    | (with_reducible assumption) | (with_reducible apply Keeps.ite) | (with_reducible apply seqStep_keeps)

theorem State.seqBegin_keeps {r0 s : State} (hk : Keeps r0 s) (p : Nat) (ix : Nat) :
    Keeps r0 (State.seqBegin s p ix) := by
  unfold State.seqBegin
  repeat' first
    | (with_reducible assumption) | ((try lift_lets); intro v; dsimp only [v]; clear v)
    | (with_reducible apply State.setPlat_keeps) | (with_reducible apply State.seqAdvance_keeps) | split

theorem sequencerStart_keeps {r0 s : State} (hk : Keeps r0 s) (p : Nat) (ix : Nat) :
    Keeps r0 (sequencerStart p ix s) := by
  unfold sequencerStart
  repeat' first
    | (with_reducible assumption) | (with_reducible apply Keeps.ite) | (with_reducible apply State.setPlat_keeps)
    | (with_reducible apply State.seqBegin_keeps)

theorem sequencerPendingStart_keeps {r0 s : State} (hk : Keeps r0 s) (p : Nat) :
    Keeps r0 (sequencerPendingStart p s) := by
  unfold sequencerPendingStart
  repeat' first
    | (with_reducible assumption) | (with_reducible apply Keeps.ite) | (with_reducible apply State.setPlat_keeps)
    | (with_reducible apply State.seqBegin_keeps) | dsimp only | split

theorem descriptorComplete_keeps {r0 s : State} (hk : Keeps r0 s) (p : Nat) :
    Keeps r0 (descriptorComplete p s) := by
  unfold descriptorComplete
  repeat' first
    | (with_reducible assumption) | (with_reducible apply State.dmaComplete_keeps)
    | (with_reducible apply State.seqAdvance_keeps) | split

end Sys2Proof.Machine
end

