-- ==== Sys2Proof/Laws/KeepsRestart.lean ====
section
/-! SUPPORT. What the operations of Machine/Restart.lean keep. -/
namespace Sys2Proof.Machine

theorem SMap.wf_fold {α β : Type} [DecidableEq α] {d : α} (f : SMap α → β → SMap α)
    (hf : ∀ m b, SMap.wf d m = true → SMap.wf d (f m b) = true) :
    ∀ (l : List β) (m : SMap α), SMap.wf d m = true → SMap.wf d (l.foldl f m) = true
  | [], _, h => h
  | b :: l, m, h => SMap.wf_fold f hf l (f m b) (hf m b h)

theorem State.wf_restartMu {m : Mu} (s : State) (p n : Nat) (h : Memory.wf m.sram = true) :
    Memory.wf (s.restartMu p n m).sram = true := by
  have hf : ∀ (l : List Nat) (x : Mu), Memory.wf x.sram = true →
      Memory.wf (l.foldl (fun m r => m.writeWide (512 * r) (List.replicate 512 0) false) x).sram = true := by
    intro l
    induction l with
    | nil => exact fun x hx => hx
    | cons a l ih =>
      intro x hx
      simp only [List.foldl_cons]
      refine ih _ ?_
      with_reducible exact Mu.wf_writeWide hx _ _ _
  unfold State.restartMu
  dsimp only
  refine Mu.wf_mk ?_
  exact hf _ _ h

theorem State.restartUnits_keeps {r0 s : State} (hk : Keeps r0 s) : Keeps r0 s.restartUnits := by
  unfold State.restartUnits
  dsimp only
  refine State.restoreBmks_keeps ?_
  exact Keeps.mapped hk (fun x => SMap.wf_mapVals x _) (fun x => SMap.wf_mapVals x _) (fun x => SMap.wf_mapVals x _)
    (fun x => SMap.wf_fold _ (fun m b h => SMap.wf_set h _ _) _ _ x) id (fun x => SMap.wf_mapVals x _) id
    (fun x => sram_mapVals x (fun k m h => State.wf_restartMu s _ _ h)) id rfl rfl rfl rfl rfl rfl rfl rfl

theorem State.restartActions_keeps {r0 s : State} (hk : Keeps r0 s) (start : Bool) :
    Keeps r0 (State.restartActions s start) := by
  unfold State.restartActions
  repeat' first
    | (with_reducible assumption) | (with_reducible apply Keeps.ite) | (with_reducible apply State.restartUnits_keeps)
    | (with_reducible apply State.regenAll_keeps)

theorem State.allDrained_keeps {r0 s : State} (hk : Keeps r0 s) :
    Keeps r0 (State.allDrained s) := by
  unfold State.allDrained
  repeat' first
    | (with_reducible assumption) | (refine fun _ _ h => ?_)
    | (refine fun (x : ∀ e ∈ r0.mus, Memory.wf e.2.sram = true) => ?_)
    | (with_reducible refine Keeps.mu ?_ _ _ (by with_reducible assumption)) | (with_reducible apply Keeps.ite)
    | (with_reducible apply State.setSw_keeps) | (with_reducible apply State.setCu_keeps)
    | (with_reducible apply State.setMu_keeps) | (with_reducible apply State.setPlat_keeps) | dsimp only
    | (with_reducible refine Keeps.foldl _ ?_ _ _ ?_)

end Sys2Proof.Machine
end

