-- ==== Sys2Proof/Laws/KeepsImageParse.lean ====
section
/-! SUPPORT. What the operations of Machine/ImageParse.lean keep. -/
namespace Sys2Proof.Machine

theorem Mu.wf_configure {m : Mu} (h : Memory.wf m.sram = true) (u : Option Item) (es : List (List W64)) (n e : Nat) :
    Memory.wf (m.configure u es n e).sram = true := h

theorem State.configureSite_keeps {r0 s : State} (hk : Keeps r0 s) (im : Image) (es : List (List W64)) (p : Nat) (site : Nat) (epoch : Nat) (drained : Bool) :
    Keeps r0 (State.configureSite s im es p site epoch drained) := by
  unfold State.configureSite
  repeat' first
    | (with_reducible assumption) | (refine fun (x : ∀ e ∈ r0.mus, Memory.wf e.2.sram = true) => ?_)
    | (with_reducible refine Keeps.mu ?_ _ _ (by with_reducible assumption)) | (with_reducible apply Mu.wf_ite)
    | (with_reducible apply Mu.wf_configure) | ((try lift_lets); intro v; dsimp only [v]; clear v)
    | (with_reducible apply Keeps.ite) | (with_reducible apply State.setSw_keeps)
    | (with_reducible apply State.setCu_keeps) | (with_reducible apply State.setMu_keeps)

theorem State.admitBudget_keeps {r0 s : State} (hk : Keeps r0 s) (b : List Nat) :
    Keeps r0 (State.admitBudget s b) := by
  unfold State.admitBudget
  repeat' first
    | (with_reducible assumption) | ((try lift_lets); intro v; dsimp only [v]; clear v) | dsimp only
    | (with_reducible refine Keeps.made ?_ ?_ ?_ ?_ ?_ ?_ ?_ ?_ ?_ ?_)

theorem wf_initialBmks (l : List (Nat × W64 × W64)) : SMap.wf {} (initialBmks l) = true :=
  SMap.wf_fold _ (fun m b h => SMap.wf_set h _ _) _ _ rfl

theorem State.install_keeps {r0 s : State} (hk : Keeps r0 s) (im : Image) : Keeps r0 (s.install im) := by
  unfold State.install
  dsimp only
  refine State.admitBudget_keeps ?_ _
  refine Keeps.foldl _ (fun u x h => State.configureSite_keeps h _ _ _ _ _ _) _ _ ?_
  exact Keeps.mapped hk (fun x => SMap.wf_mapVals x _) (fun x => SMap.wf_mapVals x _) (fun x => SMap.wf_mapVals x _)
    (fun x => SMap.wf_fold _ (fun m b h => SMap.wf_set h _ _) _ _ x) (fun _ => wf_initialBmks _)
    (fun x => SMap.wf_mapVals x _) id
    (fun x => sram_mapVals x (fun k m h => Mu.wf_mk (Mu.wf_clear h))) id rfl rfl rfl rfl rfl rfl rfl rfl

theorem State.installPartial_keeps {r0 s : State} (hk : Keeps r0 s) (im : Image) (e : Nat) :
    Keeps r0 (State.installPartial s im e) := by
  unfold State.installPartial
  repeat' first
    | (with_reducible assumption) | (refine fun _ _ h => ?_) | ((try lift_lets); intro v; dsimp only [v]; clear v)
    | (with_reducible apply State.setPlat_keeps) | (with_reducible apply State.configureSite_keeps)
    | (with_reducible apply State.admitBudget_keeps) | dsimp only | (with_reducible refine Keeps.foldl _ ?_ _ _ ?_)
    | (with_reducible refine Keeps.made ?_ ?_ ?_ ?_ ?_ ?_ ?_ ?_ ?_ ?_)

end Sys2Proof.Machine
end

