-- ==== Sys2Proof/Laws/KeepsImageCheck.lean ====
section
/-! SUPPORT. What the operations of Machine/ImageCheck.lean keep. -/
namespace Sys2Proof.Machine

theorem State.checkImage_keeps {r0 s t : State} (hk : Keeps r0 s) {im : Image} {full poisoned : Bool}
    (h : s.checkImage im full poisoned = .ok t) : Keeps r0 t := by
  have hu : Keeps r0 (if full then s.install im else s.installPartial im ((s.nextEpoch im.mask).getD 0)) :=
    Keeps.ite (State.install_keeps hk _) (State.installPartial_keeps hk _ _)
  unfold State.checkImage at h
  generalize (if full = true then 1 else 2) = k at h
  generalize (if full = true then s.install im else s.installPartial im ((s.nextEpoch im.mask).getD 0)) = u at hu h
  split at h
  · cases h
  · split at h
    · cases h
    · split at h
      · cases h
      · split at h
        · cases h
        · dsimp only at h
          split at h
          · cases h
          · rw [← Except.ok.inj h]
            exact hu

end Sys2Proof.Machine
end

