-- ==== Sys2Proof/Laws/KeepsMonuments.lean ====
section
/-! SUPPORT. What the operations of Machine/Monuments.lean keep. -/
namespace Sys2Proof.Machine

theorem State.segBytes_keeps {r0 s : State} (hk : Keeps r0 s) (u : DramUser) (j : MonJob) (g : MonSeg) (lo : Nat) (hi : Nat) :
    Keeps r0 (State.segBytes s u j g lo hi).2.2 := by
  unfold State.segBytes
  repeat' first
    | (with_reducible assumption) | ((try lift_lets); intro v; dsimp only [v]; clear v)
    | (with_reducible apply State.spaceRead_keeps) | (with_reducible apply Keeps.ite3)

theorem State.bodyBytes_keeps {r0 s : State} (hk : Keeps r0 s) (u : DramUser) (j : MonJob) (lo : Nat) (hi : Nat) :
    Keeps r0 (State.bodyBytes s u j lo hi).2.2 := by
  unfold State.bodyBytes
  repeat' first
    | (with_reducible assumption) | (refine fun _ _ h => ?_) | ((try lift_lets); intro v; dsimp only [v]; clear v)
    | (with_reducible apply State.segBytes_keeps) | (with_reducible refine Keeps.foldl3 _ ?_ _ _ ?_)

theorem State.setJob_keeps {r0 s : State} (hk : Keeps r0 s) (j : Option MonJob) :
    Keeps r0 (State.setJob s j) := by
  unfold State.setJob
  repeat' first
    | (with_reducible assumption) | ((try lift_lets); intro v; dsimp only [v]; clear v) | dsimp only
    | (with_reducible refine Keeps.made ?_ ?_ ?_ ?_ ?_ ?_ ?_ ?_ ?_ ?_)

theorem State.monSend_keeps {r0 s : State} (hk : Keeps r0 s) (mask : W32) (i : Nat) (dst : W16) (kind : Nat) (f : MonFrame) :
    Keeps r0 (State.monSend s mask i dst kind f) := by
  unfold State.monSend
  repeat' first
    | (with_reducible assumption) | (with_reducible apply State.put_keeps) | split

theorem State.monAck_keeps {r0 s : State} (hk : Keeps r0 s) (rx : Rx) (f : MonFrame) (index : W32) (status : Byte) :
    Keeps r0 (State.monAck s rx f index status) := by
  unfold State.monAck
  repeat' first
    | (with_reducible assumption) | ((try lift_lets); intro v; dsimp only [v]; clear v)
    | (with_reducible apply State.put_keeps)

theorem State.monShip_keeps {r0 s : State} (hk : Keeps r0 s) (j : MonJob) (e : MonSent) :
    Keeps r0 (State.monShip s j e) := by
  unfold State.monShip
  repeat' first
    | (with_reducible assumption) | (with_reducible apply Keeps.ite) | (with_reducible apply State.monSend_keeps)

theorem State.monAbandon_keeps {r0 s : State} (hk : Keeps r0 s) (code : Code) :
    Keeps r0 (State.monAbandon s code) := by
  unfold State.monAbandon
  repeat' first
    | (with_reducible assumption) | (with_reducible apply Keeps.ite) | (with_reducible apply State.monSend_keeps)
    | (with_reducible apply State.raise_keeps) | (with_reducible apply State.setJob_keeps)
    | (with_reducible apply State.monEnd_keeps) | dsimp only | split

theorem State.jobRecord_keeps {r0 s : State} (hk : Keeps r0 s) (j : MonJob) :
    Keeps r0 (State.jobRecord s j).2.2 := by
  unfold State.jobRecord
  have h := State.spaceRead_keeps hk .monument (j.base - 0xF000) recordLen
  revert h
  generalize s.spaceRead .monument (j.base - 0xF000) recordLen = x
  intro h
  obtain ⟨bs, bad, t⟩ := x
  exact Keeps.ite3 hk h

theorem State.tryRecord_keeps {r0 s : State} (hk : Keeps r0 s) :
    Keeps r0 (State.tryRecord s) := by
  unfold State.tryRecord
  repeat' first
    | (with_reducible assumption) | (with_reducible apply Keeps.ite) | (with_reducible apply State.jobRecord_keeps)
    | (with_reducible apply State.monAbandon_keeps) | (with_reducible apply State.setJob_keeps)
    | (with_reducible apply State.monShip_keeps) | dsimp only | (refine Keeps.of3 (by with_reducible assumption) ?_)
    | split

theorem State.shareRead_keeps {r0 s : State} (hk : Keeps r0 s) (j : MonJob) (hi : Nat) (bad : Bool) :
    Keeps r0 (State.shareRead s j hi bad) := by
  unfold State.shareRead
  repeat' first
    | (with_reducible assumption) | ((try lift_lets); intro v; dsimp only [v]; clear v)
    | (with_reducible apply Keeps.ite) | dsimp only | (with_reducible refine Keeps.made ?_ ?_ ?_ ?_ ?_ ?_ ?_ ?_ ?_ ?_)

theorem chunkRead_keeps {r0 s : State} (hk : Keeps r0 s) (ups : List Upset) :
    Keeps r0 (chunkRead ups s) := by
  unfold chunkRead
  repeat' first
    | (with_reducible assumption)
    | ((try lift_lets); intro v; refine Keeps.cut (r := r0) (s := v) ?_ ?_; dsimp only [v]; clear v;
       rotate_left; intro hv; clear_value v; revert v; refine Keeps.all ?_; intro v hv)
    | (with_reducible apply Keeps.ite) | (with_reducible apply State.strikes_keeps)
    | (with_reducible apply State.bodyBytes_keeps) | (with_reducible apply State.spaceRead_keeps)
    | (with_reducible apply State.shareRead_keeps) | (with_reducible apply State.monAbandon_keeps)
    | (with_reducible apply State.setJob_keeps) | (with_reducible apply State.monShip_keeps) | dsimp only
    | (with_reducible apply Keeps.ite3) | split

theorem recordSignature_keeps {r0 s : State} (hk : Keeps r0 s) :
    Keeps r0 (recordSignature s) := by
  unfold recordSignature
  repeat' first
    | (with_reducible assumption) | (with_reducible apply Keeps.ite) | (with_reducible apply State.setJob_keeps)
    | (with_reducible apply State.tryRecord_keeps) | split

theorem State.monResend_keeps {r0 s : State} (hk : Keeps r0 s) (j : MonJob) (e : MonSent) :
    Keeps r0 (State.monResend s j e) := by
  unfold State.monResend
  repeat' first
    | (with_reducible assumption) | ((try lift_lets); intro v; dsimp only [v]; clear v)
    | (with_reducible apply State.setJob_keeps) | (with_reducible apply State.monShip_keeps)

theorem retryResend_keeps {r0 s : State} (hk : Keeps r0 s) (index : W32) :
    Keeps r0 (retryResend index s) := by
  unfold retryResend
  repeat' first
    | (with_reducible assumption) | (with_reducible apply Keeps.ite) | (with_reducible apply State.monAbandon_keeps)
    | (with_reducible apply State.monResend_keeps) | split

theorem silenceResend_keeps {r0 s : State} (hk : Keeps r0 s) (index : W32) :
    Keeps r0 (silenceResend index s) := by
  unfold silenceResend
  repeat' first
    | (with_reducible assumption) | (with_reducible apply State.monResend_keeps) | split

theorem resendLimit_keeps {r0 s : State} (hk : Keeps r0 s) (index : W32) :
    Keeps r0 (resendLimit index s) := by
  unfold resendLimit
  repeat' first
    | (with_reducible assumption) | (with_reducible apply Keeps.ite) | (with_reducible apply State.monAbandon_keeps)
    | split

theorem State.restoreEnd_keeps {r0 s : State} (hk : Keeps r0 s) (r : Restore) (code : Code) :
    Keeps r0 (State.restoreEnd s r code) := by
  unfold State.restoreEnd
  repeat' first
    | (with_reducible assumption) | ((try lift_lets); intro v; dsimp only [v]; clear v)
    | (with_reducible apply State.monEnd_keeps) | dsimp only
    | (with_reducible refine Keeps.made ?_ ?_ ?_ ?_ ?_ ?_ ?_ ?_ ?_ ?_)

theorem State.onAck_keeps {r0 s : State} (hk : Keeps r0 s) (rx : Rx) (f : MonFrame) :
    Keeps r0 (State.onAck s rx f) := by
  unfold State.onAck
  repeat' first
    | (with_reducible assumption) | (with_reducible apply Keeps.ite) | (with_reducible apply State.restoreEnd_keeps)
    | (with_reducible apply State.setJob_keeps) | (with_reducible apply State.monAbandon_keeps)
    | (with_reducible apply State.bmkAdd_keeps) | (with_reducible apply State.monEnd_keeps)
    | (with_reducible apply State.tryRecord_keeps) | dsimp only | split
    | (with_reducible refine Keeps.made ?_ ?_ ?_ ?_ ?_ ?_ ?_ ?_ ?_ ?_)

theorem ackFrame_keeps {r0 s : State} (hk : Keeps r0 s) (rx : Rx) (f : MonFrame) :
    Keeps r0 (ackFrame rx f s) := by
  unfold ackFrame
  repeat' first
    | (with_reducible assumption) | (refine fun _ _ h => ?_) | (with_reducible apply State.take_keeps)
    | (with_reducible apply State.onAck_keeps)

theorem State.monReject_keeps {r0 s : State} (hk : Keeps r0 s) (code : Code) (step : Nat) :
    Keeps r0 (State.monReject s code step).1 := by
  unfold State.monReject
  repeat' first
    | (with_reducible assumption) | ((try lift_lets); intro v; dsimp only [v]; clear v) | dsimp only
    | (with_reducible refine Keeps.made ?_ ?_ ?_ ?_ ?_ ?_ ?_ ?_ ?_ ?_)

theorem State.captureOp_keeps {r0 s : State} (hk : Keeps r0 s) (m : Nat) :
    Keeps r0 (State.captureOp s m).1 := by
  unfold State.captureOp
  repeat' first
    | (with_reducible assumption) | ((try lift_lets); intro v; dsimp only [v]; clear v)
    | (with_reducible apply State.monReject_keeps) | dsimp only | (with_reducible apply Keeps.ite1)
    | (with_reducible refine Keeps.made ?_ ?_ ?_ ?_ ?_ ?_ ?_ ?_ ?_ ?_)

theorem State.restoreOp_keeps {r0 s : State} (hk : Keeps r0 s) (newest : Bool) (m : Nat) :
    Keeps r0 (State.restoreOp s newest m).1 := by
  unfold State.restoreOp
  repeat' first
    | (with_reducible assumption) | (with_reducible apply State.monReject_keeps)
    | (with_reducible apply State.monSend_keeps) | dsimp only | (with_reducible apply Keeps.ite1) | split
    | (with_reducible refine Keeps.made ?_ ?_ ?_ ?_ ?_ ?_ ?_ ?_ ?_ ?_)

theorem State.monAbortOp_keeps {r0 s : State} (hk : Keeps r0 s) :
    Keeps r0 (State.monAbortOp s).1 := by
  unfold State.monAbortOp
  repeat' first
    | (with_reducible assumption) | ((try lift_lets); intro v; dsimp only [v]; clear v)
    | (with_reducible apply State.monReject_keeps) | (with_reducible apply State.restoreEnd_keeps)
    | (with_reducible apply State.monAbandon_keeps) | dsimp only | (with_reducible apply Keeps.ite1) | split
    | (with_reducible refine Keeps.made ?_ ?_ ?_ ?_ ?_ ?_ ?_ ?_ ?_ ?_)

theorem State.monWord_keeps {r0 s : State} (hk : Keeps r0 s) (w : W64) :
    Keeps r0 (State.monWord s w).1 := by
  unfold State.monWord
  repeat' first
    | (with_reducible assumption) | ((try lift_lets); intro v; dsimp only [v]; clear v)
    | (with_reducible apply State.monReject_keeps) | (with_reducible apply State.captureOp_keeps)
    | (with_reducible apply State.restoreOp_keeps) | (with_reducible apply State.monAbortOp_keeps)
    | (with_reducible apply Keeps.ite1) | split

theorem monEff_keeps {r0 s : State} (hk : Keeps r0 s) (w : CmdWord) :
    Keeps r0 (monEff w s).1 := by
  unfold monEff
  repeat' first
    | (with_reducible assumption) | (with_reducible apply State.monWord_keeps)

theorem monVia_keeps {r0 s : State} (hk : Keeps r0 s) (w : W64) (via : Via) :
    Keeps r0 (monVia w via s) := by
  unfold monVia
  repeat' first
    | (with_reducible assumption) | (refine fun _ _ h => ?_) | (refine fun _ h => ?_)
    | (with_reducible apply State.writeBy_keeps) | (with_reducible apply State.monWord_keeps)
    | (with_reducible apply State.cmdArrive_keeps) | (with_reducible apply monEff_keeps) | dsimp only | split

theorem capture_keeps {r0 s : State} (hk : Keeps r0 s) (via : Via) (step : Step) :
    Keeps r0 (capture via step s) := by
  unfold capture
  repeat' first
    | (with_reducible assumption) | (with_reducible apply monVia_keeps)

theorem restore_keeps {r0 s : State} (hk : Keeps r0 s) (via : Via) (newest : Bool) (step : Step) :
    Keeps r0 (restore via newest step s) := by
  unfold restore
  repeat' first
    | (with_reducible assumption) | (with_reducible apply monVia_keeps)

theorem monumentAbort_keeps {r0 s : State} (hk : Keeps r0 s) (via : Via) :
    Keeps r0 (monumentAbort via s) := by
  unfold monumentAbort
  repeat' first
    | (with_reducible assumption) | (with_reducible apply monVia_keeps)

theorem monBankWait_keeps {r0 s : State} (hk : Keeps r0 s) :
    Keeps r0 (monBankWait s) := by
  unfold monBankWait
  repeat' first
    | (with_reducible assumption) | (with_reducible apply Keeps.ite) | (with_reducible apply State.raise_keeps)

theorem State.restoreWrite_keeps {r0 s : State} (hk : Keeps r0 s) (m : Nat) (i : Nat) (bs : List Byte) :
    Keeps r0 (State.restoreWrite s m i bs) := by
  unfold State.restoreWrite
  repeat' first
    | (with_reducible assumption) | (refine fun _ _ h => ?_) | (with_reducible apply Keeps.ite)
    | (with_reducible apply State.spaceWrite_keeps) | dsimp only | (with_reducible refine Keeps.foldl _ ?_ _ _ ?_)
    | (with_reducible refine Keeps.made ?_ ?_ ?_ ?_ ?_ ?_ ?_ ?_ ?_ ?_)

theorem State.restoreChunk_keeps {r0 s : State} (hk : Keeps r0 s) (rx : Rx) (f : MonFrame) (r : Restore) :
    Keeps r0 (State.restoreChunk s rx f r) := by
  unfold State.restoreChunk
  repeat' first
    | (with_reducible assumption) | ((try lift_lets); intro v; dsimp only [v]; clear v)
    | (with_reducible apply Keeps.ite) | (with_reducible apply State.monAck_keeps)
    | (with_reducible apply State.restoreEnd_keeps) | (with_reducible apply State.restoreWrite_keeps) | dsimp only
    | split | (with_reducible refine Keeps.made ?_ ?_ ?_ ?_ ?_ ?_ ?_ ?_ ?_ ?_)

theorem State.restoreRecord_keeps {r0 s : State} (hk : Keeps r0 s) (rx : Rx) (f : MonFrame) (r : Restore) :
    Keeps r0 (State.restoreRecord s rx f r) := by
  unfold State.restoreRecord
  repeat' first
    | (with_reducible assumption) | (refine fun _ _ h => ?_) | (with_reducible apply Keeps.ite)
    | (with_reducible apply State.monAck_keeps) | (with_reducible apply State.restoreEnd_keeps)
    | (with_reducible apply State.setAu_keeps) | dsimp only | (with_reducible refine Keeps.foldl _ ?_ _ _ ?_) | split
    | (with_reducible refine Keeps.made ?_ ?_ ?_ ?_ ?_ ?_ ?_ ?_ ?_ ?_)

theorem State.slotAt_keeps {r0 s : State} (hk : Keeps r0 s) (a : Nat) :
    Keeps r0 (State.slotAt s a).2 := by
  unfold State.slotAt
  repeat' first
    | (with_reducible assumption) | (with_reducible apply State.dramRead_keeps)

theorem State.validSlots_keeps {r0 s : State} (hk : Keeps r0 s) (r : DramRange) :
    Keeps r0 (State.validSlots s r).2 := by
  unfold State.validSlots
  repeat' first
    | (with_reducible assumption) | (with_reducible apply State.slotAt_keeps) | dsimp only
    | (with_reducible apply Keeps.ite2)

theorem State.loseSlots_keeps {r0 s : State} (hk : Keeps r0 s) (valid : List SlotSeen) (a : Nat) (len : Nat) :
    Keeps r0 (State.loseSlots s valid a len) := by
  unfold State.loseSlots
  repeat' first
    | (with_reducible assumption) | (refine fun _ _ h => ?_) | (with_reducible apply State.spaceWrite_keeps)
    | (with_reducible refine Keeps.foldl _ ?_ _ _ ?_)

theorem State.slotHeader_keeps {r0 s : State} (hk : Keeps r0 s) (f : Fill) (st : Nat) :
    Keeps r0 (State.slotHeader s f st) := by
  unfold State.slotHeader
  repeat' first
    | (with_reducible assumption) | (with_reducible apply State.spaceWrite_keeps)

theorem State.setFill_keeps {r0 s : State} (hk : Keeps r0 s) (f : Fill) :
    Keeps r0 (State.setFill s f) := by
  unfold State.setFill
  repeat' first
    | (with_reducible assumption) | ((try lift_lets); intro v; dsimp only [v]; clear v) | dsimp only
    | (with_reducible refine Keeps.made ?_ ?_ ?_ ?_ ?_ ?_ ?_ ?_ ?_ ?_)

theorem State.dropFill_keeps {r0 s : State} (hk : Keeps r0 s) (src : Nat) :
    Keeps r0 (State.dropFill s src) := by
  unfold State.dropFill
  repeat' first
    | (with_reducible assumption) | ((try lift_lets); intro v; dsimp only [v]; clear v) | dsimp only
    | (with_reducible refine Keeps.made ?_ ?_ ?_ ?_ ?_ ?_ ?_ ?_ ?_ ?_)

theorem State.fillChunk_keeps {r0 s : State} (hk : Keeps r0 s) (rx : Rx) (f : MonFrame) (x : Fill) :
    Keeps r0 (State.fillChunk s rx f x) := by
  unfold State.fillChunk
  repeat' first
    | (with_reducible assumption)
    | ((try lift_lets); intro v; refine Keeps.cut (r := r0) (s := v) ?_ ?_; dsimp only [v]; clear v;
       rotate_left; intro hv; clear_value v; revert v; refine Keeps.all ?_; intro v hv)
    | (with_reducible apply Keeps.ite) | (with_reducible apply State.monAck_keeps)
    | (with_reducible apply State.spaceWrite_keeps) | (with_reducible apply State.setFill_keeps)

theorem State.buddyChunk_keeps {r0 s : State} (hk : Keeps r0 s) (rx : Rx) (f : MonFrame) :
    Keeps r0 (State.buddyChunk s rx f) := by
  unfold State.buddyChunk
  repeat' first
    | (with_reducible assumption) | (with_reducible apply Keeps.ite) | (with_reducible apply State.monAck_keeps)
    | (with_reducible apply State.fillChunk_keeps) | (with_reducible apply State.validSlots_keeps)
    | (with_reducible apply State.loseSlots_keeps) | (with_reducible apply State.slotHeader_keeps) | dsimp only
    | split

theorem State.recordStored_keeps {r0 s : State} (hk : Keeps r0 s) (f : MonFrame) :
    Keeps r0 (State.recordStored s f).2 := by
  unfold State.recordStored
  split
  · exact hk
  · rename_i r _
    have h := State.validSlots_keeps hk r
    revert h
    generalize s.validSlots r = x
    intro h
    obtain ⟨valid, t⟩ := x
    dsimp only
    split
    · exact h
    · rename_i y _
      have g := State.dramRead_keeps h .monument (y.at_ + 0x1000) recordLen
      revert g
      generalize t.dramRead .monument (y.at_ + 0x1000) recordLen = z
      intro g
      obtain ⟨bs, bad, u⟩ := z
      exact g

theorem State.buddyRecord_keeps {r0 s : State} (hk : Keeps r0 s) (rx : Rx) (f : MonFrame) :
    Keeps r0 (State.buddyRecord s rx f) := by
  unfold State.buddyRecord
  repeat' first
    | (with_reducible assumption) | (with_reducible apply Keeps.ite) | (with_reducible apply State.recordStored_keeps)
    | (with_reducible apply State.monAck_keeps) | (with_reducible apply State.spaceWrite_keeps)
    | (with_reducible apply State.slotHeader_keeps) | (with_reducible apply State.dropFill_keeps) | dsimp only | split

theorem State.onChunk_keeps {r0 s : State} (hk : Keeps r0 s) (rx : Rx) (f : MonFrame) :
    Keeps r0 (State.onChunk s rx f) := by
  unfold State.onChunk
  repeat' first
    | (with_reducible assumption) | (with_reducible apply Keeps.ite) | (with_reducible apply State.restoreChunk_keeps)
    | (with_reducible apply State.buddyChunk_keeps) | split

theorem chunkFrame_keeps {r0 s : State} (hk : Keeps r0 s) (rx : Rx) (f : MonFrame) :
    Keeps r0 (chunkFrame rx f s) := by
  unfold chunkFrame
  repeat' first
    | (with_reducible assumption) | (refine fun _ _ h => ?_) | (with_reducible apply State.take_keeps)
    | (with_reducible apply State.onChunk_keeps)

theorem recordFrame_keeps {r0 s : State} (hk : Keeps r0 s) (rx : Rx) (f : MonFrame) :
    Keeps r0 (recordFrame rx f s) := by
  unfold recordFrame
  repeat' first
    | (with_reducible assumption) | (refine fun _ _ h => ?_) | (with_reducible apply Keeps.ite)
    | (with_reducible apply State.take_keeps) | (with_reducible apply State.restoreRecord_keeps)
    | (with_reducible apply State.buddyRecord_keeps) | split

theorem abandonFrame_keeps {r0 s : State} (hk : Keeps r0 s) (rx : Rx) (f : MonFrame) :
    Keeps r0 (abandonFrame rx f s) := by
  unfold abandonFrame
  repeat' first
    | (with_reducible assumption) | (refine fun _ _ h => ?_) | (with_reducible apply Keeps.ite)
    | (with_reducible apply State.take_keeps) | (with_reducible apply State.restoreEnd_keeps)
    | (with_reducible apply State.dropFill_keeps) | split

theorem State.onPull_keeps {r0 s : State} (hk : Keeps r0 s) (rx : Rx) (f : MonFrame) :
    Keeps r0 (State.onPull s rx f) := by
  unfold State.onPull
  repeat' first
    | (with_reducible assumption) | (with_reducible apply Keeps.ite) | (with_reducible apply State.monAck_keeps)
    | (with_reducible apply State.validSlots_keeps) | dsimp only | split
    | (with_reducible refine Keeps.made ?_ ?_ ?_ ?_ ?_ ?_ ?_ ?_ ?_ ?_)

theorem pullFrame_keeps {r0 s : State} (hk : Keeps r0 s) (rx : Rx) (f : MonFrame) :
    Keeps r0 (pullFrame rx f s) := by
  unfold pullFrame
  repeat' first
    | (with_reducible assumption) | (refine fun _ _ h => ?_) | (with_reducible apply State.take_keeps)
    | (with_reducible apply State.onPull_keeps)

theorem State.closureResult_keeps {r0 s : State} (hk : Keeps r0 s) (n : Nat) (res : Nat) (diff : List Nat) :
    Keeps r0 (State.closureResult s n res diff) := by
  unfold State.closureResult
  repeat' first
    | (with_reducible assumption) | ((try lift_lets); intro v; dsimp only [v]; clear v)
    | (with_reducible apply Keeps.ite) | (with_reducible apply State.raise_keeps) | dsimp only
    | (with_reducible refine Keeps.made ?_ ?_ ?_ ?_ ?_ ?_ ?_ ?_ ?_ ?_)

theorem State.closureJudge_keeps {r0 s : State} (hk : Keeps r0 s) (k : CloCheck) :
    Keeps r0 (State.closureJudge s k) := by
  unfold State.closureJudge
  repeat' first
    | (with_reducible assumption) | (with_reducible apply State.closureResult_keeps)

theorem State.closureTry_keeps {r0 s : State} (hk : Keeps r0 s) (n : Nat) :
    Keeps r0 (State.closureTry s n) := by
  unfold State.closureTry
  repeat' first
    | (with_reducible assumption) | (with_reducible apply Keeps.ite) | (with_reducible apply State.closureJudge_keeps)
    | split

theorem State.closureStray_keeps {r0 s : State} (hk : Keeps r0 s) (r : CloRec) :
    Keeps r0 (State.closureStray s r) := by
  unfold State.closureStray
  repeat' first
    | (with_reducible assumption) | dsimp only | split
    | (with_reducible refine Keeps.made ?_ ?_ ?_ ?_ ?_ ?_ ?_ ?_ ?_ ?_)

theorem State.closureTake_keeps {r0 s : State} (hk : Keeps r0 s) (r : CloRec) :
    Keeps r0 (State.closureTake s r) := by
  unfold State.closureTake
  repeat' first
    | (with_reducible assumption) | ((try lift_lets); intro v; dsimp only [v]; clear v)
    | (with_reducible apply Keeps.ite) | (with_reducible apply State.closureTry_keeps)
    | (with_reducible apply State.closureStray_keeps) | dsimp only
    | (with_reducible refine Keeps.made ?_ ?_ ?_ ?_ ?_ ?_ ?_ ?_ ?_ ?_)

theorem State.closureSend_keeps {r0 s : State} (hk : Keeps r0 s) (n : Nat) (root : List Byte) (fail : Option Code) :
    Keeps r0 (State.closureSend s n root fail) := by
  unfold State.closureSend
  repeat' first
    | (with_reducible assumption) | (refine fun _ _ h => ?_) | ((try lift_lets); intro v; dsimp only [v]; clear v)
    | (with_reducible apply State.sendQuiet_keeps) | (with_reducible apply State.closureTake_keeps)
    | (with_reducible refine Keeps.foldl _ ?_ _ _ ?_)

theorem State.closureBoundary_keeps {r0 s : State} (hk : Keeps r0 s) (n : Nat) :
    Keeps r0 (State.closureBoundary s n) := by
  unfold State.closureBoundary
  repeat' first
    | (with_reducible assumption) | ((try lift_lets); intro v; dsimp only [v]; clear v)
    | (with_reducible apply Keeps.ite) | (with_reducible apply State.closureResult_keeps) | dsimp only | split
    | (with_reducible refine Keeps.made ?_ ?_ ?_ ?_ ?_ ?_ ?_ ?_ ?_ ?_)

theorem State.closureAbandon_keeps {r0 s : State} (hk : Keeps r0 s) :
    Keeps r0 (State.closureAbandon s) := by
  unfold State.closureAbandon
  repeat' first
    | (with_reducible assumption) | ((try lift_lets); intro v; dsimp only [v]; clear v)
    | (with_reducible apply State.closureSend_keeps) | dsimp only | split
    | (with_reducible refine Keeps.made ?_ ?_ ?_ ?_ ?_ ?_ ?_ ?_ ?_ ?_)

theorem State.closeBytes_keeps {r0 s : State} (hk : Keeps r0 s) (g : MonSeg) :
    Keeps r0 (State.closeBytes s g).2.2 := by
  unfold State.closeBytes
  repeat' first
    | (with_reducible assumption) | ((try lift_lets); intro v; dsimp only [v]; clear v)
    | (with_reducible apply State.spaceRead_keeps)

theorem closureDigestDone_keeps {r0 s : State} (hk : Keeps r0 s) (ups : List Upset) :
    Keeps r0 (closureDigestDone ups s) := by
  unfold closureDigestDone
  repeat' first
    | (with_reducible assumption) | (refine fun _ _ h => ?_)
    | ((try lift_lets); intro v; refine Keeps.cut (r := r0) (s := v) ?_ ?_; dsimp only [v]; clear v;
       rotate_left; intro hv; clear_value v; revert v; refine Keeps.all ?_; intro v hv)
    | (with_reducible apply Keeps.ite) | (with_reducible apply State.strikes_keeps)
    | (with_reducible apply State.closeBytes_keeps) | (with_reducible apply State.closureSend_keeps) | dsimp only
    | (with_reducible refine Keeps.foldl3 _ ?_ _ _ ?_) | split
    | (with_reducible refine Keeps.made ?_ ?_ ?_ ?_ ?_ ?_ ?_ ?_ ?_ ?_)

theorem closureDeadline_keeps {r0 s : State} (hk : Keeps r0 s) :
    Keeps r0 (closureDeadline s) := by
  unfold closureDeadline
  repeat' first
    | (with_reducible assumption) | (with_reducible apply State.closureJudge_keeps) | split

theorem normRecord_keeps {r0 s : State} (hk : Keeps r0 s) (rx : Rx) (r : NormRec) :
    Keeps r0 (normRecord rx r s) := by
  unfold normRecord
  repeat' first
    | (with_reducible assumption) | (refine fun _ _ h => ?_) | (with_reducible apply Keeps.ite)
    | (with_reducible apply State.take_keeps) | (with_reducible apply State.closureTake_keeps)
    | (with_reducible apply State.exchRecord_keeps)

end Sys2Proof.Machine
end

