-- ==== Sys2Proof/Laws/KeepsImages.lean ====
section
/-! SUPPORT. What the operations of Machine/Images.lean keep. -/
namespace Sys2Proof.Machine

theorem State.imgDone_keeps {r0 s : State} (hk : Keeps r0 s) (code : Code) :
    Keeps r0 (State.imgDone s code).1 := by
  unfold State.imgDone
  repeat' first
    | (with_reducible assumption) | ((try lift_lets); intro v; dsimp only [v]; clear v) | dsimp only
    | (with_reducible refine Keeps.made ?_ ?_ ?_ ?_ ?_ ?_ ?_ ?_ ?_ ?_)

theorem State.staged_keeps {r0 s : State} (hk : Keeps r0 s) :
    Keeps r0 (State.staged s).2.2 := by
  unfold State.staged
  repeat' first
    | (with_reducible assumption) | ((try lift_lets); intro v; dsimp only [v]; clear v)
    | (with_reducible apply State.dramRead_keeps) | (with_reducible apply Keeps.ite3)

theorem State.loadBegin_keeps {r0 s : State} (hk : Keeps r0 s) :
    Keeps r0 (State.loadBegin s) := by
  unfold State.loadBegin
  repeat' first
    | (with_reducible assumption) | ((try lift_lets); intro v; dsimp only [v]; clear v) | dsimp only
    | (with_reducible refine Keeps.made ?_ ?_ ?_ ?_ ?_ ?_ ?_ ?_ ?_ ?_)

theorem State.showFail_keeps {r0 s : State} (hk : Keeps r0 s) (f : LoadFail) :
    Keeps r0 (State.showFail s f) := by
  unfold State.showFail
  repeat' first
    | (with_reducible assumption) | ((try lift_lets); intro v; dsimp only [v]; clear v) | dsimp only
    | (with_reducible refine Keeps.made ?_ ?_ ?_ ?_ ?_ ?_ ?_ ?_ ?_ ?_)

theorem loadComplete_keeps {r0 s : State} (hk : Keeps r0 s) (ups : List Upset) :
    Keeps r0 (loadComplete ups s) := by
  unfold loadComplete
  repeat' first
    | (with_reducible assumption) | (with_reducible apply Keeps.ite) | (with_reducible apply State.strikes_keeps)
    | (with_reducible apply State.staged_keeps) | (refine State.checkImage_keeps ?_ (by with_reducible assumption))
    | (with_reducible apply State.completeAll_keeps) | (with_reducible apply State.showFail_keeps)
    | (with_reducible apply State.imgEnd_keeps) | dsimp only | split
    | (with_reducible refine Keeps.made ?_ ?_ ?_ ?_ ?_ ?_ ?_ ?_ ?_ ?_)

theorem State.partialBegin_keeps {r0 s : State} (hk : Keeps r0 s) :
    Keeps r0 (State.partialBegin s).1 := by
  unfold State.partialBegin
  repeat' first
    | (with_reducible assumption) | (with_reducible apply State.imgDone_keeps)
    | (with_reducible apply State.dramRead_keeps) | dsimp only | (with_reducible apply Keeps.ite1)
    | (with_reducible refine Keeps.made ?_ ?_ ?_ ?_ ?_ ?_ ?_ ?_ ?_ ?_)

theorem partialLoadComplete_keeps {r0 s : State} (hk : Keeps r0 s) (ups : List Upset) :
    Keeps r0 (partialLoadComplete ups s) := by
  unfold partialLoadComplete
  repeat' first
    | (with_reducible assumption) | (with_reducible apply Keeps.ite) | (with_reducible apply State.strikes_keeps)
    | (with_reducible apply State.staged_keeps) | (refine State.checkImage_keeps ?_ (by with_reducible assumption))
    | (with_reducible apply State.completeAll_keeps) | (with_reducible apply State.showFail_keeps)
    | (with_reducible apply State.imgEnd_keeps) | dsimp only | split
    | (with_reducible refine Keeps.made ?_ ?_ ?_ ?_ ?_ ?_ ?_ ?_ ?_ ?_)

theorem State.endLoad_keeps {r0 s : State} (hk : Keeps r0 s) : Keeps r0 s.endLoad := by
  unfold State.endLoad
  dsimp only
  have h : Keeps r0 { s with free := s.free + 1 } := State.takeFree_keeps hk
  refine Keeps.ite (State.imgEnd_keeps ?_ _ _) (Keeps.ite (State.imgEnd_keeps ?_ _ _) hk)
  · exact h.rest rfl rfl rfl
  · exact h.rest rfl rfl rfl

theorem State.setAllDbits_keeps {r0 s : State} (hk : Keeps r0 s) :
    Keeps r0 (State.setAllDbits s) := by
  unfold State.setAllDbits
  repeat' first
    | (with_reducible assumption) | (refine fun _ _ h => ?_) | ((try lift_lets); intro v; dsimp only [v]; clear v)
    | (with_reducible apply State.dramWrite_keeps) | dsimp only | (with_reducible refine Keeps.foldl _ ?_ _ _ ?_)
    | (with_reducible refine Keeps.made ?_ ?_ ?_ ?_ ?_ ?_ ?_ ?_ ?_ ?_)

theorem State.startOp_keeps {r0 s : State} (hk : Keeps r0 s) :
    Keeps r0 (State.startOp s).1 := by
  unfold State.startOp
  repeat' first
    | (with_reducible assumption) | (refine fun _ _ h => ?_) | (with_reducible apply Keeps.ite)
    | (with_reducible apply State.imgDone_keeps) | (with_reducible apply State.setAllDbits_keeps)
    | (with_reducible apply State.restartActions_keeps) | (with_reducible apply State.reopen_keeps) | dsimp only
    | (with_reducible refine Keeps.foldl _ ?_ _ _ ?_) | (with_reducible apply Keeps.ite1)
    | (with_reducible refine Keeps.made ?_ ?_ ?_ ?_ ?_ ?_ ?_ ?_ ?_ ?_)

theorem State.drainAll_keeps {r0 s : State} (hk : Keeps r0 s) :
    Keeps r0 (State.drainAll s) := by
  unfold State.drainAll
  repeat' first
    | (with_reducible assumption) | (refine fun _ _ h => ?_) | (with_reducible apply State.beginDrain_keeps)
    | (with_reducible refine Keeps.foldl _ ?_ _ _ ?_)

theorem State.abandonStep_keeps {r0 s : State} (hk : Keeps r0 s) : Keeps r0 s.abandonStep := by
  unfold State.abandonStep
  lift_lets
  intro v
  refine Keeps.cut (r := r0) (s := v) ?_ ?_
  · dsimp only [v]
    split
    · exact State.complete_keeps hk _ _
    · exact hk
  · intro h
    clear_value v
    exact Keeps.mapped h id id id id id (fun x => SMap.wf_mapVals x _) id id id rfl rfl rfl rfl rfl rfl rfl rfl

theorem State.drainedIdle_keeps {r0 s : State} (hk : Keeps r0 s) :
    Keeps r0 (State.drainedIdle s) := by
  unfold State.drainedIdle
  repeat' first
    | (with_reducible assumption)
    | ((try lift_lets); intro v; refine Keeps.cut (r := r0) (s := v) ?_ ?_; dsimp only [v]; clear v;
       rotate_left; intro hv; clear_value v; revert v; refine Keeps.all ?_; intro v hv)
    | ((try lift_lets); intro v; dsimp only [v]; clear v) | (with_reducible apply State.allDrained_keeps) | dsimp only
    | (with_reducible refine Keeps.made ?_ ?_ ?_ ?_ ?_ ?_ ?_ ?_ ?_ ?_)

theorem State.stopEnd_keeps {r0 s : State} (hk : Keeps r0 s) :
    Keeps r0 (State.stopEnd s) := by
  unfold State.stopEnd
  repeat' first
    | (with_reducible assumption) | ((try lift_lets); intro v; dsimp only [v]; clear v)
    | (with_reducible apply State.imgEnd_keeps) | dsimp only
    | (with_reducible refine Keeps.made ?_ ?_ ?_ ?_ ?_ ?_ ?_ ?_ ?_ ?_)

theorem State.stopOp_keeps {r0 s : State} (hk : Keeps r0 s) :
    Keeps r0 (State.stopOp s) := by
  unfold State.stopOp
  repeat' first
    | (with_reducible assumption)
    | ((try lift_lets); intro v; refine Keeps.cut (r := r0) (s := v) ?_ ?_; dsimp only [v]; clear v;
       rotate_left; intro hv; clear_value v; revert v; refine Keeps.all ?_; intro v hv)
    | ((try lift_lets); intro v; dsimp only [v]; clear v) | (with_reducible apply Keeps.ite)
    | (with_reducible apply State.cancelClass0_keeps) | (with_reducible apply State.tableNow_keeps)
    | (with_reducible apply State.drainedIdle_keeps) | (with_reducible apply State.stopEnd_keeps)
    | (with_reducible apply State.abandonStep_keeps) | (with_reducible apply State.drainAll_keeps) | dsimp only
    | (with_reducible refine Keeps.made ?_ ?_ ?_ ?_ ?_ ?_ ?_ ?_ ?_ ?_)

theorem stopComplete_keeps {r0 s : State} (hk : Keeps r0 s) :
    Keeps r0 (stopComplete s) := by
  unfold stopComplete
  repeat' first
    | (with_reducible assumption) | (with_reducible apply Keeps.ite) | (with_reducible apply State.stopEnd_keeps)

theorem State.unloadOp_keeps {r0 s : State} (hk : Keeps r0 s) :
    Keeps r0 (State.unloadOp s).1 := by
  unfold State.unloadOp
  repeat' first
    | (with_reducible assumption)
    | ((try lift_lets); intro v; refine Keeps.cut (r := r0) (s := v) ?_ ?_; dsimp only [v]; clear v;
       rotate_left; intro hv; clear_value v; revert v; refine Keeps.all ?_; intro v hv)
    | ((try lift_lets); intro v; dsimp only [v]; clear v) | (with_reducible apply State.imgDone_keeps)
    | (with_reducible apply State.endLoad_keeps) | (with_reducible apply State.clearConfig_keeps) | dsimp only
    | (with_reducible apply Keeps.ite1) | (with_reducible refine Keeps.made ?_ ?_ ?_ ?_ ?_ ?_ ?_ ?_ ?_ ?_)

theorem State.imgOp_keeps {r0 s : State} (hk : Keeps r0 s) (op : Nat) :
    Keeps r0 (State.imgOp s op).1 := by
  unfold State.imgOp
  repeat' first
    | (with_reducible assumption) | ((try lift_lets); intro v; dsimp only [v]; clear v)
    | (with_reducible apply State.imgDone_keeps) | (with_reducible apply State.loadBegin_keeps)
    | (with_reducible apply State.partialBegin_keeps) | (with_reducible apply State.startOp_keeps)
    | (with_reducible apply State.cancelClass0_keeps) | (with_reducible apply State.endLoad_keeps)
    | (with_reducible apply State.stopOp_keeps) | (with_reducible apply State.unloadOp_keeps)
    | (with_reducible apply Keeps.ite1) | split

theorem imgEff_keeps {r0 s : State} (hk : Keeps r0 s) (w : CmdWord) :
    Keeps r0 (imgEff w s).1 := by
  unfold imgEff
  repeat' first
    | (with_reducible assumption) | (with_reducible apply State.imgOp_keeps)

theorem imgVia_keeps {r0 s : State} (hk : Keeps r0 s) (op : Nat) (via : Via) :
    Keeps r0 (imgVia op via s) := by
  unfold imgVia
  repeat' first
    | (with_reducible assumption) | (refine fun _ _ h => ?_) | (refine fun _ h => ?_)
    | (with_reducible apply State.writeBy_keeps) | (with_reducible apply State.imgOp_keeps)
    | (with_reducible apply State.cmdArrive_keeps) | (with_reducible apply imgEff_keeps) | dsimp only | split

end Sys2Proof.Machine
end

