-- ==== Sys2Proof/Laws/KeepsPrecond.lean ====
section
/-! SUPPORT. What the operations of Machine/Precond.lean keep. -/
namespace Sys2Proof.Machine

theorem State.blockStore_keeps {r0 s : State} (hk : Keeps r0 s) (b : FactorBlock) :
    Keeps r0 (State.blockStore s b) := by
  unfold State.blockStore
  repeat' first
    | (with_reducible assumption) | ((try lift_lets); intro v; dsimp only [v]; clear v)
    | (with_reducible apply Keeps.ite) | dsimp only | split
    | (with_reducible refine Keeps.made ?_ ?_ ?_ ?_ ?_ ?_ ?_ ?_ ?_ ?_)

theorem State.precondStale_keeps {r0 s : State} (hk : Keeps r0 s) (i : Nat) :
    Keeps r0 (State.precondStale s i) := by
  unfold State.precondStale
  repeat' first
    | (with_reducible assumption) | (with_reducible apply State.setAu_keeps)
    | (with_reducible apply State.raise_keeps) | dsimp only | split

theorem State.precondReport_keeps {r0 s : State} (hk : Keeps r0 s) (bs : List FactorBlock) :
    Keeps r0 (State.precondReport s bs) := by
  unfold State.precondReport
  repeat' first
    | (with_reducible assumption) | (refine fun _ _ h => ?_) | (with_reducible apply State.blockStore_keeps)
    | (with_reducible apply State.precondStale_keeps) | (with_reducible refine Keeps.foldl _ ?_ _ _ ?_)

end Sys2Proof.Machine
end

