-- ==== Sys2Proof/Laws/KeepsSteps.lean ====
section
/-! SUPPORT. What the operations of Machine/Steps.lean keep. -/
namespace Sys2Proof.Machine

theorem Flt.countAttempt_buffer (f : Flt) (c : Step) : (f.countAttempt c).buffer = f.buffer := by
  unfold Flt.countAttempt
  split <;> rfl

theorem Mu.wf_stepBegin {m : Mu} (h : Memory.wf m.sram = true) : Memory.wf m.stepBegin.sram = true := h

theorem State.releaseBank_keeps {r0 s : State} (hk : Keeps r0 s) :
    Keeps r0 (State.releaseBank s) := by
  unfold State.releaseBank
  repeat' first
    | (with_reducible assumption) | (with_reducible apply Keeps.ite) | (with_reducible apply State.monAbandon_keeps)
    | (with_reducible apply State.closureAbandon_keeps) | split

theorem pass2Start_keeps {r0 s : State} (hk : Keeps r0 s) (blocks : List FactorBlock) :
    Keeps r0 (pass2Start blocks s) := by
  unfold pass2Start
  repeat' first
    | (with_reducible assumption) | (refine fun _ _ h => ?_)
    | ((try lift_lets); intro v; refine Keeps.cut (r := r0) (s := v) ?_ ?_; dsimp only [v]; clear v;
       rotate_left; intro hv; clear_value v; revert v; refine Keeps.all ?_; intro v hv)
    | ((try lift_lets); intro v; dsimp only [v]; clear v) | (with_reducible apply Keeps.ite)
    | (with_reducible apply State.releaseBank_keeps) | (with_reducible apply State.applyFreezes_keeps)
    | (with_reducible apply State.raise_keeps) | (with_reducible apply State.precondReport_keeps)
    | (with_reducible apply State.setAu_keeps) | dsimp only | (with_reducible refine Keeps.foldl _ ?_ _ _ ?_)
    | (with_reducible refine Keeps.made ?_ ?_ ?_ ?_ ?_ ?_ ?_ ?_ ?_ ?_)

theorem State.grantFreed_keeps {r0 s : State} (hk : Keeps r0 s) :
    Keeps r0 (State.grantFreed s) := by
  unfold State.grantFreed
  repeat' first
    | (with_reducible assumption) | (refine fun _ _ h => ?_) | (with_reducible apply Keeps.ite)
    | (with_reducible apply State.grant_keeps) | dsimp only | (with_reducible refine Keeps.foldl _ ?_ _ _ ?_)

theorem State.grantInitial_keeps {r0 s : State} (hk : Keeps r0 s) :
    Keeps r0 (State.grantInitial s) := by
  unfold State.grantInitial
  repeat' first
    | (with_reducible assumption) | (refine fun _ _ h => ?_) | (with_reducible apply State.grant_keeps) | dsimp only
    | (with_reducible refine Keeps.foldl _ ?_ _ _ ?_)

theorem State.boundaryTable_keeps {r0 s : State} (hk : Keeps r0 s) :
    Keeps r0 (State.boundaryTable s) := by
  unfold State.boundaryTable
  repeat' first
    | (with_reducible assumption) | (with_reducible apply Keeps.ite) | (with_reducible apply State.tableEffect_keeps)
    | (with_reducible apply State.stopOp_keeps) | (with_reducible apply State.raisePort_keeps) | dsimp only | split

theorem stepBoundary_keeps {r0 s : State} (hk : Keeps r0 s) :
    Keeps r0 (stepBoundary s) := by
  unfold stepBoundary
  repeat' first
    | (with_reducible assumption) | (refine fun _ _ h => ?_) | ((try lift_lets); intro v; dsimp only [v]; clear v)
    | (with_reducible apply Keeps.ite) | (with_reducible apply State.setAu_keeps)
    | (with_reducible apply State.grantFreed_keeps) | (with_reducible apply State.closureBoundary_keeps)
    | (with_reducible apply State.complete_keeps) | (with_reducible apply State.boundaryTable_keeps)
    | (with_reducible apply State.drainAll_keeps) | dsimp only | (with_reducible refine Keeps.foldl _ ?_ _ _ ?_)
    | split | (with_reducible refine Keeps.made ?_ ?_ ?_ ?_ ?_ ?_ ?_ ?_ ?_ ?_)

theorem stepStart_keeps {r0 s : State} (hk : Keeps r0 s) (o : Order) :
    Keeps r0 (stepStart o s) := by
  unfold stepStart
  repeat' first
    | (with_reducible assumption) | (refine fun _ _ h => ?_) | ((try lift_lets); intro v; dsimp only [v]; clear v)
    | (with_reducible apply Keeps.ite) | (with_reducible apply State.cmdArrive_keeps) | dsimp only
    | (with_reducible refine Keeps.made ?_ ?_ ?_ ?_ ?_ ?_ ?_ ?_ ?_ ?_)

theorem State.beginStep_keeps {r0 s : State} (hk : Keeps r0 s) (id_ : Nat) (step : Step) : Keeps r0 (s.beginStep id_ step) := by
  unfold State.beginStep
  dsimp only
  refine State.judge_keeps (Keeps.ite (State.grantInitial_keeps ?_) ?_) <;>
    exact Keeps.mapped hk id (fun x => SMap.wf_mapVals x _) id id id id id
      (fun x => sram_mapVals x (fun k m h => Mu.wf_stepBegin h)) id rfl rfl rfl rfl rfl rfl rfl rfl

theorem stepStartTime_keeps {r0 s : State} (hk : Keeps r0 s) :
    Keeps r0 (stepStartTime s) := by
  unfold stepStartTime
  repeat' first
    | (with_reducible assumption) | (with_reducible apply Keeps.ite) | (with_reducible apply State.beginStep_keeps)
    | split

theorem quiescingEnd_keeps {r0 s : State} (hk : Keeps r0 s) (timedOut : Bool) (ups : List Upset) :
    Keeps r0 (quiescingEnd timedOut ups s) := by
  unfold quiescingEnd
  repeat' first
    | (with_reducible assumption) | ((try lift_lets); intro v; dsimp only [v]; clear v)
    | (with_reducible apply Keeps.ite) | (with_reducible apply State.strikes_keeps)
    | (with_reducible apply State.contain_keeps) | (with_reducible apply State.restartActions_keeps) | dsimp only
    | (with_reducible refine Keeps.made ?_ ?_ ?_ ?_ ?_ ?_ ?_ ?_ ?_ ?_)

theorem restartActionsDone_keeps {r0 s : State} (hk : Keeps r0 s) :
    Keeps r0 (restartActionsDone s) := by
  unfold restartActionsDone
  repeat' first
    | (with_reducible assumption) | ((try lift_lets); intro v; dsimp only [v]; clear v)
    | (with_reducible apply Keeps.ite) | (with_reducible apply State.complete_keeps)
    | (with_reducible apply State.drainedIdle_keeps) | (with_reducible apply State.stopEnd_keeps)
    | (with_reducible exact Flt.countAttempt_buffer _ _) | dsimp only | split
    | (with_reducible refine Keeps.made ?_ ?_ ?_ ?_ ?_ ?_ ?_ ?_ ?_ ?_)

theorem restartFail_keeps {r0 s : State} (hk : Keeps r0 s) :
    Keeps r0 (restartFail s) := by
  unfold restartFail
  repeat' first
    | (with_reducible assumption) | (with_reducible apply Keeps.ite) | (with_reducible apply State.raise_keeps)

end Sys2Proof.Machine
end

