-- ==== Sys2Proof/Laws/KeepsFaults.lean ====
section
/-! SUPPORT. What the operations of Machine/Faults.lean keep. -/
namespace Sys2Proof.Machine

theorem State.spoilRow_keeps {r0 s : State} (hk : Keeps r0 s) (p : Nat) (ix : Nat) :
    Keeps r0 (State.spoilRow s p ix) := by
  unfold State.spoilRow
  repeat' first
    | (with_reducible assumption) | ((try lift_lets); intro v; dsimp only [v]; clear v)
    | (with_reducible apply State.setPlat_keeps) | split

theorem spineTransfer_keeps {r0 s : State} (hk : Keeps r0 s) (d : SpineDamage) (header : W64) :
    Keeps r0 (spineTransfer d header s) := by
  unfold spineTransfer
  repeat' first
    | (with_reducible assumption) | ((try lift_lets); intro v; dsimp only [v]; clear v)
    | (with_reducible apply State.spoilRow_keeps) | (with_reducible apply State.raise_keeps) | dsimp only | split
    | (with_reducible refine Keeps.made ?_ ?_ ?_ ?_ ?_ ?_ ?_ ?_ ?_ ?_)

theorem firmwareFault_keeps {r0 s : State} (hk : Keeps r0 s) (p : Nat) :
    Keeps r0 (firmwareFault p s) := by
  unfold firmwareFault
  repeat' first
    | (with_reducible assumption) | ((try lift_lets); intro v; dsimp only [v]; clear v)
    | (with_reducible apply State.setPlat_keeps) | (with_reducible apply State.raise_keeps)

theorem firmwareMemoryError_keeps {r0 s : State} (hk : Keeps r0 s) (p : Nat) (kind : EccKind) :
    Keeps r0 (firmwareMemoryError p kind s) := by
  unfold firmwareMemoryError
  repeat' first
    | (with_reducible assumption) | (with_reducible apply State.raise_keeps)
    | (with_reducible apply firmwareFault_keeps) | split

theorem State.storeBegun_keeps {r0 s : State} (hk : Keeps r0 s) :
    Keeps r0 (State.storeBegun s) := by
  unfold State.storeBegun
  repeat' first
    | (with_reducible assumption) | (with_reducible apply Keeps.ite) | dsimp only
    | (with_reducible refine Keeps.made ?_ ?_ ?_ ?_ ?_ ?_ ?_ ?_ ?_ ?_)

theorem State.askStore_keeps {r0 s : State} (hk : Keeps r0 s) (fence : Bool) :
    Keeps r0 (State.askStore s fence) := by
  unfold State.askStore
  repeat' first
    | (with_reducible assumption) | ((try lift_lets); intro v; dsimp only [v]; clear v)
    | (with_reducible apply State.storeBegun_keeps) | dsimp only
    | (with_reducible refine Keeps.made ?_ ?_ ?_ ?_ ?_ ?_ ?_ ?_ ?_ ?_)

theorem State.storeOver_keeps {r0 s : State} (hk : Keeps r0 s) :
    Keeps r0 (State.storeOver s) := by
  unfold State.storeOver
  repeat' first
    | (with_reducible assumption) | ((try lift_lets); intro v; dsimp only [v]; clear v)
    | (with_reducible apply State.storeBegun_keeps) | dsimp only
    | (with_reducible refine Keeps.made ?_ ?_ ?_ ?_ ?_ ?_ ?_ ?_ ?_ ?_)

theorem faultRecordStore_keeps {r0 s : State} (hk : Keeps r0 s) : Keeps r0 (faultRecordStore s) := by
  unfold faultRecordStore
  split
  · exact hk
  · rename_i h
    refine Keeps.ite hk (State.storeBegun_keeps ?_)
    refine { hk with buffer := fun x => ?_ }
    have := hk.buffer x
    rw [h] at this
    exact Nat.le_of_succ_le this

theorem State.fenceResult_keeps {r0 s : State} (hk : Keeps r0 s) (c : Code) :
    Keeps r0 (State.fenceResult s c) := by
  unfold State.fenceResult
  repeat' first
    | (with_reducible assumption) | ((try lift_lets); intro v; dsimp only [v]; clear v) | dsimp only
    | (with_reducible refine Keeps.made ?_ ?_ ?_ ?_ ?_ ?_ ?_ ?_ ?_ ?_)

theorem State.fenceStart_keeps {r0 s : State} (hk : Keeps r0 s) (op : Option FenceOp) :
    Keeps r0 (State.fenceStart s op) := by
  unfold State.fenceStart
  repeat' first
    | (with_reducible assumption) | ((try lift_lets); intro v; dsimp only [v]; clear v)
    | (with_reducible apply Keeps.ite) | (with_reducible apply State.fenceResult_keeps)
    | (with_reducible apply State.askStore_keeps) | dsimp only | split
    | (with_reducible refine Keeps.made ?_ ?_ ?_ ?_ ?_ ?_ ?_ ?_ ?_ ?_)

theorem fenceOp_keeps {r0 s : State} (hk : Keeps r0 s) (o : FenceOp) :
    Keeps r0 (fenceOp o s) := by
  unfold fenceOp
  repeat' first
    | (with_reducible assumption) | (refine fun _ h => ?_) | (with_reducible apply State.whenAwake_keeps)
    | (with_reducible apply State.fenceStart_keeps)

theorem State.openPort_keeps {r0 s : State} (hk : Keeps r0 s) (n : Nat) :
    Keeps r0 (State.openPort s n) := by
  unfold State.openPort
  repeat' first
    | (with_reducible assumption) | (with_reducible apply Keeps.ite) | (with_reducible apply State.retrainPort_keeps)

theorem fenceStoreDone_keeps {r0 s : State} (hk : Keeps r0 s) (ok : Bool) :
    Keeps r0 (fenceStoreDone ok s) := by
  unfold fenceStoreDone
  repeat' first
    | (with_reducible assumption)
    | ((try lift_lets); intro v; refine Keeps.cut (r := r0) (s := v) ?_ ?_; dsimp only [v]; clear v;
       rotate_left; intro hv; clear_value v; revert v; refine Keeps.all ?_; intro v hv)
    | (with_reducible apply Keeps.ite) | (with_reducible apply State.storeOver_keeps)
    | (with_reducible apply State.raise_keeps) | (with_reducible apply State.closeFenced_keeps)
    | (with_reducible apply State.openPort_keeps) | dsimp only | split
    | (with_reducible refine Keeps.made ?_ ?_ ?_ ?_ ?_ ?_ ?_ ?_ ?_ ?_)

end Sys2Proof.Machine
end

