-- ==== Sys2Proof/Laws/KeepsLumouxTrans.lean ====
section
/-! SUPPORT. What the operations of Machine/LumouxTrans.lean keep. -/
namespace Sys2Proof.Machine

theorem Mu.wf_collTag {m : Mu} (h : Memory.wf m.sram = true) (queue : Bool) (k : Nat) (t : PTok) :
    Memory.wf (m.collTag queue k t).sram = true := by
  unfold Mu.collTag
  cases t.poison <;> cases queue <;> exact h

theorem Mu.wf_collTags (queue : Bool) (k : Nat) : ∀ (l : List (PTok × Nat)) (m : Mu), Memory.wf m.sram = true →
    Memory.wf (l.foldl (fun m x => m.collTag queue (k + x.2) x.1) m).sram = true
  | [], _, h => h
  | a :: l, m, h => Mu.wf_collTags queue k l (m.collTag queue (k + a.2) a.1) (Mu.wf_collTag h _ _ _)

theorem State.deviceGate_keeps {r0 s : State} (hk : Keeps r0 s) (rx : Rx) (typ : Nat) (f : State → State) (hf : ∀ u, Keeps r0 u → Keeps r0 (f u)) :
    Keeps r0 (State.deviceGate s rx typ f) := by
  unfold State.deviceGate
  repeat' first
    | (with_reducible assumption) | (with_reducible apply Keeps.ite) | (with_reducible apply hf)
    | (with_reducible apply State.respond_keeps)

theorem State.narrowReads_keeps {r0 s : State} (hk : Keeps r0 s) (p : Nat) (n : Nat) (off : Nat) (len : Nat) :
    Keeps r0 (State.narrowReads s p n off len).2.2 := by
  unfold State.narrowReads
  repeat' first
    | (with_reducible assumption) | (refine fun _ _ h => ?_) | (with_reducible apply State.muRead_keeps) | dsimp only
    | (with_reducible refine Keeps.foldl3 _ ?_ _ _ ?_)

theorem State.narrowWrites_keeps {r0 s : State} (hk : Keeps r0 s) (p : Nat) (n : Nat) (off : Nat) (bs : List Byte) (poison : Bool) :
    Keeps r0 (State.narrowWrites s p n off bs poison).2 := by
  unfold State.narrowWrites
  repeat' first
    | (with_reducible assumption) | (refine fun _ _ h => ?_)
    | (refine fun (x : ∀ e ∈ r0.mus, Memory.wf e.2.sram = true) => ?_)
    | (with_reducible refine Keeps.mu ?_ _ _ (by with_reducible assumption)) | (with_reducible apply Mu.wf_flag)
    | (with_reducible apply State.setMu_keeps) | (with_reducible apply State.muWrite_keeps)
    | (with_reducible apply State.muPoisonIn_keeps) | dsimp only | (with_reducible refine Keeps.foldl2 _ ?_ _ _ ?_)
    | (with_reducible apply Keeps.ite2)

theorem State.hostWrite_keeps {r0 s : State} (hk : Keeps r0 s) (a : Nat) (bs : List Byte) (poison : Bool) :
    Keeps r0 (State.hostWrite s a bs poison).2 := by
  unfold State.hostWrite
  repeat' first
    | (with_reducible assumption) | (with_reducible apply State.takeSpine_keeps)
    | (with_reducible apply State.narrowWrites_keeps) | (with_reducible apply State.dramWrite_keeps) | dsimp only
    | (with_reducible apply Keeps.ite2) | split

theorem rwrite_keeps {r0 s : State} (hk : Keeps r0 s) (rx : Rx) (addr : W64) (data : List Byte) (poison : Bool) :
    Keeps r0 (rwrite rx addr data poison s) := by
  unfold rwrite
  repeat' first
    | (with_reducible assumption) | (refine fun _ _ h => ?_) | (refine fun _ h => ?_)
    | (with_reducible apply Keeps.ite) | (with_reducible apply State.take_keeps)
    | (with_reducible apply State.respond_keeps) | (with_reducible apply State.hostWrite_keeps)
    | (with_reducible apply State.deviceGate_keeps) | (with_reducible apply State.remoteWrite_keeps) | dsimp only
    | split

theorem State.hostRead_keeps {r0 s : State} (hk : Keeps r0 s) (a : Nat) (k : Nat) :
    Keeps r0 (State.hostRead s a k).2.2.2 := by
  unfold State.hostRead
  repeat' first
    | (with_reducible assumption) | (with_reducible apply State.takeSpine_keeps)
    | (with_reducible apply State.narrowReads_keeps) | (with_reducible apply State.dramRead_keeps) | dsimp only
    | split

theorem State.deviceRead_keeps {r0 s : State} (hk : Keeps r0 s) (a : Nat) (k : Nat) :
    Keeps r0 (State.deviceRead s a k).2.2.2 := by
  unfold State.deviceRead
  repeat' first
    | (with_reducible assumption) | (with_reducible apply State.takeSpine_keeps)
    | (with_reducible apply State.narrowReads_keeps) | (with_reducible apply State.dramRead_keeps) | dsimp only
    | split

theorem rread_keeps {r0 s : State} (hk : Keeps r0 s) (rx : Rx) (addr : W64) (bytes : W32) (ups : List Upset) :
    Keeps r0 (rread rx addr bytes ups s) := by
  unfold rread
  repeat' first
    | (with_reducible assumption) | (refine fun _ _ h => ?_) | (refine fun _ h => ?_)
    | ((try lift_lets); intro v; dsimp only [v]; clear v) | (with_reducible apply Keeps.ite)
    | (with_reducible apply State.take_keeps) | (with_reducible apply State.strikes_keeps)
    | (with_reducible apply State.respond_keeps) | (with_reducible apply State.hostRead_keeps)
    | (with_reducible apply State.deviceRead_keeps) | (with_reducible apply State.deviceGate_keeps) | split

theorem State.collFlags_keeps {r0 s : State} (hk : Keeps r0 s) (p n off : Nat) (ts : List PTok) :
    Keeps r0 (s.collFlags p n off ts) := by
  unfold State.collFlags
  exact State.setMu_keeps hk _ _ _ (fun x => Mu.wf_collTags _ _ _ _ (Keeps.mu hk p n x))

theorem coll_keeps {r0 s : State} (hk : Keeps r0 s) (rx : Rx) (addr : W64) (mode : Byte) (contrib : Byte) (entry : W16) (ts : List PTok) :
    Keeps r0 (coll rx addr mode contrib entry ts s) := by
  unfold coll
  repeat' first
    | (with_reducible assumption) | (refine fun _ _ h => ?_) | (refine fun _ h => ?_)
    | (with_reducible apply Keeps.ite) | (with_reducible apply State.take_keeps)
    | (with_reducible apply State.respond_keeps) | (with_reducible apply State.deviceGate_keeps)
    | (with_reducible apply State.remoteSegment_keeps) | (with_reducible apply State.muPoisonIn_keeps)
    | (with_reducible apply State.remoteWrite_keeps) | (with_reducible apply State.collFlags_keeps) | dsimp only
    | split

theorem State.rowAnswered_keeps {r0 s : State} (hk : Keeps r0 s) (p : Nat) (r : RowReq) (code : Code) :
    Keeps r0 (State.rowAnswered s p r code) := by
  unfold State.rowAnswered
  repeat' first
    | (with_reducible assumption)
    | ((try lift_lets); intro v; refine Keeps.cut (r := r0) (s := v) ?_ ?_; dsimp only [v]; clear v;
       rotate_left; intro hv; clear_value v; revert v; refine Keeps.all ?_; intro v hv)
    | (with_reducible apply Keeps.ite) | (with_reducible apply State.rowCopied_keeps)
    | (with_reducible apply State.dmaAddr_keeps) | (with_reducible apply State.dmaFail_keeps)
    | (with_reducible apply State.rowFinished_keeps) | split

theorem State.answered_keeps {r0 s : State} (hk : Keeps r0 s) (q : Req) (code : Code) :
    Keeps r0 (State.answered s q code) := by
  unfold State.answered
  repeat' first
    | (with_reducible assumption) | ((try lift_lets); intro v; dsimp only [v]; clear v)
    | (with_reducible apply Keeps.ite) | (with_reducible apply State.bmkAdd_keeps)
    | (with_reducible apply State.rowAnswered_keeps) | dsimp only | split
    | (with_reducible refine Keeps.made ?_ ?_ ?_ ?_ ?_ ?_ ?_ ?_ ?_ ?_)

theorem State.discarded_keeps {r0 s : State} (hk : Keeps r0 s) (q : Req) :
    Keeps r0 (State.discarded s q) := by
  unfold State.discarded
  repeat' first
    | (with_reducible assumption) | (with_reducible apply State.rowFinished_keeps) | split

theorem resp_keeps {r0 s : State} (hk : Keeps r0 s) (rx : Rx) (code : Code) (answered : Byte) (value : W64) (data : List Byte) :
    Keeps r0 (resp rx code answered value data s) := by
  unfold resp
  repeat' first
    | (with_reducible assumption) | (refine fun _ _ h => ?_) | ((try lift_lets); intro v; dsimp only [v]; clear v)
    | (with_reducible apply Keeps.ite) | (with_reducible apply State.take_keeps)
    | (with_reducible apply State.answered_keeps) | (with_reducible apply State.discarded_keeps) | dsimp only | split
    | (with_reducible refine Keeps.made ?_ ?_ ?_ ?_ ?_ ?_ ?_ ?_ ?_ ?_)

theorem cplArrive_keeps {r0 s : State} (hk : Keeps r0 s) (rx : Rx) (code : Code) (opcode : W16) (value : W64) :
    Keeps r0 (cplArrive rx code opcode value s) := by
  unfold cplArrive
  repeat' first
    | (with_reducible assumption) | (refine fun _ _ h => ?_) | ((try lift_lets); intro v; dsimp only [v]; clear v)
    | (with_reducible apply Keeps.ite) | (with_reducible apply State.take_keeps) | dsimp only
    | (with_reducible refine Keeps.made ?_ ?_ ?_ ?_ ?_ ?_ ?_ ?_ ?_ ?_)

theorem State.flooded_keeps {r0 s : State} (hk : Keeps r0 s) (rx : Rx) (body : TBody) (f : State → State) (hf : ∀ u, Keeps r0 u → Keeps r0 (f u)) :
    Keeps r0 (State.flooded s rx body f) := by
  unfold State.flooded
  repeat' first
    | (with_reducible assumption) | (refine fun _ _ h => ?_)
    | ((try lift_lets); intro v; refine Keeps.cut (r := r0) (s := v) ?_ ?_; dsimp only [v]; clear v;
       rotate_left; intro hv; clear_value v; revert v; refine Keeps.all ?_; intro v hv)
    | (with_reducible apply Keeps.ite) | (with_reducible apply hf) | (with_reducible apply State.arrive_keeps)
    | (with_reducible apply State.floodMark_keeps) | (with_reducible apply State.flood_keeps)
    | (with_reducible apply State.dropParts_keeps) | (with_reducible apply State.keepPart_keeps)

theorem State.tableIn_keeps {r0 s : State} (hk : Keeps r0 s) (t : MTable) :
    Keeps r0 (State.tableIn s t) := by
  unfold State.tableIn
  repeat' first
    | (with_reducible assumption) | ((try lift_lets); intro v; dsimp only [v]; clear v)
    | (with_reducible apply Keeps.ite) | (with_reducible apply State.tableEffect_keeps) | dsimp only
    | (with_reducible refine Keeps.made ?_ ?_ ?_ ?_ ?_ ?_ ?_ ?_ ?_ ?_)

theorem member_keeps {r0 s : State} (hk : Keeps r0 s) (rx : Rx) (t : MTable) :
    Keeps r0 (member rx t s) := by
  unfold member
  repeat' first
    | (with_reducible assumption) | (refine fun _ h => ?_) | ((try lift_lets); intro v; dsimp only [v]; clear v)
    | (with_reducible apply Keeps.ite) | (with_reducible apply State.flooded_keeps)
    | (with_reducible apply State.tableIn_keeps) | dsimp only
    | (with_reducible refine Keeps.made ?_ ?_ ?_ ?_ ?_ ?_ ?_ ?_ ?_ ?_)

theorem State.floodOwn_keeps {r0 s : State} (hk : Keeps r0 s) (body : TBody) :
    Keeps r0 (State.floodOwn s body) := by
  unfold State.floodOwn
  repeat' first
    | (with_reducible assumption) | (refine fun _ _ h => ?_) | (with_reducible apply State.flood_keeps) | dsimp only
    | (with_reducible refine Keeps.foldl _ ?_ _ _ ?_)
    | (with_reducible refine Keeps.made ?_ ?_ ?_ ?_ ?_ ?_ ?_ ?_ ?_ ?_)

theorem State.publish_keeps {r0 s : State} (hk : Keeps r0 s) :
    Keeps r0 (State.publish s) := by
  unfold State.publish
  repeat' first
    | (with_reducible assumption) | ((try lift_lets); intro v; dsimp only [v]; clear v)
    | (with_reducible apply Keeps.ite) | (with_reducible apply State.floodOwn_keeps)
    | (with_reducible apply State.tableIn_keeps)

theorem linkstate_keeps {r0 s : State} (hk : Keeps r0 s) (rx : Rx) (keyId : List Byte) (ports : List PortEntry) :
    Keeps r0 (linkstate rx keyId ports s) := by
  unfold linkstate
  repeat' first
    | (with_reducible assumption) | (refine fun _ h => ?_) | ((try lift_lets); intro v; dsimp only [v]; clear v)
    | (with_reducible apply Keeps.ite) | (with_reducible apply State.flooded_keeps)
    | (with_reducible apply State.publish_keeps) | dsimp only
    | (with_reducible refine Keeps.made ?_ ?_ ?_ ?_ ?_ ?_ ?_ ?_ ?_ ?_)

theorem transactionForward_keeps {r0 s : State} (hk : Keeps r0 s) (t : Passing) :
    Keeps r0 (transactionForward t s) := by
  unfold transactionForward
  repeat' first
    | (with_reducible assumption) | (refine fun _ _ h => ?_) | (with_reducible apply Keeps.ite)
    | (with_reducible apply State.arrive_keeps) | (with_reducible apply State.forward_keeps)

theorem forwardStall_keeps {r0 s : State} (hk : Keeps r0 s) (tag : W16) :
    Keeps r0 (forwardStall tag s) := by
  unfold forwardStall
  repeat' first
    | (with_reducible assumption) | ((try lift_lets); intro v; dsimp only [v]; clear v)
    | (with_reducible apply State.setPort_keeps) | (with_reducible apply State.raisePort_keeps)
    | (with_reducible apply State.unkeep_keeps) | dsimp only | split
    | (with_reducible refine Keeps.made ?_ ?_ ?_ ?_ ?_ ?_ ?_ ?_ ?_ ?_)

theorem lxTimeout_keeps {r0 s : State} (hk : Keeps r0 s) (tag : W16) :
    Keeps r0 (lxTimeout tag s) := by
  unfold lxTimeout
  repeat' first
    | (with_reducible assumption) | ((try lift_lets); intro v; dsimp only [v]; clear v)
    | (with_reducible apply State.raisePort_keeps) | dsimp only | split
    | (with_reducible refine Keeps.made ?_ ?_ ?_ ?_ ?_ ?_ ?_ ?_ ?_ ?_)

theorem reservedTransaction_keeps {r0 s : State} (hk : Keeps r0 s) (rx : Rx) (typ : Byte) :
    Keeps r0 (reservedTransaction rx typ s) := by
  unfold reservedTransaction
  repeat' first
    | (with_reducible assumption) | (refine fun _ _ h => ?_) | (with_reducible apply Keeps.ite)
    | (with_reducible apply State.arrive_keeps)

theorem State.streamTokens_keeps {r0 s : State} (hk : Keeps r0 s) (a : Nat) (k : Nat) :
    Keeps r0 (State.streamTokens s a k).2 := by
  unfold State.streamTokens
  repeat' first
    | (with_reducible assumption) | (refine fun _ _ h => ?_) | (with_reducible apply State.spaceRead_keeps)
    | dsimp only | (with_reducible refine Keeps.foldl2 _ ?_ _ _ ?_)

theorem streamEntryFire_keeps {r0 s : State} (hk : Keeps r0 s) (e : Nat) :
    Keeps r0 (streamEntryFire e s) := by
  unfold streamEntryFire
  repeat' first
    | (with_reducible assumption) | ((try lift_lets); intro v; dsimp only [v]; clear v)
    | (with_reducible apply Keeps.ite) | (with_reducible apply State.streamTokens_keeps)
    | (with_reducible apply State.put_keeps) | (with_reducible apply State.request_keeps) | dsimp only | split
    | (with_reducible refine Keeps.made ?_ ?_ ?_ ?_ ?_ ?_ ?_ ?_ ?_ ?_)

end Sys2Proof.Machine
end

