-- ==== Sys2Proof/Laws/KeepsSecurity.lean ====
section
/-! SUPPORT. What the operations of Machine/Security.lean keep. -/
namespace Sys2Proof.Machine

/-- The module's state changes, but not its buffer and its counters. -/
theorem Keeps.putSec {r s : State} (h : Keeps r s) {y : Sec} (e : y.buf = s.sec.buf) (e1 : y.svns = s.sec.svns)
    (e2 : y.mram.svns = s.sec.mram.svns) : Keeps r { s with sec := y } := by
  have v := congrArg Svns.fsf e1; have w := congrArg Svns.pcf e1
  have x := congrArg Svns.img e1; have z := congrArg Svns.fwkeyMin e1
  exact h.rest rfl (by rw [e]) (by simp only [Sec.svns] at v w x z; simp only [v, w, x, z, e2])

/-- A store of counters that do not fall, and of which one rises, keeps the copies in order. -/
theorem Sec.putSvns_held {x : Sec} {n : Nat} (l : n + 2 ^ 34 ≤ 2 ^ 64) (h : x.svnsHeld n) {v : Svns} (m : x.svns.sum < v.sum) :
    (x.putSvns v).svnsHeld n := by
  have b : v.sum + 4 ≤ 2 ^ 34 := by unfold Svns.sum; omega
  obtain ⟨h0, h1, h2⟩ := h
  have e : (x.putSvns v).svns = v := rfl
  unfold Sec.svnsHeld
  rw [e]
  show (∀ c, (x.mram.svns.store v).copy0 = some c → _) ∧ (∀ c, (x.mram.svns.store v).copy1 = some c → _) ∧
    ∀ c, (x.mram.svns.store v).newer = some c → _
  revert h0 h1 h2
  generalize x.mram.svns = k
  obtain ⟨c0, c1⟩ := k
  cases c0 with
  | none => cases c1 with
    | none => intro _ _ _; simp [Copies.store, Copies.newer]; omega
    | some q =>
      intro _ h1 h2
      have a := h1 q rfl; have a' : q.2 = x.svns := h2 q rfl; rw [a'] at a
      have t : (q.1 + 1).toNat = q.1.toNat + 1 := by rw [BitVec.toNat_add]; exact Nat.mod_eq_of_lt (show q.1.toNat + 1 < 2 ^ 64 by omega)
      have u : ¬ q.1.toNat + 1 < q.1.toNat := by omega
      simp only [Copies.store, Copies.newer, if_neg u, Option.some.injEq, forall_eq', t, a', and_true]
      omega
  | some p => cases c1 with
    | none =>
      intro h0 _ h2
      have a := h0 p rfl; have a' : p.2 = x.svns := h2 p rfl; rw [a'] at a
      have t : (p.1 + 1).toNat = p.1.toNat + 1 := by rw [BitVec.toNat_add]; exact Nat.mod_eq_of_lt (show p.1.toNat + 1 < 2 ^ 64 by omega)
      have u : p.1.toNat < p.1.toNat + 1 := by omega
      simp only [Copies.store, Copies.newer, if_pos u, Option.some.injEq, forall_eq', t, a', and_true]
      omega
    | some q =>
      intro h0 h1 h2
      by_cases lt : p.1.toNat < q.1.toNat
      · have a := h1 q rfl; have z := h0 p rfl
        have a' : q.2 = x.svns := h2 q (by simp [Copies.newer, lt])
        rw [a'] at a
        have t : (q.1 + 1).toNat = q.1.toNat + 1 := by rw [BitVec.toNat_add]; exact Nat.mod_eq_of_lt (show q.1.toNat + 1 < 2 ^ 64 by omega)
        have u : ¬ q.1.toNat + 1 < q.1.toNat := by omega
        simp only [Copies.store, if_pos lt, Copies.newer, if_neg u, Option.some.injEq, forall_eq', t, a', and_true]
        omega
      · have a := h0 p rfl; have z := h1 q rfl
        have a' : p.2 = x.svns := h2 p (by simp [Copies.newer, lt])
        rw [a'] at a
        have t : (p.1 + 1).toNat = p.1.toNat + 1 := by rw [BitVec.toNat_add]; exact Nat.mod_eq_of_lt (show p.1.toNat + 1 < 2 ^ 64 by omega)
        have u : p.1.toNat < p.1.toNat + 1 := by omega
        simp only [Copies.store, if_neg lt, Copies.newer, if_pos u, Option.some.injEq, forall_eq', t, a', and_true]
        omega

/-- The counters change and are stored: none falls and one rises. -/
theorem Keeps.putSvns {r s : State} (h : Keeps r s) {v : Svns} (h0 : s.sec.fsfSvn.toNat ≤ v.fsf.toNat)
    (h1 : s.sec.pcfSvn.toNat ≤ v.pcf.toNat) (h2 : s.sec.imgSvn.toNat ≤ v.img.toNat)
    (h3 : s.sec.fwkeyMin.toNat ≤ v.fwkeyMin.toNat) (m : s.sec.svns.sum < v.sum) : Keeps r { s with sec := s.sec.putSvns v } :=
  { h with
    buf := h.buf, fsf := Nat.le_trans h.fsf h0, pcf := Nat.le_trans h.pcf h1, img := Nat.le_trans h.img h2
    key := Nat.le_trans h.key h3, held := fun _ l x => Sec.putSvns_held l (h.held _ l x) m }

theorem Keeps.enroll {r s : State} (h : Keeps r s) : Keeps r { s with sec := s.sec.enroll.1 } := by
  unfold Sec.enroll
  dsimp only
  split <;> exact h.putSec rfl rfl rfl

theorem Keeps.revoke {r s : State} (h : Keeps r s) : Keeps r { s with sec := s.sec.revoke.1 } := by
  unfold Sec.revoke
  dsimp only
  split <;> exact h.putSec rfl rfl rfl

theorem Keeps.advance {r s : State} (h : Keeps r s) (loaded : Bool) : Keeps r { s with sec := (s.sec.advance loaded).1 } := by
  unfold Sec.advance
  dsimp only
  generalize leNat (Memory.read s.sec.buf 0 4) = i
  generalize (BitVec.ofNat 32 (leNat (Memory.read s.sec.buf 4 4)) : W32) = v
  split
  · rename_i ok
    unfold Sec.svnOk at ok
    match i with
    | 0 =>
      simp only [Bool.and_eq_true, decide_eq_true_eq] at ok
      exact h.putSvns (Nat.le_of_lt ok.1) (Nat.le_refl _) (Nat.le_refl _) (Nat.le_refl _)
        (by simp only [Svns.sum, Sec.svns]; omega)
    | 1 =>
      simp only [Bool.and_eq_true, decide_eq_true_eq] at ok
      exact h.putSvns (Nat.le_refl _) (Nat.le_of_lt ok.1) (Nat.le_refl _) (Nat.le_refl _)
        (by simp only [Svns.sum, Sec.svns]; omega)
    | 2 =>
      simp only [Bool.and_eq_true, decide_eq_true_eq] at ok
      exact h.putSvns (Nat.le_refl _) (Nat.le_refl _) (Nat.le_of_lt ok.1.1) (Nat.le_refl _)
        (by simp only [Svns.sum, Sec.svns]; omega)
    | 3 =>
      simp only [Bool.and_eq_true, decide_eq_true_eq] at ok
      exact h.putSvns (Nat.le_refl _) (Nat.le_refl _) (Nat.le_refl _) (Nat.le_of_lt ok.1.1.1)
        (by simp only [Svns.sum, Sec.svns]; omega)
    | k + 4 => cases ok
  · exact h.putSec rfl rfl rfl

theorem State.secRaise_keeps {r0 s : State} (hk : Keeps r0 s) (c : FClass) (code : Code) (bit : Nat) :
    Keeps r0 (State.secRaise s c code bit) := by
  unfold State.secRaise
  repeat' first
    | (with_reducible assumption) | ((try lift_lets); intro v; dsimp only [v]; clear v)
    | (with_reducible apply State.raise_keeps) | dsimp only
    | (with_reducible refine Keeps.made ?_ ?_ ?_ ?_ ?_ ?_ ?_ ?_ ?_ ?_)

theorem State.dropLinks_keeps {r0 s : State} (hk : Keeps r0 s) :
    Keeps r0 (State.dropLinks s) := by
  unfold State.dropLinks
  repeat' first
    | (with_reducible assumption) | (refine fun _ _ h => ?_) | (with_reducible apply Keeps.ite)
    | (with_reducible apply State.dropLink_keeps) | (with_reducible refine Keeps.foldl _ ?_ _ _ ?_)

theorem State.enterError_keeps {r0 s : State} (hk : Keeps r0 s) : Keeps r0 s.enterError := by
  unfold State.enterError
  have h := State.dropLinks_keeps hk
  revert h
  generalize s.dropLinks = u
  intro h
  exact Keeps.mapped h id id id id id id (fun x => SMap.wf_mapVals x _) id id rfl rfl rfl rfl rfl rfl rfl rfl

theorem State.secError_keeps {r0 s : State} (hk : Keeps r0 s) (n : Nat) :
    Keeps r0 (State.secError s n) := by
  unfold State.secError
  repeat' first
    | (with_reducible assumption) | ((try lift_lets); intro v; dsimp only [v]; clear v)
    | (with_reducible apply State.enterError_keeps) | (with_reducible apply State.secRaise_keeps) | dsimp only
    | (with_reducible refine Keeps.made ?_ ?_ ?_ ?_ ?_ ?_ ?_ ?_ ?_ ?_)

theorem State.zeroSession_keeps {r0 s : State} (hk : Keeps r0 s) : Keeps r0 s.zeroSession := by
  unfold State.zeroSession
  have h : Keeps r0 ((List.range 32).foldl (fun s n => if (s.port n).state == .secure then s.dropLink n else s) s) :=
    Keeps.foldl _ (fun u n hu => Keeps.ite (State.dropLink_keeps hu n) hu) _ _ hk
  revert h
  generalize (List.range 32).foldl (fun s n => if (s.port n).state == .secure then s.dropLink n else s) s = u
  intro h
  exact State.drbgStart_keeps (Keeps.mapped h id id id id id id (fun x => SMap.wf_mapVals x _) id id rfl rfl rfl rfl rfl rfl rfl rfl)

theorem State.zeroData_keeps {r0 s : State} (hk : Keeps r0 s) : Keeps r0 s.zeroData := by
  unfold State.zeroData
  dsimp only
  exact Keeps.mapped hk (fun x => SMap.wf_mapVals x _) (fun x => SMap.wf_mapVals x _) id id id id id
    (fun x => sram_mapVals x (fun _ _ _ => rfl)) (fun x => SMap.wf_filter x _) rfl rfl rfl rfl rfl rfl rfl rfl

theorem State.zeroDevice_keeps {r0 s : State} (hk : Keeps r0 s) :
    Keeps r0 (State.zeroDevice s) := by
  unfold State.zeroDevice
  repeat' first
    | (with_reducible assumption) | ((try lift_lets); intro v; dsimp only [v]; clear v) | dsimp only
    | (with_reducible refine Keeps.made ?_ ?_ ?_ ?_ ?_ ?_ ?_ ?_ ?_ ?_)

theorem State.zeroScope_keeps {r0 s : State} (hk : Keeps r0 s) (scope : Nat) :
    Keeps r0 (State.zeroScope s scope) := by
  unfold State.zeroScope
  repeat' first
    | (with_reducible assumption)
    | ((try lift_lets); intro v; refine Keeps.cut (r := r0) (s := v) ?_ ?_; dsimp only [v]; clear v;
       rotate_left; intro hv; clear_value v; revert v; refine Keeps.all ?_; intro v hv)
    | (with_reducible apply Keeps.ite) | (with_reducible apply State.zeroSession_keeps)
    | (with_reducible apply State.zeroData_keeps) | (with_reducible apply State.zeroDevice_keeps)

theorem State.zeroEnd_keeps {r0 s : State} (hk : Keeps r0 s) (scope : Nat) :
    Keeps r0 (State.zeroEnd s scope) := by
  unfold State.zeroEnd
  repeat' first
    | (with_reducible assumption) | ((try lift_lets); intro v; dsimp only [v]; clear v)
    | (with_reducible apply State.secRaise_keeps) | dsimp only | split
    | (with_reducible refine Keeps.made ?_ ?_ ?_ ?_ ?_ ?_ ?_ ?_ ?_ ?_)

theorem State.secResult_keeps {r0 s : State} (hk : Keeps r0 s) (code : Code) (k : Nat) (len : Nat) :
    Keeps r0 (State.secResult s code k len) := by
  unfold State.secResult
  repeat' first
    | (with_reducible assumption) | ((try lift_lets); intro v; dsimp only [v]; clear v) | dsimp only
    | (with_reducible refine Keeps.made ?_ ?_ ?_ ?_ ?_ ?_ ?_ ?_ ?_ ?_)

theorem State.coAuthRun_keeps {r0 s : State} (hk : Keeps r0 s) (src : W16) :
    Keeps r0 (State.coAuthRun s src).1 := by
  unfold State.coAuthRun
  repeat' first
    | (with_reducible assumption) | (with_reducible apply State.secRaise_keeps) | dsimp only
    | (with_reducible apply Keeps.ite1) | (with_reducible refine Keeps.made ?_ ?_ ?_ ?_ ?_ ?_ ?_ ?_ ?_ ?_)

theorem State.rosterIsolate_keeps {r0 s : State} (hk : Keeps r0 s) :
    Keeps r0 (State.rosterIsolate s) := by
  unfold State.rosterIsolate
  repeat' first
    | (with_reducible assumption) | (refine fun _ _ h => ?_) | (with_reducible apply Keeps.ite)
    | (with_reducible apply State.isolate_keeps) | dsimp only | (with_reducible refine Keeps.foldl _ ?_ _ _ ?_)

theorem State.stagedAll_keeps {r0 s : State} (hk : Keeps r0 s) :
    Keeps r0 (State.stagedAll s).2.2 := by
  unfold State.stagedAll
  repeat' first
    | (with_reducible assumption) | (with_reducible apply State.dramRead_keeps)

theorem State.rosterRun_keeps {r0 s : State} (hk : Keeps r0 s) :
    Keeps r0 (State.rosterRun s).1 := by
  unfold State.rosterRun
  repeat' first
    | (with_reducible assumption) | (with_reducible apply State.stagedAll_keeps)
    | (with_reducible apply State.secRaise_keeps) | (with_reducible apply State.rosterIsolate_keeps) | dsimp only
    | (with_reducible apply Keeps.ite1) | split | (with_reducible refine Keeps.made ?_ ?_ ?_ ?_ ?_ ?_ ?_ ?_ ?_ ?_)

theorem State.fwUpdateRun_keeps {r0 s : State} (hk : Keeps r0 s) :
    Keeps r0 (State.fwUpdateRun s).1 := by
  unfold State.fwUpdateRun
  repeat' first
    | (with_reducible assumption) | (with_reducible apply State.stagedAll_keeps)
    | (with_reducible apply State.secRaise_keeps) | dsimp only | (with_reducible apply Keeps.ite1) | split
    | (with_reducible refine Keeps.made ?_ ?_ ?_ ?_ ?_ ?_ ?_ ?_ ?_ ?_)

theorem State.debugUnlockRun_keeps {r0 s : State} (hk : Keeps r0 s) :
    Keeps r0 (State.debugUnlockRun s).1 := by
  unfold State.debugUnlockRun
  repeat' first
    | (with_reducible assumption) | ((try lift_lets); intro v; dsimp only [v]; clear v)
    | (with_reducible apply State.secRaise_keeps) | (with_reducible apply State.zeroSession_keeps)
    | (with_reducible apply State.zeroEnd_keeps) | dsimp only | (with_reducible apply Keeps.ite1) | split
    | (with_reducible refine Keeps.made ?_ ?_ ?_ ?_ ?_ ?_ ?_ ?_ ?_ ?_)

theorem State.debugRelock_keeps {r0 s : State} (hk : Keeps r0 s) :
    Keeps r0 (State.debugRelock s) := by
  unfold State.debugRelock
  repeat' first
    | (with_reducible assumption) | dsimp only | (with_reducible refine Keeps.made ?_ ?_ ?_ ?_ ?_ ?_ ?_ ?_ ?_ ?_)
    | rfl

theorem State.zeroizeStart_keeps {r0 s : State} (hk : Keeps r0 s) (id : Nat) (scope : Nat) :
    Keeps r0 (State.zeroizeStart s id scope) := by
  unfold State.zeroizeStart
  repeat' first
    | (with_reducible assumption) | ((try lift_lets); intro v; dsimp only [v]; clear v)
    | (with_reducible apply State.zeroScope_keeps) | dsimp only | split
    | (with_reducible refine Keeps.made ?_ ?_ ?_ ?_ ?_ ?_ ?_ ?_ ?_ ?_)

theorem State.secRun_keeps {r0 s : State} (hk : Keeps r0 s) (id : Nat) (src : W16) (k : Nat) (arg : Nat) (x : SecSeen) :
    Keeps r0 (State.secRun s id src k arg x).1 := by
  unfold State.secRun
  repeat' first
    | (with_reducible assumption) | ((try lift_lets); intro v; dsimp only [v]; clear v)
    | (with_reducible apply State.drbgDraw_keeps) | (with_reducible apply State.coAuthRun_keeps)
    | (with_reducible apply State.secError_keeps) | (with_reducible apply State.rosterRun_keeps)
    | (with_reducible apply State.fwUpdateRun_keeps) | (with_reducible apply State.debugUnlockRun_keeps)
    | (with_reducible apply State.debugRelock_keeps) | (with_reducible apply State.zeroizeStart_keeps)
    | (with_reducible apply Keeps.enroll) | (with_reducible apply Keeps.revoke) | (with_reducible apply Keeps.advance)
    | dsimp only | (with_reducible apply Keeps.ite1) | split
    | (with_reducible refine Keeps.made ?_ ?_ ?_ ?_ ?_ ?_ ?_ ?_ ?_ ?_)

theorem secEff_keeps {r0 s : State} (hk : Keeps r0 s) (w : CmdWord) (x : SecSeen) (id_ : Nat) :
    Keeps r0 (secEff w x id_ s).1 := by
  unfold secEff
  dsimp only
  split
  · exact State.secResult_keeps hk _ _ _
  · split
    · rename_i h
      exact Keeps.of1 h (State.secRun_keeps hk _ _ _ _ _)
    · rename_i u c bs h
      have hu : Keeps r0 u := Keeps.of1 h (State.secRun_keeps hk _ _ _ _ _)
      refine State.secResult_keeps ?_ _ _ _
      exact { hu with buf := fun x => Memory.wf_write (hu.buf x) _ _ }

theorem secService_keeps {r0 s : State} (hk : Keeps r0 s) (k : Nat) (o : Order) (x : SecSeen) :
    Keeps r0 (secService k o x s) := by
  unfold secService
  repeat' first
    | (with_reducible assumption) | (refine fun _ _ h => ?_) | ((try lift_lets); intro v; dsimp only [v]; clear v)
    | (with_reducible apply State.cmdArrive_keeps) | (with_reducible apply secEff_keeps)

theorem zeroize_keeps {r0 s : State} (hk : Keeps r0 s) (scope : Nat) (o : Order) :
    Keeps r0 (zeroize scope o s) := by
  unfold zeroize
  repeat' first
    | (with_reducible assumption) | (with_reducible apply secService_keeps)

theorem zeroizationComplete_keeps {r0 s : State} (hk : Keeps r0 s) :
    Keeps r0 (zeroizationComplete s) := by
  unfold zeroizationComplete
  repeat' first
    | (with_reducible assumption) | (with_reducible apply State.zeroEnd_keeps)
    | (with_reducible apply State.secResult_keeps) | (with_reducible apply State.complete_keeps) | split

theorem nonceExpiry_keeps {r0 s : State} (hk : Keeps r0 s) :
    Keeps r0 (nonceExpiry s) := by
  unfold nonceExpiry
  repeat' first
    | (with_reducible assumption) | ((try lift_lets); intro v; dsimp only [v]; clear v) | dsimp only
    | (with_reducible refine Keeps.made ?_ ?_ ?_ ?_ ?_ ?_ ?_ ?_ ?_ ?_)

theorem coSessionTimeout_keeps {r0 s : State} (hk : Keeps r0 s) :
    Keeps r0 (coSessionTimeout s) := by
  unfold coSessionTimeout
  repeat' first
    | (with_reducible assumption) | ((try lift_lets); intro v; dsimp only [v]; clear v) | dsimp only
    | (with_reducible refine Keeps.made ?_ ?_ ?_ ?_ ?_ ?_ ?_ ?_ ?_ ?_)

theorem debugExpiry_keeps {r0 s : State} (hk : Keeps r0 s) :
    Keeps r0 (debugExpiry s) := by
  unfold debugExpiry
  repeat' first
    | (with_reducible assumption) | (with_reducible apply Keeps.ite) | (with_reducible apply State.debugRelock_keeps)

theorem drbgReseed_keeps {r0 s : State} (hk : Keeps r0 s) :
    Keeps r0 (drbgReseed s) := by
  unfold drbgReseed
  repeat' first
    | (with_reducible assumption) | (with_reducible apply Keeps.ite) | dsimp only
    | (with_reducible refine Keeps.made ?_ ?_ ?_ ?_ ?_ ?_ ?_ ?_ ?_ ?_)

theorem entropySample_keeps {r0 s : State} (hk : Keeps r0 s) (v : Byte) :
    Keeps r0 (entropySample v s) := by
  unfold entropySample
  repeat' first
    | (with_reducible assumption) | ((try lift_lets); intro v; dsimp only [v]; clear v)
    | (with_reducible apply Keeps.ite) | (with_reducible apply State.secError_keeps) | dsimp only
    | (with_reducible refine Keeps.made ?_ ?_ ?_ ?_ ?_ ?_ ?_ ?_ ?_ ?_)

theorem jtagInstruction_keeps {r0 s : State} (hk : Keeps r0 s) (op : JtagOp) : Keeps r0 (jtagInstruction op s) := by
  unfold jtagInstruction
  have k : ∀ a, Keeps r0 { s with smb := { s.smb with jtag := op }, sec := s.sec.debugged a } := fun a => by
    unfold Sec.debugged
    split <;> exact hk.rest rfl rfl rfl
  exact Keeps.ite hk (Keeps.ite (State.emit_keeps (State.emit_keeps (k _) _) _) (State.emit_keeps (k _) _))

end Sys2Proof.Machine
end

