-- ==== Sys2Proof/Laws/KeepsStartup.lean ====
section
/-! SUPPORT. What the operations of Machine/Startup.lean keep. -/
namespace Sys2Proof.Machine

/-- A state whose protected records a start-up has read, if one begins (R430). -/
def State.recordsRead (s : State) (b : BootSeen) : State :=
  if s.nvm.phase ≠ 0 then s else { s with sec := s.sec.loadRecords b.mram.badRecords }

/-- Reading the records keeps the copies of the counters in order. -/
theorem Sec.loadRecords_held {x : Sec} {n : Nat} (h : x.svnsHeld n) (bad : List (Fin 4 × Bool)) : (x.loadRecords bad).svnsHeld n := by
  unfold Sec.loadRecords
  split
  · exact h
  · obtain ⟨h0, h1, _⟩ := h
    refine ⟨fun c hc => h0 c ?_, fun c hc => h1 c ?_, fun c hc => ?_⟩
    · revert hc
      show (x.mram.svns.keep (bad.contains (3, false)) (bad.contains (3, true))).copy0 = some c → _
      unfold Copies.keep
      cases bad.contains (3, false) <;> simp
    · revert hc
      show (x.mram.svns.keep (bad.contains (3, false)) (bad.contains (3, true))).copy1 = some c → _
      unfold Copies.keep
      cases bad.contains (3, true) <;> simp
    · unfold Sec.svns
      dsimp only
      simp only [show (x.mram.seen bad).svns.newer = some c from hc]

/-- Where no copy of the counters is damaged, reading the records leaves the counters. -/
theorem Sec.loadRecords_svns {x : Sec} {n : Nat} (h : x.svnsHeld n) {bad : List (Fin 4 × Bool)} (h0 : (3, false) ∉ bad)
    (h1 : (3, true) ∉ bad) : (x.loadRecords bad).svns = x.svns := by
  unfold Sec.loadRecords
  split
  · rfl
  · have e : (x.mram.seen bad).svns = x.mram.svns := by
      unfold SecMram.seen Copies.keep
      simp [h0, h1]
    dsimp only [Sec.svns]
    rw [e]
    cases k : x.mram.svns.newer with
    | none => rfl
    | some c => simp only [h.2.2 c k, Sec.svns]

theorem State.inReset_keeps {r0 s : State} (hk : Keeps r0 s) : Keeps r0 s.inReset :=
  { pending := hk.pending, out := hk.out, free := hk.free, cus := fun _ => rfl, mus := fun _ => rfl, sws := fun _ => rfl
    plats := fun _ => rfl, bmks := fun _ => rfl, aus := fun _ => rfl, ports := fun _ => rfl, mem := fun _ => rfl
    buf := fun _ => rfl, sram := fun _ e he => absurd he (List.not_mem_nil), fsf := hk.fsf, pcf := hk.pcf, img := hk.img, key := hk.key, held := hk.held
    buffer := fun _ => Nat.zero_le _, notices := fun _ => Nat.zero_le _ }

theorem powerLoss_keeps {r0 s : State} (hk : Keeps r0 s) :
    Keeps r0 (powerLoss s) := by
  unfold powerLoss
  repeat' first
    | (with_reducible assumption) | (with_reducible apply State.inReset_keeps)

theorem State.nvmRaise_keeps {r0 s : State} (hk : Keeps r0 s) (c : FClass) (code : Code) :
    Keeps r0 (State.nvmRaise s c code) := by
  unfold State.nvmRaise
  repeat' first
    | (with_reducible assumption) | (with_reducible apply State.raise_keeps)

theorem State.loadSettings_keeps {r0 s : State} (hk : Keeps r0 s) :
    Keeps r0 (State.loadSettings s) := by
  unfold State.loadSettings
  repeat' first
    | (with_reducible assumption) | (refine fun _ _ h => ?_) | ((try lift_lets); intro v; dsimp only [v]; clear v)
    | (with_reducible apply Keeps.ite) | (with_reducible apply State.nvmRaise_keeps)
    | (with_reducible apply State.raise_keeps) | dsimp only | (with_reducible refine Keeps.foldl _ ?_ _ _ ?_) | split
    | (with_reducible refine Keeps.made ?_ ?_ ?_ ?_ ?_ ?_ ?_ ?_ ?_ ?_)

theorem State.runFw_keeps {r0 s : State} (hk : Keeps r0 s) (kind : Nat) (slot : Nat) (fallback : Bool) :
    Keeps r0 (State.runFw s kind slot fallback) := by
  unfold State.runFw
  repeat' first
    | (with_reducible assumption) | ((try lift_lets); intro v; dsimp only [v]; clear v)
    | (with_reducible apply Keeps.ite) | (with_reducible apply State.secRaise_keeps) | dsimp only | split
    | (with_reducible refine Keeps.made ?_ ?_ ?_ ?_ ?_ ?_ ?_ ?_ ?_ ?_)

theorem State.phase_keeps {r0 s : State} (hk : Keeps r0 s) (k : Nat) :
    Keeps r0 (State.phase s k) := by
  unfold State.phase
  repeat' first
    | (with_reducible assumption) | ((try lift_lets); intro v; dsimp only [v]; clear v) | dsimp only
    | (with_reducible refine Keeps.made ?_ ?_ ?_ ?_ ?_ ?_ ?_ ?_ ?_ ?_)

theorem State.trainDram_keeps {r0 s : State} (hk : Keeps r0 s) (ms : List ModuleSeen) :
    Keeps r0 (State.trainDram s ms) := by
  unfold State.trainDram
  repeat' first
    | (with_reducible assumption) | (refine fun _ _ h => ?_) | ((try lift_lets); intro v; dsimp only [v]; clear v)
    | (with_reducible apply State.setChan_keeps) | dsimp only | (with_reducible refine Keeps.foldl _ ?_ _ _ ?_)
    | split | (with_reducible refine Keeps.made ?_ ?_ ?_ ?_ ?_ ?_ ?_ ?_ ?_ ?_)

theorem State.applySettings_keeps {r0 s : State} (hk : Keeps r0 s) :
    Keeps r0 (State.applySettings s) := by
  unfold State.applySettings
  repeat' first
    | (with_reducible assumption) | (refine fun _ _ h => ?_)
    | (refine fun (x : ∀ e ∈ r0.mus, Memory.wf e.2.sram = true) => ?_)
    | (with_reducible refine Keeps.mu ?_ _ _ (by with_reducible assumption))
    | (with_reducible apply gatingModeWrite_keeps) | (with_reducible apply State.setMu_keeps)
    | (with_reducible apply State.setMg_keeps) | dsimp only | (with_reducible refine Keeps.foldl _ ?_ _ _ ?_) | split
    | (with_reducible refine Keeps.made ?_ ?_ ?_ ?_ ?_ ?_ ?_ ?_ ?_ ?_)

theorem State.startPorts_keeps {r0 s : State} (hk : Keeps r0 s) (light : Byte) (signal : W32) :
    Keeps r0 (State.startPorts s light signal) := by
  unfold State.startPorts
  repeat' first
    | (with_reducible assumption) | (refine fun _ _ h => ?_) | (with_reducible apply State.retrainPort_keeps)
    | dsimp only | (with_reducible refine Keeps.foldl _ ?_ _ _ ?_)

theorem State.bootLate_keeps {r0 s : State} (hk : Keeps r0 s) (b : BootSeen) :
    Keeps r0 (State.bootLate s b) := by
  unfold State.bootLate
  repeat' first
    | (with_reducible assumption) | (refine fun _ _ h => ?_)
    | ((try lift_lets); intro v; refine Keeps.cut (r := r0) (s := v) ?_ ?_; dsimp only [v]; clear v;
       rotate_left; intro hv; clear_value v; revert v; refine Keeps.all ?_; intro v hv)
    | ((try lift_lets); intro v; dsimp only [v]; clear v) | (with_reducible apply State.phase_keeps)
    | (with_reducible apply State.setPlls_keeps) | (with_reducible apply pllLockFail_keeps)
    | (with_reducible apply State.setPlat_keeps) | (with_reducible apply State.applySettings_keeps)
    | (with_reducible apply State.trainDram_keeps) | (with_reducible apply State.startPorts_keeps)
    | (with_reducible apply State.setRole_keeps) | (with_reducible apply State.zeroScope_keeps)
    | (with_reducible apply State.zeroEnd_keeps) | dsimp only | (with_reducible refine Keeps.foldl _ ?_ _ _ ?_)
    | split | (with_reducible refine Keeps.made ?_ ?_ ?_ ?_ ?_ ?_ ?_ ?_ ?_ ?_)

theorem State.authError_keeps {r0 s : State} (hk : Keeps r0 s) :
    Keeps r0 (State.authError s) := by
  unfold State.authError
  repeat' first
    | (with_reducible assumption) | (with_reducible apply State.enterError_keeps)
    | (with_reducible apply State.secRaise_keeps)

theorem State.countBoot_keeps {r0 s : State} (hk : Keeps r0 s) :
    Keeps r0 (State.countBoot s) := by
  unfold State.countBoot
  repeat' first
    | (with_reducible assumption) | ((try lift_lets); intro v; dsimp only [v]; clear v) | dsimp only
    | (with_reducible refine Keeps.made ?_ ?_ ?_ ?_ ?_ ?_ ?_ ?_ ?_ ?_)

theorem State.loadFence_keeps {r0 s : State} (hk : Keeps r0 s) :
    Keeps r0 (State.loadFence s) := by
  unfold State.loadFence
  repeat' first
    | (with_reducible assumption) | ((try lift_lets); intro v; dsimp only [v]; clear v)
    | (with_reducible apply Keeps.ite) | (with_reducible apply State.raise_keeps) | dsimp only
    | (with_reducible refine Keeps.made ?_ ?_ ?_ ?_ ?_ ?_ ?_ ?_ ?_ ?_)

theorem State.bootMid_keeps {r0 s : State} (hk : Keeps r0 s) (b : BootSeen) :
    Keeps r0 (State.bootMid s b) := by
  unfold State.bootMid
  repeat' first
    | (with_reducible assumption)
    | ((try lift_lets); intro v; refine Keeps.cut (r := r0) (s := v) ?_ ?_; dsimp only [v]; clear v;
       rotate_left; intro hv; clear_value v; revert v; refine Keeps.all ?_; intro v hv)
    | ((try lift_lets); intro v; dsimp only [v]; clear v) | (with_reducible apply Keeps.ite)
    | (with_reducible apply State.phase_keeps) | (with_reducible apply State.countBoot_keeps)
    | (with_reducible apply State.loadFence_keeps) | (with_reducible apply State.loadSettings_keeps)
    | (with_reducible apply State.nvmRaise_keeps) | (with_reducible apply State.secError_keeps)
    | (with_reducible apply State.authError_keeps) | (with_reducible apply State.drbgStart_keeps)
    | (with_reducible apply State.runFw_keeps) | (with_reducible apply State.bootLate_keeps) | dsimp only | split
    | (with_reducible refine Keeps.made ?_ ?_ ?_ ?_ ?_ ?_ ?_ ?_ ?_ ?_)

theorem resetRelease_keeps (s : State) (b : BootSeen) : Keeps (s.recordsRead b) (resetRelease b s) := by
  unfold resetRelease State.recordsRead
  by_cases h : s.nvm.phase ≠ 0
  · rw [if_pos h, if_pos h]
    exact Keeps.refl s
  · rw [if_neg h, if_neg h]
    have k : Keeps { s with sec := s.sec.loadRecords b.mram.badRecords } { s.readMram b.mram with
        nvm := { (s.readMram b.mram).nvm with straps := b.straps, safe := bitOf b.straps 2, phase := 3, booting := some b }
        lxg := { (s.readMram b.mram).lxg with strapBridge := bitOf b.straps 0 }
        clk := { (s.readMram b.mram).clk with refin := true }
        flt := { (s.readMram b.mram).flt with head := (s.readMram b.mram).logHead } } := (Keeps.refl _).rest rfl rfl rfl
    refine Keeps.ite (State.secError_keeps k _) (Keeps.ite (k.rest rfl rfl rfl) ?_)
    split
    · exact State.secError_keeps k _
    · exact State.bootMid_keeps (State.runFw_keeps k _ _ _) _

theorem State.nvmResult_keeps {r0 s : State} (hk : Keeps r0 s) (c : Code) :
    Keeps r0 (State.nvmResult s c) := by
  unfold State.nvmResult
  repeat' first
    | (with_reducible assumption) | ((try lift_lets); intro v; dsimp only [v]; clear v) | dsimp only
    | (with_reducible refine Keeps.made ?_ ?_ ?_ ?_ ?_ ?_ ?_ ?_ ?_ ?_)

theorem State.commitStart_keeps {r0 s : State} (hk : Keeps r0 s) (base : W64) (order : Option Nat) :
    Keeps r0 (State.commitStart s base order).1 := by
  unfold State.commitStart
  repeat' first
    | (with_reducible assumption) | (with_reducible apply State.nvmResult_keeps)
    | (with_reducible apply State.askStore_keeps) | dsimp only | split
    | (with_reducible refine Keeps.made ?_ ?_ ?_ ?_ ?_ ?_ ?_ ?_ ?_ ?_)

theorem nvmEff_keeps {r0 s : State} (hk : Keeps r0 s) (w : CmdWord) (id : Nat) :
    Keeps r0 (nvmEff w id s).1 := by
  unfold nvmEff
  repeat' first
    | (with_reducible assumption) | (with_reducible apply State.commitStart_keeps)

theorem nvmCommit_keeps {r0 s : State} (hk : Keeps r0 s) (via : Via) (base : W64) :
    Keeps r0 (nvmCommit via base s) := by
  unfold nvmCommit
  repeat' first
    | (with_reducible assumption) | (refine fun _ _ h => ?_) | (refine fun _ h => ?_)
    | (with_reducible apply State.writeBy_keeps) | (with_reducible apply State.commitStart_keeps)
    | (with_reducible apply State.cmdArrive_keeps) | (with_reducible apply nvmEff_keeps) | dsimp only | split

theorem commitDone_keeps {r0 s : State} (hk : Keeps r0 s) (ok : Bool) :
    Keeps r0 (commitDone ok s) := by
  unfold commitDone
  repeat' first
    | (with_reducible assumption) | ((try lift_lets); intro v; dsimp only [v]; clear v)
    | (with_reducible apply Keeps.ite) | (with_reducible apply State.storeOver_keeps)
    | (with_reducible apply State.nvmResult_keeps) | (with_reducible apply State.complete_keeps)
    | (with_reducible apply State.nvmRaise_keeps) | dsimp only | split
    | (with_reducible refine Keeps.made ?_ ?_ ?_ ?_ ?_ ?_ ?_ ?_ ?_ ?_)

theorem State.bootStat_keeps {r0 s : State} (hk : Keeps r0 s) (c : Code) :
    Keeps r0 (State.bootStat s c) := by
  unfold State.bootStat
  repeat' first
    | (with_reducible assumption) | ((try lift_lets); intro v; dsimp only [v]; clear v) | dsimp only
    | (with_reducible refine Keeps.made ?_ ?_ ?_ ?_ ?_ ?_ ?_ ?_ ?_ ?_)

theorem bootBegin_keeps {r0 s : State} (hk : Keeps r0 s) (kind : Nat) :
    Keeps r0 (bootBegin kind s) := by
  unfold bootBegin
  repeat' first
    | (with_reducible assumption) | ((try lift_lets); intro v; dsimp only [v]; clear v)
    | (with_reducible apply Keeps.ite) | (with_reducible apply State.bootStat_keeps) | dsimp only
    | (with_reducible refine Keeps.made ?_ ?_ ?_ ?_ ?_ ?_ ?_ ?_ ?_ ?_)

theorem bootData_keeps {r0 s : State} (hk : Keeps r0 s) (offset : W32) (data : List Byte) :
    Keeps r0 (bootData offset data s) := by
  unfold bootData
  repeat' first
    | (with_reducible assumption) | ((try lift_lets); intro v; dsimp only [v]; clear v)
    | (with_reducible apply Keeps.ite) | (with_reducible apply State.bootStat_keeps) | dsimp only | split
    | (with_reducible refine Keeps.made ?_ ?_ ?_ ?_ ?_ ?_ ?_ ?_ ?_ ?_)

theorem bootEnd_keeps {r0 s : State} (hk : Keeps r0 s) :
    Keeps r0 (bootEnd s) := by
  unfold bootEnd
  repeat' first
    | (with_reducible assumption) | ((try lift_lets); intro v; dsimp only [v]; clear v)
    | (with_reducible apply Keeps.ite) | (with_reducible apply State.bootStat_keeps) | dsimp only | split
    | (with_reducible refine Keeps.made ?_ ?_ ?_ ?_ ?_ ?_ ?_ ?_ ?_ ?_)

theorem bootStatus_keeps {r0 s : State} (hk : Keeps r0 s) :
    Keeps r0 (bootStatus s) := by
  unfold bootStatus
  repeat' first
    | (with_reducible assumption) | (refine fun _ h => ?_) | (with_reducible apply State.whenAwake_keeps)
    | (with_reducible apply State.emit_keeps)

theorem bootVerifyDone_keeps {r0 s : State} (hk : Keeps r0 s) :
    Keeps r0 (bootVerifyDone s) := by
  unfold bootVerifyDone
  repeat' first
    | (with_reducible assumption) | ((try lift_lets); intro v; dsimp only [v]; clear v)
    | (with_reducible apply Keeps.ite) | (with_reducible apply State.bootStat_keeps)
    | (with_reducible apply State.bootMid_keeps) | (with_reducible apply State.bootLate_keeps) | dsimp only | split
    | (with_reducible refine Keeps.made ?_ ?_ ?_ ?_ ?_ ?_ ?_ ?_ ?_ ?_)

end Sys2Proof.Machine
end

