-- ==== Sys2Proof/Laws/KeepsCommands.lean ====
section
/-! SUPPORT. What the operations of Machine/Commands.lean keep. -/
namespace Sys2Proof.Machine

theorem orderEff_keeps {r0 s : State} (hk : Keeps r0 s) (w : CmdWord) (x : SecSeen) (id : Nat) :
    Keeps r0 (orderEff w x id s).1 := by
  unfold orderEff
  repeat' first
    | (with_reducible assumption) | (with_reducible apply imgEff_keeps) | (with_reducible apply drainEff_keeps)
    | (with_reducible apply coefSetEff_keeps) | (with_reducible apply freezeSetEff_keeps)
    | (with_reducible apply bmkOrder_keeps) | (with_reducible apply monEff_keeps)
    | (with_reducible apply secEff_keeps) | (with_reducible apply nvmEff_keeps) | (with_reducible apply refEff_keeps)
    | (with_reducible apply Keeps.ite1)

theorem State.seenBy_keeps {r0 s : State} (hk : Keeps r0 s) (w : CmdWord) :
    Keeps r0 (State.seenBy s w).2 := by
  unfold State.seenBy
  repeat' first
    | (with_reducible assumption) | (with_reducible apply State.takeFree_keeps) | dsimp only
    | (with_reducible apply Keeps.ite2)

theorem submitOrder_keeps {r0 s : State} (hk : Keeps r0 s) (op : W16) (o : Order) :
    Keeps r0 (submitOrder op o s) := by
  unfold submitOrder
  repeat' first
    | (with_reducible assumption) | (refine fun _ _ h => ?_) | ((try lift_lets); intro v; dsimp only [v]; clear v)
    | (with_reducible apply Keeps.ite) | (with_reducible apply stepStart_keeps)
    | (with_reducible apply State.seenBy_keeps) | (with_reducible apply State.cmdArrive_keeps)
    | (with_reducible apply orderEff_keeps)

theorem nop_keeps {r0 s : State} (hk : Keeps r0 s) (o : Order) :
    Keeps r0 (nop o s) := by
  unfold nop
  repeat' first
    | (with_reducible assumption) | (with_reducible apply submitOrder_keeps)

theorem unlistedOpcode_keeps {r0 s : State} (hk : Keeps r0 s) (o : Order) (op : W16) :
    Keeps r0 (unlistedOpcode o op s) := by
  unfold unlistedOpcode
  repeat' first
    | (with_reducible assumption) | (refine fun _ _ h => ?_) | (with_reducible apply Keeps.ite)
    | (with_reducible apply State.cmdArrive_keeps)

theorem commandActivation_keeps {r0 s : State} (hk : Keeps r0 s) (id : Nat) :
    Keeps r0 (commandActivation id s) := by
  unfold commandActivation
  repeat' first
    | (with_reducible assumption) | (refine fun _ _ h => ?_) | (with_reducible apply Keeps.ite)
    | (with_reducible apply State.runOrder_keeps) | (with_reducible apply orderEff_keeps)
    | (with_reducible apply State.complete_keeps) | dsimp only | split

theorem State.waitDeadline_keeps {r0 s : State} (hk : Keeps r0 s) (h : Held) :
    Keeps r0 (State.waitDeadline s h) := by
  unfold State.waitDeadline
  repeat' first
    | (with_reducible assumption) | ((try lift_lets); intro v; dsimp only [v]; clear v)
    | (with_reducible apply State.setPlat_keeps) | (with_reducible apply State.complete_keeps)

theorem deadlineMissed_keeps {r0 s : State} (hk : Keeps r0 s) (id : Nat) :
    Keeps r0 (deadlineMissed id s) := by
  unfold deadlineMissed
  repeat' first
    | (with_reducible assumption) | ((try lift_lets); intro v; dsimp only [v]; clear v)
    | (with_reducible apply Keeps.ite) | (with_reducible apply State.waitDeadline_keeps)
    | (with_reducible apply State.missRecord_keeps) | dsimp only | split
    | (with_reducible refine Keeps.made ?_ ?_ ?_ ?_ ?_ ?_ ?_ ?_ ?_ ?_)

theorem consume_keeps {r0 s : State} (hk : Keeps r0 s) (k : Nat) :
    Keeps r0 (consume k s) := by
  unfold consume
  repeat' first
    | (with_reducible assumption) | (with_reducible apply Keeps.ite) | (with_reducible apply State.setSlot_keeps)

theorem State.countRead_keeps {r0 s : State} (hk : Keeps r0 s) (k : Nat) :
    Keeps r0 (State.countRead s k) := by
  unfold State.countRead
  repeat' first
    | (with_reducible assumption) | (with_reducible apply Keeps.ite) | (with_reducible apply State.setSlot_keeps)

theorem slotWord0Read_keeps {r0 s : State} (hk : Keeps r0 s) (k : Nat) :
    Keeps r0 (slotWord0Read k s) := by
  unfold slotWord0Read
  repeat' first
    | (with_reducible assumption)
    | ((try lift_lets); intro v; refine Keeps.cut (r := r0) (s := v) ?_ ?_; dsimp only [v]; clear v;
       rotate_left; intro hv; clear_value v; revert v; refine Keeps.all ?_; intro v hv)
    | (with_reducible apply State.countRead_keeps) | (with_reducible apply State.emit_keeps)

theorem notifyPop_keeps {r0 s : State} (hk : Keeps r0 s) : Keeps r0 (notifyPop s) := by
  unfold notifyPop
  refine State.emit_keeps ?_ _
  refine { hk with notices := fun x => ?_ }
  have := hk.notices x
  show (s.cmd.notices.drop 1).length ≤ 64
  rw [List.length_drop]
  omega

theorem broadcastGo_keeps {r0 s : State} (hk : Keeps r0 s) (all : Bool) (dev : Nat) :
    Keeps r0 (broadcastGo all dev s) := by
  unfold broadcastGo
  repeat' first
    | (with_reducible assumption) | (refine fun _ _ h => ?_) | (with_reducible apply Keeps.ite)
    | (with_reducible apply submitOrder_keeps) | (with_reducible apply State.request_keeps) | dsimp only
    | (with_reducible refine Keeps.foldl _ ?_ _ _ ?_) | split
    | (with_reducible refine Keeps.made ?_ ?_ ?_ ?_ ?_ ?_ ?_ ?_ ?_ ?_)

end Sys2Proof.Machine
end

