-- ==== Sys2Proof/Laws/KeepsRegRead.lean ====
section
/-! SUPPORT. What the operations of Machine/RegRead.lean keep. -/
namespace Sys2Proof.Machine


end Sys2Proof.Machine
end

