-- ==== Sys2Proof/Laws/KeepsControlSpace.lean ====
section
/-! SUPPORT. What the operations of Machine/ControlSpace.lean keep. -/
namespace Sys2Proof.Machine

theorem Mu.wf_readClr {m : Mu} (h : Memory.wf m.sram = true) (o : Nat) : Memory.wf (m.readClr o).sram = true := by
  unfold Mu.readClr
  split <;> exact h

theorem Flt.readClr_buffer (f : Flt) (o : Nat) : (f.readClr o).buffer = f.buffer := by
  unfold Flt.readClr
  split <;> rfl

theorem Keeps.popped {r s : State} (h : Keeps r s) : Keeps r { s with cmd := s.cmd.popped } :=
  { h with notices := fun x => Nat.le_trans (by rw [show s.cmd.popped.notices = s.cmd.notices.drop 1 from rfl, List.length_drop]; omega) (h.notices x) }

theorem Keeps.putBuf {r s : State} (h : Keeps r s) (a : Nat) (bs : List Byte) :
    Keeps r { s with sec := { s.sec with buf := Memory.write s.sec.buf a bs } } :=
  { h with buf := fun x => Memory.wf_write (h.buf x) _ _ }

theorem Keeps.readGlb {r s : State} (h : Keeps r s) (o : Nat) (x : Img) (c : Prop) [Decidable c] :
    Keeps r { s with flt := s.flt.readClr o, img := x, free := if c then s.free + 1 else s.free } :=
  { h with
    free := by
      show r.free ≤ if c then s.free + 1 else s.free
      split
      · exact Nat.le_succ_of_le h.free
      · exact h.free
    buffer := fun x => by show (s.flt.readClr o).buffer.length ≤ 256; rw [Flt.readClr_buffer]; exact h.buffer x }

theorem State.afterRead_keeps {r0 s : State} (hk : Keeps r0 s) (b : Block) (o : Nat) :
    Keeps r0 (State.afterRead s b o) := by
  unfold State.afterRead
  repeat' first
    | (with_reducible assumption) | (refine fun (x : ∀ e ∈ r0.mus, Memory.wf e.2.sram = true) => ?_)
    | (with_reducible refine Keeps.mu ?_ _ _ (by with_reducible assumption)) | (with_reducible apply Mu.wf_readClr)
    | (with_reducible apply Keeps.ite) | (with_reducible apply State.setCu_keeps)
    | (with_reducible apply State.setMu_keeps) | (with_reducible apply State.setSw_keeps)
    | (with_reducible apply State.setPlat_keeps) | (with_reducible apply State.setChan_keeps)
    | (with_reducible apply State.setMg_keeps) | (with_reducible apply State.setAu_keeps)
    | (with_reducible apply State.setPort_keeps) | (with_reducible apply State.countRead_keeps)
    | (with_reducible apply State.countOp_keeps) | (with_reducible apply Keeps.popped)
    | (with_reducible exact Keeps.readGlb hk _ _ _) | dsimp only | split
    | (with_reducible refine Keeps.made ?_ ?_ ?_ ?_ ?_ ?_ ?_ ?_ ?_ ?_)

theorem State.readReg_keeps {r0 s : State} (hk : Keeps r0 s) (a : W64) :
    Keeps r0 (State.readReg s a).2.2 := by
  unfold State.readReg
  repeat' first
    | (with_reducible assumption) | (with_reducible apply State.woken_keeps)
    | (with_reducible apply State.afterRead_keeps) | dsimp only | (with_reducible apply Keeps.ite3) | split

theorem State.writeImg_keeps {r0 s : State} (hk : Keeps r0 s) (o : Nat) (v : W64) :
    Keeps r0 (State.writeImg s o v) := by
  unfold State.writeImg
  repeat' first
    | (with_reducible assumption) | ((try lift_lets); intro v; dsimp only [v]; clear v)
    | (with_reducible apply Keeps.ite) | (with_reducible apply State.imgOp_keeps) | dsimp only | split
    | (with_reducible refine Keeps.made ?_ ?_ ?_ ?_ ?_ ?_ ?_ ?_ ?_ ?_)

theorem State.writeMon_keeps {r0 s : State} (hk : Keeps r0 s) (o : Nat) (v : W64) :
    Keeps r0 (State.writeMon s o v) := by
  unfold State.writeMon
  repeat' first
    | (with_reducible assumption) | ((try lift_lets); intro v; dsimp only [v]; clear v)
    | (with_reducible apply Keeps.ite) | (with_reducible apply State.monWord_keeps) | dsimp only | split
    | (with_reducible refine Keeps.made ?_ ?_ ?_ ?_ ?_ ?_ ?_ ?_ ?_ ?_)

theorem State.writeGlb_keeps {r0 s : State} (hk : Keeps r0 s) (o : Nat) (v : W64) :
    Keeps r0 (State.writeGlb s o v) := by
  unfold State.writeGlb
  repeat' first
    | (with_reducible assumption) | ((try lift_lets); intro v; dsimp only [v]; clear v)
    | (with_reducible apply Keeps.ite) | (with_reducible apply State.fenceStart_keeps)
    | (with_reducible apply State.writeMon_keeps) | (with_reducible apply State.writeImg_keeps) | dsimp only
    | (with_reducible refine Keeps.made ?_ ?_ ?_ ?_ ?_ ?_ ?_ ?_ ?_ ?_)

theorem State.writeClk_keeps {r0 s : State} (hk : Keeps r0 s) (o : Nat) (v : W64) :
    Keeps r0 (State.writeClk s o v) := by
  unfold State.writeClk
  repeat' first
    | (with_reducible assumption) | ((try lift_lets); intro v; dsimp only [v]; clear v)
    | (with_reducible apply gatingModeWrite_keeps) | (with_reducible apply State.gateCmd_keeps)
    | (with_reducible apply fmeterStart_keeps) | dsimp only | split
    | (with_reducible refine Keeps.made ?_ ?_ ?_ ?_ ?_ ?_ ?_ ?_ ?_ ?_)

theorem State.writePwr_keeps {r0 s : State} (hk : Keeps r0 s) (o : Nat) (v : W64) :
    Keeps r0 (State.writePwr s o v) := by
  unfold State.writePwr
  repeat' first
    | (with_reducible assumption) | ((try lift_lets); intro v; dsimp only [v]; clear v)
    | (with_reducible apply Keeps.ite) | (with_reducible apply idle_keeps) | (with_reducible apply wake_keeps)
    | (with_reducible apply State.pwrResult_keeps) | (with_reducible apply pwrLimitWrite_keeps) | dsimp only | split
    | (with_reducible refine Keeps.made ?_ ?_ ?_ ?_ ?_ ?_ ?_ ?_ ?_ ?_)

theorem State.writeNvm_keeps {r0 s : State} (hk : Keeps r0 s) (o : Nat) (v : W64) :
    Keeps r0 (State.writeNvm s o v) := by
  unfold State.writeNvm
  repeat' first
    | (with_reducible assumption) | ((try lift_lets); intro v; dsimp only [v]; clear v)
    | (with_reducible apply Keeps.ite) | (with_reducible apply State.commitStart_keeps) | dsimp only | split
    | (with_reducible refine Keeps.made ?_ ?_ ?_ ?_ ?_ ?_ ?_ ?_ ?_ ?_)

theorem State.writeSec_keeps {r0 s : State} (hk : Keeps r0 s) (o : Nat) (v : W64) :
    Keeps r0 (State.writeSec s o v) := by
  unfold State.writeSec
  repeat' first
    | (with_reducible assumption) | (with_reducible apply Keeps.ite) | (with_reducible apply Keeps.putBuf)
    | dsimp only | (with_reducible refine Keeps.made ?_ ?_ ?_ ?_ ?_ ?_ ?_ ?_ ?_ ?_)

theorem State.writeDtm_keeps {r0 s : State} (hk : Keeps r0 s) (o : Nat) (v : W64) :
    Keeps r0 (State.writeDtm s o v) := by
  unfold State.writeDtm
  repeat' first
    | (with_reducible assumption) | ((try lift_lets); intro v; dsimp only [v]; clear v)
    | (with_reducible apply State.setRole_keeps) | (with_reducible apply State.refSelect_keeps)
    | (with_reducible apply dtmTimeSet_keeps) | dsimp only | split
    | (with_reducible refine Keeps.made ?_ ?_ ?_ ?_ ?_ ?_ ?_ ?_ ?_ ?_)

theorem State.writeCmd_keeps {r0 s : State} (hk : Keeps r0 s) (w : Who) (o : Nat) (v : W64) :
    Keeps r0 (State.writeCmd s w o v) := by
  unfold State.writeCmd
  repeat' first
    | (with_reducible assumption) | ((try lift_lets); intro v; dsimp only [v]; clear v)
    | (with_reducible apply Keeps.ite) | (with_reducible apply submitOrder_keeps)
    | (with_reducible apply broadcastGo_keeps) | (with_reducible apply consume_keeps) | dsimp only
    | (with_reducible refine Keeps.made ?_ ?_ ?_ ?_ ?_ ?_ ?_ ?_ ?_ ?_)

theorem State.writeMg_keeps {r0 s : State} (hk : Keeps r0 s) (g : Nat) (o : Nat) (v : W64) :
    Keeps r0 (State.writeMg s g o v) := by
  unfold State.writeMg
  repeat' first
    | (with_reducible assumption) | ((try lift_lets); intro v; dsimp only [v]; clear v)
    | (with_reducible apply State.setMg_keeps) | split

theorem State.writeAu_keeps {r0 s : State} (hk : Keeps r0 s) (g : Nat) (o : Nat) (v : W64) :
    Keeps r0 (State.writeAu s g o v) := by
  unfold State.writeAu
  repeat' first
    | (with_reducible assumption) | ((try lift_lets); intro v; dsimp only [v]; clear v)
    | (with_reducible apply auStepWrite_keeps) | (with_reducible apply State.setAu_keeps) | split

theorem State.portCtl_keeps {r0 s : State} (hk : Keeps r0 s) (n : Nat) (v : W64) : Keeps r0 (s.portCtl n v) := by
  unfold State.portCtl
  dsimp only
  have h : Keeps r0 (s.setPort n { s.port n with en := bitOf v 0, loopback := bitOf v 1 }) := State.setPort_keeps hk _ _
  exact Keeps.ite (State.openPort_keeps h _) (Keeps.ite h (State.closePort_keeps h _ _ (fun _ _ _ k => State.lost_keeps k _ _)))

theorem State.writeLx_keeps {r0 s : State} (hk : Keeps r0 s) (n : Nat) (o : Nat) (v : W64) :
    Keeps r0 (State.writeLx s n o v) := by
  unfold State.writeLx
  repeat' first
    | (with_reducible assumption) | ((try lift_lets); intro v; dsimp only [v]; clear v)
    | (with_reducible apply State.portCtl_keeps) | (with_reducible apply State.setPort_keeps)
    | (with_reducible apply retrain_keeps) | (with_reducible apply rekey_keeps) | split

theorem State.writeBmk_keeps {r0 s : State} (hk : Keeps r0 s) (w : Who) (i : Nat) (o : Nat) (v : W64) :
    Keeps r0 (State.writeBmk s w i o v).1 := by
  unfold State.writeBmk
  repeat' first
    | (with_reducible assumption) | ((try lift_lets); intro v; dsimp only [v]; clear v)
    | (with_reducible apply State.bmkApply_keeps) | (with_reducible apply State.bmkAfter_keeps) | dsimp only
    | (refine Keeps.of1 (by with_reducible assumption) ?_) | split

theorem State.muCmd_keeps {r0 s : State} (hk : Keeps r0 s) (p : Nat) (n : Nat) (v : W64) :
    Keeps r0 (State.muCmd s p n v) := by
  unfold State.muCmd
  repeat' first
    | (with_reducible assumption) | (refine fun (x : ∀ e ∈ r0.mus, Memory.wf e.2.sram = true) => ?_)
    | (with_reducible refine Keeps.mu ?_ _ _ (by with_reducible assumption))
    | ((try lift_lets); intro v; dsimp only [v]; clear v) | (with_reducible apply Keeps.ite)
    | (with_reducible apply State.setMu_keeps) | (with_reducible apply State.rowCommand_keeps)

theorem State.writeMu_keeps {r0 s : State} (hk : Keeps r0 s) (p : Nat) (n : Nat) (o : Nat) (v : W64) :
    Keeps r0 (State.writeMu s p n o v) := by
  unfold State.writeMu
  repeat' first
    | (with_reducible assumption) | (refine fun (x : ∀ e ∈ r0.mus, Memory.wf e.2.sram = true) => ?_)
    | (with_reducible refine Keeps.mu ?_ _ _ (by with_reducible assumption))
    | ((try lift_lets); intro v; dsimp only [v]; clear v) | (with_reducible apply State.setMu_keeps)
    | (with_reducible apply State.muCmd_keeps) | split

theorem State.writeTrv_keeps {r0 s : State} (hk : Keeps r0 s) (p : Nat) (o : Nat) (v : W64) :
    Keeps r0 (State.writeTrv s p o v) := by
  unfold State.writeTrv
  repeat' first
    | (with_reducible assumption) | ((try lift_lets); intro v; dsimp only [v]; clear v)
    | (with_reducible apply State.setPlat_keeps) | (with_reducible apply State.drainWord_keeps) | split

theorem State.writeDma_keeps {r0 s : State} (hk : Keeps r0 s) (p : Nat) (o : Nat) (v : W64) :
    Keeps r0 (State.writeDma s p o v) := by
  unfold State.writeDma
  repeat' first
    | (with_reducible assumption) | ((try lift_lets); intro v; dsimp only [v]; clear v)
    | (with_reducible apply Keeps.ite) | (with_reducible apply State.setPlat_keeps)
    | (with_reducible apply dmaHqPush_keeps)

theorem State.writeAt_keeps {r0 s : State} (hk : Keeps r0 s) (w : Who) (b : Block) (o : Nat) (v : W64) :
    Keeps r0 (State.writeAt s w b o v).1 := by
  unfold State.writeAt
  repeat' first
    | (with_reducible assumption) | (with_reducible apply Keeps.ite) | (with_reducible apply State.writeGlb_keeps)
    | (with_reducible apply State.writeClk_keeps) | (with_reducible apply State.writePwr_keeps)
    | (with_reducible apply State.writeNvm_keeps) | (with_reducible apply State.writeSec_keeps)
    | (with_reducible apply State.writeDtm_keeps) | (with_reducible apply State.writeCmd_keeps)
    | (with_reducible apply State.writeMg_keeps) | (with_reducible apply State.writeAu_keeps)
    | (with_reducible apply State.writeLx_keeps) | (with_reducible apply State.writeBmk_keeps)
    | (with_reducible apply State.setCu_keeps) | (with_reducible apply State.writeMu_keeps)
    | (with_reducible apply State.setSw_keeps) | (with_reducible apply State.writeTrv_keeps)
    | (with_reducible apply State.writeDma_keeps) | (with_reducible apply State.setPlat_keeps) | dsimp only | split

theorem State.writeReg_keeps {r0 s : State} (hk : Keeps r0 s) (w : Who) (a : W64) (v : W64) :
    Keeps r0 (State.writeReg s w a v).1 := by
  unfold State.writeReg
  repeat' first
    | (with_reducible assumption) | (with_reducible apply State.woken_keeps)
    | (with_reducible apply State.writeAt_keeps) | (with_reducible apply Keeps.ite1) | split

theorem regRead_keeps {r0 s : State} (hk : Keeps r0 s) (a : W64) :
    Keeps r0 (regRead a s) := by
  unfold regRead
  repeat' first
    | (with_reducible assumption) | ((try lift_lets); intro v; dsimp only [v]; clear v)
    | (with_reducible apply Keeps.ite) | dsimp only | (with_reducible refine Keeps.made ?_ ?_ ?_ ?_ ?_ ?_ ?_ ?_ ?_ ?_)

theorem regValueRead_keeps {r0 s : State} (hk : Keeps r0 s) :
    Keeps r0 (regValueRead s) := by
  unfold regValueRead
  repeat' first
    | (with_reducible assumption) | (with_reducible apply Keeps.ite) | (with_reducible apply State.emit_keeps)

theorem registerWrite_keeps {r0 s : State} (hk : Keeps r0 s) (path : Path) (a : W64) (size : Nat) (v : W64) :
    Keeps r0 (registerWrite path a size v s) := by
  unfold registerWrite
  repeat' first
    | (with_reducible assumption) | (with_reducible apply Keeps.ite) | (with_reducible apply State.emit_keeps)
    | (with_reducible apply State.writeReg_keeps) | dsimp only | split

theorem readClear_keeps {r0 s : State} (hk : Keeps r0 s) (path : Path) (a : W64) (size : Nat) :
    Keeps r0 (readClear path a size s) := by
  unfold readClear
  repeat' first
    | (with_reducible assumption) | (with_reducible apply Keeps.ite) | (with_reducible apply State.emit_keeps)
    | (with_reducible apply State.readReg_keeps) | dsimp only | split

theorem mgmtRead_keeps {r0 s : State} (hk : Keeps r0 s) (rx : Rx) (a : Access) :
    Keeps r0 (mgmtRead rx a s) := by
  unfold mgmtRead
  repeat' first
    | (with_reducible assumption) | (refine fun _ _ h => ?_) | (with_reducible apply Keeps.ite)
    | (with_reducible apply State.take_keeps) | (with_reducible apply State.respond_keeps)
    | (with_reducible apply State.readReg_keeps)

theorem mgmtWrite_keeps {r0 s : State} (hk : Keeps r0 s) (rx : Rx) (a : Access) (v : W64) :
    Keeps r0 (mgmtWrite rx a v s) := by
  unfold mgmtWrite
  repeat' first
    | (with_reducible assumption) | (refine fun _ _ h => ?_) | (with_reducible apply Keeps.ite)
    | (with_reducible apply State.take_keeps) | (with_reducible apply State.respond_keeps)
    | (with_reducible apply State.writeReg_keeps)

end Sys2Proof.Machine
end

