-- ==== Sys2Proof/Laws/KeepsExternalMemory.lean ====
section
/-! SUPPORT. What the operations of Machine/ExternalMemory.lean keep. -/
namespace Sys2Proof.Machine

theorem Keeps.lose {r s : State} (h : Keeps r s) (c : Nat) : Keeps r { s with dram := s.dram.lose c } :=
  { h with mem := fun x => SMap.wf_filter (h.mem x) _ }

theorem State.channelDown_keeps {r0 s : State} (hk : Keeps r0 s) (c : Nat) :
    Keeps r0 (State.channelDown s c) := by
  unfold State.channelDown
  repeat' first
    | (with_reducible assumption) | ((try lift_lets); intro v; dsimp only [v]; clear v)
    | (with_reducible apply State.setChan_keeps) | (with_reducible apply State.setMg_keeps)
    | (with_reducible apply State.raise_keeps) | (with_reducible apply Keeps.lose)

theorem State.dramForbidden_keeps {r0 s : State} (hk : Keeps r0 s) (u : DramUser) :
    Keeps r0 (State.dramForbidden s u) := by
  unfold State.dramForbidden
  repeat' first
    | (with_reducible assumption) | (with_reducible apply State.dmaAddrCode_keeps)
    | (with_reducible apply State.emit_keeps) | split

theorem dramReadEvent_keeps {r0 s : State} (hk : Keeps r0 s) (u : DramUser) (a : Nat) (failedRetries : Nat) (ups : List Upset) :
    Keeps r0 (dramReadEvent u a failedRetries ups s) := by
  unfold dramReadEvent
  repeat' first
    | (with_reducible assumption) | (with_reducible apply Keeps.ite) | (with_reducible apply State.emit_keeps)
    | (with_reducible apply State.dramForbidden_keeps) | (with_reducible apply State.channelDown_keeps)
    | (with_reducible apply State.strikes_keeps) | (with_reducible apply State.dramRead_keeps) | dsimp only | split

theorem dramWriteEvent_keeps {r0 s : State} (hk : Keeps r0 s) (u : DramUser) (a : Nat) (data : List Byte) (poison : Bool) (failedRetries : Nat) (ups : List Upset) :
    Keeps r0 (dramWriteEvent u a data poison failedRetries ups s) := by
  unfold dramWriteEvent
  repeat' first
    | (with_reducible assumption) | (with_reducible apply Keeps.ite) | (with_reducible apply State.emit_keeps)
    | (with_reducible apply State.dramForbidden_keeps) | (with_reducible apply State.channelDown_keeps)
    | (with_reducible apply State.strikes_keeps) | (with_reducible apply State.dramWrite_keeps) | split

theorem dramRefresh_keeps {r0 s : State} (hk : Keeps r0 s) (c : Nat) (failedRetries : Nat) :
    Keeps r0 (dramRefresh c failedRetries s) := by
  unfold dramRefresh
  repeat' first
    | (with_reducible assumption) | (with_reducible apply Keeps.ite) | (with_reducible apply State.channelDown_keeps)

theorem dramHot_keeps {r0 s : State} (hk : Keeps r0 s) (c : Nat) (failedRetries : Nat) :
    Keeps r0 (dramHot c failedRetries s) := by
  unfold dramHot
  repeat' first
    | (with_reducible assumption)
    | ((try lift_lets); intro v; refine Keeps.cut (r := r0) (s := v) ?_ ?_; dsimp only [v]; clear v;
       rotate_left; intro hv; clear_value v; revert v; refine Keeps.all ?_; intro v hv)
    | ((try lift_lets); intro v; dsimp only [v]; clear v) | (with_reducible apply Keeps.ite)
    | (with_reducible apply State.channelDown_keeps) | (with_reducible apply State.setChan_keeps)
    | (with_reducible apply State.setMg_keeps) | (with_reducible apply State.raise_keeps)

theorem State.scrubAdvance_keeps {r0 s : State} (hk : Keeps r0 s) (c : Nat) :
    Keeps r0 (State.scrubAdvance s c) := by
  unfold State.scrubAdvance
  repeat' first
    | (with_reducible assumption)
    | ((try lift_lets); intro v; refine Keeps.cut (r := r0) (s := v) ?_ ?_; dsimp only [v]; clear v;
       rotate_left; intro hv; clear_value v; revert v; refine Keeps.all ?_; intro v hv)
    | ((try lift_lets); intro v; dsimp only [v]; clear v) | (with_reducible apply Keeps.ite)
    | (with_reducible apply State.setChan_keeps) | (with_reducible apply State.setMg_keeps)

theorem patrolScrub_keeps {r0 s : State} (hk : Keeps r0 s) (c : Nat) (ups : List Upset) :
    Keeps r0 (patrolScrub c ups s) := by
  unfold patrolScrub
  repeat' first
    | (with_reducible assumption)
    | ((try lift_lets); intro v; refine Keeps.cut (r := r0) (s := v) ?_ ?_; dsimp only [v]; clear v;
       rotate_left; intro hv; clear_value v; revert v; refine Keeps.all ?_; intro v hv)
    | ((try lift_lets); intro v; dsimp only [v]; clear v) | (with_reducible apply Keeps.ite)
    | (with_reducible apply State.strikes_keeps) | (with_reducible apply State.burstDecode_keeps)
    | (with_reducible apply State.setMg_keeps) | (with_reducible apply State.raise_keeps)
    | (with_reducible apply State.scrubAdvance_keeps) | dsimp only
    | (with_reducible refine Keeps.made ?_ ?_ ?_ ?_ ?_ ?_ ?_ ?_ ?_ ?_)

end Sys2Proof.Machine
end

