-- ==== Sys2Proof/Laws/KeepsTick.lean ====
section
/-! SUPPORT. What the operations of Machine/Tick.lean keep. -/
namespace Sys2Proof.Machine

theorem tick_keeps {r0 s : State} (hk : Keeps r0 s) :
    Keeps r0 (tick s) := by
  unfold tick
  repeat' first
    | (with_reducible assumption) | ((try lift_lets); intro v; dsimp only [v]; clear v)
    | (with_reducible apply Keeps.ite) | (with_reducible apply State.wakeBusy_keeps)
    | (with_reducible apply State.setPlls_keeps) | dsimp only
    | (with_reducible refine Keeps.made ?_ ?_ ?_ ?_ ?_ ?_ ?_ ?_ ?_ ?_)

end Sys2Proof.Machine
end

