-- ==== Sys2Proof/Laws/KeepsExec.lean ====
section
/-! SUPPORT. What every command and every step keeps. -/
namespace Sys2Proof.Machine

theorem execRegisterWrite_keeps {s r' : State} (path : Path) (a : Access) (value : W64)
    (h : execRegisterWrite path a value s = .next r') : Keeps s r' := by
  unfold execRegisterWrite at h
  obtain rfl := Host.Outcome.next.inj h
  have hk := Keeps.refl s
  repeat' first
    | (with_reducible assumption) | (with_reducible apply registerWrite_keeps)

theorem execReadClear_keeps {s r' : State} (path : Path) (a : Access)
    (h : execReadClear path a s = .next r') : Keeps s r' := by
  unfold execReadClear at h
  obtain rfl := Host.Outcome.next.inj h
  have hk := Keeps.refl s
  repeat' first
    | (with_reducible assumption) | (with_reducible apply readClear_keeps)

theorem execKStep_keeps {s r' : State} (p : Fin 4) (cu : Fin 256) (scaleSeen : Bool)
    (h : execKStep p cu scaleSeen s = .next r') : Keeps s r' := by
  unfold execKStep at h
  obtain rfl := Host.Outcome.next.inj h
  have hk := Keeps.refl s
  repeat' first
    | (with_reducible assumption) | (with_reducible apply kStep_keeps)

theorem execTileOperationStart_keeps {s r' : State} (p : Fin 4) (cu : Fin 256)
    (h : execTileOperationStart p cu s = .next r') : Keeps s r' := by
  unfold execTileOperationStart at h
  obtain rfl := Host.Outcome.next.inj h
  have hk := Keeps.refl s
  repeat' first
    | (with_reducible assumption) | (with_reducible apply tileOperationStart_keeps)

theorem execChecksumComparison_keeps {s r' : State} (p : Fin 4) (cu : Fin 256) (tile : Fin 32)
    (h : execChecksumComparison p cu tile s = .next r') : Keeps s r' := by
  unfold execChecksumComparison at h
  obtain rfl := Host.Outcome.next.inj h
  have hk := Keeps.refl s
  repeat' first
    | (with_reducible assumption) | (with_reducible apply checksumComparison_keeps)

theorem execRetireSetReadout_keeps {s r' : State} (p : Fin 4) (cu : Fin 256)
    (h : execRetireSetReadout p cu s = .next r') : Keeps s r' := by
  unfold execRetireSetReadout at h
  obtain rfl := Host.Outcome.next.inj h
  have hk := Keeps.refl s
  repeat' first
    | (with_reducible assumption) | (with_reducible apply retireSetReadout_keeps)

theorem execReadoutComplete_keeps {s r' : State} (p : Fin 4) (cu : Fin 256)
    (h : execReadoutComplete p cu s = .next r') : Keeps s r' := by
  unfold execReadoutComplete at h
  obtain rfl := Host.Outcome.next.inj h
  have hk := Keeps.refl s
  repeat' first
    | (with_reducible assumption) | (with_reducible apply readoutComplete_keeps)

theorem execAccumulatorScrub_keeps {s r' : State} (p : Fin 4) (cu : Fin 256) (errs : List (Fin 32 × Fin 1024 × EccKind))
    (h : execAccumulatorScrub p cu errs s = .next r') : Keeps s r' := by
  unfold execAccumulatorScrub at h
  obtain rfl := Host.Outcome.next.inj h
  have hk := Keeps.refl s
  repeat' first
    | (with_reducible assumption) | (with_reducible apply accumulatorScrub_keeps)

theorem execRowStreamToken_keeps {s r' : State} (p : Fin 4) (cu : Fin 256) (streamY : Bool)
    (h : execRowStreamToken p cu streamY s = .next r') : Keeps s r' := by
  unfold execRowStreamToken at h
  obtain rfl := Host.Outcome.next.inj h
  have hk := Keeps.refl s
  repeat' first
    | (with_reducible assumption) | (with_reducible apply rowStreamToken_keeps)

theorem execScalarInputArrival_keeps {s r' : State} (p : Fin 4) (cu : Fin 256)
    (h : execScalarInputArrival p cu s = .next r') : Keeps s r' := by
  unfold execScalarInputArrival at h
  obtain rfl := Host.Outcome.next.inj h
  have hk := Keeps.refl s
  repeat' first
    | (with_reducible assumption) | (with_reducible apply scalarInputArrival_keeps)

theorem execNarrowRead_keeps {s r' : State} (p : Fin 4) (mu : Fin 256) (off : BitVec 22) (size : Nat) (ups : List Upset)
    (h : execNarrowRead p mu off size ups s = .next r') : Keeps s r' := by
  unfold execNarrowRead at h
  obtain rfl := Host.Outcome.next.inj h
  have hk := Keeps.refl s
  repeat' first
    | (with_reducible assumption) | (with_reducible apply narrowRead_keeps)

theorem execNarrowWrite_keeps {s r' : State} (p : Fin 4) (mu : Fin 256) (off : BitVec 22) (size : Nat) (value : W64)
    (h : execNarrowWrite p mu off size value s = .next r') : Keeps s r' := by
  unfold execNarrowWrite at h
  obtain rfl := Host.Outcome.next.inj h
  have hk := Keeps.refl s
  repeat' first
    | (with_reducible assumption) | (with_reducible apply narrowWrite_keeps)

theorem execGeneratorStartEvent_keeps {s r' : State} (p : Fin 4) (mu : Fin 256)
    (h : execGeneratorStartEvent p mu s = .next r') : Keeps s r' := by
  unfold execGeneratorStartEvent at h
  obtain rfl := Host.Outcome.next.inj h
  have hk := Keeps.refl s
  repeat' first
    | (with_reducible assumption) | (with_reducible apply generatorStartEvent_keeps)

theorem execPendingWalkStart_keeps {s r' : State} (p : Fin 4) (mu : Fin 256) (a : Fin 4)
    (h : execPendingWalkStart p mu a s = .next r') : Keeps s r' := by
  unfold execPendingWalkStart at h
  obtain rfl := Host.Outcome.next.inj h
  have hk := Keeps.refl s
  repeat' first
    | (with_reducible assumption) | (with_reducible apply pendingWalkStart_keeps)

theorem execGeneratorAddress_keeps {s r' : State} (p : Fin 4) (mu : Fin 256) (a : Fin 4) (ups : List Upset)
    (h : execGeneratorAddress p mu a ups s = .next r') : Keeps s r' := by
  unfold execGeneratorAddress at h
  obtain rfl := Host.Outcome.next.inj h
  have hk := Keeps.refl s
  repeat' first
    | (with_reducible assumption) | (with_reducible apply generatorAddress_keeps)

theorem execWalkEnd_keeps {s r' : State} (p : Fin 4) (mu : Fin 256) (a : Fin 4)
    (h : execWalkEnd p mu a s = .next r') : Keeps s r' := by
  unfold execWalkEnd at h
  obtain rfl := Host.Outcome.next.inj h
  have hk := Keeps.refl s
  repeat' first
    | (with_reducible assumption) | (with_reducible apply walkEnd_keeps)
    | (with_reducible apply State.seqAdvance_keeps)

theorem execAccumulateSegment_keeps {s r' : State} (p : Fin 4) (mu : Fin 256)
    (h : execAccumulateSegment p mu s = .next r') : Keeps s r' := by
  unfold execAccumulateSegment at h
  obtain rfl := Host.Outcome.next.inj h
  have hk := Keeps.refl s
  repeat' first
    | (with_reducible assumption) | (with_reducible apply accumulateSegment_keeps)

theorem execParkedSegmentApply_keeps {s r' : State} (p : Fin 4) (mu : Fin 256) (r : Fin 16)
    (h : execParkedSegmentApply p mu r s = .next r') : Keeps s r' := by
  unfold execParkedSegmentApply at h
  obtain rfl := Host.Outcome.next.inj h
  have hk := Keeps.refl s
  repeat' first
    | (with_reducible assumption) | (with_reducible apply parkedSegmentApply_keeps)

theorem execQueueTokenIn_keeps {s r' : State} (p : Fin 4) (mu : Fin 256) (k : Fin 2)
    (h : execQueueTokenIn p mu k s = .next r') : Keeps s r' := by
  unfold execQueueTokenIn at h
  obtain rfl := Host.Outcome.next.inj h
  have hk := Keeps.refl s
  repeat' first
    | (with_reducible assumption) | (with_reducible apply queueTokenIn_keeps)

theorem execQueueTokenOut_keeps {s r' : State} (p : Fin 4) (mu : Fin 256) (k : Fin 2)
    (h : execQueueTokenOut p mu k s = .next r') : Keeps s r' := by
  unfold execQueueTokenOut at h
  obtain rfl := Host.Outcome.next.inj h
  have hk := Keeps.refl s
  repeat' first
    | (with_reducible assumption) | (with_reducible apply queueTokenOut_keeps)

theorem execFill_keeps {s r' : State} (p : Fin 4) (mu : Fin 256) (dst : BitVec 13) (rows : BitVec 14) (byEvent : Bool)
    (h : execFill p mu dst rows byEvent s = .next r') : Keeps s r' := by
  unfold execFill at h
  obtain rfl := Host.Outcome.next.inj h
  have hk := Keeps.refl s
  repeat' first
    | (with_reducible assumption) | (with_reducible apply State.rowCommand_keeps)

theorem execCopy_keeps {s r' : State} (p : Fin 4) (mu : Fin 256) (dst : BitVec 13) (src : BitVec 13) (rows : BitVec 14) (byEvent : Bool)
    (h : execCopy p mu dst src rows byEvent s = .next r') : Keeps s r' := by
  unfold execCopy at h
  obtain rfl := Host.Outcome.next.inj h
  have hk := Keeps.refl s
  repeat' first
    | (with_reducible assumption) | (with_reducible apply State.rowCommand_keeps)

theorem execRowCommandDone_keeps {s r' : State} (p : Fin 4) (mu : Fin 256)
    (h : execRowCommandDone p mu s = .next r') : Keeps s r' := by
  unfold execRowCommandDone at h
  obtain rfl := Host.Outcome.next.inj h
  have hk := Keeps.refl s
  repeat' first
    | (with_reducible assumption) | (with_reducible apply rowCommandDone_keeps)

theorem execCreditReturn_keeps {s r' : State} (p : Fin 4) (mu : Fin 256) (r : Fin 16)
    (h : execCreditReturn p mu r s = .next r') : Keeps s r' := by
  unfold execCreditReturn at h
  obtain rfl := Host.Outcome.next.inj h
  have hk := Keeps.refl s
  repeat' first
    | (with_reducible assumption) | (with_reducible apply creditReturn_keeps)

theorem execScrubRow_keeps {s r' : State} (p : Fin 4) (mu : Fin 256) (ups : List Upset)
    (h : execScrubRow p mu ups s = .next r') : Keeps s r' := by
  unfold execScrubRow at h
  obtain rfl := Host.Outcome.next.inj h
  have hk := Keeps.refl s
  repeat' first
    | (with_reducible assumption) | (with_reducible apply scrubRow_keeps)

theorem execScrubLate_keeps {s r' : State} (p : Fin 4) (mu : Fin 256)
    (h : execScrubLate p mu s = .next r') : Keeps s r' := by
  unfold execScrubLate at h
  obtain rfl := Host.Outcome.next.inj h
  have hk := Keeps.refl s
  repeat' first
    | (with_reducible assumption) | (with_reducible apply scrubLate_keeps)

theorem execTokenArrival_keeps {s r' : State} (p : Fin 4) (site : Fin 512) (net : Net) (chan : Fin 64) (flips : Tok)
    (h : execTokenArrival p site net chan flips s = .next r') : Keeps s r' := by
  unfold execTokenArrival at h
  obtain rfl := Host.Outcome.next.inj h
  have hk := Keeps.refl s
  repeat' first
    | (with_reducible assumption) | (with_reducible apply tokenArrival_keeps)

theorem execTokenDeparture_keeps {s r' : State} (p : Fin 4) (site : Fin 512) (net : Net) (chan : Fin 64) (unitReady : Bool) (unitParityBad : Bool)
    (h : execTokenDeparture p site net chan unitReady unitParityBad s = .next r') : Keeps s r' := by
  unfold execTokenDeparture at h
  obtain rfl := Host.Outcome.next.inj h
  have hk := Keeps.refl s
  repeat' first
    | (with_reducible assumption) | (with_reducible apply tokenDeparture_keeps)

theorem execQueueBlocked_keeps {s r' : State} (p : Fin 4) (site : Fin 512) (net : Net) (chan : Fin 64)
    (h : execQueueBlocked p site net chan s = .next r') : Keeps s r' := by
  unfold execQueueBlocked at h
  obtain rfl := Host.Outcome.next.inj h
  have hk := Keeps.refl s
  repeat' first
    | (with_reducible assumption) | (with_reducible apply queueBlocked_keeps)

theorem execDeadlockResolution_keeps {s r' : State} (p : Fin 4) (cycle : List CycleNode)
    (h : execDeadlockResolution p cycle s = .next r') : Keeps s r' := by
  unfold execDeadlockResolution at h
  obtain rfl := Host.Outcome.next.inj h
  have hk := Keeps.refl s
  repeat' first
    | (with_reducible assumption) | (with_reducible apply deadlockResolution_keeps)

theorem execSpillEnd_keeps {s r' : State} (p : Fin 4) (site : Fin 512)
    (h : execSpillEnd p site s = .next r') : Keeps s r' := by
  unfold execSpillEnd at h
  obtain rfl := Host.Outcome.next.inj h
  have hk := Keeps.refl s
  repeat' first
    | (with_reducible assumption) | (with_reducible apply spillEnd_keeps)

theorem execDrain_keeps {s r' : State} (p : Fin 4) (mask : W16) (via : Via)
    (h : execDrain p mask via s = .next r') : Keeps s r' := by
  unfold execDrain at h
  obtain rfl := Host.Outcome.next.inj h
  have hk := Keeps.refl s
  repeat' first
    | (with_reducible assumption) | (with_reducible apply drain_keeps)

theorem execDrainComplete_keeps {s r' : State} (p : Fin 4) (mask : W16)
    (h : execDrainComplete p mask s = .next r') : Keeps s r' := by
  unfold execDrainComplete at h
  obtain rfl := Host.Outcome.next.inj h
  have hk := Keeps.refl s
  repeat' first
    | (with_reducible assumption) | (with_reducible apply drainComplete_keeps)

theorem execDrainTimeout_keeps {s r' : State} (p : Fin 4) (mask : W16)
    (h : execDrainTimeout p mask s = .next r') : Keeps s r' := by
  unfold execDrainTimeout at h
  obtain rfl := Host.Outcome.next.inj h
  have hk := Keeps.refl s
  repeat' first
    | (with_reducible assumption) | (with_reducible apply drainTimeout_keeps)

theorem execResume_keeps {s r' : State} (p : Fin 4) (mask : W16) (via : Via)
    (h : execResume p mask via s = .next r') : Keeps s r' := by
  unfold execResume at h
  obtain rfl := Host.Outcome.next.inj h
  have hk := Keeps.refl s
  repeat' first
    | (with_reducible assumption) | (with_reducible apply resume_keeps)

theorem execLoad_keeps {s r' : State} (via : Via)
    (h : execLoad via s = .next r') : Keeps s r' := by
  unfold execLoad at h
  obtain rfl := Host.Outcome.next.inj h
  have hk := Keeps.refl s
  repeat' first
    | (with_reducible assumption) | (with_reducible apply imgVia_keeps)

theorem execLoadComplete_keeps {s r' : State} (_sig : Verdict) (ups : List Upset)
    (h : execLoadComplete _sig ups s = .next r') : Keeps s r' := by
  unfold execLoadComplete at h
  obtain rfl := Host.Outcome.next.inj h
  have hk := Keeps.refl s
  repeat' first
    | (with_reducible assumption) | (with_reducible apply loadComplete_keeps)

theorem execLoadPartial_keeps {s r' : State} (via : Via)
    (h : execLoadPartial via s = .next r') : Keeps s r' := by
  unfold execLoadPartial at h
  obtain rfl := Host.Outcome.next.inj h
  have hk := Keeps.refl s
  repeat' first
    | (with_reducible assumption) | (with_reducible apply imgVia_keeps)

theorem execPartialLoadComplete_keeps {s r' : State} (_sig : Verdict) (ups : List Upset)
    (h : execPartialLoadComplete _sig ups s = .next r') : Keeps s r' := by
  unfold execPartialLoadComplete at h
  obtain rfl := Host.Outcome.next.inj h
  have hk := Keeps.refl s
  repeat' first
    | (with_reducible assumption) | (with_reducible apply partialLoadComplete_keeps)

theorem execStart_keeps {s r' : State} (via : Via) (ups : List Upset)
    (h : execStart via ups s = .next r') : Keeps s r' := by
  unfold execStart at h
  obtain rfl := Host.Outcome.next.inj h
  have hk := Keeps.refl s
  repeat' first
    | (with_reducible assumption) | (with_reducible apply imgVia_keeps) | (with_reducible apply State.strikes_keeps)

theorem execStop_keeps {s r' : State} (via : Via)
    (h : execStop via s = .next r') : Keeps s r' := by
  unfold execStop at h
  obtain rfl := Host.Outcome.next.inj h
  have hk := Keeps.refl s
  repeat' first
    | (with_reducible assumption) | (with_reducible apply imgVia_keeps)

theorem execStopComplete_keeps {s r' : State}
    (h : execStopComplete s = .next r') : Keeps s r' := by
  unfold execStopComplete at h
  obtain rfl := Host.Outcome.next.inj h
  have hk := Keeps.refl s
  repeat' first
    | (with_reducible assumption) | (with_reducible apply stopComplete_keeps)

theorem execUnload_keeps {s r' : State} (via : Via)
    (h : execUnload via s = .next r') : Keeps s r' := by
  unfold execUnload at h
  obtain rfl := Host.Outcome.next.inj h
  have hk := Keeps.refl s
  repeat' first
    | (with_reducible assumption) | (with_reducible apply imgVia_keeps)

theorem execAbort_keeps {s r' : State} (via : Via)
    (h : execAbort via s = .next r') : Keeps s r' := by
  unfold execAbort at h
  obtain rfl := Host.Outcome.next.inj h
  have hk := Keeps.refl s
  repeat' first
    | (with_reducible assumption) | (with_reducible apply imgVia_keeps)

theorem execPushWalk_keeps {s r' : State} (p : Fin 4) (mu : Fin 256) (a : Fin 4) (ups : List Upset)
    (h : execPushWalk p mu a ups s = .next r') : Keeps s r' := by
  unfold execPushWalk at h
  obtain rfl := Host.Outcome.next.inj h
  have hk := Keeps.refl s
  repeat' first
    | (with_reducible assumption) | (with_reducible apply pushWalk_keeps)

theorem execPopWalk_keeps {s r' : State} (p : Fin 4) (mu : Fin 256) (a : Fin 4) (ups : List Upset)
    (h : execPopWalk p mu a ups s = .next r') : Keeps s r' := by
  unfold execPopWalk at h
  obtain rfl := Host.Outcome.next.inj h
  have hk := Keeps.refl s
  repeat' first
    | (with_reducible assumption) | (with_reducible apply popWalk_keeps)

theorem execStashSpill_keeps {s r' : State} (p : Fin 4) (mu : Fin 256) (r : Fin 16) (ups : List Upset)
    (h : execStashSpill p mu r ups s = .next r') : Keeps s r' := by
  unfold execStashSpill at h
  obtain rfl := Host.Outcome.next.inj h
  have hk := Keeps.refl s
  repeat' first
    | (with_reducible assumption) | (with_reducible apply stashSpill_keeps)

theorem execStashRefill_keeps {s r' : State} (p : Fin 4) (mu : Fin 256) (r : Fin 16) (ups : List Upset)
    (h : execStashRefill p mu r ups s = .next r') : Keeps s r' := by
  unfold execStashRefill at h
  obtain rfl := Host.Outcome.next.inj h
  have hk := Keeps.refl s
  repeat' first
    | (with_reducible assumption) | (with_reducible apply stashRefill_keeps)

theorem execDmaDescriptorStart_keeps {s r' : State} (p : Fin 4)
    (h : execDmaDescriptorStart p s = .next r') : Keeps s r' := by
  unfold execDmaDescriptorStart at h
  obtain rfl := Host.Outcome.next.inj h
  have hk := Keeps.refl s
  repeat' first
    | (with_reducible assumption) | (with_reducible apply dmaDescriptorStart_keeps)

theorem execRowRequestIssue_keeps {s r' : State} (p : Fin 4)
    (h : execRowRequestIssue p s = .next r') : Keeps s r' := by
  unfold execRowRequestIssue at h
  obtain rfl := Host.Outcome.next.inj h
  have hk := Keeps.refl s
  repeat' first
    | (with_reducible assumption) | (with_reducible apply rowRequestIssue_keeps)

theorem execRowRequestDone_keeps {s r' : State} (p : Fin 4) (ix : Nat) (ups : List Upset)
    (h : execRowRequestDone p ix ups s = .next r') : Keeps s r' := by
  unfold execRowRequestDone at h
  obtain rfl := Host.Outcome.next.inj h
  have hk := Keeps.refl s
  repeat' first
    | (with_reducible assumption) | (with_reducible apply rowRequestDone_keeps)

theorem execDescriptorComplete_keeps {s r' : State} (p : Fin 4)
    (h : execDescriptorComplete p s = .next r') : Keeps s r' := by
  unfold execDescriptorComplete at h
  obtain rfl := Host.Outcome.next.inj h
  have hk := Keeps.refl s
  repeat' first
    | (with_reducible assumption) | (with_reducible apply descriptorComplete_keeps)

theorem execDmaHqPush_keeps {s r' : State} (p : Fin 4) (go : Bool)
    (h : execDmaHqPush p go s = .next r') : Keeps s r' := by
  unfold execDmaHqPush at h
  obtain rfl := Host.Outcome.next.inj h
  have hk := Keeps.refl s
  repeat' first
    | (with_reducible assumption) | (refine fun _ h => ?_) | (with_reducible apply State.whenAwake_keeps)
    | (with_reducible apply State.emit_keeps) | (with_reducible apply dmaHqPush_keeps)
    | (with_reducible apply State.woken_keeps) | (with_reducible apply Keeps.ite)

theorem execTriggerFire_keeps {s r' : State} (p : Fin 4) (t : Fin 1024)
    (h : execTriggerFire p t s = .next r') : Keeps s r' := by
  unfold execTriggerFire at h
  obtain rfl := Host.Outcome.next.inj h
  have hk := Keeps.refl s
  repeat' first
    | (with_reducible assumption) | (with_reducible apply triggerFire_keeps)

theorem execSequencerStart_keeps {s r' : State} (p : Fin 4) (ix : BitVec 16)
    (h : execSequencerStart p ix s = .next r') : Keeps s r' := by
  unfold execSequencerStart at h
  obtain rfl := Host.Outcome.next.inj h
  have hk := Keeps.refl s
  repeat' first
    | (with_reducible assumption) | (with_reducible apply sequencerStart_keeps)

theorem execSequencerPendingStart_keeps {s r' : State} (p : Fin 4)
    (h : execSequencerPendingStart p s = .next r') : Keeps s r' := by
  unfold execSequencerPendingStart at h
  obtain rfl := Host.Outcome.next.inj h
  have hk := Keeps.refl s
  repeat' first
    | (with_reducible assumption) | (with_reducible apply sequencerPendingStart_keeps)

theorem execBmkRead_keeps {s r' : State} (src : BmkSrc) (i : Fin 65536)
    (h : execBmkRead src i s = .next r') : Keeps s r' := by
  unfold execBmkRead at h
  obtain rfl := Host.Outcome.next.inj h
  have hk := Keeps.refl s
  repeat' first
    | (with_reducible assumption) | (with_reducible apply bmkOp_keeps)

theorem execBmkAdd_keeps {s r' : State} (src : BmkSrc) (i : Fin 65536) (v : W32)
    (h : execBmkAdd src i v s = .next r') : Keeps s r' := by
  unfold execBmkAdd at h
  obtain rfl := Host.Outcome.next.inj h
  have hk := Keeps.refl s
  repeat' first
    | (with_reducible assumption) | (with_reducible apply bmkOp_keeps)

theorem execBmkSet_keeps {s r' : State} (src : BmkSrc) (i : Fin 65536) (v : W32)
    (h : execBmkSet src i v s = .next r') : Keeps s r' := by
  unfold execBmkSet at h
  obtain rfl := Host.Outcome.next.inj h
  have hk := Keeps.refl s
  repeat' first
    | (with_reducible assumption) | (with_reducible apply bmkOp_keeps)

theorem execBmkWait_keeps {s r' : State} (src : BmkSrc) (i : Fin 65536) (v : W32)
    (h : execBmkWait src i v s = .next r') : Keeps s r' := by
  unfold execBmkWait at h
  obtain rfl := Host.Outcome.next.inj h
  have hk := Keeps.refl s
  repeat' first
    | (with_reducible assumption) | (with_reducible apply bmkOp_keeps)

theorem execBmkArm_keeps {s r' : State} (src : BmkSrc) (i : Fin 65536) (thr : W32) (mode : W32)
    (h : execBmkArm src i thr mode s = .next r') : Keeps s r' := by
  unfold execBmkArm at h
  obtain rfl := Host.Outcome.next.inj h
  have hk := Keeps.refl s
  repeat' first
    | (with_reducible assumption) | (with_reducible apply bmkOp_keeps)

theorem execBmkReservedOp_keeps {s r' : State} (src : BmkSrc) (i : Fin 65536) (op : Fin 16)
    (h : execBmkReservedOp src i op s = .next r') : Keeps s r' := by
  unfold execBmkReservedOp at h
  obtain rfl := Host.Outcome.next.inj h
  have hk := Keeps.refl s
  repeat' first
    | (with_reducible assumption) | (with_reducible apply bmkOp_keeps) | (with_reducible apply Keeps.ite)

theorem execRequantisation_keeps {s r' : State} (item : Fin 65536) (ups : List Upset)
    (h : execRequantisation item ups s = .next r') : Keeps s r' := by
  unfold execRequantisation at h
  obtain rfl := Host.Outcome.next.inj h
  have hk := Keeps.refl s
  repeat' first
    | (with_reducible assumption) | (with_reducible apply requantisation_keeps)

theorem execSealSend_keeps {s r' : State}
    (h : execSealSend s = .next r') : Keeps s r' := by
  unfold execSealSend at h
  obtain rfl := Host.Outcome.next.inj h
  have hk := Keeps.refl s
  repeat' first
    | (with_reducible assumption) | (with_reducible apply sealSend_keeps)

theorem execNormRecord_keeps {s r' : State} (rx : Rx) (r : NormRec)
    (h : execNormRecord rx r s = .next r') : Keeps s r' := by
  unfold execNormRecord at h
  obtain rfl := Host.Outcome.next.inj h
  have hk := Keeps.refl s
  repeat' first
    | (with_reducible assumption) | (with_reducible apply normRecord_keeps)

theorem execExchangeTimeout_keeps {s r' : State}
    (h : execExchangeTimeout s = .next r') : Keeps s r' := by
  unfold execExchangeTimeout at h
  obtain rfl := Host.Outcome.next.inj h
  have hk := Keeps.refl s
  repeat' first
    | (with_reducible assumption) | (with_reducible apply exchangeTimeout_keeps)

theorem execPass1Start_keeps {s r' : State}
    (h : execPass1Start s = .next r') : Keeps s r' := by
  unfold execPass1Start at h
  obtain rfl := Host.Outcome.next.inj h
  have hk := Keeps.refl s
  repeat' first
    | (with_reducible assumption) | (with_reducible apply pass1Start_keeps)

theorem execAuElementEvaluate_keeps {s r' : State} (g : Fin 4) (ups : List Upset)
    (h : execAuElementEvaluate g ups s = .next r') : Keeps s r' := by
  unfold execAuElementEvaluate at h
  obtain rfl := Host.Outcome.next.inj h
  have hk := Keeps.refl s
  repeat' first
    | (with_reducible assumption) | (with_reducible apply auElementEvaluate_keeps)

theorem execParkedSlotEvaluate_keeps {s r' : State} (g : Fin 4) (slot : Nat) (ups : List Upset)
    (h : execParkedSlotEvaluate g slot ups s = .next r') : Keeps s r' := by
  unfold execParkedSlotEvaluate at h
  obtain rfl := Host.Outcome.next.inj h
  have hk := Keeps.refl s
  repeat' first
    | (with_reducible assumption) | (with_reducible apply parkedSlotEvaluate_keeps)

theorem execGateSend_keeps {s r' : State}
    (h : execGateSend s = .next r') : Keeps s r' := by
  unfold execGateSend at h
  obtain rfl := Host.Outcome.next.inj h
  have hk := Keeps.refl s
  repeat' first
    | (with_reducible assumption) | (with_reducible apply gateSend_keeps)

theorem execPass2Start_keeps {s r' : State} (blocks : List FactorBlock)
    (h : execPass2Start blocks s = .next r') : Keeps s r' := by
  unfold execPass2Start at h
  obtain rfl := Host.Outcome.next.inj h
  have hk := Keeps.refl s
  repeat' first
    | (with_reducible assumption) | (with_reducible apply pass2Start_keeps)

theorem execCommitSend_keeps {s r' : State}
    (h : execCommitSend s = .next r') : Keeps s r' := by
  unfold execCommitSend at h
  obtain rfl := Host.Outcome.next.inj h
  have hk := Keeps.refl s
  repeat' first
    | (with_reducible assumption) | (with_reducible apply commitSend_keeps)

theorem execStepBoundary_keeps {s r' : State}
    (h : execStepBoundary s = .next r') : Keeps s r' := by
  unfold execStepBoundary at h
  obtain rfl := Host.Outcome.next.inj h
  have hk := Keeps.refl s
  repeat' first
    | (with_reducible assumption) | (with_reducible apply stepBoundary_keeps)

theorem execCoefSet_keeps {s r' : State} (o : Order)
    (h : execCoefSet o s = .next r') : Keeps s r' := by
  unfold execCoefSet at h
  obtain rfl := Host.Outcome.next.inj h
  have hk := Keeps.refl s
  repeat' first
    | (with_reducible assumption) | (with_reducible apply coefSet_keeps)

theorem execFreezeSet_keeps {s r' : State} (o : Order)
    (h : execFreezeSet o s = .next r') : Keeps s r' := by
  unfold execFreezeSet at h
  obtain rfl := Host.Outcome.next.inj h
  have hk := Keeps.refl s
  repeat' first
    | (with_reducible assumption) | (with_reducible apply freezeSet_keeps)

theorem execAuStepWrite_keeps {s r' : State} (g : Fin 4) (v : W64)
    (h : execAuStepWrite g v s = .next r') : Keeps s r' := by
  unfold execAuStepWrite at h
  obtain rfl := Host.Outcome.next.inj h
  have hk := Keeps.refl s
  repeat' first
    | (with_reducible assumption) | (refine fun _ h => ?_) | (with_reducible apply State.atBlock_keeps)
    | (with_reducible apply auStepWrite_keeps)

theorem execDramRead_keeps {s r' : State} (u : DramUser) (cmd : ReadCmd) (ups : List Upset)
    (h : execDramRead u cmd ups s = .next r') : Keeps s r' := by
  unfold execDramRead at h
  obtain rfl := Host.Outcome.next.inj h
  have hk := Keeps.refl s
  repeat' first
    | (with_reducible assumption) | (refine fun _ h => ?_) | (with_reducible apply State.whenAwake_keeps)
    | (with_reducible apply dramReadEvent_keeps)

theorem execDramWrite_keeps {s r' : State} (u : DramUser) (addr : BitVec 42) (data : List Byte) (poison : Bool) (failedRetries : Nat) (ups : List Upset)
    (h : execDramWrite u addr data poison failedRetries ups s = .next r') : Keeps s r' := by
  unfold execDramWrite at h
  obtain rfl := Host.Outcome.next.inj h
  have hk := Keeps.refl s
  repeat' first
    | (with_reducible assumption) | (refine fun _ h => ?_) | (with_reducible apply State.whenAwake_keeps)
    | (with_reducible apply dramWriteEvent_keeps)

theorem execDramRefresh_keeps {s r' : State} (cmd : ChanCmd)
    (h : execDramRefresh cmd s = .next r') : Keeps s r' := by
  unfold execDramRefresh at h
  obtain rfl := Host.Outcome.next.inj h
  have hk := Keeps.refl s
  repeat' first
    | (with_reducible assumption) | (with_reducible apply dramRefresh_keeps)

theorem execDramHot_keeps {s r' : State} (cmd : ChanCmd)
    (h : execDramHot cmd s = .next r') : Keeps s r' := by
  unfold execDramHot at h
  obtain rfl := Host.Outcome.next.inj h
  have hk := Keeps.refl s
  repeat' first
    | (with_reducible assumption) | (with_reducible apply dramHot_keeps)

theorem execPatrolScrub_keeps {s r' : State} (c : Fin 16) (ups : List Upset)
    (h : execPatrolScrub c ups s = .next r') : Keeps s r' := by
  unfold execPatrolScrub at h
  obtain rfl := Host.Outcome.next.inj h
  have hk := Keeps.refl s
  repeat' first
    | (with_reducible assumption) | (with_reducible apply patrolScrub_keeps)

theorem execCapture_keeps {s r' : State} (via : Via) (step : Step)
    (h : execCapture via step s = .next r') : Keeps s r' := by
  unfold execCapture at h
  obtain rfl := Host.Outcome.next.inj h
  have hk := Keeps.refl s
  repeat' first
    | (with_reducible assumption) | (with_reducible apply capture_keeps)

theorem execRestore_keeps {s r' : State} (via : Via) (newest : Bool) (step : Step)
    (h : execRestore via newest step s = .next r') : Keeps s r' := by
  unfold execRestore at h
  obtain rfl := Host.Outcome.next.inj h
  have hk := Keeps.refl s
  repeat' first
    | (with_reducible assumption) | (with_reducible apply restore_keeps)

theorem execMonumentAbort_keeps {s r' : State} (via : Via)
    (h : execMonumentAbort via s = .next r') : Keeps s r' := by
  unfold execMonumentAbort at h
  obtain rfl := Host.Outcome.next.inj h
  have hk := Keeps.refl s
  repeat' first
    | (with_reducible assumption) | (with_reducible apply monumentAbort_keeps)

theorem execChunkRead_keeps {s r' : State} (ups : List Upset)
    (h : execChunkRead ups s = .next r') : Keeps s r' := by
  unfold execChunkRead at h
  obtain rfl := Host.Outcome.next.inj h
  have hk := Keeps.refl s
  repeat' first
    | (with_reducible assumption) | (with_reducible apply chunkRead_keeps)

theorem execAckFrame_keeps {s r' : State} (rx : Rx) (f : MonFrame)
    (h : execAckFrame rx f s = .next r') : Keeps s r' := by
  unfold execAckFrame at h
  obtain rfl := Host.Outcome.next.inj h
  have hk := Keeps.refl s
  repeat' first
    | (with_reducible assumption) | (with_reducible apply ackFrame_keeps)

theorem execRetryResend_keeps {s r' : State} (index : W32)
    (h : execRetryResend index s = .next r') : Keeps s r' := by
  unfold execRetryResend at h
  obtain rfl := Host.Outcome.next.inj h
  have hk := Keeps.refl s
  repeat' first
    | (with_reducible assumption) | (with_reducible apply retryResend_keeps)

theorem execSilenceResend_keeps {s r' : State} (index : W32)
    (h : execSilenceResend index s = .next r') : Keeps s r' := by
  unfold execSilenceResend at h
  obtain rfl := Host.Outcome.next.inj h
  have hk := Keeps.refl s
  repeat' first
    | (with_reducible assumption) | (with_reducible apply silenceResend_keeps)

theorem execResendLimit_keeps {s r' : State} (index : W32)
    (h : execResendLimit index s = .next r') : Keeps s r' := by
  unfold execResendLimit at h
  obtain rfl := Host.Outcome.next.inj h
  have hk := Keeps.refl s
  repeat' first
    | (with_reducible assumption) | (with_reducible apply resendLimit_keeps)

theorem execRecordSignature_keeps {s r' : State}
    (h : execRecordSignature s = .next r') : Keeps s r' := by
  unfold execRecordSignature at h
  obtain rfl := Host.Outcome.next.inj h
  have hk := Keeps.refl s
  repeat' first
    | (with_reducible assumption) | (with_reducible apply recordSignature_keeps)

theorem execMonBankWait_keeps {s r' : State}
    (h : execMonBankWait s = .next r') : Keeps s r' := by
  unfold execMonBankWait at h
  obtain rfl := Host.Outcome.next.inj h
  have hk := Keeps.refl s
  repeat' first
    | (with_reducible assumption) | (with_reducible apply monBankWait_keeps)

theorem execChunkFrame_keeps {s r' : State} (rx : Rx) (f : MonFrame)
    (h : execChunkFrame rx f s = .next r') : Keeps s r' := by
  unfold execChunkFrame at h
  obtain rfl := Host.Outcome.next.inj h
  have hk := Keeps.refl s
  repeat' first
    | (with_reducible assumption) | (with_reducible apply chunkFrame_keeps)

theorem execRecordFrame_keeps {s r' : State} (rx : Rx) (f : MonFrame) (_sig : Verdict)
    (h : execRecordFrame rx f _sig s = .next r') : Keeps s r' := by
  unfold execRecordFrame at h
  obtain rfl := Host.Outcome.next.inj h
  have hk := Keeps.refl s
  repeat' first
    | (with_reducible assumption) | (with_reducible apply recordFrame_keeps)

theorem execAbandonFrame_keeps {s r' : State} (rx : Rx) (f : MonFrame)
    (h : execAbandonFrame rx f s = .next r') : Keeps s r' := by
  unfold execAbandonFrame at h
  obtain rfl := Host.Outcome.next.inj h
  have hk := Keeps.refl s
  repeat' first
    | (with_reducible assumption) | (with_reducible apply abandonFrame_keeps)

theorem execPullFrame_keeps {s r' : State} (rx : Rx) (f : MonFrame)
    (h : execPullFrame rx f s = .next r') : Keeps s r' := by
  unfold execPullFrame at h
  obtain rfl := Host.Outcome.next.inj h
  have hk := Keeps.refl s
  repeat' first
    | (with_reducible assumption) | (with_reducible apply pullFrame_keeps)

theorem execClosureDigestDone_keeps {s r' : State} (ups : List Upset)
    (h : execClosureDigestDone ups s = .next r') : Keeps s r' := by
  unfold execClosureDigestDone at h
  obtain rfl := Host.Outcome.next.inj h
  have hk := Keeps.refl s
  repeat' first
    | (with_reducible assumption) | (with_reducible apply closureDigestDone_keeps)

theorem execClosureDeadline_keeps {s r' : State}
    (h : execClosureDeadline s = .next r') : Keeps s r' := by
  unfold execClosureDeadline at h
  obtain rfl := Host.Outcome.next.inj h
  have hk := Keeps.refl s
  repeat' first
    | (with_reducible assumption) | (with_reducible apply closureDeadline_keeps)

theorem execLaserLost_keeps {s r' : State} (i : Fin 8)
    (h : execLaserLost i s = .next r') : Keeps s r' := by
  unfold execLaserLost at h
  obtain rfl := Host.Outcome.next.inj h
  have hk := Keeps.refl s
  repeat' first
    | (with_reducible assumption) | (with_reducible apply laserLost_keeps)

theorem execLaserReturn_keeps {s r' : State} (i : Fin 8)
    (h : execLaserReturn i s = .next r') : Keeps s r' := by
  unfold execLaserReturn at h
  obtain rfl := Host.Outcome.next.inj h
  have hk := Keeps.refl s
  repeat' first
    | (with_reducible assumption) | (with_reducible apply laserReturn_keeps)

theorem execLaneLockLoss_keeps {s r' : State} (n : Fin 32) (lane : Fin 8)
    (h : execLaneLockLoss n lane s = .next r') : Keeps s r' := by
  unfold execLaneLockLoss at h
  obtain rfl := Host.Outcome.next.inj h
  have hk := Keeps.refl s
  repeat' first
    | (with_reducible assumption) | (with_reducible apply laneLockLoss_keeps)

theorem execTrainingDone_keeps {s r' : State} (n : Fin 32)
    (h : execTrainingDone n s = .next r') : Keeps s r' := by
  unfold execTrainingDone at h
  obtain rfl := Host.Outcome.next.inj h
  have hk := Keeps.refl s
  repeat' first
    | (with_reducible assumption) | (with_reducible apply trainingDone_keeps)

theorem execAnnounce_keeps {s r' : State} (n : Fin 32) (a : Announce) (_sig : Verdict)
    (h : execAnnounce n a _sig s = .next r') : Keeps s r' := by
  unfold execAnnounce at h
  obtain rfl := Host.Outcome.next.inj h
  have hk := Keeps.refl s
  repeat' first
    | (with_reducible assumption) | (with_reducible apply announceArrive_keeps)

theorem execKeyx_keeps {s r' : State} (n : Fin 32) (ciphertext : List Byte) (transcript : List Byte) (signature : List Byte)
    (h : execKeyx n ciphertext transcript signature s = .next r') : Keeps s r' := by
  unfold execKeyx at h
  obtain rfl := Host.Outcome.next.inj h
  have hk := Keeps.refl s
  repeat' first
    | (with_reducible assumption) | (with_reducible apply keyxArrive_keeps)

theorem execDataFlit_keeps {s r' : State} (n : Fin 32) (f : Flit) (fec : Fec)
    (h : execDataFlit n f fec s = .next r') : Keeps s r' := by
  unfold execDataFlit at h
  obtain rfl := Host.Outcome.next.inj h
  have hk := Keeps.refl s
  repeat' first
    | (with_reducible assumption) | (with_reducible apply dataFlit_keeps)

theorem execLinkFlit_keeps {s r' : State} (n : Fin 32) (f : Flit) (ended : Nat × Nat) (bad : Bool)
    (h : execLinkFlit n f ended bad s = .next r') : Keeps s r' := by
  unfold execLinkFlit at h
  obtain rfl := Host.Outcome.next.inj h
  have hk := Keeps.refl s
  repeat' first
    | (with_reducible assumption) | (with_reducible apply linkFlit_keeps)

theorem execAckReport_keeps {s r' : State} (n : Fin 32)
    (h : execAckReport n s = .next r') : Keeps s r' := by
  unfold execAckReport at h
  obtain rfl := Host.Outcome.next.inj h
  have hk := Keeps.refl s
  repeat' first
    | (with_reducible assumption) | (with_reducible apply ackReport_keeps)

theorem execNakRepeat_keeps {s r' : State} (n : Fin 32)
    (h : execNakRepeat n s = .next r') : Keeps s r' := by
  unfold execNakRepeat at h
  obtain rfl := Host.Outcome.next.inj h
  have hk := Keeps.refl s
  repeat' first
    | (with_reducible assumption) | (with_reducible apply nakRepeat_keeps)

theorem execReplayLimit_keeps {s r' : State} (n : Fin 32)
    (h : execReplayLimit n s = .next r') : Keeps s r' := by
  unfold execReplayLimit at h
  obtain rfl := Host.Outcome.next.inj h
  have hk := Keeps.refl s
  repeat' first
    | (with_reducible assumption) | (with_reducible apply replayLimit_keeps)

theorem execRetrain_keeps {s r' : State} (n : Fin 32)
    (h : execRetrain n s = .next r') : Keeps s r' := by
  unfold execRetrain at h
  obtain rfl := Host.Outcome.next.inj h
  have hk := Keeps.refl s
  repeat' first
    | (with_reducible assumption) | (with_reducible apply retrain_keeps)

theorem execRekey_keeps {s r' : State} (n : Fin 32)
    (h : execRekey n s = .next r') : Keeps s r' := by
  unfold execRekey at h
  obtain rfl := Host.Outcome.next.inj h
  have hk := Keeps.refl s
  repeat' first
    | (with_reducible assumption) | (with_reducible apply rekey_keeps)

theorem execRekeyTimeout_keeps {s r' : State} (n : Fin 32)
    (h : execRekeyTimeout n s = .next r') : Keeps s r' := by
  unfold execRekeyTimeout at h
  obtain rfl := Host.Outcome.next.inj h
  have hk := Keeps.refl s
  repeat' first
    | (with_reducible assumption) | (with_reducible apply rekeyTimeout_keeps)

theorem execKeyPhaseGraceEnd_keeps {s r' : State} (n : Fin 32)
    (h : execKeyPhaseGraceEnd n s = .next r') : Keeps s r' := by
  unfold execKeyPhaseGraceEnd at h
  obtain rfl := Host.Outcome.next.inj h
  have hk := Keeps.refl s
  repeat' first
    | (with_reducible assumption) | (with_reducible apply keyPhaseGraceEnd_keeps)

theorem execRwrite_keeps {s r' : State} (rx : Rx) (addr : W64) (data : List Byte) (poison : Bool)
    (h : execRwrite rx addr data poison s = .next r') : Keeps s r' := by
  unfold execRwrite at h
  obtain rfl := Host.Outcome.next.inj h
  have hk := Keeps.refl s
  repeat' first
    | (with_reducible assumption) | (with_reducible apply rwrite_keeps)

theorem execRread_keeps {s r' : State} (rx : Rx) (addr : W64) (bytes : W32) (ups : List Upset)
    (h : execRread rx addr bytes ups s = .next r') : Keeps s r' := by
  unfold execRread at h
  obtain rfl := Host.Outcome.next.inj h
  have hk := Keeps.refl s
  repeat' first
    | (with_reducible assumption) | (with_reducible apply rread_keeps)

theorem execResp_keeps {s r' : State} (rx : Rx) (code : Code) (answered : Byte) (value : W64) (data : List Byte)
    (h : execResp rx code answered value data s = .next r') : Keeps s r' := by
  unfold execResp at h
  obtain rfl := Host.Outcome.next.inj h
  have hk := Keeps.refl s
  repeat' first
    | (with_reducible assumption) | (with_reducible apply resp_keeps)

theorem execColl_keeps {s r' : State} (rx : Rx) (addr : W64) (mode : Byte) (contrib : Byte) (entry : W16) (tokens : List PTok)
    (h : execColl rx addr mode contrib entry tokens s = .next r') : Keeps s r' := by
  unfold execColl at h
  obtain rfl := Host.Outcome.next.inj h
  have hk := Keeps.refl s
  repeat' first
    | (with_reducible assumption) | (with_reducible apply coll_keeps)

theorem execCpl_keeps {s r' : State} (rx : Rx) (code : Code) (opcode : W16) (value : W64)
    (h : execCpl rx code opcode value s = .next r') : Keeps s r' := by
  unfold execCpl at h
  obtain rfl := Host.Outcome.next.inj h
  have hk := Keeps.refl s
  repeat' first
    | (with_reducible assumption) | (with_reducible apply cplArrive_keeps)

theorem execMgmtRead_keeps {s r' : State} (rx : Rx) (addr : Access)
    (h : execMgmtRead rx addr s = .next r') : Keeps s r' := by
  unfold execMgmtRead at h
  obtain rfl := Host.Outcome.next.inj h
  have hk := Keeps.refl s
  repeat' first
    | (with_reducible assumption) | (with_reducible apply mgmtRead_keeps)

theorem execMgmtWrite_keeps {s r' : State} (rx : Rx) (addr : Access) (value : W64)
    (h : execMgmtWrite rx addr value s = .next r') : Keeps s r' := by
  unfold execMgmtWrite at h
  obtain rfl := Host.Outcome.next.inj h
  have hk := Keeps.refl s
  repeat' first
    | (with_reducible assumption) | (with_reducible apply mgmtWrite_keeps)

theorem execMember_keeps {s r' : State} (rx : Rx) (table : MTable) (_sig : Verdict)
    (h : execMember rx table _sig s = .next r') : Keeps s r' := by
  unfold execMember at h
  obtain rfl := Host.Outcome.next.inj h
  have hk := Keeps.refl s
  repeat' first
    | (with_reducible assumption) | (with_reducible apply member_keeps)

theorem execLinkstate_keeps {s r' : State} (rx : Rx) (keyId : List Byte) (ports : List PortEntry)
    (h : execLinkstate rx keyId ports s = .next r') : Keeps s r' := by
  unfold execLinkstate at h
  obtain rfl := Host.Outcome.next.inj h
  have hk := Keeps.refl s
  repeat' first
    | (with_reducible assumption) | (with_reducible apply linkstate_keeps)

theorem execTransactionForward_keeps {s r' : State} (t : Passing)
    (h : execTransactionForward t s = .next r') : Keeps s r' := by
  unfold execTransactionForward at h
  obtain rfl := Host.Outcome.next.inj h
  have hk := Keeps.refl s
  repeat' first
    | (with_reducible assumption) | (with_reducible apply transactionForward_keeps)

theorem execForwardStall_keeps {s r' : State} (tag : W16)
    (h : execForwardStall tag s = .next r') : Keeps s r' := by
  unfold execForwardStall at h
  obtain rfl := Host.Outcome.next.inj h
  have hk := Keeps.refl s
  repeat' first
    | (with_reducible assumption) | (with_reducible apply forwardStall_keeps)

theorem execLxTimeout_keeps {s r' : State} (tag : W16)
    (h : execLxTimeout tag s = .next r') : Keeps s r' := by
  unfold execLxTimeout at h
  obtain rfl := Host.Outcome.next.inj h
  have hk := Keeps.refl s
  repeat' first
    | (with_reducible assumption) | (with_reducible apply lxTimeout_keeps)

theorem execStreamEntryFire_keeps {s r' : State} (e : Fin 16384)
    (h : execStreamEntryFire e s = .next r') : Keeps s r' := by
  unfold execStreamEntryFire at h
  obtain rfl := Host.Outcome.next.inj h
  have hk := Keeps.refl s
  repeat' first
    | (with_reducible assumption) | (with_reducible apply streamEntryFire_keeps)

theorem execDatumFrameSend_keeps {s r' : State} (n : Fin 32)
    (h : execDatumFrameSend n s = .next r') : Keeps s r' := by
  unfold execDatumFrameSend at h
  obtain rfl := Host.Outcome.next.inj h
  have hk := Keeps.refl s
  repeat' first
    | (with_reducible assumption) | (with_reducible apply datumFrameSend_keeps)

theorem execDatumFrame_keeps {s r' : State} (rx : Rx) (f : DatumFrame) (t4frac : W16)
    (h : execDatumFrame rx f t4frac s = .next r') : Keeps s r' := by
  unfold execDatumFrame at h
  obtain rfl := Host.Outcome.next.inj h
  have hk := Keeps.refl s
  repeat' first
    | (with_reducible assumption) | (with_reducible apply datumFrame_keeps)

theorem execReferenceLoss_keeps {s r' : State} (portLeft : Bool)
    (h : execReferenceLoss portLeft s = .next r') : Keeps s r' := by
  unfold execReferenceLoss at h
  obtain rfl := Host.Outcome.next.inj h
  have hk := Keeps.refl s
  repeat' first
    | (with_reducible assumption) | (with_reducible apply referenceLoss_keeps)

theorem execHoldoverExpiry_keeps {s r' : State}
    (h : execHoldoverExpiry s = .next r') : Keeps s r' := by
  unfold execHoldoverExpiry at h
  obtain rfl := Host.Outcome.next.inj h
  have hk := Keeps.refl s
  repeat' first
    | (with_reducible assumption) | (with_reducible apply holdoverExpiry_keeps)

theorem execLocalRef_keeps {s r' : State} (via : Via)
    (h : execLocalRef via s = .next r') : Keeps s r' := by
  unfold execLocalRef at h
  obtain rfl := Host.Outcome.next.inj h
  have hk := Keeps.refl s
  repeat' first
    | (with_reducible assumption) | (with_reducible apply refVia_keeps)

theorem execReacquire_keeps {s r' : State} (via : Via)
    (h : execReacquire via s = .next r') : Keeps s r' := by
  unfold execReacquire at h
  obtain rfl := Host.Outcome.next.inj h
  have hk := Keeps.refl s
  repeat' first
    | (with_reducible assumption) | (with_reducible apply refVia_keeps)

theorem execDtmTimeSet_keeps {s r' : State} (value : W64)
    (h : execDtmTimeSet value s = .next r') : Keeps s r' := by
  unfold execDtmTimeSet at h
  obtain rfl := Host.Outcome.next.inj h
  have hk := Keeps.refl s
  repeat' first
    | (with_reducible assumption) | (with_reducible apply dtmTimeSet_keeps)

theorem execStepStart_keeps {s r' : State} (o : Order)
    (h : execStepStart o s = .next r') : Keeps s r' := by
  unfold execStepStart at h
  obtain rfl := Host.Outcome.next.inj h
  have hk := Keeps.refl s
  repeat' first
    | (with_reducible assumption) | (with_reducible apply stepStart_keeps)

theorem execStepStartTime_keeps {s r' : State}
    (h : execStepStartTime s = .next r') : Keeps s r' := by
  unfold execStepStartTime at h
  obtain rfl := Host.Outcome.next.inj h
  have hk := Keeps.refl s
  repeat' first
    | (with_reducible assumption) | (with_reducible apply stepStartTime_keeps)

theorem execNop_keeps {s r' : State} (o : Order)
    (h : execNop o s = .next r') : Keeps s r' := by
  unfold execNop at h
  obtain rfl := Host.Outcome.next.inj h
  have hk := Keeps.refl s
  repeat' first
    | (with_reducible assumption) | (with_reducible apply nop_keeps)

theorem execCommandActivation_keeps {s r' : State} (id : Nat)
    (h : execCommandActivation id s = .next r') : Keeps s r' := by
  unfold execCommandActivation at h
  obtain rfl := Host.Outcome.next.inj h
  have hk := Keeps.refl s
  repeat' first
    | (with_reducible assumption) | (with_reducible apply commandActivation_keeps)

theorem execDeadlineMissed_keeps {s r' : State} (id : Nat)
    (h : execDeadlineMissed id s = .next r') : Keeps s r' := by
  unfold execDeadlineMissed at h
  obtain rfl := Host.Outcome.next.inj h
  have hk := Keeps.refl s
  repeat' first
    | (with_reducible assumption) | (with_reducible apply deadlineMissed_keeps)

theorem execConsume_keeps {s r' : State} (slot : Fin 512)
    (h : execConsume slot s = .next r') : Keeps s r' := by
  unfold execConsume at h
  obtain rfl := Host.Outcome.next.inj h
  have hk := Keeps.refl s
  repeat' first
    | (with_reducible assumption) | (refine fun _ h => ?_) | (with_reducible apply State.atBlock_keeps)
    | (with_reducible apply consume_keeps)

theorem execSlotWord0Read_keeps {s r' : State} (slot : Fin 512)
    (h : execSlotWord0Read slot s = .next r') : Keeps s r' := by
  unfold execSlotWord0Read at h
  obtain rfl := Host.Outcome.next.inj h
  have hk := Keeps.refl s
  repeat' first
    | (with_reducible assumption) | (refine fun _ h => ?_) | (with_reducible apply State.atBlock_keeps)
    | (with_reducible apply slotWord0Read_keeps)

theorem execNotifyPop_keeps {s r' : State}
    (h : execNotifyPop s = .next r') : Keeps s r' := by
  unfold execNotifyPop at h
  obtain rfl := Host.Outcome.next.inj h
  have hk := Keeps.refl s
  repeat' first
    | (with_reducible assumption) | (refine fun _ h => ?_) | (with_reducible apply State.atBlock_keeps)
    | (with_reducible apply notifyPop_keeps)

theorem execBroadcastGo_keeps {s r' : State} (all : Bool) (dev : BitVec 12)
    (h : execBroadcastGo all dev s = .next r') : Keeps s r' := by
  unfold execBroadcastGo at h
  obtain rfl := Host.Outcome.next.inj h
  have hk := Keeps.refl s
  repeat' first
    | (with_reducible assumption) | (refine fun _ h => ?_) | (with_reducible apply State.atBlock_keeps)
    | (with_reducible apply broadcastGo_keeps)

theorem execPllLockFail_keeps {s r' : State} (d : Fin 25)
    (h : execPllLockFail d s = .next r') : Keeps s r' := by
  unfold execPllLockFail at h
  obtain rfl := Host.Outcome.next.inj h
  have hk := Keeps.refl s
  repeat' first
    | (with_reducible assumption) | (with_reducible apply pllLockFail_keeps)

theorem execPllRelock_keeps {s r' : State}
    (h : execPllRelock s = .next r') : Keeps s r' := by
  unfold execPllRelock at h
  obtain rfl := Host.Outcome.next.inj h
  have hk := Keeps.refl s
  repeat' first
    | (with_reducible assumption) | (with_reducible apply pllRelock_keeps)

theorem execRefinLost_keeps {s r' : State}
    (h : execRefinLost s = .next r') : Keeps s r' := by
  unfold execRefinLost at h
  obtain rfl := Host.Outcome.next.inj h
  have hk := Keeps.refl s
  repeat' first
    | (with_reducible assumption) | (with_reducible apply refinLost_keeps)

theorem execGatingModeWrite_keeps {s r' : State} (value : W64)
    (h : execGatingModeWrite value s = .next r') : Keeps s r' := by
  unfold execGatingModeWrite at h
  obtain rfl := Host.Outcome.next.inj h
  have hk := Keeps.refl s
  repeat' first
    | (with_reducible assumption) | (with_reducible apply gatingModeWrite_keeps)

theorem execIdleClockStop_keeps {s r' : State} (d : Fin 25) (block : Nat)
    (h : execIdleClockStop d block s = .next r') : Keeps s r' := by
  unfold execIdleClockStop at h
  obtain rfl := Host.Outcome.next.inj h
  have hk := Keeps.refl s
  repeat' first
    | (with_reducible assumption) | (with_reducible apply idleClockStop_keeps)

theorem execClockWake_keeps {s r' : State} (d : Fin 25) (block : Nat)
    (h : execClockWake d block s = .next r') : Keeps s r' := by
  unfold execClockWake at h
  obtain rfl := Host.Outcome.next.inj h
  have hk := Keeps.refl s
  repeat' first
    | (with_reducible assumption) | (with_reducible apply clockWake_keeps)

theorem execGateOpen_keeps {s r' : State} (d : BitVec 5) (gate : BitVec 5)
    (h : execGateOpen d gate s = .next r') : Keeps s r' := by
  unfold execGateOpen at h
  obtain rfl := Host.Outcome.next.inj h
  have hk := Keeps.refl s
  repeat' first
    | (with_reducible assumption) | (with_reducible apply gateOpen_keeps)

theorem execGateClose_keeps {s r' : State} (d : BitVec 5) (gate : BitVec 5)
    (h : execGateClose d gate s = .next r') : Keeps s r' := by
  unfold execGateClose at h
  obtain rfl := Host.Outcome.next.inj h
  have hk := Keeps.refl s
  repeat' first
    | (with_reducible assumption) | (with_reducible apply gateClose_keeps)

theorem execFmeterStart_keeps {s r' : State} (value : W64)
    (h : execFmeterStart value s = .next r') : Keeps s r' := by
  unfold execFmeterStart at h
  obtain rfl := Host.Outcome.next.inj h
  have hk := Keeps.refl s
  repeat' first
    | (with_reducible assumption) | (with_reducible apply fmeterStart_keeps)

theorem execFmeterDone_keeps {s r' : State} (count : BitVec 48) (refStopped : Bool)
    (h : execFmeterDone count refStopped s = .next r') : Keeps s r' := by
  unfold execFmeterDone at h
  obtain rfl := Host.Outcome.next.inj h
  have hk := Keeps.refl s
  repeat' first
    | (with_reducible assumption) | (with_reducible apply fmeterDone_keeps)

theorem execIdle_keeps {s r' : State}
    (h : execIdle s = .next r') : Keeps s r' := by
  unfold execIdle at h
  obtain rfl := Host.Outcome.next.inj h
  have hk := Keeps.refl s
  repeat' first
    | (with_reducible assumption) | (with_reducible apply idle_keeps)

theorem execWake_keeps {s r' : State}
    (h : execWake s = .next r') : Keeps s r' := by
  unfold execWake at h
  obtain rfl := Host.Outcome.next.inj h
  have hk := Keeps.refl s
  repeat' first
    | (with_reducible assumption) | (with_reducible apply wake_keeps)

theorem execPowerStateChange_keeps {s r' : State}
    (h : execPowerStateChange s = .next r') : Keeps s r' := by
  unfold execPowerStateChange at h
  obtain rfl := Host.Outcome.next.inj h
  have hk := Keeps.refl s
  repeat' first
    | (with_reducible assumption) | (with_reducible apply powerStateChange_keeps)

theorem execPwrLimitWrite_keeps {s r' : State} (value : W64)
    (h : execPwrLimitWrite value s = .next r') : Keeps s r' := by
  unfold execPwrLimitWrite at h
  obtain rfl := Host.Outcome.next.inj h
  have hk := Keeps.refl s
  repeat' first
    | (with_reducible assumption) | (with_reducible apply pwrLimitWrite_keeps)

theorem execRailPoll_keeps {s r' : State} (rails : List RailSample) (answered : BitVec 5)
    (h : execRailPoll rails answered s = .next r') : Keeps s r' := by
  unfold execRailPoll at h
  obtain rfl := Host.Outcome.next.inj h
  have hk := Keeps.refl s
  repeat' first
    | (with_reducible assumption) | (with_reducible apply railPoll_keeps)

theorem execTemperatureSample_keeps {s r' : State} (temps : List Int)
    (h : execTemperatureSample temps s = .next r') : Keeps s r' := by
  unfold execTemperatureSample at h
  obtain rfl := Host.Outcome.next.inj h
  have hk := Keeps.refl s
  repeat' first
    | (with_reducible assumption) | (with_reducible apply temperatureSample_keeps)

theorem execVddCoreAdjust_keeps {s r' : State} (stepUv : Int)
    (h : execVddCoreAdjust stepUv s = .next r') : Keeps s r' := by
  unfold execVddCoreAdjust at h
  obtain rfl := Host.Outcome.next.inj h
  have hk := Keeps.refl s
  repeat' first
    | (with_reducible assumption) | (with_reducible apply vddCoreAdjust_keeps)

theorem execAvsFail_keeps {s r' : State}
    (h : execAvsFail s = .next r') : Keeps s r' := by
  unfold execAvsFail at h
  obtain rfl := Host.Outcome.next.inj h
  have hk := Keeps.refl s
  repeat' first
    | (with_reducible assumption) | (with_reducible apply avsFail_keeps)

theorem execAvsTelemetry_keeps {s r' : State} (rail : Fin 5)
    (h : execAvsTelemetry rail s = .next r') : Keeps s r' := by
  unfold execAvsTelemetry at h
  obtain rfl := Host.Outcome.next.inj h
  have hk := Keeps.refl s
  repeat' first
    | (with_reducible assumption) | (with_reducible apply avsTelemetry_keeps)

theorem execSpineTransfer_keeps {s r' : State} (damage : SpineDamage) (header : W64)
    (h : execSpineTransfer damage header s = .next r') : Keeps s r' := by
  unfold execSpineTransfer at h
  obtain rfl := Host.Outcome.next.inj h
  have hk := Keeps.refl s
  repeat' first
    | (with_reducible assumption) | (refine fun _ h => ?_) | (with_reducible apply State.whenAwake_keeps)
    | (with_reducible apply spineTransfer_keeps)

theorem execWatchdogExpiry_keeps {s r' : State} (p : Fin 4)
    (h : execWatchdogExpiry p s = .next r') : Keeps s r' := by
  unfold execWatchdogExpiry at h
  obtain rfl := Host.Outcome.next.inj h
  have hk := Keeps.refl s
  repeat' first
    | (with_reducible assumption) | (refine fun _ h => ?_) | (with_reducible apply State.whenAwake_keeps)
    | (with_reducible apply firmwareFault_keeps)

theorem execQuiescingEnd_keeps {s r' : State} (timedOut : Bool) (ups : List Upset)
    (h : execQuiescingEnd timedOut ups s = .next r') : Keeps s r' := by
  unfold execQuiescingEnd at h
  obtain rfl := Host.Outcome.next.inj h
  have hk := Keeps.refl s
  repeat' first
    | (with_reducible assumption) | (with_reducible apply quiescingEnd_keeps)

theorem execRestartActionsDone_keeps {s r' : State}
    (h : execRestartActionsDone s = .next r') : Keeps s r' := by
  unfold execRestartActionsDone at h
  obtain rfl := Host.Outcome.next.inj h
  have hk := Keeps.refl s
  repeat' first
    | (with_reducible assumption) | (with_reducible apply restartActionsDone_keeps)

theorem execRestartFail_keeps {s r' : State}
    (h : execRestartFail s = .next r') : Keeps s r' := by
  unfold execRestartFail at h
  obtain rfl := Host.Outcome.next.inj h
  have hk := Keeps.refl s
  repeat' first
    | (with_reducible assumption) | (with_reducible apply restartFail_keeps)

theorem execFaultRecordStore_keeps {s r' : State}
    (h : execFaultRecordStore s = .next r') : Keeps s r' := by
  unfold execFaultRecordStore at h
  obtain rfl := Host.Outcome.next.inj h
  have hk := Keeps.refl s
  repeat' first
    | (with_reducible assumption) | (with_reducible apply faultRecordStore_keeps)

theorem execFenceAdd_keeps {s r' : State} (bit : BitVec 13)
    (h : execFenceAdd bit s = .next r') : Keeps s r' := by
  unfold execFenceAdd at h
  obtain rfl := Host.Outcome.next.inj h
  have hk := Keeps.refl s
  repeat' first
    | (with_reducible assumption) | (with_reducible apply fenceOp_keeps)

theorem execFenceRemove_keeps {s r' : State} (bit : BitVec 13)
    (h : execFenceRemove bit s = .next r') : Keeps s r' := by
  unfold execFenceRemove at h
  obtain rfl := Host.Outcome.next.inj h
  have hk := Keeps.refl s
  repeat' first
    | (with_reducible assumption) | (with_reducible apply fenceOp_keeps)

theorem execFenceConfirm_keeps {s r' : State}
    (h : execFenceConfirm s = .next r') : Keeps s r' := by
  unfold execFenceConfirm at h
  obtain rfl := Host.Outcome.next.inj h
  have hk := Keeps.refl s
  repeat' first
    | (with_reducible assumption) | (with_reducible apply fenceOp_keeps)

theorem execFenceStoreDone_keeps {s r' : State} (ok : Bool)
    (h : execFenceStoreDone ok s = .next r') : Keeps s r' := by
  unfold execFenceStoreDone at h
  obtain rfl := Host.Outcome.next.inj h
  have hk := Keeps.refl s
  repeat' first
    | (with_reducible assumption) | (with_reducible apply fenceStoreDone_keeps)

theorem execNonce_keeps {s r' : State} (o : Order)
    (h : execNonce o s = .next r') : Keeps s r' := by
  unfold execNonce at h
  obtain rfl := Host.Outcome.next.inj h
  have hk := Keeps.refl s
  repeat' first
    | (with_reducible assumption) | (with_reducible apply secService_keeps)

theorem execNonceExpiry_keeps {s r' : State}
    (h : execNonceExpiry s = .next r') : Keeps s r' := by
  unfold execNonceExpiry at h
  obtain rfl := Host.Outcome.next.inj h
  have hk := Keeps.refl s
  repeat' first
    | (with_reducible assumption) | (with_reducible apply nonceExpiry_keeps)

theorem execCoAuth_keeps {s r' : State} (o : Order) (_sig : Verdict)
    (h : execCoAuth o _sig s = .next r') : Keeps s r' := by
  unfold execCoAuth at h
  obtain rfl := Host.Outcome.next.inj h
  have hk := Keeps.refl s
  repeat' first
    | (with_reducible assumption) | (with_reducible apply secService_keeps)

theorem execCoLogout_keeps {s r' : State} (o : Order)
    (h : execCoLogout o s = .next r') : Keeps s r' := by
  unfold execCoLogout at h
  obtain rfl := Host.Outcome.next.inj h
  have hk := Keeps.refl s
  repeat' first
    | (with_reducible assumption) | (with_reducible apply secService_keeps)

theorem execCoSessionTimeout_keeps {s r' : State}
    (h : execCoSessionTimeout s = .next r') : Keeps s r' := by
  unfold execCoSessionTimeout at h
  obtain rfl := Host.Outcome.next.inj h
  have hk := Keeps.refl s
  repeat' first
    | (with_reducible assumption) | (with_reducible apply coSessionTimeout_keeps)

theorem execSelfTest_keeps {s r' : State} (o : Order) (failTest : Byte)
    (h : execSelfTest o failTest s = .next r') : Keeps s r' := by
  unfold execSelfTest at h
  obtain rfl := Host.Outcome.next.inj h
  have hk := Keeps.refl s
  repeat' first
    | (with_reducible assumption) | (with_reducible apply secService_keeps)

theorem execAttest_keeps {s r' : State} (o : Order)
    (h : execAttest o s = .next r') : Keeps s r' := by
  unfold execAttest at h
  obtain rfl := Host.Outcome.next.inj h
  have hk := Keeps.refl s
  repeat' first
    | (with_reducible assumption) | (with_reducible apply secService_keeps)

theorem execGetCert_keeps {s r' : State} (o : Order)
    (h : execGetCert o s = .next r') : Keeps s r' := by
  unfold execGetCert at h
  obtain rfl := Host.Outcome.next.inj h
  have hk := Keeps.refl s
  repeat' first
    | (with_reducible assumption) | (with_reducible apply secService_keeps)

theorem execKeyEnroll_keeps {s r' : State} (o : Order)
    (h : execKeyEnroll o s = .next r') : Keeps s r' := by
  unfold execKeyEnroll at h
  obtain rfl := Host.Outcome.next.inj h
  have hk := Keeps.refl s
  repeat' first
    | (with_reducible assumption) | (with_reducible apply secService_keeps)

theorem execKeyRevoke_keeps {s r' : State} (o : Order)
    (h : execKeyRevoke o s = .next r') : Keeps s r' := by
  unfold execKeyRevoke at h
  obtain rfl := Host.Outcome.next.inj h
  have hk := Keeps.refl s
  repeat' first
    | (with_reducible assumption) | (with_reducible apply secService_keeps)

theorem execSvnAdvance_keeps {s r' : State} (o : Order)
    (h : execSvnAdvance o s = .next r') : Keeps s r' := by
  unfold execSvnAdvance at h
  obtain rfl := Host.Outcome.next.inj h
  have hk := Keeps.refl s
  repeat' first
    | (with_reducible assumption) | (with_reducible apply secService_keeps)

theorem execRosterSet_keeps {s r' : State} (o : Order) (_sig : Verdict)
    (h : execRosterSet o _sig s = .next r') : Keeps s r' := by
  unfold execRosterSet at h
  obtain rfl := Host.Outcome.next.inj h
  have hk := Keeps.refl s
  repeat' first
    | (with_reducible assumption) | (with_reducible apply secService_keeps)

theorem execFwUpdate_keeps {s r' : State} (o : Order) (_key : Verdict) (_sig : Verdict)
    (h : execFwUpdate o _key _sig s = .next r') : Keeps s r' := by
  unfold execFwUpdate at h
  obtain rfl := Host.Outcome.next.inj h
  have hk := Keeps.refl s
  repeat' first
    | (with_reducible assumption) | (with_reducible apply secService_keeps)

theorem execDebugUnlock_keeps {s r' : State} (o : Order) (_sig : Verdict)
    (h : execDebugUnlock o _sig s = .next r') : Keeps s r' := by
  unfold execDebugUnlock at h
  obtain rfl := Host.Outcome.next.inj h
  have hk := Keeps.refl s
  repeat' first
    | (with_reducible assumption) | (with_reducible apply secService_keeps)

theorem execDebugLock_keeps {s r' : State} (o : Order)
    (h : execDebugLock o s = .next r') : Keeps s r' := by
  unfold execDebugLock at h
  obtain rfl := Host.Outcome.next.inj h
  have hk := Keeps.refl s
  repeat' first
    | (with_reducible assumption) | (with_reducible apply secService_keeps)

theorem execDebugExpiry_keeps {s r' : State}
    (h : execDebugExpiry s = .next r') : Keeps s r' := by
  unfold execDebugExpiry at h
  obtain rfl := Host.Outcome.next.inj h
  have hk := Keeps.refl s
  repeat' first
    | (with_reducible assumption) | (with_reducible apply debugExpiry_keeps)

theorem execZeroizeSession_keeps {s r' : State} (o : Order)
    (h : execZeroizeSession o s = .next r') : Keeps s r' := by
  unfold execZeroizeSession at h
  obtain rfl := Host.Outcome.next.inj h
  have hk := Keeps.refl s
  repeat' first
    | (with_reducible assumption) | (with_reducible apply zeroize_keeps)

theorem execZeroizeData_keeps {s r' : State} (o : Order)
    (h : execZeroizeData o s = .next r') : Keeps s r' := by
  unfold execZeroizeData at h
  obtain rfl := Host.Outcome.next.inj h
  have hk := Keeps.refl s
  repeat' first
    | (with_reducible assumption) | (with_reducible apply zeroize_keeps)

theorem execZeroizeDevice_keeps {s r' : State} (o : Order)
    (h : execZeroizeDevice o s = .next r') : Keeps s r' := by
  unfold execZeroizeDevice at h
  obtain rfl := Host.Outcome.next.inj h
  have hk := Keeps.refl s
  repeat' first
    | (with_reducible assumption) | (with_reducible apply zeroize_keeps)

theorem execZeroizationComplete_keeps {s r' : State}
    (h : execZeroizationComplete s = .next r') : Keeps s r' := by
  unfold execZeroizationComplete at h
  obtain rfl := Host.Outcome.next.inj h
  have hk := Keeps.refl s
  repeat' first
    | (with_reducible assumption) | (with_reducible apply zeroizationComplete_keeps)

theorem execRandom_keeps {s r' : State} (o : Order)
    (h : execRandom o s = .next r') : Keeps s r' := by
  unfold execRandom at h
  obtain rfl := Host.Outcome.next.inj h
  have hk := Keeps.refl s
  repeat' first
    | (with_reducible assumption) | (with_reducible apply secService_keeps)

theorem execDrbgReseed_keeps {s r' : State}
    (h : execDrbgReseed s = .next r') : Keeps s r' := by
  unfold execDrbgReseed at h
  obtain rfl := Host.Outcome.next.inj h
  have hk := Keeps.refl s
  repeat' first
    | (with_reducible assumption) | (with_reducible apply drbgReseed_keeps)

theorem execEntropySample_keeps {s r' : State} (value : Byte)
    (h : execEntropySample value s = .next r') : Keeps s r' := by
  unfold execEntropySample at h
  obtain rfl := Host.Outcome.next.inj h
  have hk := Keeps.refl s
  repeat' first
    | (with_reducible assumption) | (with_reducible apply entropySample_keeps)

theorem execJtagInstruction_keeps {s r' : State} (op : JtagOp)
    (h : execJtagInstruction op s = .next r') : Keeps s r' := by
  unfold execJtagInstruction at h
  obtain rfl := Host.Outcome.next.inj h
  have hk := Keeps.refl s
  repeat' first
    | (with_reducible assumption) | (with_reducible apply jtagInstruction_keeps)

theorem execResetRelease_keeps {s r' : State} (b : BootSeen) (h : execResetRelease b s = .next r') :
    Keeps (s.recordsRead b) r' := by
  obtain rfl := Host.Outcome.next.inj h
  exact resetRelease_keeps s b

theorem execReset_keeps {s r' : State}
    (h : execReset s = .next r') : Keeps s r' := by
  unfold execReset at h
  obtain rfl := Host.Outcome.next.inj h
  have hk := Keeps.refl s
  repeat' first
    | (with_reducible assumption) | (with_reducible apply State.inReset_keeps)

theorem execPowerLoss_keeps {s r' : State}
    (h : execPowerLoss s = .next r') : Keeps s r' := by
  unfold execPowerLoss at h
  obtain rfl := Host.Outcome.next.inj h
  have hk := Keeps.refl s
  repeat' first
    | (with_reducible assumption) | (with_reducible apply powerLoss_keeps)

theorem execNvmCommit_keeps {s r' : State} (via : Via) (base : W64)
    (h : execNvmCommit via base s = .next r') : Keeps s r' := by
  unfold execNvmCommit at h
  obtain rfl := Host.Outcome.next.inj h
  have hk := Keeps.refl s
  repeat' first
    | (with_reducible assumption) | (with_reducible apply nvmCommit_keeps)

theorem execCommitDone_keeps {s r' : State} (readBackOk : Bool)
    (h : execCommitDone readBackOk s = .next r') : Keeps s r' := by
  unfold execCommitDone at h
  obtain rfl := Host.Outcome.next.inj h
  have hk := Keeps.refl s
  repeat' first
    | (with_reducible assumption) | (with_reducible apply commitDone_keeps)

theorem execRegRead_keeps {s r' : State} (addr : W64)
    (h : execRegRead addr s = .next r') : Keeps s r' := by
  unfold execRegRead at h
  obtain rfl := Host.Outcome.next.inj h
  have hk := Keeps.refl s
  repeat' first
    | (with_reducible assumption) | (with_reducible apply regRead_keeps)

theorem execRegValue_keeps {s r' : State}
    (h : execRegValue s = .next r') : Keeps s r' := by
  unfold execRegValue at h
  obtain rfl := Host.Outcome.next.inj h
  have hk := Keeps.refl s
  repeat' first
    | (with_reducible assumption) | (with_reducible apply regValueRead_keeps)

theorem execBootBegin_keeps {s r' : State} (kind : Byte)
    (h : execBootBegin kind s = .next r') : Keeps s r' := by
  unfold execBootBegin at h
  obtain rfl := Host.Outcome.next.inj h
  have hk := Keeps.refl s
  repeat' first
    | (with_reducible assumption) | (with_reducible apply bootBegin_keeps)

theorem execBootData_keeps {s r' : State} (offset : W32) (data : List Byte)
    (h : execBootData offset data s = .next r') : Keeps s r' := by
  unfold execBootData at h
  obtain rfl := Host.Outcome.next.inj h
  have hk := Keeps.refl s
  repeat' first
    | (with_reducible assumption) | (with_reducible apply bootData_keeps)

theorem execBootEnd_keeps {s r' : State}
    (h : execBootEnd s = .next r') : Keeps s r' := by
  unfold execBootEnd at h
  obtain rfl := Host.Outcome.next.inj h
  have hk := Keeps.refl s
  repeat' first
    | (with_reducible assumption) | (with_reducible apply bootEnd_keeps)

theorem execBootStatus_keeps {s r' : State}
    (h : execBootStatus s = .next r') : Keeps s r' := by
  unfold execBootStatus at h
  obtain rfl := Host.Outcome.next.inj h
  have hk := Keeps.refl s
  repeat' first
    | (with_reducible assumption) | (with_reducible apply bootStatus_keeps)

theorem execBootVerifyDone_keeps {s r' : State} (_key : Verdict) (_sig : Verdict)
    (h : execBootVerifyDone _key _sig s = .next r') : Keeps s r' := by
  unfold execBootVerifyDone at h
  obtain rfl := Host.Outcome.next.inj h
  have hk := Keeps.refl s
  repeat' first
    | (with_reducible assumption) | (with_reducible apply bootVerifyDone_keeps)

theorem execReceiveSignal_keeps {s r' : State} (n : Fin 32)
    (h : execReceiveSignal n s = .next r') : Keeps s r' := by
  unfold execReceiveSignal at h
  obtain rfl := Host.Outcome.next.inj h
  have hk := Keeps.refl s
  repeat' first
    | (with_reducible assumption) | (with_reducible apply receiveSignal_keeps)

theorem execFirmwareException_keeps {s r' : State} (p : Fin 4)
    (h : execFirmwareException p s = .next r') : Keeps s r' := by
  unfold execFirmwareException at h
  obtain rfl := Host.Outcome.next.inj h
  have hk := Keeps.refl s
  repeat' first
    | (with_reducible assumption) | (refine fun _ h => ?_) | (with_reducible apply State.whenAwake_keeps)
    | (with_reducible apply firmwareFault_keeps)

theorem execFirmwareMemoryError_keeps {s r' : State} (p : Fin 4) (kind : EccKind)
    (h : execFirmwareMemoryError p kind s = .next r') : Keeps s r' := by
  unfold execFirmwareMemoryError at h
  obtain rfl := Host.Outcome.next.inj h
  have hk := Keeps.refl s
  repeat' first
    | (with_reducible assumption) | (refine fun _ h => ?_) | (with_reducible apply State.whenAwake_keeps)
    | (with_reducible apply firmwareMemoryError_keeps)

theorem execLocalInputPresent_keeps {s r' : State}
    (h : execLocalInputPresent s = .next r') : Keeps s r' := by
  unfold execLocalInputPresent at h
  obtain rfl := Host.Outcome.next.inj h
  have hk := Keeps.refl s
  repeat' first
    | (with_reducible assumption) | (with_reducible apply localInputPresent_keeps)

theorem execUnlistedOpcode_keeps {s r' : State} (o : Order) (opcode : W16)
    (h : execUnlistedOpcode o opcode s = .next r') : Keeps s r' := by
  unfold execUnlistedOpcode at h
  obtain rfl := Host.Outcome.next.inj h
  have hk := Keeps.refl s
  repeat' first
    | (with_reducible assumption) | (with_reducible apply unlistedOpcode_keeps)

theorem execReservedTransaction_keeps {s r' : State} (rx : Rx) (typ : Byte)
    (h : execReservedTransaction rx typ s = .next r') : Keeps s r' := by
  unfold execReservedTransaction at h
  obtain rfl := Host.Outcome.next.inj h
  have hk := Keeps.refl s
  repeat' first
    | (with_reducible assumption) | (with_reducible apply reservedTransaction_keeps)

/-- The state a command is held against: a start-up has first read the protected records (R430). -/
def State.before (s : State) (c : Instr) : State :=
  match c with
  | .resetRelease b => s.recordsRead b
  | _ => s

/-- It is the state itself, or differs from it in the records of the security module. -/
theorem State.before_eq (s : State) (c : Instr) : s.before c = s ∨
    ∃ b, c = .resetRelease b ∧ s.before c = { s with sec := s.sec.loadRecords b.mram.badRecords } := by
  unfold State.before State.recordsRead
  split
  · split
    · exact .inl rfl
    · exact .inr ⟨_, rfl, rfl⟩
  · exact .inl rfl

theorem Sec.loadRecords_buf (x : Sec) (bad : List (Fin 4 × Bool)) : (x.loadRecords bad).buf = x.buf := by
  unfold Sec.loadRecords
  split <;> rfl

theorem State.before_held {s : State} {n : Nat} (h : s.sec.svnsHeld n) (c : Instr) : (s.before c).sec.svnsHeld n := by
  rcases s.before_eq c with e | ⟨b, -, e⟩
  · rw [e]; exact h
  · rw [e]; exact Sec.loadRecords_held h _

/-- What every command keeps. -/
theorem exec_keeps {c : Instr} {s t : State} (h : exec c s = .next t) : Keeps (s.before c) t := by
  cases c with
  | registerWrite path addr value => exact execRegisterWrite_keeps path addr value h
  | readClear path addr => exact execReadClear_keeps path addr h
  | kStep p cu scaleSeen => exact execKStep_keeps p cu scaleSeen h
  | tileOperationStart p cu => exact execTileOperationStart_keeps p cu h
  | checksumComparison p cu tile => exact execChecksumComparison_keeps p cu tile h
  | retireSetReadout p cu => exact execRetireSetReadout_keeps p cu h
  | readoutComplete p cu => exact execReadoutComplete_keeps p cu h
  | accumulatorScrub p cu errs => exact execAccumulatorScrub_keeps p cu errs h
  | rowStreamToken p cu streamY => exact execRowStreamToken_keeps p cu streamY h
  | scalarInputArrival p cu => exact execScalarInputArrival_keeps p cu h
  | narrowRead p mu off size ups => exact execNarrowRead_keeps p mu off size ups h
  | narrowWrite p mu off size value => exact execNarrowWrite_keeps p mu off size value h
  | generatorStartEvent p mu => exact execGeneratorStartEvent_keeps p mu h
  | pendingWalkStart p mu a => exact execPendingWalkStart_keeps p mu a h
  | generatorAddress p mu a ups => exact execGeneratorAddress_keeps p mu a ups h
  | walkEnd p mu a => exact execWalkEnd_keeps p mu a h
  | accumulateSegment p mu => exact execAccumulateSegment_keeps p mu h
  | parkedSegmentApply p mu r => exact execParkedSegmentApply_keeps p mu r h
  | queueTokenIn p mu k => exact execQueueTokenIn_keeps p mu k h
  | queueTokenOut p mu k => exact execQueueTokenOut_keeps p mu k h
  | fill p mu dst rows byEvent => exact execFill_keeps p mu dst rows byEvent h
  | copy p mu dst src rows byEvent => exact execCopy_keeps p mu dst src rows byEvent h
  | rowCommandDone p mu => exact execRowCommandDone_keeps p mu h
  | creditReturn p mu r => exact execCreditReturn_keeps p mu r h
  | scrubRow p mu ups => exact execScrubRow_keeps p mu ups h
  | scrubLate p mu => exact execScrubLate_keeps p mu h
  | tokenArrival p site net chan flips => exact execTokenArrival_keeps p site net chan flips h
  | tokenDeparture p site net chan unitReady unitParityBad => exact execTokenDeparture_keeps p site net chan unitReady unitParityBad h
  | queueBlocked p site net chan => exact execQueueBlocked_keeps p site net chan h
  | deadlockResolution p cycle => exact execDeadlockResolution_keeps p cycle h
  | spillEnd p site => exact execSpillEnd_keeps p site h
  | drain p mask via => exact execDrain_keeps p mask via h
  | drainComplete p mask => exact execDrainComplete_keeps p mask h
  | drainTimeout p mask => exact execDrainTimeout_keeps p mask h
  | resume p mask via => exact execResume_keeps p mask via h
  | load via => exact execLoad_keeps via h
  | loadComplete sig ups => exact execLoadComplete_keeps sig ups h
  | loadPartial via => exact execLoadPartial_keeps via h
  | partialLoadComplete sig ups => exact execPartialLoadComplete_keeps sig ups h
  | start via ups => exact execStart_keeps via ups h
  | stop via => exact execStop_keeps via h
  | stopComplete => exact execStopComplete_keeps h
  | unload via => exact execUnload_keeps via h
  | abort via => exact execAbort_keeps via h
  | pushWalk p mu a ups => exact execPushWalk_keeps p mu a ups h
  | popWalk p mu a ups => exact execPopWalk_keeps p mu a ups h
  | stashSpill p mu r ups => exact execStashSpill_keeps p mu r ups h
  | stashRefill p mu r ups => exact execStashRefill_keeps p mu r ups h
  | dmaDescriptorStart p => exact execDmaDescriptorStart_keeps p h
  | rowRequestIssue p => exact execRowRequestIssue_keeps p h
  | rowRequestDone p ix ups => exact execRowRequestDone_keeps p ix ups h
  | descriptorComplete p => exact execDescriptorComplete_keeps p h
  | dmaHqPush p go => exact execDmaHqPush_keeps p go h
  | triggerFire p t => exact execTriggerFire_keeps p t h
  | sequencerStart p ix => exact execSequencerStart_keeps p ix h
  | sequencerPendingStart p => exact execSequencerPendingStart_keeps p h
  | bmkRead src ix => exact execBmkRead_keeps src ix h
  | bmkAdd src ix v => exact execBmkAdd_keeps src ix v h
  | bmkSet src ix v => exact execBmkSet_keeps src ix v h
  | bmkWait src ix v => exact execBmkWait_keeps src ix v h
  | bmkArm src ix thr mode => exact execBmkArm_keeps src ix thr mode h
  | bmkReservedOp src ix op => exact execBmkReservedOp_keeps src ix op h
  | requantisation item ups => exact execRequantisation_keeps item ups h
  | sealSend => exact execSealSend_keeps h
  | normRecord rx rec => exact execNormRecord_keeps rx rec h
  | exchangeTimeout => exact execExchangeTimeout_keeps h
  | pass1Start => exact execPass1Start_keeps h
  | auElementEvaluate g ups => exact execAuElementEvaluate_keeps g ups h
  | parkedSlotEvaluate g slot ups => exact execParkedSlotEvaluate_keeps g slot ups h
  | gateSend => exact execGateSend_keeps h
  | pass2Start blocks => exact execPass2Start_keeps blocks h
  | commitSend => exact execCommitSend_keeps h
  | stepBoundary => exact execStepBoundary_keeps h
  | coefSet order => exact execCoefSet_keeps order h
  | freezeSet order => exact execFreezeSet_keeps order h
  | auStepWrite g value => exact execAuStepWrite_keeps g value h
  | dramRead user cmd ups => exact execDramRead_keeps user cmd ups h
  | dramWrite user addr data poison failedRetries ups => exact execDramWrite_keeps user addr data poison failedRetries ups h
  | dramRefresh cmd => exact execDramRefresh_keeps cmd h
  | dramHot cmd => exact execDramHot_keeps cmd h
  | patrolScrub chan ups => exact execPatrolScrub_keeps chan ups h
  | capture via step => exact execCapture_keeps via step h
  | restore via newest step => exact execRestore_keeps via newest step h
  | monumentAbort via => exact execMonumentAbort_keeps via h
  | chunkRead ups => exact execChunkRead_keeps ups h
  | ackFrame rx frame => exact execAckFrame_keeps rx frame h
  | retryResend index => exact execRetryResend_keeps index h
  | silenceResend index => exact execSilenceResend_keeps index h
  | resendLimit index => exact execResendLimit_keeps index h
  | recordSignature => exact execRecordSignature_keeps h
  | monBankWait => exact execMonBankWait_keeps h
  | chunkFrame rx frame => exact execChunkFrame_keeps rx frame h
  | recordFrame rx frame sig => exact execRecordFrame_keeps rx frame sig h
  | abandonFrame rx frame => exact execAbandonFrame_keeps rx frame h
  | pullFrame rx frame => exact execPullFrame_keeps rx frame h
  | closureDigestDone ups => exact execClosureDigestDone_keeps ups h
  | closureDeadline => exact execClosureDeadline_keeps h
  | laserLost k => exact execLaserLost_keeps k h
  | laserReturn k => exact execLaserReturn_keeps k h
  | laneLockLoss n lane => exact execLaneLockLoss_keeps n lane h
  | trainingDone n => exact execTrainingDone_keeps n h
  | announce n a sig => exact execAnnounce_keeps n a sig h
  | keyx n ciphertext transcript signature => exact execKeyx_keeps n ciphertext transcript signature h
  | dataFlit n f fec => exact execDataFlit_keeps n f fec h
  | linkFlit n f ended bad => exact execLinkFlit_keeps n f ended bad h
  | ackReport n => exact execAckReport_keeps n h
  | nakRepeat n => exact execNakRepeat_keeps n h
  | replayLimit n => exact execReplayLimit_keeps n h
  | retrain n => exact execRetrain_keeps n h
  | rekey n => exact execRekey_keeps n h
  | rekeyTimeout n => exact execRekeyTimeout_keeps n h
  | keyPhaseGraceEnd n => exact execKeyPhaseGraceEnd_keeps n h
  | rwrite rx addr data poison => exact execRwrite_keeps rx addr data poison h
  | rread rx addr bytes ups => exact execRread_keeps rx addr bytes ups h
  | resp rx code answered value data => exact execResp_keeps rx code answered value data h
  | coll rx addr mode contrib entry tokens => exact execColl_keeps rx addr mode contrib entry tokens h
  | cpl rx code opcode value => exact execCpl_keeps rx code opcode value h
  | mgmtRead rx addr => exact execMgmtRead_keeps rx addr h
  | mgmtWrite rx addr value => exact execMgmtWrite_keeps rx addr value h
  | member rx table sig => exact execMember_keeps rx table sig h
  | linkstate rx keyId ports => exact execLinkstate_keeps rx keyId ports h
  | transactionForward t => exact execTransactionForward_keeps t h
  | forwardStall tag => exact execForwardStall_keeps tag h
  | lxTimeout tag => exact execLxTimeout_keeps tag h
  | streamEntryFire e => exact execStreamEntryFire_keeps e h
  | datumFrameSend n => exact execDatumFrameSend_keeps n h
  | datumFrame rx f t4frac => exact execDatumFrame_keeps rx f t4frac h
  | referenceLoss portLeft => exact execReferenceLoss_keeps portLeft h
  | holdoverExpiry => exact execHoldoverExpiry_keeps h
  | localRef via => exact execLocalRef_keeps via h
  | reacquire via => exact execReacquire_keeps via h
  | dtmTimeSet value => exact execDtmTimeSet_keeps value h
  | stepStart order => exact execStepStart_keeps order h
  | stepStartTime => exact execStepStartTime_keeps h
  | nop order => exact execNop_keeps order h
  | commandActivation id => exact execCommandActivation_keeps id h
  | deadlineMissed id => exact execDeadlineMissed_keeps id h
  | consume slot => exact execConsume_keeps slot h
  | slotWord0Read slot => exact execSlotWord0Read_keeps slot h
  | notifyPop => exact execNotifyPop_keeps h
  | broadcastGo all dev => exact execBroadcastGo_keeps all dev h
  | pllLockFail d => exact execPllLockFail_keeps d h
  | pllRelock => exact execPllRelock_keeps h
  | refinLost => exact execRefinLost_keeps h
  | gatingModeWrite value => exact execGatingModeWrite_keeps value h
  | idleClockStop d block => exact execIdleClockStop_keeps d block h
  | clockWake d block => exact execClockWake_keeps d block h
  | gateOpen d gate => exact execGateOpen_keeps d gate h
  | gateClose d gate => exact execGateClose_keeps d gate h
  | fmeterStart value => exact execFmeterStart_keeps value h
  | fmeterDone count refStopped => exact execFmeterDone_keeps count refStopped h
  | idle => exact execIdle_keeps h
  | wake => exact execWake_keeps h
  | powerStateChange => exact execPowerStateChange_keeps h
  | pwrLimitWrite value => exact execPwrLimitWrite_keeps value h
  | railPoll avgMw answered => exact execRailPoll_keeps avgMw answered h
  | temperatureSample temps => exact execTemperatureSample_keeps temps h
  | vddCoreAdjust stepUv => exact execVddCoreAdjust_keeps stepUv h
  | avsFail => exact execAvsFail_keeps h
  | avsTelemetry rail => exact execAvsTelemetry_keeps rail h
  | spineTransfer damage header => exact execSpineTransfer_keeps damage header h
  | watchdogExpiry p => exact execWatchdogExpiry_keeps p h
  | quiescingEnd timedOut ups => exact execQuiescingEnd_keeps timedOut ups h
  | restartActionsDone => exact execRestartActionsDone_keeps h
  | restartFail => exact execRestartFail_keeps h
  | faultRecordStore => exact execFaultRecordStore_keeps h
  | fenceAdd bit => exact execFenceAdd_keeps bit h
  | fenceRemove bit => exact execFenceRemove_keeps bit h
  | fenceConfirm => exact execFenceConfirm_keeps h
  | fenceStoreDone ok => exact execFenceStoreDone_keeps ok h
  | nonce order => exact execNonce_keeps order h
  | nonceExpiry => exact execNonceExpiry_keeps h
  | coAuth order sig => exact execCoAuth_keeps order sig h
  | coLogout order => exact execCoLogout_keeps order h
  | coSessionTimeout => exact execCoSessionTimeout_keeps h
  | selfTest order failTest => exact execSelfTest_keeps order failTest h
  | attest order => exact execAttest_keeps order h
  | getCert order => exact execGetCert_keeps order h
  | keyEnroll order => exact execKeyEnroll_keeps order h
  | keyRevoke order => exact execKeyRevoke_keeps order h
  | svnAdvance order => exact execSvnAdvance_keeps order h
  | rosterSet order sig => exact execRosterSet_keeps order sig h
  | fwUpdate order key sig => exact execFwUpdate_keeps order key sig h
  | debugUnlock order sig => exact execDebugUnlock_keeps order sig h
  | debugLock order => exact execDebugLock_keeps order h
  | debugExpiry => exact execDebugExpiry_keeps h
  | zeroizeSession order => exact execZeroizeSession_keeps order h
  | zeroizeData order => exact execZeroizeData_keeps order h
  | zeroizeDevice order => exact execZeroizeDevice_keeps order h
  | zeroizationComplete => exact execZeroizationComplete_keeps h
  | random order => exact execRandom_keeps order h
  | drbgReseed => exact execDrbgReseed_keeps h
  | entropySample value => exact execEntropySample_keeps value h
  | jtagInstruction op => exact execJtagInstruction_keeps op h
  | resetRelease seen => exact execResetRelease_keeps seen h
  | reset => exact execReset_keeps h
  | powerLoss => exact execPowerLoss_keeps h
  | nvmCommit via base => exact execNvmCommit_keeps via base h
  | commitDone readBackOk => exact execCommitDone_keeps readBackOk h
  | regRead addr => exact execRegRead_keeps addr h
  | regValue => exact execRegValue_keeps h
  | bootBegin kind => exact execBootBegin_keeps kind h
  | bootData offset data => exact execBootData_keeps offset data h
  | bootEnd => exact execBootEnd_keeps h
  | bootStatus => exact execBootStatus_keeps h
  | bootVerifyDone key sig => exact execBootVerifyDone_keeps key sig h
  | receiveSignal n => exact execReceiveSignal_keeps n h
  | firmwareException p => exact execFirmwareException_keeps p h
  | firmwareMemoryError p kind => exact execFirmwareMemoryError_keeps p kind h
  | localInputPresent => exact execLocalInputPresent_keeps h
  | unlistedOpcode order opcode => exact execUnlistedOpcode_keeps order opcode h
  | reservedTransaction rx typ => exact execReservedTransaction_keeps rx typ h

/-- What every step keeps of a state, its queue apart. -/
theorem step_keeps {s t : State} {c : Instr} {rest : List Instr} (q : s.pending = c :: rest) (h : step s = .next t) :
    Keeps (({ s with pending := rest } : State).before c) t := by
  unfold step at h
  rw [q] at h
  exact exec_keeps h

end Sys2Proof.Machine
end

