-- ==== Sys2Proof/Laws/Links.lean ====
section
/-! SUPPORT. What every arriving transaction does at its port. -/
namespace Sys2Proof.Machine

/-- A transaction that is heard leaves the receive buffer and is handed on. -/
theorem State.arrive_heard {s : State} {rx : Rx} (h : s.hears rx) (body : TBody) (f : State → Rx → State) :
    s.arrive rx body f = f (s.received rx body) (s.headerOf rx) := by
  obtain ⟨h1, h2⟩ := h
  simp [State.arrive, h1, h2, State.received, State.headerOf]

/-- One that is taken has its effect here. -/
theorem State.take_here {s : State} {rx : Rx} {body : TBody} (h : s.takes rx body) (f : State → Rx → State) :
    s.take rx body f = f (s.taken rx body) (s.headerOf rx) := by
  obtain ⟨h1, h2, h3⟩ := h
  simp [State.take, State.arrive_heard h1, h2, h3, State.taken]

/-- One for another device is passed on. -/
theorem State.take_on {s : State} {rx : Rx} {body : TBody} (h : s.hears rx)
    (hm : (s.received rx body).forMe (s.headerOf rx) = false) (ho : (s.received rx body).openHere (s.headerOf rx) body = false)
    (f : State → Rx → State) : s.take rx body f = (s.received rx body).forward (s.headerOf rx) body := by
  simp [State.take, State.arrive_heard h, hm, ho]

/-- A device without a number passes a MGMT access on and serves it. -/
theorem State.take_open {s : State} {rx : Rx} {body : TBody} (h : s.servesOpen rx body) (f : State → Rx → State) :
    s.take rx body f = f (s.openedHere rx body) (s.headerOf rx) := by
  obtain ⟨h, hm, ho⟩ := h
  simp [State.take, State.arrive_heard h, hm, ho, State.openedHere]

/-- A flooded transaction that is new and whole has its effect here, once. -/
theorem State.flooded_here {s : State} {rx : Rx} {body : TBody} (h : s.floodsHere rx body) (f : State → State) :
    s.flooded rx body f = f (s.floodedHere rx body) := by
  obtain ⟨h1, h2, h3⟩ := h
  unfold State.flooded
  rw [State.arrive_heard h1]
  simp only [h2, Bool.not_true, Bool.false_eq_true, if_false]
  exact if_pos h3

end Sys2Proof.Machine
end

