-- ==== Sys2Proof/Laws/Mem.lean ====
section
/-! SUPPORT. Reads of undamaged memory: an MU without damage answers its bytes and changes nothing. -/
namespace Sys2Proof.Machine

theorem State.muCheck_clean (s : State) (p n off len : Nat) (rd : MuReader) (h : (s.mu p n).ecc = [])
    (h2 : (s.mu p n).tagEcc = []) : s.muCheck p n off len rd = s := by
  unfold State.muCheck
  split <;> simp [h, h2]

theorem State.muRead_clean (s : State) (p n off len : Nat) (rd : MuReader) (h : (s.mu p n).ecc = [])
    (h2 : (s.mu p n).tagEcc = []) : s.muRead p n off len rd =
      ((s.mu p n).sram.read off len,
       (if len = 0 then [] else List.range' (off / 512) ((off + len - 1) / 512 - off / 512 + 1)).any (s.mu p n).rowPoison, s) := by
  unfold State.muRead
  simp only [State.muCheck_clean s p n off len rd h h2]

/-- A whole row that is read: its bytes and its poison. -/
theorem State.muRead_row (s : State) (p n row : Nat) (rd : MuReader) (h : (s.mu p n).ecc = []) (h2 : (s.mu p n).tagEcc = []) :
    s.muRead p n (512 * row) 512 rd = ((s.mu p n).sram.read (512 * row) 512, (s.mu p n).rowPoison row, s) := by
  have e1 : 512 * row / 512 = row := by omega
  have e2 : (512 * row + 512 - 1) / 512 = row := by omega
  rw [State.muRead_clean s p n _ _ rd h h2, e1, e2]
  simp [List.range'_succ]

end Sys2Proof.Machine
end

