-- ==== Sys2Proof/Laws/Orders.lean ====
section
/-! SUPPORT. What the shared operations of the command path do: an order that meets nothing starts, and a write that
reaches its block has its effect. -/
namespace Sys2Proof.Machine

/-- An access wakes the clocks over its block and does nothing else (R384). -/
theorem State.woken_eq (s : State) (b : Block) : s.woken b = { s with clk := (s.woken b).clk } := by
  unfold State.woken
  generalize s.gatesOver b = l
  induction l generalizing s with
  | nil => rfl
  | cons g l ih => rw [List.foldl_cons, ih]

@[simp] theorem State.woken_pending (s : State) (b : Block) : (s.woken b).pending = s.pending := by rw [s.woken_eq]
@[simp] theorem State.woken_out (s : State) (b : Block) : (s.woken b).out = s.out := by rw [s.woken_eq]
@[simp] theorem State.woken_free (s : State) (b : Block) : (s.woken b).free = s.free := by rw [s.woken_eq]
@[simp] theorem State.woken_img (s : State) (b : Block) : (s.woken b).img = s.img := by rw [s.woken_eq]
@[simp] theorem State.woken_cfg (s : State) (b : Block) : (s.woken b).cfg = s.cfg := by rw [s.woken_eq]
@[simp] theorem State.woken_adj (s : State) (b : Block) : (s.woken b).adj = s.adj := by rw [s.woken_eq]
@[simp] theorem State.woken_cus (s : State) (b : Block) : (s.woken b).cus = s.cus := by rw [s.woken_eq]
@[simp] theorem State.woken_mus (s : State) (b : Block) : (s.woken b).mus = s.mus := by rw [s.woken_eq]
@[simp] theorem State.woken_sws (s : State) (b : Block) : (s.woken b).sws = s.sws := by rw [s.woken_eq]
@[simp] theorem State.woken_plats (s : State) (b : Block) : (s.woken b).plats = s.plats := by rw [s.woken_eq]
@[simp] theorem State.woken_bmks (s : State) (b : Block) : (s.woken b).bmks = s.bmks := by rw [s.woken_eq]
@[simp] theorem State.woken_aus (s : State) (b : Block) : (s.woken b).aus = s.aus := by rw [s.woken_eq]
@[simp] theorem State.woken_dram (s : State) (b : Block) : (s.woken b).dram = s.dram := by rw [s.woken_eq]
@[simp] theorem State.woken_mon (s : State) (b : Block) : (s.woken b).mon = s.mon := by rw [s.woken_eq]
@[simp] theorem State.woken_ports (s : State) (b : Block) : (s.woken b).ports = s.ports := by rw [s.woken_eq]
@[simp] theorem State.woken_lxg (s : State) (b : Block) : (s.woken b).lxg = s.lxg := by rw [s.woken_eq]
@[simp] theorem State.woken_dtm (s : State) (b : Block) : (s.woken b).dtm = s.dtm := by rw [s.woken_eq]
@[simp] theorem State.woken_cmd (s : State) (b : Block) : (s.woken b).cmd = s.cmd := by rw [s.woken_eq]
@[simp] theorem State.woken_flt (s : State) (b : Block) : (s.woken b).flt = s.flt := by rw [s.woken_eq]
@[simp] theorem State.woken_pwr (s : State) (b : Block) : (s.woken b).pwr = s.pwr := by rw [s.woken_eq]
@[simp] theorem State.woken_sec (s : State) (b : Block) : (s.woken b).sec = s.sec := by rw [s.woken_eq]
@[simp] theorem State.woken_drbg (s : State) (b : Block) : (s.woken b).drbg = s.drbg := by rw [s.woken_eq]
@[simp] theorem State.woken_nvm (s : State) (b : Block) : (s.woken b).nvm = s.nvm := by rw [s.woken_eq]
@[simp] theorem State.woken_smb (s : State) (b : Block) : (s.woken b).smb = s.smb := by rw [s.woken_eq]
@[simp] theorem State.woken_plat (s : State) (b : Block) (p : Nat) : (s.woken b).plat p = s.plat p := by rw [s.woken_eq]; rfl
@[simp] theorem State.woken_bmk (s : State) (b : Block) (i : Nat) : (s.woken b).bmk i = s.bmk i := by rw [s.woken_eq]; rfl
@[simp] theorem State.woken_au (s : State) (b : Block) (g : Nat) : (s.woken b).au g = s.au g := by rw [s.woken_eq]; rfl
@[simp] theorem State.woken_port (s : State) (b : Block) (n : Nat) : (s.woken b).port n = s.port n := by rw [s.woken_eq]; rfl
@[simp] theorem State.woken_chan (s : State) (b : Block) (c : Nat) : (s.woken b).chan c = s.chan c := by rw [s.woken_eq]; rfl
@[simp] theorem State.woken_mg (s : State) (b : Block) (g : Nat) : (s.woken b).mg g = s.mg g := by rw [s.woken_eq]; rfl
@[simp] theorem State.woken_slot (s : State) (b : Block) (k : Nat) : (s.woken b).slot k = s.slot k := by rw [s.woken_eq]; rfl
@[simp] theorem State.woken_cu (s : State) (b : Block) (p n : Nat) : (s.woken b).cu p n = s.cu p n := by rw [s.woken_eq]; rfl
@[simp] theorem State.woken_mu (s : State) (b : Block) (p n : Nat) : (s.woken b).mu p n = s.mu p n := by rw [s.woken_eq]; rfl
@[simp] theorem State.woken_sw (s : State) (b : Block) (p n : Nat) : (s.woken b).sw p n = s.sw p n := by rw [s.woken_eq]; rfl

/-- No gate stands over these blocks. -/
@[simp] theorem State.woken_glbBlock (s : State) : s.woken .glb = s := rfl
@[simp] theorem State.woken_clkBlock (s : State) : s.woken .clk = s := rfl
@[simp] theorem State.woken_pwrBlock (s : State) : s.woken .pwr = s := rfl
@[simp] theorem State.woken_nvmBlock (s : State) : s.woken .nvm = s := rfl
@[simp] theorem State.woken_secBlock (s : State) : s.woken .sec = s := rfl
@[simp] theorem State.woken_dtmBlock (s : State) : s.woken .dtm = s := rfl
@[simp] theorem State.woken_cmdBlock (s : State) : s.woken .cmd = s := rfl
@[simp] theorem State.woken_mgBlock (s : State) (i : Nat) : s.woken (.mg i) = s := rfl
@[simp] theorem State.woken_bmkBlock (s : State) (i : Nat) : s.woken (.bmk i) = s := rfl
@[simp] theorem State.woken_trgBlock (s : State) (i : Nat) : s.woken (.trg i) = s := rfl
@[simp] theorem State.woken_seqBlock (s : State) (i : Nat) : s.woken (.seq i) = s := rfl
@[simp] theorem State.woken_bmuBlock (s : State) (i : Nat) : s.woken (.bmu i) = s := rfl

/-- An access to a block that is not gated has its effect. -/
theorem State.atBlock_open {s : State} {b : Block} (h : s.blockGated b = false) (f : State → State) :
    s.atBlock b f = f (s.woken b) := by
  have ha : s.awake = true := by
    unfold State.blockGated at h
    cases hw : s.awake <;> simp_all
  simp only [State.atBlock, ha, h, Bool.not_true, Bool.false_eq_true, if_false]

/-- A write that reaches its block has its effect. -/
theorem State.writeBy_open {s : State} {path : Path} {b : Block} (h : s.openFor path b) (f : State → State) :
    s.writeBy path b f = f (s.woken b) := by
  obtain ⟨h1, h2, h3⟩ := h
  unfold State.writeBy
  cases path <;> simp_all [State.atBlock_open]

theorem State.runOrder_eq (s : State) (id : Nat) (eff : Nat → State → State × Option Reply) :
    s.runOrder id eff =
      (let u := { s with cmd := { s.cmd with held := s.cmd.held.map (fun h => if h.id == id then { h with started := true } else h) } }
       match eff id u with
       | (t, some r) => t.complete id r
       | (t, none) => t) := by
  unfold State.runOrder
  simp only
  generalize eff id _ = x
  obtain ⟨t, r⟩ := x
  cases r <;> rfl

@[simp] theorem State.admission_cmdOnly (s : State) (a : Arrival) (c : Code) :
    s.admission a c = { s with cmd := { s.cmd with
      lastCode := if (match a with | .submit _ => true | _ => false) then c else s.cmd.lastCode } } := by
  unfold State.admission
  cases a <;> simp

/-- An order at the arbiter that can start runs its effect in the state in which it has just started. -/
theorem State.cmdHere_now {s : State} {op : W16} {o : Order} {size : Nat} (h : s.startsHere op o size)
    (eff : Nat → State → State × Option Reply) (seen : SecSeen) :
    s.cmdHere op o size eff seen = (match eff s.cmd.nextId (s.startedHere op o seen) with
      | (t, some r) => t.complete s.cmd.nextId r
      | (t, none) => t) := by
  obtain ⟨h1, h2, h3, h7, h4, h5, h6, h8⟩ := h
  by_cases hs : o.desc.slot.toNat < 512
  · have hb : (s.slot o.desc.slot.toNat).busy = false := h1 hs
    have e1 : (s.setSlot o.desc.slot.toNat { busy := true }).orderCheck { opcode := op, desc := o.desc } o = none := h2
    have e2 : (s.setSlot o.desc.slot.toNat { busy := true }).originOf o = s.originOf o := rfl
    have e3 : (s.setSlot o.desc.slot.toNat { busy := true }).tickOrders = s.tickOrders := rfl
    have e9 : (s.setSlot o.desc.slot.toNat { busy := true }).outdone { opcode := op, desc := o.desc } = [] := h7
    have e0 : (s.setSlot o.desc.slot.toNat { busy := true }).cmd.nextId = s.cmd.nextId := rfl
    unfold State.cmdHere
    simp only [hs, hb, decide_true, Bool.and_false, Bool.false_eq_true, if_false, if_true, e1, e2, e3, h3, e9, List.foldl_nil, e0]
    generalize hr : CmdWord.rival { opcode := op, desc := o.desc } ((s.originOf o).getD .firmware) (orderPort o) = r
    have e6 : ∀ q : W16, ((((s.setSlot o.desc.slot.toNat { busy := true }).noteOrder (some s.cmd.nextId) r).admission o.arrival Codes.ok).setSlot
        q.toNat { ((((s.setSlot o.desc.slot.toNat { busy := true }).noteOrder (some s.cmd.nextId) r).admission o.arrival
          Codes.ok).slot q.toNat) with accepted := true }).mayStartUntimed
        { opcode := op, desc := o.desc } s.cmd.nextId size = true := by
      intro q; rw [← h6, State.admission_cmdOnly]; rfl
    have e8 : ∀ q : W16, ((((s.setSlot o.desc.slot.toNat { busy := true }).noteOrder (some s.cmd.nextId) r).admission o.arrival Codes.ok).setSlot
        q.toNat { ((((s.setSlot o.desc.slot.toNat { busy := true }).noteOrder (some s.cmd.nextId) r).admission o.arrival
          Codes.ok).slot q.toNat) with accepted := true }).secTurn { opcode := op, desc := o.desc } s.cmd.nextId = true := by
      intro q; rw [← h8, State.admission_cmdOnly]; rfl
    have e5 : (s.setSlot o.desc.slot.toNat { busy := true }).dtm = s.dtm := rfl
    simp only [h4, bne_self_eq_false, Bool.false_eq_true, if_false, e5, h5, decide_true, e6, e8, Bool.and_true, Bool.not_false,
      if_true]
    rw [State.runOrder_eq]
    simp only [State.startedHere, hs, if_true, hr]
    have e7 : (((s.setSlot o.desc.slot.toNat { busy := true }).noteOrder (some s.cmd.nextId) r).admission o.arrival
        Codes.ok).setSlot o.desc.slot.toNat
        { (((s.setSlot o.desc.slot.toNat { busy := true }).noteOrder (some s.cmd.nextId) r).admission o.arrival Codes.ok).slot
            o.desc.slot.toNat with accepted := true } =
        ((s.setSlot o.desc.slot.toNat { busy := true, accepted := true }).noteOrder (some s.cmd.nextId) r).admission
          o.arrival Codes.ok := by
      simp [State.setSlot, State.slot, State.noteOrder, State.tickOrders]
    rw [e7, State.admission_cmdOnly]
    rfl
  · unfold State.cmdHere
    simp only [hs, decide_false, Bool.false_and, Bool.false_eq_true, if_false, h2, h3, h7, List.foldl_nil]
    generalize hr : CmdWord.rival { opcode := op, desc := o.desc } ((s.originOf o).getD .firmware) (orderPort o) = r
    have e6 : ((s.noteOrder (some s.cmd.nextId) r).admission o.arrival Codes.ok).mayStartUntimed
        { opcode := op, desc := o.desc } s.cmd.nextId size = true := by
      rw [← h6, State.admission_cmdOnly]; rfl
    have e8 : ((s.noteOrder (some s.cmd.nextId) r).admission o.arrival Codes.ok).secTurn
        { opcode := op, desc := o.desc } s.cmd.nextId = true := by
      rw [← h8, State.admission_cmdOnly]; rfl
    simp only [h4, bne_self_eq_false, Bool.false_eq_true, if_false, h5, decide_true, e6, e8, Bool.and_true, Bool.not_false,
      if_true]
    rw [State.runOrder_eq]
    simp only [State.startedHere, hs, if_false, hr, State.admission_cmdOnly]
    rfl

/-- An arrival changes nothing of the arbiter: an order's number is the next one. -/
theorem State.orderId_eq (s : State) (op : W16) (o : Order) : s.orderId op o = s.cmd.nextId := by
  have hr : ∀ (s : State) (n : Nat), (s.rekeyIfDue n).cmd = s.cmd := by
    intro s n
    unfold State.rekeyIfDue State.queueAnnounce
    split
    · split <;> rfl
    · rfl
  have hh : ∀ (s : State) (rx : Rx) (b : TBody), (s.handed rx b).cmd = s.cmd := by
    intro s rx b
    unfold State.handed
    split
    · rfl
    · unfold State.dropParts
      split <;> rfl
  unfold State.orderId State.desk
  split
  · simp only [State.taken, hh, State.received, hr]; rfl
  · rfl

/-- An order that starts on arrival, by whatever way it came. -/
theorem State.cmdArrive_now {s : State} {op : W16} {o : Order} {size : Nat} (h : s.takesNow op o size)
    (eff : Nat → State → State × Option Reply) (seen : SecSeen) :
    s.cmdArrive op o size eff seen = (match eff (s.orderId op o) (s.started op o seen) with
      | (t, some r) => t.complete (s.orderId op o) r
      | (t, none) => t) := by
  obtain ⟨hc, hs⟩ := h
  rw [State.orderId, State.started, ← State.cmdHere_now hs]
  unfold State.cmdArrive
  unfold State.comes at hc
  unfold State.desk State.atDesk
  split <;> rename_i ha <;> simp only [ha] at hc ⊢
  · exact State.take_here hc _
  · rw [if_pos hc]

/-- A security service that starts on arrival and passes its checks stores its output, shows its result and completes. -/
theorem secService_now {s u v : State} {o r q : Order} {k : Nat} {x : SecSeen} {c : Code} {bs : List Byte}
    (hr : rowOrder o 0 0 8 k = r) (hk : k < 256)
    (ht : s.takesNow opSec r (s.secSize { opcode := opSec, desc := r.desc })) (hu : s.started opSec r x = u)
    (hq : u.heldOrder (s.orderId opSec r) = some q)
    (hc : u.secCheck (endpointOf q.arrival) k ((CmdWord.mk opSec r.desc).pay32 1).toNat ((CmdWord.mk opSec r.desc).pay32 2).toNat
      ((CmdWord.mk opSec r.desc).pay32 3).toNat = none)
    (hv : u.secRun (s.orderId opSec r) (endpointOf q.arrival) k ((CmdWord.mk opSec r.desc).pay32 3).toNat x = (v, some (c, bs))) :
    secService k o x s = (State.secResult { v with sec := { v.sec with
        buf := Memory.write v.sec.buf ((CmdWord.mk opSec r.desc).pay32 2).toNat bs } } c k bs.length).complete
      (s.orderId opSec r) { code := c } := by
  unfold secService
  dsimp only
  rw [hr, State.cmdArrive_now ht, hu]
  have hp : (CmdWord.mk opSec r.desc).payByte 0 = k := by
    rw [← hr]
    show fld (putFld o.desc.payload 0 8 k) 0 8 = k
    rw [fld_putFld _ _ _ _ (by decide), Nat.mod_eq_of_lt (by omega)]
  unfold secEff
  simp only [hp, hq, hc, hv]

end Sys2Proof.Machine
end

