-- ==== Sys2Proof/WellFormed.lean ====
section
/-! DEFINITION. The commands that can occur: operands have the sizes and ranges the spec gives them, and an order the
target class of its opcode (R362). `exec` gives every other command a meaning too; the check says which come from
the hardware's surroundings. -/
namespace Sys2Proof

/-- Target class of a row's order (R362); none: the row is no order. -/
def Instr.orderClass : Instr → Option Nat
  | .coefSet _ => some 0 | .freezeSet _ => some 0 | .stepStart _ => some 0 | .nop _ => some 0
  | .drain .. => some 1 | .resume .. => some 1
  | .load _ => some 0 | .loadPartial _ => some 0 | .start .. => some 0 | .stop _ => some 0
  | .unload _ => some 0 | .abort _ => some 0
  | .bmkRead .. => some 3 | .bmkAdd .. => some 3 | .bmkSet .. => some 3 | .bmkWait .. => some 3
  | .bmkArm .. => some 3 | .bmkReservedOp .. => some 3
  | .capture .. => some 4 | .restore .. => some 4 | .monumentAbort _ => some 4
  | .nonce _ => some 6 | .coAuth .. => some 6 | .coLogout _ => some 6 | .selfTest .. => some 6
  | .attest _ => some 6 | .getCert _ => some 6 | .keyEnroll _ => some 6 | .keyRevoke _ => some 6
  | .svnAdvance _ => some 6 | .rosterSet .. => some 6 | .fwUpdate .. => some 6 | .debugUnlock .. => some 6
  | .debugLock _ => some 6 | .zeroizeSession _ => some 6 | .zeroizeData _ => some 6
  | .zeroizeDevice _ => some 6 | .random _ => some 6
  | .nvmCommit .. => some 7
  | .localRef _ => some 8 | .reacquire _ => some 8
  | _ => none

def Via.order? : Via → Option Order
  | .cmd o => some o
  | .reg _ => none

def BmkSrc.order? : BmkSrc → Option Order
  | .cmd o => some o
  | _ => none

/-- The order of a row that reaches the block as one. -/
def Instr.order? : Instr → Option Order
  | .coefSet o => some o | .freezeSet o => some o | .stepStart o => some o | .nop o => some o
  | .drain _ _ v => v.order? | .resume _ _ v => v.order?
  | .load v => v.order? | .loadPartial v => v.order? | .start v _ => v.order? | .stop v => v.order?
  | .unload v => v.order? | .abort v => v.order?
  | .bmkRead b _ => b.order? | .bmkAdd b _ _ => b.order? | .bmkSet b _ _ => b.order? | .bmkWait b _ _ => b.order?
  | .bmkArm b _ _ _ => b.order? | .bmkReservedOp b _ _ => b.order?
  | .capture v _ => v.order? | .restore v _ _ => v.order? | .monumentAbort v => v.order?
  | .nonce o => some o | .coAuth o _ => some o | .coLogout o => some o | .selfTest o _ => some o
  | .attest o => some o | .getCert o => some o | .keyEnroll o => some o | .keyRevoke o => some o
  | .svnAdvance o => some o | .rosterSet o _ => some o | .fwUpdate o _ _ => some o | .debugUnlock o _ => some o
  | .debugLock o => some o | .zeroizeSession o => some o | .zeroizeData o => some o | .zeroizeDevice o => some o
  | .random o => some o
  | .nvmCommit v _ => v.order?
  | .localRef v => v.order? | .reacquire v => v.order?
  | _ => none

/-- An order names the target class of its row (R362). -/
def Instr.classOk (i : Instr) : Bool :=
  match i.order?, i.orderClass with
  | some o, some c => o.desc.targetClass.toNat = c
  | _, _ => true

/-- The tokens a network carries (R104). -/
def Tok.isOf : Tok → Net → Bool
  | .v _, .vector => true | .s _, .scalar => true | .c _, .control => true
  | _, _ => false

/-- Transaction types R331 reserves. -/
def reservedTyp (t : Byte) : Bool := t = 0 || 0x10 ≤ t.toNat

/-- A monument frame (R301). -/
def MonFrame.wf (f : MonFrame) : Bool := f.digest.length = 64 && f.payload.length ≤ 0x100000 && f.srcDev < 4096

/-- A record (R243, R306). -/
def NormRec.wf (r : NormRec) : Bool := r.root.length = 64 && r.dev < 4096 && r.shard < 65536 && r.rset < 65536

/-- An announcement (R334). -/
def Announce.wf (a : Announce) : Bool :=
  a.keyId.length = 64 && a.nonce.length = 32 && a.ek.length = 1568 && a.pubKey.length = 64 && a.chainDigest.length = 64
    && a.signature.length = 49856

/-- A membership table (R341). -/
def MTable.wf (t : MTable) : Bool :=
  t.masterKeyId.length = 64 && t.entries.all (fun e => e.num < 4096 && e.keyId.length = 64 && e.ports.length ≤ 32)

/-- Operands of the sizes and ranges the spec gives (the rules are those of each operand's own type). -/
def Instr.operandsOk : Instr → Bool
  | .tokenArrival _ _ net _ t => t.isOf net
  | .dramWrite _ a d _ _ _ => a.toNat % 128 + d.length ≤ 128
  | .rwrite _ _ d _ => d.length ≤ 65536
  | .rread _ _ k _ => 8 ≤ k.toNat && k.toNat ≤ 65536 && k.toNat % 8 = 0
  | .resp _ _ _ _ d => d.length ≤ 65536
  | .coll _ _ m _ _ ts => (m = 1 || m = 2) && 1 ≤ ts.length && ts.length ≤ 512
  | .normRecord _ r => r.wf
  | .ackFrame _ f => f.wf
  | .chunkFrame _ f => f.wf
  | .recordFrame _ f _ => f.wf
  | .abandonFrame _ f => f.wf
  | .pullFrame _ f => f.wf
  | .announce _ a _ => a.wf
  | .keyx _ ct tr sig => ct.length = 1568 && tr.length = 64 && sig.length = 49856
  | .member _ t _ => t.wf
  | .linkstate _ k ps => k.length = 64 && ps.length ≤ 32
  | .dataFlit _ f _ => f.payload.length = 250
  | .linkFlit _ f _ _ => f.payload.length = 250
  | .transactionForward t => !reservedTyp t.typ
  | .reservedTransaction _ t => reservedTyp t
  | .bmkReservedOp _ _ op => 5 ≤ op.val
  | .idleClockStop _ b => b < 32
  | .clockWake _ b => b < 32
  | .resetRelease b => b.modules.length = 16
  | .bootData _ d => d.length ≤ 255
  | _ => true

/-- Well-formed commands. -/
def Instr.wf (i : Instr) : Bool := i.classOk && i.operandsOk

end Sys2Proof
end

