-- ==== Sys2Proof/Tests/Slice0.lean ====
section
/-! SUPPORT. Tests of the model and states that meet the premises of the statements. -/
namespace Sys2Proof.Tests
open Sys2Proof Sys2Proof.Machine

-- One theorem at a time: the kernel evaluates most of them.
set_option Elab.async false

/-- An image runs on the part after start-up. -/
def running : State := { State.reset with
  img := { State.reset.img with state := .running, loaded := true }
  clk := { State.reset.clk with refin := true }
  sec := { State.reset.sec with state := .operational }
  nvm := { State.reset.nvm with phase := 6 } }

def withCu (c : Cu) : State := { running with cus := [(0, c)] }
def withMu (m : Mu) : State := { running with mus := [(0, m)] }

/-- The part after start-up in an image state, with no image, or one that stands or runs. -/
def inState (i : ImgState) : State := { running with img := { running.img with state := i } }

def ready (s : State) : State := { s with img := { s.img with state := .ready } }

/-- An untimed order of firmware, and one of host 0, to a target class. -/
def fwOrder (cls : W16) (payload : BitVec 256 := 0) : Order :=
  { desc := { targetClass := cls, payload := payload }, origin := .firmware, port := 32, arrival := .firmware }
def hostOrder (cls : W16) (payload : BitVec 256 := 0) : Order :=
  { desc := { targetClass := cls, payload := payload }, origin := .host, port := 0, arrival := .submit 0x8000 }

/-- An order that no CMD brought starts at once where it passes the checks of the arbiter. -/
theorem starts {s : State} {op : W16} {o : Order} {size : Nat} (h : o.arrival = .firmware ∨ o.arrival = .submit 0x8000)
    (h2 : s.startsHere op o size) (ha : s.awake = true := by rfl) : s.takesNow op o size := by
  unfold State.takesNow State.comes State.desk State.atDesk
  rcases h with h | h <;> rw [h] <;> exact ⟨ha, h2⟩

/-- Device 5 of a group whose table holds it and device 6, its neighbour at port 0. -/
def key (n : Nat) : List Byte := List.replicate 64 (BitVec.ofNat 8 n)
def table : MTable := { epoch := 1, master := 5, effStep := 0, bridge := 5, masterKeyId := key 5, signature := [], entries := [
  { num := 5, keyId := key 5, ports := [{ peer := 6, peerPort := 0, state := 1 }] },
  { num := 6, keyId := key 6, ports := [{ peer := 5, peerPort := 0, state := 1 }] }] }
def inGroup (s : State) : State := { s with
  lxg := { s.lxg with ownKeyId := key 5, table := some table }
  ports := [(0, { state := .secure, peerKind := 1, peerNum := 6 })] }

/-- The roster holds the key of device 6; a signature by a key verifies. -/
def withRoster (s : State) : State := { s with sec := { s.sec with roster := some { seq := 1, entries := [{ key := key 6, kind := 1, serial := 0 }] } } }
theorem slh_signed (fast : Bool) (pub msg : List Byte) : Config.slhVerify fast pub msg (Config.slhSign fast pub msg) = true := by
  simp [Config.slhVerify, Config.slhSign]

theorem sub_mid (a b c : List Byte) (o k : Nat) (ha : a.length = o) (hb : b.length = k) : sub (a ++ b ++ c) o k = b := by
  subst ha hb; simp [sub]

theorem leBytes_length (k v : Nat) : (leBytes k v).length = k := by
  induction k generalizing v with
  | zero => rfl
  | succ k ih => simp [leBytes, ih]

/-- A transaction of device 6 for this device. -/
def rx0 : Rx := { port := 0, src := 6, dst := 5, tag := 1, hops := 16, tagOk := true }

/-- A step in progress whose AUs stand in a phase. -/
def inStep (ph : Nat) (done : Bool) (a : Adj := {}) : State := { running with
  adj := { a with inStep := true }
  aus := (List.range 4).map (fun g => (g, { phase := ph, passDone := done, step := 9 })) }

/-! ## Witnesses: states that meet the premises of the statements -/

/-! Compute units -/

/-- A matrix CU in BF16 with one token at each operand port and a running operation of two tiles' width. -/
def cuK : Cu := { run := .live, cfg := mkWord 64 [(0, 2, 1), (2, 4, 1), (6, 4, 1)], engine := some { desc := ⟨0x100⟩ },
                  inA := [{ data := 1, poison := false, last := false }], inB := [{ data := 1, poison := false, last := false }] }

theorem witness_kStep : ∃ x y, (withCu cuK).cuLive 0 0 = true ∧ ((withCu cuK).cu 0 0).opClass = 1 ∧
    ((withCu cuK).cu 0 0).run = .live ∧ ((withCu cuK).cu 0 0).engine = some { desc := ⟨0x100⟩ } ∧
    takeOperand cuK.fmtA 64 cuK.nbA cuK.gIn {} 0 (cuK.steps ⟨0x100⟩) cuK.inA = some x ∧
    takeOperand cuK.fmtB 32 cuK.nbB cuK.gIn {} 0 (cuK.steps ⟨0x100⟩) cuK.inB = some y ∧ x.bad = false ∧ y.bad = false :=
  ⟨_, _, by decide, by decide, by decide, by decide, rfl, rfl, by decide, by decide⟩

/-- An idle matrix CU with the descriptor of a first operation into tile 31, and one that continues it. -/
def cuStart (word : W64) (st : TileSt) : Cu :=
  { run := .live, cfg := mkWord 64 [(0, 2, 1), (2, 4, 1), (6, 4, 1)], program := [⟨word⟩], tiles := [(31, { st := st, poison := true })],
    inA := [{ data := 1, poison := false, last := false }] }

theorem witness_tileOperationStart : ∀ k ∈ [((0x1DF : W64), TileSt.free), (0x13F, .held)],
    (withCu (cuStart k.1 k.2)).cuLive 0 0 = true ∧ (cuStart k.1 k.2).run ≠ .faulted ∧ (cuStart k.1 k.2).opClass = 1 ∧
    (cuStart k.1 k.2).engine = none ∧ (cuStart k.1 k.2).inA ≠ [] ∧ (cuStart k.1 k.2).nextDesc = some ⟨k.1⟩ ∧
    (cuStart k.1 k.2).setEndOk ⟨k.1⟩ = true ∧
    ((cuStart k.1 k.2).tile (TileDesc.tile ⟨k.1⟩)).st = (if TileDesc.cont ⟨k.1⟩ then .held else .free) := by decide

/-- A CU with a complete set of one compared tile, and tile 31 waiting for its comparison. -/
def cuSet : Cu := { run := .live, cfg := mkWord 64 [(0, 2, 1)], writeback := [31], tiles := [(0, { st := .retiring, acc := [(0, fpOne)] })],
                    sets := [{ tiles := [0], complete := true, compared := [0] }] }

theorem witness_checksumComparison : (withCu cuSet).cuLive 0 0 = true ∧ 31 ∈ cuSet.writeback ∧
    (cuSet.tile 31).failing cuSet.tol = ([], []) := by decide +kernel

theorem witness_retireSetReadout : (withCu cuSet).cuLive 0 0 = true ∧ cuSet.readout = none ∧
    cuSet.sets = [{ tiles := [0], complete := true, compared := [0] }] ∧ (withCu cuSet).cuOutFree 0 0 = true := by decide

theorem witness_readoutComplete : ∃ q, (withCu { cuSet with readout := some { tiles := [0] } }).cuLive 0 0 = true ∧
    ((withCu { cuSet with readout := some { tiles := [0] } }).cu 0 0).readout = some q ∧
    (withCu { cuSet with readout := some { tiles := [0] } }).cuOutFree 0 0 = true := ⟨_, by decide, rfl, by decide⟩

theorem witness_accumulatorScrub : (withCu { cuSet with tiles := [(31, { st := .held })] }).img.state ≠ .held ∧
    (((withCu { cuSet with tiles := [(31, { st := .held })] }).cu 0 0).tile 31).st = .held ∧
    (withCu { cuSet with tiles := [(31, { st := .held })] }).cuClocked 0 0 = true ∧
    (((withCu cuSet).cu 0 0).tile 0).st = .retiring ∧ (withCu cuSet).cuClocked 0 0 = true := by decide

/-- A vector CU on FP32 rows of 32 with one token and one scalar of tag 0 waiting. -/
def cuVec : Cu := { run := .live, cfg := mkWord 64 [(0, 2, 2)], vprog := mkWord 64 [(32, 24, 32)],
                    inA := [{ data := 1, poison := false, last := true }], inB := [{ data := 1, poison := false, last := true }],
                    inS := [{ value := fpOne, tag := 0, poison := false }] }

theorem witness_rowStreamToken : (withCu cuVec).cuLive 0 0 = true ∧ cuVec.opClass = 2 ∧ (withCu cuVec).cuOutFree 0 0 = true ∧
    cuVec.inA = [{ data := 1, poison := false, last := true }] ∧ cuVec.inB = cuVec.inA ∧ cuVec.run ≠ .faulted ∧
    (cuVec.vec.x.take cuVec.bf16Lanes cuVec.fmtA cuVec.gIn cuVec.nbA cuVec.rowLen
      { data := 1, poison := false, last := true }).bad = false ∧
    (cuVec.vec.y.take cuVec.bf16Lanes cuVec.fmtB cuVec.gIn cuVec.nbB cuVec.rowLen
      { data := 1, poison := false, last := true }).bad = false := by decide +kernel

theorem witness_scalarInputArrival : (withCu cuVec).cuLive 0 0 = true ∧ cuVec.opClass = 2 ∧ cuVec.run ≠ .faulted ∧
    cuVec.inS = [{ value := fpOne, tag := 0, poison := false }] ∧ cuVec.vec.p = none ∧
    (0 : Byte) = BitVec.ofNat 8 cuVec.vec.ordinal := by decide

/-! Memory units -/

/-- The part in Idle. -/
def asleep (s : State) : State := { s with pwr := { s.pwr with state := .idle } }

/-- The last word of an MU; a word inside a region of a running MU is not served. -/
theorem witness_narrowViewReadsAndWrites : (withMu {}).muClocked 0 0 = true ∧ (0x3FFFF8#22).toNat % 8 = 0 ∧ ((withMu {}).mu 0 0).ecc = [] ∧ ((withMu {}).mu 0 0).tagEcc = [] ∧
    (({} : Mu).regionOf (0x3FFFF8 / 512)) = none ∧ ((4 : Nat) ≠ 8 ∨ (0x3FFFFC#22).toNat % 8 ≠ 0) ∧
    (asleep (withMu {})).awake = true ∧ (asleep (withMu {})).muClocked 0 0 = false := by decide

/-- An uncorrectable error stands in that word. -/
theorem witness_narrowReadUncorrectable : ∃ b bad t, (withMu { ecc := [(0x7FFFF, .ue)] }).muClocked 0 0 = true ∧ (0x3FFFF8#22).toNat % 8 = 0 ∧
    SMap.get .clean ((withMu { ecc := [(0x7FFFF, .ue)] }).mu 0 0).ecc (0x3FFFF8 / 8) = .ue ∧
    (withMu { ecc := [(0x7FFFF, .ue)] }).muRead 0 0 0x3FFFF8 8 = (b, bad, t) := ⟨_, _, _, by decide, by decide, by decide, rfl⟩

/-- Generator 3 of tag 7 on the direct path over the two rows of region 15; its walk has one address. -/
def agR : AgSt := { words := [mkWord 64 [(16, 4, 15)], 0, 0, 0, 0, 0, 0, mkWord 64 [(0, 8, 0x20), (12, 8, 7)]] }
def muAg (g : AgSt) : Mu := { run := .live, events := [7], ags := [(3, g)], regions := [(15, { a := mkWord 64 [(13, 14, 2), (27, 4, 1)] })] }

theorem witness_generatorStart : (withMu (muAg agR)).muLive 0 0 = true ∧ (muAg agR).events = [7] ∧
    (∀ b : Fin 4, (((muAg agR).ag b).words ≠ [] ∧ ((muAg agR).ag b).startTag = 7) ↔ b = 3) ∧
    (withMu (muAg agR)).mayStart 0 0 3 = true ∧ ((muAg agR).ag 3).pending = 0 ∧
    (withMu (muAg { agR with busy := true, pending := 14 })).mayStart 0 0 3 = false ∧
    ((muAg { agR with busy := true, pending := 14 }).ag 3).pending < 15 ∧
    (withMu (muAg { agR with pending := 15 })).mayStart 0 0 3 = true ∧ 0 < ((muAg { agR with pending := 15 }).ag 3).pending := by decide

theorem witness_generatorAddress : (withMu (muAg { agR with busy := true })).muLive 0 0 = true ∧
    ((muAg { agR with busy := true }).ag 3).idx < ((muAg { agR with busy := true }).ag 3).total ∧
    ((muAg agR).reg 15).kind ≠ 2 ∧ ({ agR with busy := true } : AgSt).region = 15 ∧
    ({ agR with busy := true } : AgSt).lineAt 0 = some 0 ∧ agR.path = 0 ∧ agR.isWrite = false ∧ agR.dead = false ∧
    ((muAg agR).reg 15).holdsLine 0 true = true ∧ (withMu (muAg { agR with busy := true })).roomIn 0 (muSite 0) 0 agR.chan = true ∧
    (muAg agR).ecc = [] ∧ (muAg agR).tagEcc = [] := by decide

theorem witness_walkEnd : (withMu (muAg { agR with busy := true, idx := 1 })).muLive 0 0 = true ∧
    ({ agR with busy := true, idx := 1 } : AgSt).total ≤ 1 ∧ (muAg { agR with busy := true, idx := 1 }).segs = [] ∧
    ((muAg agR).reg 15).parked = [] := by decide

/-- Region 15 as a QUEUE window of two rows, one of them freed. -/
def muQ : Mu := { run := .live, regions := [(15, { a := mkWord 64 [(13, 14, 2), (27, 4, 4), (31, 1, 1)], freed := 1, hi := 5, lo := 4 })],
                  qin := [(1, [{ data := 1, poison := false, last := true }])] }
def withQueue : State := { withMu muQ with sws := [(1, { run := .running, qbind := mkWord 64 [(8, 4, 15), (12, 1, 1)] })] }

theorem witness_creditReturn : (withMu muQ).muLive 0 0 = true ∧ (withMu muQ).stepFailed = false ∧ (muQ.reg 15).window = true ∧ (muQ.reg 15).kind = 4 ∧ 0 < (muQ.reg 15).freed ∧
    (muQ.reg 15).retBatch + 1 ≤ (muQ.reg 15).freed := by decide

theorem witness_queueTokens : (withQueue.sw 0 (muSite 0)).queueRegion 1 = some 15 ∧ withQueue.muLive 0 0 = true ∧
    SMap.get [] (withQueue.mu 0 0).qin 1 = [{ data := 1, poison := false, last := true }] ∧
    ((withQueue.mu 0 0).reg 15).fifoFull = false ∧ ((withQueue.mu 0 0).reg 15).fifoEmpty = false ∧
    withQueue.roomIn 0 (muSite 0) 0 0x27 = true := by decide +kernel

/-- A segment whose number is next at region 15, a REDUCE region of four rows with two park rows. -/
def seg1 : Segment := { region := 15, contrib := 1, firstRow := 0, tokens := [{ data := 1, poison := false, last := true }], gen := some 3 }
def muSeg : Mu := { run := .live, segs := [seg1], regions := [(15, {
  a := mkWord 64 [(13, 14, 4), (27, 4, 6), (32, 1, 1), (33, 8, 1), (41, 13, 2)], applied := [(0, 1)], parked := [] })] }
def muPark : Mu := { muSeg with segs := [], regions := [(15, { muSeg.reg 15 with parked := [seg1] })] }

theorem witness_segments : muSeg.segs = [seg1] ∧ (withMu muSeg).muLive 0 0 = true ∧ seg1.gen ≠ none ∧
    (muSeg.reg 15).orderBad seg1 = false ∧ (muSeg.reg 15).orderReady seg1 = true ∧
    (muPark.reg 15).parked.find? (muPark.reg 15).orderReady = some seg1 ∧ (withMu muPark).muLive 0 0 = true := by decide +kernel

/-- A segment whose number repeats, one that is early and finds its two park rows free, and one that finds one. -/
def segOf (c k : Nat) : Segment := { seg1 with contrib := c, tokens := List.replicate (4 * k) { data := 1, poison := false, last := false } }
def muSegs (c k : Nat) : Mu := { muSeg with segs := [segOf c k] }

theorem witness_segmentOutcomes :
    ((muSegs 0 1).reg 15).orderBad (segOf 0 1) = true ∧
    ((muSegs 2 2).reg 15).orderBad (segOf 2 2) = true ∧
    ({ muSegs 1 2 with regions := [(15, { muSeg.reg 15 with applied := [] })] }.reg 15).orderBad (segOf 1 2) = false ∧
    ({ muSegs 1 2 with regions := [(15, { muSeg.reg 15 with applied := [] })] }.reg 15).orderReady (segOf 1 2) = false ∧
    (segOf 1 2).parkNeed ≤ (muSeg.reg 15).parkFree.length ∧ (muSeg.reg 15).parkFree.length < (segOf 1 3).parkNeed ∧
    ({ segOf 1 3 with gen := none } : Segment).gen = none := by decide +kernel

/-- Row 8191 alone, by register and at an event. -/
theorem witness_rowCommands : (withMu {}).muClocked 0 0 = true ∧
    (withMu {}).copyHeld 0 0 { copy := true, dst := 8191, src := 8191, rows := 1 } = false ∧
    (withMu {}).rowCmdRefused 0 0 { copy := false, dst := 8191, src := 0, rows := 1 } false = false ∧
    (withMu {}).rowCmdRefused 0 0 { copy := true, dst := 8191, src := 8191, rows := 1 } true = false ∧
    ({ cmd := some { copy := false, dst := 0, src := 0, rows := 1 } } : Mu).cmd ≠ none := by decide +kernel

/-! The stash -/

/-- Frames of one token; generator 3 pushes or pops region 15, a STASH of four rows. -/
def agS (write : Bool) : AgSt where
  words := [mkWord 64 [(16, 4, 15), (20, 1, b2n write)], 0, 0, 0, 0, 0, 0, mkWord 64 [(0, 8, 0x20)]]
  stash := mkWord 64 [(16, 16, 1), (32, 16, 2)]
  busy := true
  input := [{ data := 5, poison := false, last := true }]
def muStash (g : AgSt) (r : RegSt) : Mu where
  run := .live
  ags := [(3, g)]
  regions := [(15, { r with a := mkWord 64 [(13, 14, 4), (27, 4, 2)] })]
  sram := [(8, 128), (12, 1)]
/-- The stash reserve of region 15: one row, whose frame ends in its trailer. -/
def reserve15 : DramRange := { kind := 3, gran := 8, chans := 1, base := 0, len := 512, local0 := 0, region := 15 }
def withReserve (m : Mu) : State := { withMu m with
  cfg := { (withMu m).cfg with layout := [reserve15] }
  dram := { (withMu m).dram with mem := [(504, 1)] } }

/-- A push whose frame fits, one past the step's micro-batches, one that overflows for want of a reserve, one whose bottom
frame is longer than the reserve, and one that waits. -/
def pushState (g : AgSt) (r : RegSt) : State := withMu (muStash g r)
theorem witness_pushWalk : (pushState (agS true) { hi := 3 }).muLive 0 0 = true ∧ (agS true).busy = true ∧
    (agS true).idx < (agS true).total ∧ ((muStash (agS true) { hi := 3 }).reg 15).kind = 2 ∧ (agS true).isWrite = true ∧
    (agS true).total ≤ (agS true).input.length ∧ (agS true).stepWalks < (agS true).mbCount ∧
    (agS true).mbCount ≤ ({ agS true with stepWalks := 2 } : AgSt).stepWalks ∧
    frameRows (agS true).frameTokens ≤ ((muStash (agS true) { hi := 3 }).reg 15).freeRows ∧
    ((muStash (agS true) { hi := 4 }).reg 15).freeRows < frameRows (agS true).frameTokens ∧
    (pushState (agS true) { hi := 4 }).bottomFrame 0 0 15 = (1, false) ∧
    (pushState (agS true) { hi := 4 }).reserveOf 0 0 15 = none ∧
    (withReserve (muStash (agS true) { hi := 4 })).reserveOf 0 0 15 = some reserve15 ∧ ¬ reserve15.len / 512 - 0 < 1 ∧
    (withReserve (muStash (agS true) { hi := 5, lo := 1 })).reserveOf 0 0 15 = some reserve15 ∧
    reserve15.len / 512 - 1 < 1 := by decide +kernel

/-- A pop that finds its frame, one of another layer, one that waits for a refill, one of an empty stash, and one after an
overflow. -/
theorem witness_popWalk : (pushState (agS false) { hi := 1 }).muLive 0 0 = true ∧ (agS false).busy = true ∧
    (agS false).idx < (agS false).total ∧ ((muStash (agS false) { hi := 1 }).reg 15).kind = 2 ∧ (agS false).isWrite = false ∧
    (((pushState (agS false) { hi := 1 }).sw 0 (muSite 0)).inQ 0 (agS false).chan).link = [] ∧
    (pushState (agS false) { hi := 1 }).refilling 0 0 15 0 = false ∧
    frameRows (agS false).frameTokens ≤ ((muStash (agS false) { hi := 1 }).reg 15).heldRows ∧
    (muStash (agS false) { hi := 1 }).ecc = [] ∧ (muStash (agS false) { hi := 1 }).tagEcc = [] ∧
    (∀ k ∈ [((agS false), true), ({ agS false with stash := mkWord 64 [(0, 16, 1), (16, 16, 1), (32, 16, 2)] }, false)],
      headerMatches k.1 (pushState (agS false) { hi := 1 }).stepIndex
        (sub ((List.range 1).flatMap (fun i => (muStash (agS false) { hi := 1 }).sram.read
          (512 * ((muStash (agS false) { hi := 1 }).reg 15).stashRow (1 - 1 + i)) 512)) 0 64) = k.2) := by
  decide +kernel

theorem witness_popWalkWithoutFrame :
    ((muStash (agS false) { hi := 1, lo := 1 }).reg 15).heldRows < frameRows (agS false).frameTokens ∧
    ((muStash (agS false) { hi := 1, lo := 1 }).reg 15).lo ≠ 0 ∧ ((muStash (agS false) { hi := 1, lo := 1 }).reg 15).overflow = false ∧
    ((muStash (agS false) {}).reg 15).heldRows < frameRows (agS false).frameTokens ∧ ((muStash (agS false) {}).reg 15).lo = 0 ∧
    ((muStash (agS false) { overflow := true }).reg 15).heldRows < frameRows (agS false).frameTokens ∧
    frameRows (agS false).frameTokens ≤ ((muStash (agS false) { hi := 1, overflow := true }).reg 15).heldRows ∧
    (pushState (agS false) {}).refilling 0 0 15 0 = false := by decide +kernel

/-- A spill of the one bottom frame, and one whose header is poisoned. -/
def spillMu : Mu := muStash (agS true) { hi := 4, waiting := true }
theorem witness_stashSpill : (withReserve spillMu).arrayRuns = true ∧ (spillMu.reg 15).kind = 2 ∧
    (spillMu.reg 15).waiting = true ∧ (spillMu.reg 15).noSpill = false ∧ (spillMu.reg 15).freeRows < spillMu.pushNeeds 15 ∧
    (withReserve spillMu).stashMoves 0 0 15 = [] ∧ (withReserve spillMu).reserveOf 0 0 15 = some reserve15 ∧
    (withReserve spillMu).bottomFrame 0 0 15 = (1, false) ∧ 1 ≤ (spillMu.reg 15).heldRows ∧ 0 + 1 ≤ reserve15.len / 512 ∧
    (withReserve { spillMu with poison := [(0, true)] }).bottomFrame 0 0 15 = (1, true) := by decide +kernel

/-- A refill of the one frame of the reserve, and one whose trailer counts more rows than the reserve holds. -/
def refillMu (lo : Nat) : Mu := muStash (agS false) { hi := lo, lo := lo, reserve := [1], popped := 1 }
theorem witness_stashRefill : (withReserve (refillMu 1)).arrayRuns = true ∧ ((refillMu 1).reg 15).kind = 2 ∧
    ((refillMu 1).reg 15).reserve ≠ [] ∧ (refillMu 1).popBegun 15 = true ∧ (refillMu 1).pushActive 15 = false ∧
    (withReserve (refillMu 1)).stashMoves 0 0 15 = [] ∧ (withReserve (refillMu 1)).reserveOf 0 0 15 = some reserve15 ∧
    ((withReserve (refillMu 1)).reserveTop 0 reserve15 1).1 = 1 ∧ 1 ≤ ((refillMu 1).reg 15).freeRows ∧
    ((refillMu 1).reg 15).lo = 1 := by
  decide +kernel

/-! The traverse -/

/-- Two switches that send their input back to each other over track 0, each with eight tokens. -/
def swOf (k entry : Nat) (chan : Nat) (q : SwIn) : Sw :=
  { run := .running, spill := mkWord 64 [(8, 4, 15), (12, 1, 1)], routes := [(k, BitVec.ofNat 64 (0x100 + entry))], ins := [(chan, q)] }
def swPair (q : SwIn) : State := { running with
  sws := [(0, swOf 2 8 8 q), (1, swOf 6 24 24 q)], plats := [(0, { dldEn := true })] }
def tok : Tok := .v (mkV 1 0 false true)
def noFlips : Tok := .c { tag := 0, epoch := 0, hpar := false }

theorem witness_tokenArrival : (swPair { link := [tok] }).gatesOpen (.sw 0 0) = true ∧
    (((swPair { link := [tok] }).sw 0 0).inQ 0 8).link = [tok] ∧ (swPair { link := [tok] }).tokensMove = true ∧
    ((swPair { link := [tok] }).sw 0 0).run ≠ .unconfigured ∧ (swPair { link := [tok] }).mayEnqueue 0 0 0 8 = true ∧
    ((swPair { link := [tok] }).sw 0 0).judge .vector 8 (tokFlip tok noFlips) = .pass tok ∧
    ((swPair { link := [tok] }).sw 0 0).judge .vector 8 (tokFlip (.v (mkV 1 1 false true)) noFlips) = .stale := by decide +kernel

/-- A control token whose header is damaged is discarded, a vector token's payload goes on poisoned. -/
theorem witness_damagedToken :
    (∃ o, ((swPair { link := [tok] }).sw 0 0).judge .vector 8 (tokFlip tok (.v (mkV 1 0 true false))) = .parity o) := by
  refine ⟨(match ((swPair { link := [tok] }).sw 0 0).judge .vector 8 (tokFlip tok (.v (mkV 1 0 true false))) with
    | .parity o => o | _ => none), ?_⟩
  decide +kernel

theorem witness_tokenDeparture : (swPair { q := [tok] }).gatesOpen (.sw 0 0) = true ∧ (((swPair { q := [tok] }).sw 0 0).inQ 0 8).q = [tok] ∧
    ((((swPair { q := [tok] }).sw 0 0).fanOut .vector 8).map (destOf 0 0 .vector)) = [.link 0 1 0 24] ∧
    (swPair { q := [tok] }).tokensMove = true ∧ ((swPair { q := [tok] }).sw 0 0).run = .running ∧
    (swPair { q := [tok] }).destFree 0 true tok (.link 0 1 0 24) = true := by decide +kernel

theorem witness_queueBlocked : 8 ≤ (((swPair { q := List.replicate 8 tok }).sw 0 0).inQ 0 8).q.length ∧
    (swPair { q := List.replicate 8 tok }).tokensMove = true := by decide +kernel

def pairCycle : List CycleNode := [.queue 0 0 .vector 8, .queue 0 1 .vector 24]
def fullPair : State := swPair { q := List.replicate 8 tok, blocked := true }
/-- The same two switches without a spill region. -/
def noSpillPair : State := { fullPair with sws := [(0, { fullPair.sw 0 0 with spill := 0 }), (1, { fullPair.sw 0 1 with spill := 0 })] }

theorem witness_deadlockResolution : (fullPair.plat 0).dldEn = true ∧ fullPair.tokensMove = true ∧
    fullPair.cycleSeen 0 pairCycle = true ∧ fullPair.victim pairCycle = some (.queue 0 0 .vector 8) ∧
    (fullPair.sw 0 0).spilling = none ∧
    (noSpillPair.plat 0).dldEn = true ∧ noSpillPair.cycleSeen 0 pairCycle = true ∧ noSpillPair.victim pairCycle = none := by
  decide +kernel

theorem witness_spillEnd : ({ spilling := some (0, 8) } : Sw).spilling ≠ none ∧ (({} : Mu).reg 0).fifoEmpty = true := by decide

/-- Region 15 of plat 3 open, being drained, drained; its one switch is quiet. -/
def drainState (d r : W16) (w : SwRun) : State := { running with
  plats := [(3, { draining := d, drained := r })], sws := [(siteKey 3 511, { run := w, cregion := 15, drainSet := 0x8000 })] }



theorem witness_drain : (drainState 0 0 .running).openFor (.fw 3) (.trv 3) ∧ (0x8000 : W16) ≠ 0 ∧
    (0x8000 : W16) &&& (((drainState 0 0 .running).plat 3).draining ||| ((drainState 0 0 .running).plat 3).drained) = 0 ∧
    (0x8000 : W16) &&& (((drainState 0x8000 0 .draining).plat 3).draining ||| ((drainState 0x8000 0 .draining).plat 3).drained) ≠ 0 ∧
    (drainState 0 0 .running).takesNow opDrain (rowOrder (fwOrder 1) 3 0 64 (0x8000 * 65536)) 0 :=
  ⟨by unfold State.openFor; decide +kernel, by decide, by decide +kernel, by decide +kernel,
    starts (by decide) (by unfold State.startsHere; decide +kernel)⟩

theorem witness_resume : (drainState 0 0x8000 .drained).openFor (.fw 3) (.trv 3) ∧
    (0x8000 : W16) &&& ~~~((drainState 0 0x8000 .drained).plat 3).drained = 0 ∧
    (0x8000 : W16) &&& (drainState 0 0x8000 .drained).replacing 3 = 0 ∧
    (0x8000 : W16) &&& ~~~((drainState 0 0 .running).plat 3).drained ≠ 0 ∧
    (drainState 0 0x8000 .drained).takesNow opDrain (rowOrder (fwOrder 1) 3 0 64 (1 + 0x8000 * 65536)) 0 :=
  ⟨by unfold State.openFor; decide +kernel, by decide +kernel, by decide +kernel, by decide +kernel,
    starts (by decide) (by unfold State.startsHere; decide +kernel)⟩

theorem witness_drainComplete : (drainState 0x8000 0 .draining).drainOf 3 0x8000 = true ∧
    (drainState 0x8000 0 .draining).sitesOf 3 0x8000 = [511] ∧ (drainState 0x8000 0 .draining).siteQuiet 3 511 = true ∧
    (drainState 0x8000 0 .draining).siteClosed 3 511 = true := by decide +kernel

theorem witness_drainTimeout : (0x8000 : W16) &&& ((drainState 0x8000 0 .draining).plat 3).draining &&&
      ~~~((drainState 0x8000 0 .draining).plat 3).timedOut = 0x8000 ∧ (drainState 0x8000 0 .draining).img.state ≠ .stopping := by
  decide +kernel

/-! Images -/

theorem witness_load : (inState .held).openFor (.fw 0) .glb ∧ (inState .held).img.state = .held ∧ (inState .held).pwr.state ≠ .idle ∧
    (inState .held).takesNow opImage (rowOrder (fwOrder 0) 0 0 3 0) (inState .held).img.stageLen.toNat :=
  ⟨by unfold State.openFor; decide +kernel, by decide, by decide, starts (by decide) (by unfold State.startsHere; decide +kernel)⟩

/-- Every image operation as an order, in the state that begins it. -/
theorem witness_imageOrders : ∀ k ∈ [((0 : Fin 6), ImgState.held), (1, .running), (2, .ready), (3, .running), (4, .ready), (5, .loading)],
    (inState k.2).startsHere opImage (rowOrder (fwOrder 0) 0 0 3 k.1)
      (if k.1.val < 2 then (inState k.2).img.stageLen.toNat else 0) := by unfold State.startsHere; decide +kernel

/-- A partial image whose header, staged at 0, names region 0 of plat 3, drained. -/
def stagedPartial : State := { running with
  img := { running.img with stageLen := 0x40000000 }
  plats := [(3, { drained := 1 })]
  dram := { running.dram with mem := [(0x2E, 1)] } }

theorem witness_loadPartial : ∃ h bad u, stagedPartial.openFor (.fw 0) .glb ∧ stagedPartial.img.state = .running ∧
    stagedPartial.pwr.state ≠ .idle ∧ stagedPartial.img.partialBusy = false ∧
    State.maskDrained running 1 = false ∧
    stagedPartial.dramRead .load stagedPartial.img.stageBase.toNat (min stagedPartial.img.stageLen.toNat 256) = (h, bad, u) ∧
    u.maskDrained (BitVec.ofNat 64 (leAt h 0x28 8)) = true :=
  ⟨_, _, _, by unfold State.openFor; decide, by decide, by decide, by decide, by decide +kernel, rfl, by decide +kernel⟩

theorem witness_start : ((inGroup { inState .ready with cfg := { (inState .ready).cfg with plan := { dev := 5 } } }).strikes []).openFor (.fw 0) .glb ∧
    (inGroup { inState .ready with cfg := { (inState .ready).cfg with plan := { dev := 5 } } }).planMember = true ∧
    (inState .ready).debugOpen = false ∧ (inState .ready).mon.restoreBad = false ∧ (inState .ready).mon.restore = none ∧
    (inState .ready).img.state = .ready := by
  unfold State.openFor; decide +kernel

/-- STOP between steps, in a step, in pass 2, in a failed step and before a restarted one. -/
def stopIn (st : StepState) (inStep pass2 : Bool) : State := { running with
  flt := { running.flt with stepState := st }, adj := { running.adj with inStep := inStep, pass2 := pass2 } }
def stopped (s : State) : State := State.tableNow { s.cancelClass0 with img := { s.cancelClass0.img with state := .stopping } }

theorem witness_stop : ∀ k ∈ [(StepState.idle, false, false), (.running, true, false), (.running, true, true), (.failed, true, false),
      (.restarted, false, false)],
    (stopIn k.1 k.2.1 k.2.2).openFor (.fw 3) .glb ∧ (stopIn k.1 k.2.1 k.2.2).img.state = .running ∧
    (stopIn k.1 k.2.1 k.2.2).pwr.state ≠ .idle ∧
    (stopped (stopIn k.1 k.2.1 k.2.2)).stepFailed = (k.1 == .failed || k.1 == .restarted) ∧
    (stopped (stopIn k.1 k.2.1 k.2.2)).adj.pass2 = k.2.2 ∧ (stopped (stopIn k.1 k.2.1 k.2.2)).adj.inStep = k.2.1 ∧
    (stopped (stopIn k.1 k.2.1 k.2.2)).flt.stepState = k.1 := by unfold State.openFor; decide +kernel

theorem witness_stopComplete : (inState .stopping).img.state = .stopping ∧ (inState .stopping).img.stopAtBoundary = false ∧
    (inState .stopping).stepFailed = false ∧
    ∀ p : Fin 4, ((inState .stopping).plat p).draining = 0 ∧ (inState .stopping).openRegions p = 0 := by decide +kernel

theorem witness_unload : (inState .ready).openFor (.fw 0) .glb ∧ (inState .ready).img.state = .ready ∧
    (inState .ready).pwr.state ≠ .idle ∧ (inState .ready).monBusy = false ∧ (inState .ready).img.partialBusy = false ∧
    State.monBusy { inState .ready with mon := { (inState .ready).mon with restore := some { step := none, from_ := none, peer := 0, mask := 0 } } } = true := by
  unfold State.openFor; decide

theorem witness_abort : (inState .loading).openFor (.fw 0) .glb ∧ (inState .loading).img.state = .loading ∧
    (inState .loading).pwr.state ≠ .idle := by unfold State.openFor; decide

/-! Plat DMA, triggers, sequencer -/

/-- One row of MU 0 of plat 3 to its MU 255, with a done add to benchmark 65535. -/
def rowDesc : DmaDesc where
  w0 := 0x0800C0000000
  w1 := 0x0800FFC00000
  w2 := mkWord 64 [(0, 32, 1), (32, 32, 1)]
  w4 := mkWord 64 [(48, 16, 65535)]
  w5 := mkWord 64 [(0, 8, 1)]
def progJob : DmaJob := { src := .program, index := 0, desc := rowDesc }
def hostJob : DmaJob := { src := .host, index := 0, desc := rowDesc }
def withPlat (x : Plat) : State := { running with plats := [(3, x)] }
def dmaRow : RowReq := { id := 1, owner := 0, src := 0x0800C0000000, dst := 0x0800FFC00000 }

theorem witness_dmaDescriptorStart : (withPlat { waitingDma := [progJob] }).gatesOpen (.dma 3) = true ∧ (withPlat { waitingDma := [progJob] }).nextJob 3 = some progJob ∧
    (withPlat { waitingDma := [progJob], hq := [rowDesc], sinceHost := 255 }).nextJob 3 = some hostJob ∧
    progJob.src ≠ .host ∧ hostJob.src = .host := by decide +kernel

/-- A row that may move, one into a memory unit that does not exist, and one of the host into the staging range of a load. -/
def issueState (j : DmaJob) (k : Nat) : State := withPlat { active := [{ id := 0, job := j }], reqs := List.replicate k dmaRow }
def badJob : DmaJob := { progJob with desc := { rowDesc with w1 := 0x700 } }
def stageHost : DmaJob := { hostJob with desc := { rowDesc with w1 := 0x1000 } }
def stagingState : State := { issueState stageHost 511 with
  img := { running.img with partialBusy := true, stageBase := 0x1000, stageLen := 512 } }

theorem witness_rowRequestIssue : stagingState.gatesOpen (.dma 3) = true ∧ (∀ j ∈ [progJob, hostJob, badJob],
    (issueState j 511).nextIssue 3 = some { id := 0, job := j } ∧ ((issueState j 511).plat 3).reqs.length = 511 ∧
    ((issueState j 512).plat 3).reqs.length = 512 ∧ (issueState j 512).nextIssue 3 = some { id := 0, job := j } ∧
    (issueState j 511).dmaRefuses j (j.dstOf 3 0) = false) ∧
    (∀ j ∈ [progJob, hostJob], (issueState j 511).dmaRowOk 3 j (j.srcOf 3 0) (j.dstOf 3 0) = true) ∧
    (issueState badJob 511).dmaRowOk 3 badJob (badJob.srcOf 3 0) (badJob.dstOf 3 0) = false ∧
    stagingState.nextIssue 3 = some { id := 0, job := stageHost } ∧
    stagingState.dmaRefuses stageHost (stageHost.dstOf 3 0) = true := by decide +kernel

/-- An issued row of the program's descriptor, which its controllers hold. -/
def rowActive : DmaActive := { id := 0, job := progJob, rowsIssued := 1 }
def rowState (a : DmaActive) : State := withPlat { active := [a], reqs := [dmaRow] }

theorem witness_rowRequestDone : ∀ a ∈ [rowActive, { rowActive with failed := true }],
    ((rowState a).plat 3).reqs[0]? = some dmaRow ∧ ((rowState a).plat 3).ownerOf dmaRow = some a ∧
    ((((rowState a).serveRows).plat 3).reqs[0]?).getD dmaRow = dmaRow ∧ dmaRow.sent = false ∧ dmaRow.served = true ∧
    (rowState a).serveRows.tokensMove = true ∧ (rowState a).serveRows.gatesOpen (.dma 3) = true ∧
    (rowState a).serveRows.rowFirst dmaRow = true ∧
    ((rowState a).serveRows.strikes []).dmaRefuses a.job dmaRow.dst = false ∧
    ((rowState a).serveRows.strikes []).dmaRowOk 3 a.job dmaRow.src dmaRow.dst = true ∧ a.job.desc.remote = false := by
  decide +kernel

theorem witness_rowMove : ∃ bs u, (rowState rowActive).spaceRead (dmaUser 3 .program) dmaRow.src (progJob.bytesAt dmaRow.dst) = (bs, false, u) := by
  have h : ((rowState rowActive).spaceRead (dmaUser 3 .program) dmaRow.src (progJob.bytesAt dmaRow.dst)).2.1 = false := by decide +kernel
  exact ⟨_, _, Prod.ext rfl (Prod.ext h rfl)⟩

theorem witness_descriptorComplete : ((withPlat { active := [{ id := 0, job := hostJob, rowsIssued := 1, rowsDone := 1 }] }).plat 3).nextComplete =
    some { id := 0, job := hostJob, rowsIssued := 1, rowsDone := 1 } ∧ rowDesc.doneInc ≠ 0 ∧ hostJob.frame = none := by decide +kernel

theorem witness_dmaHqPush : running.awake = true ∧ running.accessGated (.dma 3) 0x070 = false ∧ running.img.state ≠ .held ∧ running.pwr.state ≠ .idle ∧
    (List.replicate 15 rowDesc).length < 16 ∧
    (withPlat { hq := List.replicate 15 rowDesc, hqDesc := [rowDesc.w0, rowDesc.w1, rowDesc.w2, 0, rowDesc.w4, rowDesc.w5] }).pushClosed rowDesc = false ∧
    rowDesc.remote = false := by decide +kernel

/-- A trigger at count 0 that starts the macro-instruction 2. -/
def trig : Trigger := { bm := 65535, dma := false, event := false, seq := true, tag := 0, thr0 := 0, inc := 1, dmaIx := 0, site := 0, seqIx := 2 }
def withTrigger (x : Plat) : State := { withPlat x with cfg := { (withPlat x).cfg with
  platProg := [(3, [[2, mkWord 64 [(0, 16, 65535), (18, 1, 1)], 1, 2]])] } }

theorem witness_triggerFire : (withTrigger {}).gatesOpen (.dma 3) = true ∧ ((withTrigger {}).cfg.triggers 3)[0]? = some trig ∧ (withTrigger {}).inputsOpen = true ∧
    (withTrigger {}).triggerReady 3 0 trig = true := by decide +kernel

theorem witness_sequencerStart : (withPlat { seqReq := [2] }).gatesOpen (.dma 3) = true ∧ (withPlat { seqReq := [2] }).inputsOpen = true ∧ ((withPlat { seqReq := [2] }).plat 3).seqReq.head? = some 2 ∧
    ((withPlat { seqReq := [2] }).plat 3).seqRun = none ∧
    ((withPlat { seqReq := [2], seqPend := List.replicate 14 1, seqRun := some { macro_ := 1 } }).plat 3).seqRun ≠ none ∧
    ((withPlat { seqReq := [2], seqPend := List.replicate 14 1, seqRun := some { macro_ := 1 } }).plat 3).seqPend.length < 15 ∧
    ((withPlat { seqPend := [1] }).plat 3).seqPend = [1] := by decide +kernel

/-! Benchmarks -/

/-- BMK of device 6, which the unit's mode lets add. -/
def bmkGroup : State := inGroup { running with bmks := [(65535, { mode := 0x10 })] }

theorem witness_benchmarkPaths : ∀ op ∈ [BmkOp.read, .add 1, .set 0, .wait 1, .arm 1 3, .reserved 5],
    running.bmkPath (.fw 0) 65535 op ∧ running.bmkPath (.host 0x8000) 65535 op ∧ running.bmkPath (.unit (.au 3)) 65535 op := by
  unfold State.bmkPath State.openFor; decide +kernel

theorem witness_benchmarkRemotePath : ∀ op ∈ [BmkOp.read, .add 1], bmkGroup.bmkPath (.remote rx0) 65535 op ∧
    (bmkGroup.bmkAt (.remote rx0) 65535 op).bmkCheck (bmkGroup.bmkSrcAt (.remote rx0)) 65535 op = none := by
  unfold State.bmkPath State.takes State.hears; decide +kernel

theorem witness_benchmarkOperations : ∀ op ∈ [BmkOp.read, .add 0xFFFFFFFF, .set 0, .wait 0, .wait 1, .arm 1 3, .arm 0 0xFFFFFFFF],
    running.bmkCheck (.fw 0) 65535 op = none := by decide

theorem witness_benchmarkWait : reached (running.bmk 65535).count 0 = true ∧ reached (running.bmk 65535).count 1 = false ∧
    (running.plat (homePlat 65535)).waits.length < 256 ∧ armBad 3 = false ∧ armBad 0xFFFFFFFF = true ∧ (5 : Fin 16).val ≥ 5 ∧
    running.img.state ≠ .held ∧ running.stepFailed = false ∧
    256 ≤ ((withPlat { waits := List.replicate 256 { index := 0, level := 1, src := .fw 0 } }).plat 3).waits.length := by
  decide +kernel

theorem witness_benchmarkOrder : ∃ q, running.takesNow opBmk (rowOrder (fwOrder 3) 65535 0 96 (BmkOp.add 7).payload) 0 ∧
    (running.started opBmk (rowOrder (fwOrder 3) 65535 0 96 (BmkOp.add 7).payload)).heldOrder
      (running.orderId opBmk (rowOrder (fwOrder 3) 65535 0 96 (BmkOp.add 7).payload)) = some q ∧
    (running.started opBmk (rowOrder (fwOrder 3) 65535 0 96 (BmkOp.add 7).payload)).bmkCheck (.cmd q) 65535 (.add 7) = none :=
  ⟨{ rowOrder (fwOrder 3) 65535 0 96 (BmkOp.add 7).payload with port := 32 },
    starts (by decide) (by unfold State.startsHere; decide +kernel), by decide +kernel, by decide +kernel⟩

/-! A training step -/

theorem witness_sealSend : (inStep 0 true).adj.inStep = true ∧ (inStep 0 true).arrayRuns = true ∧ (inStep 0 true).adj.sealSent = none ∧
    (inStep 0 true).adj.kFault = false ∧ (inStep 0 true).piecesDone = true ∧ (inStep 0 true).stashResidue = [] ∧
    (inStep 0 true).holdPoisoned = false ∧ ∀ g : Fin 4, ((inStep 0 true).au g).step = (inStep 0 true).stepIndex := by decide +kernel

theorem witness_gateSend : (inStep 2 true { sealed := true }).arrayRuns = true ∧ (inStep 2 true { sealed := true }).adj.sealed = true ∧
    (inStep 2 true { sealed := true }).adj.gateSent = none ∧ (inStep 2 true { sealed := true }).adj.kFault = false ∧
    (inStep 2 true { sealed := true }).passDone 2 = true := by decide +kernel

theorem witness_commitSend : (inStep 4 true { gateOk := true }).arrayRuns = true ∧ (inStep 4 true { gateOk := true }).adj.gateOk = true ∧
    (inStep 4 true { gateOk := true }).adj.commitSent = none ∧ (inStep 4 true { gateOk := true }).adj.kFault = false ∧
    (inStep 4 true { gateOk := true }).passDone 4 = true ∧ (inStep 4 true { gateOk := true }).adj.gatherBad = false ∧
    ∀ q ∈ (inStep 4 true { gateOk := true }).lxg.reqs, q.kind ≠ .gather := by decide +kernel

/-- A dense region of 32 elements at AU 3 with one piece, whose HOLD buffer in MU 255 of plat 3 has completed a round. -/
def piece0 : Piece := { item := 1, rPlat := 3, rMu := 255, rReg := 15, hPlat := 3, hMu := 255, hReg := 14, eEn := false, raw := false
                        e0 := 0, n := 32, gFmt := 5, eFmt := 0, gsz := 0, bpg := 0 }
def region0 : Region := { rule := 0, tier := 1, au := 3, trustGroup := 0, sparse := false, frozen := false, elements := 32
                          matCols := 0, ownerDev := 0, stateOff := 0, stateOffB := 0, copy0 := {}, copy1 := {}, mapBase := 0
                          precond := 0, betaF := 0, pieces := [piece0] }
def withRegion (s : State) : State := { s with
  cfg := { s.cfg with regions := [region0] }
  mus := [(unitKey 3 255, { run := .live, regions := [(14, { a := mkWord 64 [(0, 13, 1), (13, 14, 1), (27, 4, 3)] }),
    (15, { a := mkWord 64 [(13, 14, 1), (27, 4, 6)], roundDone := true })] })] }

theorem witness_requantisation : ∃ bs bad u, (withRegion (inStep 0 false)).requantReady 1 = some (region0, piece0) ∧ piece0.eEn = false ∧
    (withRegion (inStep 0 false)).muRead 3 255 ((((withRegion (inStep 0 false)).mu 3 255).reg 15).baseRow * 512)
      (4 * pieceElems region0 piece0) = (bs, bad, u) :=
  ⟨_, _, _, by decide +kernel, rfl, rfl⟩

/-- The piece is requantised; its STASH region holds a row, or its HOLD row is poisoned. -/
def pieceIn (held : Bool) : State := { withRegion (inStep 0 true { partials := [(1, fpOne)] }) with
  mus := [(unitKey 3 255, { run := .live, poison := [(0, true)], regions := [(14, { a := mkWord 64 [(13, 14, 1), (27, 4, 3)] }),
    (15, { a := mkWord 64 [(13, 14, 1), (27, 4, if held then 3 else 2)], hi := 1 })] })] }

theorem witness_sealSend_held : ∀ b : Bool, (pieceIn b).adj.inStep = true ∧ (pieceIn b).arrayRuns = true ∧
    (pieceIn b).adj.sealSent = none ∧ (pieceIn b).adj.kFault = false ∧ (pieceIn b).piecesDone = true ∧
    (pieceIn b).stashResidue = (if b then [] else [(unitKey 3 255, 15)]) ∧ (b = true → (pieceIn b).holdPoisoned = true) := by decide +kernel

/-- Order 0 started step 9. -/
def held0 (w : CmdWord) : Held := { id := 0, word := w, origin := .host, port := 0, arrival := .submit 0x8000, te := 0, timed := false, started := true }
def stepWord : CmdWord := { opcode := opStepStart, desc := { step := 9 } }
def ordered (s : State) : State := { s with cmd := { s.cmd with held := [held0 stepWord], nextId := 1 }, dtm := { s.dtm with latched := 9 } }

theorem witness_pass1Start : (ordered (inStep 1 false { sealed := true, curStart := some 0 })).arrayRuns = true ∧
    (∀ g : Fin 4, ((ordered (inStep 1 false { sealed := true, curStart := some 0 })).au g).phase = 1 ∧
      (ordered (inStep 1 false { sealed := true, curStart := some 0 })).commandStep =
        some ((ordered (inStep 1 false { sealed := true, curStart := some 0 })).au g).step ∧
      (ordered (inStep 1 false { sealed := true, curStart := some 0 })).dtm.latched =
        ((ordered (inStep 1 false { sealed := true, curStart := some 0 })).au g).step ∧
      (ordered (inStep 1 false { sealed := true, curStart := some 0 })).gatesOpen (.au g) = true) ∧
    (ordered (inStep 1 false { sealed := true, curStart := some 0 })).coefsPresent = true := by decide +kernel

theorem witness_pass2Start : (inStep 3 true { gateOk := true }).arrayRuns = true ∧ (inStep 3 true { gateOk := true }).adj.pass2 = false ∧
    (∀ g : Fin 4, ((inStep 3 true { gateOk := true }).au g).phase = 3) ∧
    (∀ m ∈ (inStep 3 true { gateOk := true }).mon.locks, m + 2 ≠ (inStep 3 true { gateOk := true }).stepIndex.toNat) ∧
    (inStep 3 true { gateOk := true }).applyFreezes.anyNfSkip = false := by decide +kernel

theorem witness_auElementEvaluate : ∀ ph ∈ [2, 4], (withRegion (inStep ph false)).gatesOpen (.au 3) = true ∧ (withRegion (inStep ph false)).arrayRuns = true ∧
    ((withRegion (inStep ph false)).au 3).passDone = false ∧
    (((withRegion (inStep ph false)).strikes []).cfg.regions.drop ((withRegion (inStep ph false)).au 3).region).head? = some region0 ∧
    region0.byAu 3 = true ∧ region0.sparse = false ∧ ((withRegion (inStep ph false)).au 3).pos < region0.elements ∧
    (inStep ph false).cfg.regions.length ≤ ((inStep ph false).au 3).region ∧ ((inStep ph false).au 3).parked = [] := by decide +kernel

/-- The AU stands before the region of another AU, before a sparse region, and at the region's end. -/
def atRegion (r : Region) (pos : Nat) : State := { inStep 2 false with
  cfg := { running.cfg with regions := [r] }
  aus := [(3, { phase := 2, step := 9, pos := pos })] }

theorem witness_auElementEvaluate_forms : ∀ e ∈ [({ region0 with au := 2 }, 0), ({ region0 with sparse := true, matCols := 1 }, 0),
      (region0, 32)], (atRegion e.1 e.2).arrayRuns = true ∧ (atRegion e.1 e.2).gatesOpen (.au 3) = true ∧ (atRegion e.1 e.2).adj.inStep = true ∧
    ((atRegion e.1 e.2).au 3).phase = 2 ∧ ((atRegion e.1 e.2).au 3).passDone = false ∧
    (((atRegion e.1 e.2).strikes []).cfg.regions.drop ((atRegion e.1 e.2).au 3).region).head? = some e.1 ∧
    (e.1.byAu 3 = false ∨ (e.1.sparse = true ∧ ((atRegion e.1 e.2).au 3).pos < e.1.slots) ∨
      e.1.elements ≤ ((atRegion e.1 e.2).au 3).pos) := by decide +kernel

/-- Slot 5 of the sparse form of the region is parked at AU 3. -/
def parked0 : State := { withRegion (inStep 2 false) with aus := [(3, { phase := 2, step := 9, parked := [(0, 1, 5, 77)] })] }

theorem witness_parkedSlotEvaluate : parked0.gatesOpen (.au 3) = true ∧ (parked0.au 3).parked[0]? = some (0, 1, 5, 77) ∧ parked0.arrayRuns = true ∧ parked0.adj.inStep = true ∧
    parked0.cfg.regions[0]? = some region0 ∧ parked0.cfg.piece 1 = some (region0, piece0) := by decide +kernel

/-- A STEP_START for step 9, the step index of the AUs, while no step is in progress. -/
def stepOrder : Order := { desc := { step := 9 }, origin := .host, port := 0, arrival := .submit 0x8000 }
def betweenSteps : State := { inStep 0 false with adj := {} }

theorem witness_stepStart : betweenSteps.takesNow opStepStart stepOrder 0 := starts (by decide) (by unfold State.startsHere; decide +kernel)

theorem witness_stepStartTime : (ordered { betweenSteps with adj := { nextStart := some 0 } }).adj.nextStart = some 0 ∧
    (ordered { betweenSteps with adj := { nextStart := some 0 } }).cmd.held.find? (fun h => h.id == 0) = some (held0 stepWord) ∧
    (held0 stepWord).started = true ∧ (held0 stepWord).te.toNat ≤ running.dtm.time.toNat ∧ (ordered { betweenSteps with adj := { nextStart := some 0 } }).adj.inStep = false ∧
    (ordered { betweenSteps with adj := { nextStart := some 0 } }).img.state = .running ∧
    (ordered { betweenSteps with adj := { nextStart := some 0 } }).flt.stepState = .idle ∧
    (ordered { betweenSteps with adj := { nextStart := some 0 } }).adj.recs = [] := by decide +kernel

theorem witness_stepBoundary : (inStep 5 true { commitSent := some true }).adj.inStep = true ∧
    (inStep 5 true { commitSent := some true }).arrayRuns = true ∧ (inStep 5 true { commitSent := some true }).haveAll 3 = true := by decide +kernel

/-- A failed step, and one whose restart actions run. -/
def failedStep (b : Bool) : State := { inStep 0 false { curStart := some 0 } with flt := { running.flt with stepState := .quiescing, restarting := b } }

theorem witness_restart : (failedStep false).flt.stepState = .quiescing ∧ (failedStep false).flt.restarting = false ∧
    (failedStep false).lxg.reqs = [] ∧ (∀ p : Fin 4, ((failedStep false).plat p).reqs = []) ∧
    (failedStep true).flt.restarting = true ∧ (failedStep true).adj.curStart = some 0 ∧ (failedStep true).img.state = .running := by
  decide +kernel

/-- The order of the failed step is held; a STOP may wait for the step's end. -/
def failedStop (i : ImgState) : State :=
  let s := failedStep true
  { s with img := { s.img with state := i }, cmd := { s.cmd with held := [held0 stepWord], nextId := 1 } }

theorem witness_restartDone : ∀ i ∈ [ImgState.running, .stopping], (failedStop i).flt.restarting = true ∧ (failedStop i).adj.curStart = some 0 ∧
    (State.complete { failedStop i with
        flt := Flt.countAttempt { (failedStop i).flt with restarting := false, stepState := .restarted } (failedStop i).stepIndex
        adj := { (failedStop i).adj with curStart := none } } 0
      { code := if (failedStop i).flt.first.valid then (failedStop i).flt.first.code else Codes.stepFailed }).img.state = i := by
  decide +kernel

/-- COEF_SET of 1.0 for coefficient 16 of row 63 at the next step. -/
def coefWord : BitVec 128 := mkWord 128 [(0, 48, 10), (48, 6, 63), (54, 5, 16), (64, 32, 0x3F800000)]

theorem witness_coefSet : (inStep 0 false).takesNow opCoefSet (fwOrder 0) 0 ∧ fld coefWord 59 5 = 0 ∧ fld coefWord 96 32 = 0 ∧
    fld coefWord 54 5 ≤ 16 ∧ (inStep 0 false).inWindow (BitVec.ofNat 48 (fld coefWord 0 48)) = true ∧
    coefOk (rowFlags ((inStep 0 false).cfg.ruleWord (fld coefWord 48 6) 0)) (fld coefWord 54 5) (BitVec.ofNat 32 (fld coefWord 64 32))
      ((inStep 0 false).coefPartner (BitVec.ofNat 48 (fld coefWord 0 48)) (fld coefWord 48 6) (fld coefWord 54 5)) = true := by
  exact ⟨starts (by decide) (by unfold State.startsHere; decide +kernel), by decide +kernel⟩

def freezeOrder : Order := fwOrder 0 (mkWord 256 [(0, 48, 10), (60, 1, 1)])

theorem witness_freezeSet : (withRegion (inStep 0 false)).takesNow opFreezeSet freezeOrder 0 ∧ fld freezeOrder.desc.payload 61 67 = 0 ∧
    fld freezeOrder.desc.payload 48 12 < ((withRegion (inStep 0 false)).started opFreezeSet freezeOrder).cfg.regions.length ∧
    ((withRegion (inStep 0 false)).started opFreezeSet freezeOrder).inWindow (BitVec.ofNat 48 (fld freezeOrder.desc.payload 0 48)) = true := by
  exact ⟨starts (by decide) (by unfold State.startsHere; decide +kernel), by decide +kernel⟩

theorem witness_auStepWrite : (inState .ready).blockGated (.au 3) = false ∧ (inState .ready).img.state = .ready ∧
    running.blockGated (.au 3) = false ∧ running.img.state ≠ .ready := by decide

/-! Exchange records -/

/-- Device 6 is in the seal set of the running step. -/
def exchanging (d : Dtm := {}) : State := inGroup { inStep 0 false with
  cfg := { running.cfg with plan := { dev := 5, shards := 1, seals := [{ dev := 6, rset := 0, shard := 0 }] } }, dtm := d }
def normRec (typ : Fin 5) (vote : Bool) : NormRec where
  typ := typ
  vote := vote
  fault := if vote then Codes.holdRound else 0
  dev := 6
  shard := 0
  step := 9
  rset := 0
  gsq := 0
  trust := []
  root := key 0

theorem witness_normRecord : exchanging.hears rx0 ∧ exchanging.forMe rx0 = true ∧
    ∀ v : Bool, (normRec 1 v).typ.val ≠ 4 ∧ (exchanging.received rx0 (.norm (normRec 1 v))).img.state = .running ∧
    (exchanging.received rx0 (.norm (normRec 1 v))).stepFailed = false ∧
    (∃ e ∈ (exchanging.received rx0 (.norm (normRec 1 v))).cfg.plan.seals, e.dev = (normRec 1 v).dev) ∧
    (exchanging.received rx0 (.norm (normRec 1 v))).adj.inStep = true ∧
    (normRec 1 v).step = (exchanging.received rx0 (.norm (normRec 1 v))).stepIndex ∧ (normRec 1 v).vote = v ∧
    (∀ q ∈ (exchanging.received rx0 (.norm (normRec 1 v))).adj.recs, q.typ = (normRec 1 v).typ → q.dev = 6 → q.step ≠ 9) ∧
    (exchanging.received rx0 (.norm (normRec 4 v))).layoutOn = true := by unfold State.hears; decide +kernel

/-- Device 6 sent an OK SEAL before its FAIL. -/
def exchangedOk : State := { exchanging with adj := { exchanging.adj with recs := [normRec 1 false] } }
theorem witness_normRecordFail : (∀ q ∈ (exchangedOk.received rx0 (.norm (normRec 1 true))).adj.recs, q.vote = false) ∧
    (normRec 1 true).vote = true ∧ (∃ q ∈ exchangedOk.adj.recs, q.typ = (normRec 1 true).typ ∧ q.dev = 6 ∧ q.step = 9) := by
  decide +kernel

theorem witness_exchangeTimeout : exchanging.adj.inStep = true ∧ exchanging.arrayRuns = true ∧ exchanging.bankWaits = false ∧
    exchanging.exchDeadline exchanging.exchPhase ≤ exchanging.dtm.time.toNat ∧
    exchanging.cfg.plan.seals.find? (fun e => !exchanging.adj.recs.any (fun r =>
      r.typ.val == exchanging.exchPhase && r.dev == e.dev && r.step == exchanging.stepIndex)) = some { dev := 6, rset := 0, shard := 0 } := by
  decide +kernel

/-! External memory -/

/-- A GENERAL range of 4 KiB on channel 15, which is up. -/
def general : DramRange := { kind := 6, gran := 12, chans := 0x8000, base := 0x03FFFFFFF000, len := 4096, local0 := 0 }
def withDram : State := { running with
  cfg := { running.cfg with layout := [general] }
  dram := { running.dram with chans := [(15, { state := .up, capacity := 16, ranks := 1 })], mgs := [(3, { period := 1 })] } }

theorem witness_dramRead : withDram.awake = true ∧ withDram.dramAwake = true ∧ withDram.dramReadOk .host 0x03FFFFFFFF80 = true ∧
    ((withDram.strikes []).dramRead .host (burstBase 0x03FFFFFFFF80) 128).2.1 = false := by decide +kernel

theorem witness_dramWrite : withDram.dramAwake = true ∧ 0x03FFFFFFFFFF % 128 + [(1 : Byte)].length ≤ 128 ∧
    withDram.dramWriteOk .host 0x03FFFFFFFFFF = true ∧ withDram.dramMap 0x03FFFFFFFFFF = some (15, 4095) ∧ 15 < 16 := by decide +kernel

theorem witness_dramHot : (withDram.chan 15).state = .up ∧ (withDram.chan 15).hot = false ∧ (withDram.chan 0).state ≠ .up := by decide

theorem witness_patrolScrub : (withDram.chan 15).state = .up ∧ withDram.dramAwake = true ∧ (withDram.mg (15 / 4)).period ≠ 0 ∧
    ((withDram.chan 15).scrubPos + 1) * 128 < (withDram.chan 15).bytes := by decide +kernel

/-- Two devices of one codeword of the first burst are damaged. -/
def damage : List Upset := [.burst 15 0 7 0 19, .burst 15 0 7 0 18]

theorem witness_patrolScrub_decode : ((withDram.strikes []).burstDecode 15 (burstKey 15 (128 * (withDram.chan 15).scrubPos))).1 = false ∧
    ((withDram.strikes damage).burstDecode 15 (burstKey 15 (128 * (withDram.chan 15).scrubPos))).1 = true := by decide +kernel

theorem witness_dramForbidden : withDram.dramReadOk .host 0x100 = false ∧ withDram.dramWriteOk .host 0x100 = false := by decide +kernel

/-! Monuments -/

/-- A member of the group whose step 9 runs; it may capture step 8 through port 0, and holds slots for device 6. -/
def buddy : DramRange := { kind := 4, gran := 12, chans := 1, base := 0, len := 0x40000, local0 := 0, buddyDev := 6 }
def monState (m : Mon := {}) : State := inGroup { inStep 0 false with
  mon := { m with ctl := mkWord 64 [(8, 6, 8), (16, 32, 1)] }
  cfg := { running.cfg with layout := [buddy] } }

theorem witness_capture : (monState).openFor (.fw 0) .glb ∧ (monState).pwr.state ≠ .idle ∧ (monState).img.state = .running ∧ (monState).debugOpen = false ∧
    (monState).monBusy = false ∧ (monState).stateHeld 8 = true ∧ (monState).monPorts (monState).mon.mask ≠ [] ∧
    (monState).takesNow opMon (rowOrder (fwOrder 4) 0 0 64 (mkWord 64 [(16, 48, 8)]).toNat) ((monState).monSize (mkWord 64 [(16, 48, 8)])) :=
  ⟨by unfold State.openFor; decide +kernel, by decide, by decide +kernel, by decide +kernel, by decide +kernel, by decide +kernel, by decide +kernel,
    starts (by decide) (by unfold State.startsHere; decide +kernel)⟩

theorem witness_captureOrder :
    (((monState).started opMon (rowOrder (fwOrder 4) 0 0 64 (mkWord 64 [(16, 48, 8)]).toNat)).captureOp 8).2 = none := by decide +kernel

theorem witness_restore : (ready monState).openFor (.fw 0) .glb ∧ (ready monState).pwr.state ≠ .idle ∧ (ready monState).img.state = .ready ∧ (ready monState).monBusy = false ∧
    (ready monState).mon.toDevice = false ∧ (ready (monState { sink := mkWord 64 [(0, 1, 1)] })).mon.toDevice = true ∧
    (ready (monState { sink := mkWord 64 [(0, 1, 1)] })).monPorts (ready (monState { sink := mkWord 64 [(0, 1, 1)] })).mon.mask ≠ [] := by
  unfold State.openFor; decide +kernel

/-- A capture of a body of one chunk, an empty one here. -/
def job (own : Bool) (next : Nat) (fl : List MonSent) : MonJob := { own := own, step := 8, src := 5, dst := 6, mask := 1, window := 8, bm := none
                                                                    head := [], segs := [], rule := [], freeze := [], base := 0, len := 1
                                                                    next := next, flight := fl }
def sent (retry : Bool) (k : Nat) : MonSent := { index := 0, bytes := [], digest := key 0, sends := k, retry := retry }
def withJob (j : MonJob) : State := monState { job := some j }

theorem witness_monumentAbort : (withJob (job true 0 [])).openFor (.fw 0) .glb ∧ (withJob (job true 0 [])).pwr.state ≠ .idle ∧ (withJob (job true 0 [])).img.state ≠ .held ∧
    (withJob (job true 0 [])).mon.restore = none ∧ (withJob (job true 0 [])).mon.job = some (job true 0 []) := by
  unfold State.openFor; decide +kernel

theorem witness_chunkRead : ∃ bs u, (withJob (job true 0 [])).mon.job = some (job true 0 []) ∧ (withJob (job true 0 [])).digestRuns = true ∧ (job true 0 []).next < (job true 0 []).total ∧
    (job true 0 []).flight.length < (job true 0 []).window ∧ (job true 0 []).own = true ∧
    ((withJob (job true 0 [])).strikes []).bodyBytes .monument (job true 0 []) 0 (min 1 0x100000) = (bs, false, u) :=
  ⟨_, _, rfl, by decide, by decide, by decide, rfl, rfl⟩

/-- A monument of one poisoned row of tier 0. -/
def rowJob : MonJob := { job true 0 [] with segs := [{ kind := 1, item := 0, off := 0, len := 1, src := muBase 0 0 }] }
def withRow : State := { withJob rowJob with mus := [(0, { run := .live, poison := [(0, true)] })] }

theorem witness_chunkRead_poison : withRow.digestRuns = true ∧ withRow.mon.job = some rowJob ∧
    ((withRow.strikes []).bodyBytes .monument rowJob 0 (min 1 0x100000)).2.1 = true := by decide +kernel

theorem witness_recordSignature : (withJob (job true 1 [])).hasIdentity = true ∧ (job true 1 []).own = true ∧ (job true 1 []).next = (job true 1 []).total ∧
    (job true 1 []).record = none := by decide

theorem witness_resends : (job true 1 [sent true 16]).flight.find? (fun e => e.index == (0 : W32).toNat && e.retry) = some (sent true 16) ∧
    (sent true 16).sends ≤ 16 ∧
    (job true 1 [sent false 16]).flight.find? (fun e => e.index == (0 : W32).toNat && !e.retry && decide (e.sends ≤ 16)) = some (sent false 16) ∧
    (∃ e ∈ (job true 1 [sent false 17]).flight, e.index = (0 : W32).toNat ∧ e.retry = false ∧ 17 ≤ e.sends) := by decide

theorem witness_monBankWait :
    State.bankWaits { inStep 3 true { gateOk := true } with mon := { job := some { job true 0 [] with step := 7 } } } = true ∧
    (0 : W64).toNat + (inStep 3 true).cfg.timing.stepDt ≤ (inStep 3 true).dtm.time.toNat := by decide +kernel

/-- A frame of device 6's monument of step 8. -/
def frame (payload digest : List Byte) (status : Byte := 0) : MonFrame :=
  { status := status, srcDev := 6, index := 0, step := 8, payload := payload, digest := digest }

theorem witness_ackFrame : (withJob { job true 1 [sent false 1] with src := 6 }).hears rx0 ∧
    (withJob { job true 1 [sent false 1] with src := 6 }).forMe rx0 = true ∧
    ((withJob { job true 1 [sent false 1] with src := 6 }).received rx0 (.mon 4 (frame [] (key 0)))).mon.job =
      some { job true 1 [sent false 1] with src := 6 } ∧
    (frame [] (key 0)).srcDev = 6 ∧ (frame [] (key 0)).step.toNat = 8 ∧
    ((withJob { job true 1 [sent false 1] with src := 6 }).headerOf rx0).src = 6 ∧
    (job true 1 [sent false 1]).flight.find? (fun e => e.index == (0 : W32).toNat) = some (sent false 1) ∧ (sent false 1).index ≠ ackRecord := by
  unfold State.hears; decide +kernel

/-- A chunk of one byte with its digest; a slot that waits for it. -/
def chunk1 : MonFrame := frame [1] (monChunkDigest 0 [1])
def fill1 (got : SMap (List Byte)) : Fill := { src := 6, step := 8, slot := 0, len := 1, got := got }

theorem witness_chunkFrame : (monState { fills := [fill1 []] }).hears rx0 ∧ (monState { fills := [fill1 []] }).forMe rx0 = true ∧
    ((monState { fills := [fill1 []] }).received rx0 (.mon 1 chunk1)).mon.restore = none ∧
    ((monState { fills := [fill1 []] }).received rx0 (.mon 1 chunk1)).buddyRange chunk1.srcDev = some buddy ∧
    monChunkDigest chunk1.index.toNat chunk1.payload = chunk1.digest ∧
    ((monState { fills := [fill1 []] }).received rx0 (.mon 1 chunk1)).mon.fills.find? (fun x => x.src == chunk1.srcDev && x.step == chunk1.step.toNat) =
      some (fill1 []) ∧
    chunk1.index.toNat * 0x100000 + chunk1.payload.length ≤ (fill1 []).len ∧
    ((monState { fills := [fill1 []] }).received rx0 (.mon 1 chunk1)).chunkRefused (fill1 []) chunk1.index.toNat chunk1.payload.length = false :=
  ⟨by unfold State.hears; decide +kernel, by decide +kernel, by decide +kernel, by decide +kernel, rfl, by decide +kernel, by decide,
    by decide +kernel⟩

def restore1 : Restore := { step := some 8, from_ := some 6, peer := 6, mask := 1, seed := some (3, 4) }

theorem witness_restoreFrames : (monState { restore := some restore1 }).hears rx0 ∧ (monState { restore := some restore1 }).forMe rx0 = true ∧
    ((monState { restore := some restore1 }).received rx0 (.mon 1 chunk1)).mon.restore = some restore1 ∧
    restore1.matches ((monState { restore := some restore1 }).headerOf rx0) chunk1 = true ∧
    (monState).hears rx0 ∧ ((monState).received rx0 (.mon 3 chunk1)).mon.restore = none := by unfold State.hears; decide +kernel

/-- The record of a body of `len` bytes with these chunk digests, signed by a device of the roster. -/
def recordHead (len : Nat) (ds : List (List Byte)) : List Byte :=
  leBytes 16 0 ++ leBytes 8 8 ++ leBytes 8 len ++ leBytes 32 0 ++ monRootOf len ds ++ leBytes 128 0 ++ keyIdOf (key 6)
def recordOf (len : Nat) (ds : List (List Byte)) : List Byte :=
  recordHead len ds ++ Config.slhSign true (key 6) (ascii "BLK-MON-SIG1" ++ recordHead len ds)
theorem recordHead_length (len : Nat) (ds : List (List Byte)) : (recordHead len ds).length = 0x140 := by
  simp [recordHead, leBytes_length, monRootOf, keyIdOf, Config.shake256]

theorem recordHead_root (len : Nat) (ds : List (List Byte)) (x : List Byte) : sub (recordHead len ds ++ x) 0x40 64 = monRootOf len ds := by
  have h := sub_mid (leBytes 16 0 ++ leBytes 8 8 ++ leBytes 8 len ++ leBytes 32 0) (monRootOf len ds)
    (leBytes 128 0 ++ keyIdOf (key 6) ++ x) 0x40 64 (by simp [leBytes_length]) (by simp [monRootOf, Config.shake256])
  simpa only [recordHead, List.append_assoc] using h

theorem recordHead_key (len : Nat) (ds : List (List Byte)) (x : List Byte) : sub (recordHead len ds ++ x) 0x100 64 = keyIdOf (key 6) :=
  sub_mid (leBytes 16 0 ++ leBytes 8 8 ++ leBytes 8 len ++ leBytes 32 0 ++ monRootOf len ds ++ leBytes 128 0)
    (keyIdOf (key 6)) x 0x100 64 (by simp [leBytes_length, monRootOf, Config.shake256]) (by simp [keyIdOf, Config.shake256])

theorem recordHead_step (len : Nat) (ds : List (List Byte)) (x : List Byte) : sub (recordHead len ds ++ x) 0x10 8 = leBytes 8 8 := by
  have h := sub_mid (leBytes 16 0) (leBytes 8 8) (leBytes 8 len ++ leBytes 32 0 ++ monRootOf len ds ++ leBytes 128 0
    ++ keyIdOf (key 6) ++ x) 0x10 8 (by decide) (by decide)
  simpa only [recordHead, List.append_assoc] using h

theorem recordHead_len (len : Nat) (ds : List (List Byte)) (x : List Byte) : sub (recordHead len ds ++ x) 0x18 8 = leBytes 8 len := by
  have h := sub_mid (leBytes 16 0 ++ leBytes 8 8) (leBytes 8 len) (leBytes 32 0 ++ monRootOf len ds ++ leBytes 128 0
    ++ keyIdOf (key 6) ++ x) 0x18 8 (by decide) (leBytes_length _ _)
  simpa only [recordHead, List.append_assoc] using h

theorem recordOf_root (len : Nat) (ds : List (List Byte)) : sub (recordOf len ds) 0x40 64 = monRootOf len ds := recordHead_root _ _ _
theorem recordOf_key (len : Nat) (ds : List (List Byte)) : sub (recordOf len ds) 0x100 64 = keyIdOf (key 6) := recordHead_key _ _ _

theorem recordOf_step (len : Nat) (ds : List (List Byte)) : leAt (recordOf len ds) 0x10 8 = 8 := by
  rw [leAt, recordOf, recordHead_step]; decide

theorem recordOf_len (len : Nat) (ds : List (List Byte)) (h : leNat (leBytes 8 len) = len) : leAt (recordOf len ds) 0x18 8 = len := by
  rw [leAt, recordOf, recordHead_len, h]

theorem recordOf_sig (len : Nat) (ds : List (List Byte)) :
    sub (recordOf len ds) 0x140 (Config.sigLen true) = Config.slhSign true (key 6) (ascii "BLK-MON-SIG1" ++ recordHead len ds) := by
  have h := sub_mid (recordHead len ds) (Config.slhSign true (key 6) (ascii "BLK-MON-SIG1" ++ recordHead len ds)) [] 0x140
    (Config.sigLen true) (recordHead_length _ _) (by simp [Config.slhSign])
  simpa [recordOf] using h

theorem recordOf_message (len : Nat) (ds : List (List Byte)) :
    recordMessage (recordOf len ds) = ascii "BLK-MON-SIG1" ++ recordHead len ds := by
  unfold recordMessage recordOf
  rw [← recordHead_length len ds, List.take_left]

theorem recordOf_signed (s : State) (len : Nat) (ds : List (List Byte)) (e : ((withRoster s).sec.state != .error) = true) : (withRoster s).recordSigned (recordOf len ds) = true := by
  have k : (withRoster s).rosterKey (keyIdOf (key 6)) 1 = some (key 6) := by simp [State.rosterKey, withRoster]
  unfold State.recordSigned
  rw [e, recordOf_key, k, recordOf_sig, recordOf_message, Bool.true_and]
  exact slh_signed _ _ _

theorem matches_1 (rec : List Byte) (a : sub rec 0x40 64 = monRootOf 1 [key 1]) (l : leAt rec 0x10 8 = 8) (m : leAt rec 0x18 8 = 1) :
    recordMatches rec 8 1 [(0, key 1)] = true := by
  have h : allDigests [(0, key 1)] (cdiv 1 0x100000) = some [key 1] := by decide +kernel
  unfold recordMatches
  rw [h, a, l, m]
  simp

theorem matches_12800 (rec : List Byte) (a : sub rec 0x40 64 = monRootOf 12800 [key 1]) (l : leAt rec 0x10 8 = 8)
    (m : leAt rec 0x18 8 = 12800) : recordMatches rec 8 12800 [(0, key 1)] = true := by
  have h : allDigests [(0, key 1)] (cdiv 12800 0x100000) = some [key 1] := by decide +kernel
  unfold recordMatches
  rw [h, a, l, m]
  simp

def record1 : MonFrame := frame (recordOf 1 [key 1]) (key 0)

theorem witness_recordFrame : (withRoster (monState { fills := [fill1 [(0, key 1)]] })).hears rx0 ∧
    (withRoster (monState { fills := [fill1 [(0, key 1)]] })).forMe rx0 = true ∧
    ((withRoster (monState { fills := [fill1 [(0, key 1)]] })).received rx0 (.mon 2 record1)).mon.restore = none ∧
    ((withRoster (monState { fills := [fill1 [(0, key 1)]] })).received rx0 (.mon 2 record1)).mon.fills.find?
      (fun x => x.src == record1.srcDev && x.step == record1.step.toNat) = some (fill1 [(0, key 1)]) ∧
    recordMatches record1.payload 8 1 [(0, key 1)] = true ∧
    (withRoster (monState { fills := [fill1 [(0, key 1)]] })).recordSigned record1.payload = true :=
  ⟨by unfold State.hears; decide +kernel, by decide +kernel, by decide +kernel, by decide +kernel,
    matches_1 _ (recordOf_root _ _) (recordOf_step _ _) (recordOf_len _ _ (by decide)), recordOf_signed _ _ _ (by decide)⟩

/-- The restored monument: the image's rule table and freeze bits in one chunk. -/
def restoring (d : List Byte) : State := withRoster (monState { restore := some { restore1 with got := [(0, d)] } })

theorem witness_restoreRecord : (restoring (key 1)).hears rx0 ∧ (restoring (key 1)).forMe rx0 = true ∧
    ((restoring (key 1)).received rx0 (.mon 2 (frame (recordOf 12800 [key 1]) (key 0)))).mon.restore = some { restore1 with got := [(0, key 1)] } ∧
    ({ restore1 with got := [(0, key 1)] } : Restore).matches ((restoring (key 1)).headerOf rx0) (frame [] (key 0)) = true ∧
    restore1.seed = some (3, 4) ∧ segsEnd ((restoring (key 1)).monSegs 8) = 12800 ∧
    recordMatches (recordOf 12800 [key 1]) 8 12800 [(0, key 1)] = true ∧
    (restoring (key 1)).recordSigned (recordOf 12800 [key 1]) = true :=
  ⟨by unfold State.hears; decide +kernel, by decide +kernel, by decide +kernel, by decide +kernel, rfl, by decide +kernel,
    matches_12800 _ (recordOf_root _ _) (recordOf_step _ _) (recordOf_len _ _ (by decide)), recordOf_signed _ _ _ (by decide)⟩

/-- Device 6 asks for its monument of step 8, which stands in the second slot of its range. -/
def pullFrame6 : MonFrame := frame [] (key 0)
def withSlot : State := { monState with dram := { running.dram with
  mem := (((ascii "BLKBUDS1" ++ [2, 0, 6, 0, 0, 0, 0, 0, 8]).zipIdx : List (Byte × Nat)).filter (fun e => e.1 != 0)).map (fun e => (0x20000 + e.2, e.1)) } }

theorem witness_pullFrame : withSlot.hears rx0 ∧ withSlot.forMe rx0 = true ∧
    (withSlot.received rx0 (.mon 5 pullFrame6)).buddyRange 6 = some buddy ∧
    newestSlot (((withSlot.received rx0 (.mon 5 pullFrame6)).validSlots buddy).1.filter
      (fun x => fld pullFrame6.step 0 48 = 2 ^ 48 - 1 || x.step = pullFrame6.step.toNat)) =
        some { at_ := 0x20000, state := 2, step := 8, len := 0 } ∧
    ((withSlot.received rx0 (.mon 5 pullFrame6)).validSlots buddy).2.img.state ≠ .held ∧
    ((withSlot.received rx0 (.mon 5 pullFrame6)).validSlots buddy).2.monBusy = false ∧
    ((withSlot.received rx0 (.mon 5 pullFrame6)).validSlots buddy).2.monPorts withSlot.mon.mask ≠ [] := by
  unfold State.hears; decide +kernel

/-- The digest of S(8), whose bytes a monument of S(8) may still read. -/
def digesting (bad : Bool) (j : Option MonJob := none) : State := monState { digest := some 8, digestBad := bad, job := j }

theorem witness_closureDigestDone : (digesting false (some (job true 0 []))).digestShares 8 = true ∧
    (digesting false (some (job true 1 []))).digestShares 8 = false ∧ (digesting false).digestRuns = true ∧ ∀ b : Bool, ∃ bs u, (digesting b).mon.digest = some 8 ∧
    (digesting b).digestShares 8 = false ∧
    ((((digesting b).strikes []).monSegs 8).filter (fun g => g.kind == 1 || g.kind == 5 || g.kind == 6)).foldl
      (fun (acc : List Byte × Bool × State) g =>
        (acc.1 ++ (acc.2.2.closeBytes g).1, acc.2.1 || (acc.2.2.closeBytes g).2.1, (acc.2.2.closeBytes g).2.2))
      ([], ((digesting b).strikes []).mon.digestBad, (digesting b).strikes []) = (bs, b, u) :=
  ⟨by decide, by decide, by decide, fun b => ⟨[], digesting b, rfl, rfl, by cases b <;> rfl⟩⟩

theorem witness_closureDeadline : (monState { checks := [{ step := 8, at_ := 0 }] }).mon.checks.find?
      (fun k => decide (k.at_.toNat + 2 * (monState { checks := [{ step := 8, at_ := 0 }] }).cfg.timing.stepDt ≤
        (monState { checks := [{ step := 8, at_ := 0 }] }).dtm.time.toNat)) = some { step := 8, at_ := 0 } := by decide +kernel

/-! Lumoux ports -/

/-- One port, port 31, in some condition. -/
def withPort (p : Port) : State := { running with ports := [(31, p)] }

theorem witness_laserLost : running.awake = true ∧ running.clk.refin = true ∧ State.reset.awake = false ∧ ((withPort { light := true }).port (4 * 7 + 3)).light = true ∧
    (({ running with ports := [(28, { light := true })] } : State).port (4 * (7 : Fin 8))).light = true := by decide

theorem witness_receiveSignal : ((withPort { state := .down, light := true }).port 31).state = .down ∧
    ((withPort { state := .down, light := true }).port 31).en = true ∧ ((withPort { state := .down, light := true }).port 31).light = true ∧
    (withPort { state := .down, light := true }).clk.refin = true ∧ ((withPort { state := .down }).port 31).light = false ∧
    (withPort { state := .down }).awake = true ∧ State.reset.clk.refin = false := by decide

theorem witness_portStates : ((withPort { state := .training }).port 31).state = .training ∧ ((withPort { state := .secure }).port 31).up = true ∧
    ((withPort { state := .linked }).port 31).state ≠ .off ∧ ((withPort { state := .secure, rekey := true }).port 31).rekey = true ∧
    ((withPort { state := .secure }).port 31).rekey = false := by decide

/-- The announcement of a device of the roster, with its signature and with none. -/
def annBody : Announce := { kind := 1, port := 0, number := 6, bridge := false, keyId := keyIdOf (key 6), nonce := [], ek := [], pubKey := key 6
                            chainDigest := [], rosterSeq := 1, signature := [] }
def ann : Announce := { annBody with signature := Config.slhSign true (key 6) (ascii "BLK-LX-ANN1" ++ announceBytes annBody) }
def portWith (st : PortState) : State := withRoster (withPort { state := st, myAnnounce := some ann, peerAnnounce := some ann })

theorem witness_signed : announceSigned ann = true ∧ announceSigned annBody = false :=
  have h : announceBytes ann = announceBytes annBody := by simp only [announceBytes, ann]
  ⟨by unfold announceSigned; rw [h]; simp only [ann, annBody, slh_signed], by simp [announceSigned, Config.slhVerify, Config.sigLen, annBody]⟩

theorem witness_peerCheck (st : PortState) (k : Nat) :
    State.peerCheck ((portWith st).setPort 31 (((portWith st).port 31).free 0 k)) 31 ann true = none := by
  have h : ((portWith st).setPort 31 (((portWith st).port 31).free 0 k)).sec.roster = (withRoster running).sec.roster := rfl
  unfold State.peerCheck State.rosterAdmits
  rw [h]
  simp [withRoster, ann, annBody]

theorem witness_announce : ∃ r u rnd v, ((portWith .linked).port 31).state = .linked ∧
    (portWith .linked).setPort 31 (((portWith .linked).port 31).free 0 (flitsOf 53032)) = r ∧ r.hasIdentity = true ∧ r.peerCheck 31 ann true = none ∧
    ((portWith .linked).port 31).myAnnounce = some ann ∧
    (r.setPort 31 { r.port 31 with peerAnnounce := some ann }).lxCalibrate 31 ann.keyId = u ∧ u.drbgDraw 32 = (rnd, v) :=
  ⟨_, _, _, _, rfl, rfl, by decide, witness_peerCheck _ _, rfl, rfl, rfl⟩

theorem witness_keyx (st : PortState) (ct tr : List Byte) : ((portWith st).port 31).state = st ∧
    ((portWith st).port 31).peerAnnounce = some ann ∧ ((portWith st).port 31).myAnnounce = some ann ∧
    Config.slhVerify true ann.pubKey (keyxMessage ct tr) (Config.slhSign true (key 6) (keyxMessage ct tr)) = true ∧
    Config.slhVerify true ann.pubKey (keyxMessage ct tr) [] = false := ⟨rfl, rfl, rfl, slh_signed _ _ _, by simp [Config.slhVerify, Config.sigLen]⟩

/-- A flit, here of an empty payload, with the CRC of number 65535. -/
def flit (k : Fin 4) (vc : Fin 8) : Flit := { kind := k, vc := vc, sot := false, eot := true, fill := 0, payload := [], crc := 0 }
def goodFlit (k : Fin 4) (vc : Fin 8) : Flit := { flit k vc with crc := flitCrc (flit k vc) 0xFFFF }
def upPort : Port := { state := .secure, rxSeq := 0xFFFF, unreported := 1, replay := [flit 1 7] }

theorem witness_dataFlit : ((withPort upPort).port 31).up = true ∧ ((withPort upPort).port 31).nak = none ∧
    flitCrc (goodFlit 1 7) ((withPort upPort).port 31).rxSeq = (goodFlit 1 7).crc ∧ (goodFlit 1 7).kind.val = 1 ∧
    flitCrc { goodFlit 1 7 with crc := ~~~(goodFlit 1 7).crc } ((withPort upPort).port 31).rxSeq ≠ ~~~(goodFlit 1 7).crc := by decide +kernel

/-- LINK flits with operations: ack and credit, nak, replay. -/
def opFlit (o : Nat) : Flit :=
  let f := { flit 2 0 with payload := [BitVec.ofNat 8 o] }
  { f with crc := flitCrc f 0xFFFF }

theorem witness_linkFlit : ∀ e ∈ [(9, true, true, false), (2, false, false, true)],
    flitCrc (opFlit e.1) ((withPort upPort).port 31).rxSeq = (opFlit e.1).crc ∧ (opFlit e.1).kind.val = 2 ∧
    (linkOpsOf (opFlit e.1).payload).ack = e.2.1 ∧ (linkOpsOf (opFlit e.1).payload).credit = e.2.2.1 ∧
    (linkOpsOf (opFlit e.1).payload).nak = e.2.2.2 := by decide +kernel

theorem witness_linkFlit_replay : (linkOpsOf (opFlit 13).payload).replay = true ∧ (linkOpsOf (opFlit 13).payload).seq = 0 := by decide +kernel

theorem witness_reports : 0 < ((withPort upPort).port 31).unreported ∧ ((withPort upPort).port 31).replay ≠ [] ∧
    (∃ k ∈ ((withPort { upPort with unreported := 0, owed := [0, 0, 0, 0, 0, 0, 0, 1] }).port 31).owed, 0 < k) ∧
    ((withPort { upPort with nakSeen := some (7, 16) }).port 31).nakSeen = some (7, 16) ∧
    ((withPort { upPort with nak := some 7 }).port 31).nak = some 7 := by decide

/-- A KEYX of this side still waits for credit, or none does. -/
theorem witness_keyx_rekey : (∀ x ∈ ((portWith .secure).port 31).waiting, x.body.typ ≠ 0x0D) ∧
    (∃ x ∈ ((withPort { upPort with waiting := [{ src := 5, dst := 6, tag := 0, body := .keyx [] [] [] }] }).port 31).waiting,
      x.body.typ = 0x0D) := ⟨(fun _ h => nomatch h), _, List.Mem.head _, rfl⟩

/-! Transactions -/

/-- Device 5 with MU 255 of plat 3, whose region 15 is a REDUCE window of two rows with credit. -/
def muWindow : Mu := { run := .live, regions := [(15, { a := mkWord 64 [(13, 14, 2), (27, 4, 6), (31, 1, 1), (41, 13, 1)], granted := 2 })] }
def txState : State := inGroup { running with mus := [(unitKey 3 255, muWindow)] }
def rxHost0 : Rx := { rx0 with src := 0x8000 }
def muAddr : W64 := 0x0800FFC00000
def ptok : PTok := { data := 0, last := true, poison := false }

theorem witness_hostWrite : txState.takes rxHost0 (.rwrite muAddr (List.replicate 64 0) false) ∧ rxHost (txState.headerOf rxHost0) = true ∧
    (txState.taken rxHost0 (.rwrite muAddr (List.replicate 64 0) false)).spaceIdle muAddr.toNat = none ∧ muAddr.toNat % 64 = 0 ∧
    (List.replicate 64 (0 : Byte)).length % 64 = 0 := by unfold State.takes State.hears; decide +kernel

theorem witness_deviceWrite : txState.takes rx0 (.rwrite muAddr (List.replicate 64 0) false) ∧ rxHost (txState.headerOf rx0) = false ∧
    (txState.taken rx0 (.rwrite muAddr (List.replicate 64 0) false)).img.state ≠ .held ∧
    (txState.taken rx0 (.rwrite muAddr (List.replicate 64 0) false)).stepFailed = false ∧ muOf muAddr.toNat = some (3, 255, 0) ∧
    (txState.taken rx0 (.rwrite muAddr (List.replicate 64 0) false)).muClocked 3 255 = true := by
  unfold State.takes State.hears; decide +kernel

theorem witness_coll : ∀ m ∈ [(1 : Byte), 2], txState.takes rx0 (.coll muAddr m 0 0 [ptok]) ∧ txState.takes rxHost0 (.coll muAddr m 0 0 [ptok]) ∧
    (txState.taken rx0 (.coll muAddr m 0 0 [ptok])).img.state ≠ .held ∧ (txState.taken rx0 (.coll muAddr m 0 0 [ptok])).stepFailed = false := by
  unfold State.takes State.hears; decide +kernel

theorem witness_reads : (8 ≤ (8 : W32).toNat ∧ (8 : W32).toNat ≤ 65536 ∧ (8 : W32).toNat % 8 = 0) ∧
    (8 ≤ (65536 : W32).toNat ∧ (65536 : W32).toNat ≤ 65536 ∧ (65536 : W32).toNat % 8 = 0) := by decide

theorem witness_rread : txState.takes rx0 (.rread muAddr 8) ∧
    ((txState.taken rx0 (.rread muAddr 8)).strikes []).img.state ≠ .held ∧
    ((txState.taken rx0 (.rread muAddr 8)).strikes []).stepFailed = false ∧
    ((txState.taken rx0 (.rread muAddr 8)).strikes []).spaceIdle muAddr.toNat = none := by unfold State.takes State.hears; decide +kernel

theorem witness_rread_host : txState.takes rxHost0 (.rread muAddr 8) ∧
    ((txState.taken rxHost0 (.rread muAddr 8)).strikes []).spaceIdle muAddr.toNat = none := by
  unfold State.takes State.hears; decide +kernel

def request0 : Req := { tag := 1, dst := 6, typ := 5, kind := .stream 0, array := true }
def asked : State := { txState with lxg := { txState.lxg with reqs := [request0] }, cmd := { txState.cmd with bcast := { opcode := opNop, waitingOn := [6] } } }

theorem witness_resp : asked.takes rx0 (.resp Codes.ok 5 0 []) ∧
    (asked.taken rx0 (.resp Codes.ok 5 0 [])).lxg.reqs.find? (fun q => q.tag == rx0.tag && q.dst == (asked.headerOf rx0).src && q.typ == (5 : Byte).toNat) =
      some request0 ∧
    asked.lxg.reqs.find? (fun q => q.tag == (1 : W16) && !q.failed) = some request0 := by unfold State.takes State.hears; decide +kernel

def cpl0 : Cpl := { status := Codes.ok, opcode := opNop, slot := 0xFFFF, value := 0 }
theorem witness_cpl : asked.takes rx0 (.cpl cpl0) ∧ rxHost (asked.headerOf rx0) = false ∧
    fld (asked.headerOf rx0).src 0 12 ∈ (asked.taken rx0 (.cpl cpl0)).cmd.bcast.waitingOn ∧
    opNop = (asked.taken rx0 (.cpl cpl0)).cmd.bcast.opcode := by unfold State.takes State.hears; decide +kernel

/-- A stream entry of one token, whose benchmark is reached and whose credit is one row. -/
def entry0 : StreamEntry := { mode := 1, contrib := 0, dstDev := 6, bm := 0, doneBm := 0, src := 0x0800FFC00000, dst := 0x080000000000, tokens := 1
                              thr0 := 0, inc := 1, doneInc := 0, spread := false, cbm := 65535, srcAdv := 0, advPeriod := 0 }
def streaming : State := { txState with
  cfg := { txState.cfg with plan := { streams := [entry0] } }, bmks := [(65535, { count := 1 })] }

theorem witness_streamEntryFire : ∃ ts u, streaming.cfg.plan.streams[0]? = some entry0 ∧ streaming.inputsOpen = true ∧
    streaming.streamReady 0 entry0 = true ∧ entry0.spread = false ∧ (∀ i y, (streaming.cfg.plan.streams.take 0)[i]? = some y → streaming.streamReady i y = false) ∧
    streaming.streamTokens (entry0.srcAt (streaming.streamSt 0).fired) entry0.tokens = (ts, u) :=
  ⟨_, _, rfl, by decide, by decide +kernel, rfl, by simp, rfl⟩

/-- The same entry may take every port to its destination. -/
def spreading : State := { streaming with cfg := { streaming.cfg with plan := { streams := [{ entry0 with spread := true }] } } }

theorem witness_streamEntryFire_spread : spreading.inputsOpen = true ∧ spreading.streamReady 0 { entry0 with spread := true } = true ∧
    ∃ p ps, State.outPorts { (spreading.streamTokens (entry0.srcAt 0) 1).2 with lxg := { (spreading.streamTokens (entry0.srcAt 0) 1).2.lxg with
        sent := SMap.set 0 (spreading.streamTokens (entry0.srcAt 0) 1).2.lxg.sent 65535 1
        streams := SMap.set {} (spreading.streamTokens (entry0.srcAt 0) 1).2.lxg.streams 0 { thr := 1, fired := 1 } } } 6 = p :: ps :=
  ⟨by decide, by decide +kernel, 0, [], by decide +kernel⟩

theorem witness_reservedTransaction : txState.hears rx0 ∧ ((0 : Byte) = 0 ∨ (0x10 : Byte) ≤ 0) ∧ ((0xFF : Byte) = 0 ∨ (0x10 : Byte) ≤ 0xFF) := by
  unfold State.hears; decide +kernel

/-- A table of a higher epoch signed by its master, a device of the roster. -/
def newBody : MTable := { table with epoch := 2, master := 6, masterKeyId := keyIdOf (key 6)
                                     entries := [{ num := 6, keyId := keyIdOf (key 6), ports := [] }] }
def newTable : MTable := { newBody with signature := Config.slhSign true (key 6) (ascii "BLK-MEMB-SIG1" ++ tableSigned newBody) }

theorem newTable_good (s : State) (h : s.lxg.table = some table) (r : s.sec.roster = (withRoster running).sec.roster) :
    s.tableGood newTable = true := by
  have e : (tableEntry newTable newTable.master).any (fun e => e.keyId == newTable.masterKeyId) = true := by
    simp [tableEntry, newTable, newBody]
  have k : s.rosterKey newTable.masterKeyId 1 = some (key 6) := by simp [State.rosterKey, r, withRoster, newTable, newBody]
  have n : decide (table.epoch.toNat < newTable.epoch.toNat) = true := by decide
  have g : Config.slhVerify true (key 6) (tableMessage newTable) newTable.signature = true := by
    have h : tableSigned newTable = tableSigned newBody := by simp only [tableSigned, newTable]
    unfold tableMessage; rw [h]; simp only [newTable, slh_signed]
  have c : decide (newTable.entries.length ≤ 4096) = true := by decide
  simp only [State.tableGood, e, k, h, n, g, c, Bool.and_self]

theorem unsigned_bad (s : State) : s.tableGood table = false := by
  unfold State.tableGood
  cases s.rosterKey table.masterKeyId 1 with
  | none => simp
  | some k => simp [Config.slhVerify, Config.sigLen, table]

def rxLast : Rx := { rx0 with hops := 0 }

theorem witness_member : (withRoster txState).floodsHere rxLast (.member newTable) ∧ (withRoster txState).floodsHere rxLast (.member table) ∧
    ((withRoster txState).floodedHere rxLast (.member newTable)).tableGood newTable = true ∧
    ((withRoster txState).floodedHere rxLast (.member newTable)).img.state = .running ∧
    ((withRoster txState).floodedHere rxLast (.member table)).tableGood table = false ∧
    ((ready (withRoster txState)).floodedHere rxLast (.member newTable)).tableGood newTable = true ∧
    ((ready (withRoster txState)).floodedHere rxLast (.member newTable)).img.state ≠ .running :=
  ⟨⟨⟨by decide +kernel, rfl⟩, by decide +kernel, rfl⟩, ⟨⟨by decide +kernel, rfl⟩, by decide +kernel, rfl⟩,
    newTable_good _ rfl rfl, rfl, unsigned_bad _, newTable_good _ rfl rfl, by decide +kernel⟩

theorem witness_linkstate : txState.floodsHere rxLast (.linkstate (key 6) []) ∧
    (txState.floodedHere rxLast (.linkstate (key 6) [])).dtm.role = false ∧
    (State.floodedHere { txState with dtm := { txState.dtm with role := true } } rxLast (.linkstate (key 6) [])).dtm.role = true := by
  unfold State.floodsHere State.hears; decide +kernel

/-- Transactions of device 7 for device 6, and for a device without a route; of hops 0 the first. -/
def passing (dst : W16) (hops : Byte) : Passing := { rx := { rx0 with src := 7, dst := dst, hops := hops }, typ := 1, args := 0, payload := [] }

theorem witness_transactionForward : txState.hears (passing 6 1).rx ∧
    State.forMe (txState.received (passing 6 1).rx (passingBody (passing 6 1))) (txState.headerOf (passing 6 1).rx) = false ∧
    (passingBody (passing 6 1)).unrouted = false ∧
    (txState.received (passing 6 1).rx (passingBody (passing 6 1))).outPorts 6 = [0] := by unfold State.hears; decide +kernel

theorem witness_transactionForward_last : txState.hears (passing 6 0).rx ∧
    State.forMe (txState.received (passing 6 0).rx (passingBody (passing 6 0))) (txState.headerOf (passing 6 0).rx) = false := by
  unfold State.hears; decide +kernel

theorem witness_transactionForward_held : txState.hears (passing 8 1).rx ∧
    State.forMe (txState.received (passing 8 1).rx (passingBody (passing 8 1))) (txState.headerOf (passing 8 1).rx) = false ∧
    (passingBody (passing 8 1)).unrouted = false ∧ (passingBody (passing 8 1)).floods = false ∧
    (txState.received (passing 8 1).rx (passingBody (passing 8 1))).outPorts 8 = [] := by unfold State.hears; decide +kernel

def stalledTrans : Trans := { src := 7, dst := 6, tag := 3, body := .other 1 0 [] }

theorem witness_forwardStall : (withPort { upPort with waiting := [stalledTrans] }).stalled 3 = some (31, stalledTrans) ∧
    State.stalled { running with lxg := { running.lxg with held := [stalledTrans] } } 3 = none := by decide +kernel

theorem witness_mgmt : txState.hears rxHost0 ∧ txState.forMe (txState.headerOf rxHost0) = true ∧ (4 : W64).toNat % 8 ≠ 0 ∧ 2 ^ 48 ≤ (0xFFFFFFFFFFFFFFF8 : W64).toNat := by
  unfold State.hears; decide +kernel


/-! Datum time -/

/-- Port 31 in service, datum time in some state. -/
def datum (st : DtmState) (p : Port := { state := .secure }) : State := { inGroup running with
  ports := [(31, p)], dtm := { running.dtm with state := st, port := some 31, time := 2000000000, role := true } }

theorem witness_datum : (datum .locked).inService 31 = true ∧ (datum .locked).dtm.role = true ∧
    (datum .locked {}).dtm.port = some 31 ∧ (datum .locked {}).inService 31 = false ∧
    frameTimeout ≤ (datum .locked).since (datum .locked).dtm.lastFrameAt := by decide +kernel

/-- A configuration whose timing table allows one million units of HOLDOVER. -/
def lateHold : State := { datum .holdover with cfg := { running.cfg with timing := { entries := [{ opcode := 0x50, cls := 0xFFFF, unitBytes := 1, base := 0, perUnit := 0, max := 1000000 }] } } }

theorem witness_holdover : lateHold.holdoverTime = some 1000000 ∧ lateHold.dtmNow.relockTo = none ∧ lateHold.dtm.state = .holdover ∧
    1000000 ≤ lateHold.since lateHold.dtm.holdoverAt := by decide +kernel

theorem witness_refSelect : (datum .acquiring).openFor (.fw 0) .dtm ∧ (datum .master).dtm.state = .master ∧ (datum .localRef).dtm.state = .localRef ∧
    (∀ b ∈ [0, 1], ((datum .locked).started opRefSelect (rowOrder (fwOrder 8) 0 0 8 b)).dtm.state = .locked) ∧
    (datum .locked).takesNow opRefSelect (rowOrder (fwOrder 8) 0 0 8 0) 0 ∧
    (datum .locked).takesNow opRefSelect (rowOrder (fwOrder 8) 0 0 8 1) 0 :=
  ⟨by unfold State.openFor; decide +kernel, by decide, by decide, by decide +kernel,
    starts (by decide) (by unfold State.startsHere; decide +kernel), starts (by decide) (by unfold State.startsHere; decide +kernel)⟩

def datumFrame0 : DatumFrame := { time := 2000000000, timeFrac := 0, master := 5, hops := 0, traceable := true, seq := 0, step := 9, stepTime := 0
                                  echoTime := 0, echoFrac := 0, turn := 0, masterTag := 0, memberEpoch := 1 }

/-- Port 31 has brought a frame to a follower that looks for a reference, and to the master. -/
def follower (role : Bool) : State :=
  let s := datum (if role then .master else .acquiring)
    { state := .secure, peerKind := 1, peerNum := 6, frame := some { frame := datumFrame0, arrival := 1999999000, arrivalFrac := 0 } }
  { s with dtm := { s.dtm with role := role } }

theorem witness_datumFrame : ∀ b : Bool, (follower b).hears { rx0 with port := 31 } ∧
    ((follower b).received { rx0 with port := 31 } (.datum datumFrame0)).dtm.role = b ∧
    ((follower b).received { rx0 with port := 31 } (.datum datumFrame0)).dtm.state = (if b then .master else .acquiring) ∧
    ((follower b).received { rx0 with port := 31 } (.datum datumFrame0)).dtm.port = some 31 ∧
    ((follower b).received { rx0 with port := 31 } (.datum datumFrame0)).dtm.good < 15 ∧
    ((follower b).received { rx0 with port := 31 } (.datum datumFrame0)).dtmNow =
      ((follower b).received { rx0 with port := 31 } (.datum datumFrame0)).dtm := by unfold State.hears; decide +kernel

theorem witness_datumFrame_valid : ∃ t, exec (.datumFrame { rx0 with port := 31 } datumFrame0 0) (follower false) = .next t ∧
    t.bestPort = some 31 ∧ t.frameValid datumFrame0 = true := ⟨_, rfl, by decide +kernel⟩

theorem witness_datumFrameSend : (datum .locked).inService 31 = true ∧ ((datum .locked).port 31).frameSent = none ∧
    ((datum .locked { state := .secure, frameSent := some 1999996000 }).port 31).frameSent = some 1999996000 ∧
    frameInterval ≤ (datum .locked { state := .secure, frameSent := some 1999990000 }).since 1999990000 := by decide +kernel

/-! Orders, slots, notifications -/

def heldNop : Held := { id := 7, word := { opcode := opNop, desc := {} }, origin := .firmware, port := 32, arrival := .firmware, te := 5, timed := true, start := 5, seen := {} }
def heldWait : Held := { heldNop with word := { opcode := opBmk, desc := { targetClass := 3, payload := 3, deadline := 9 } } }
def heldLate : Held := { heldNop with word := { opcode := opNop, desc := { deadline := 9 } } }
def holding (h : Held) : State := { running with cmd := { running.cmd with held := [h] }, dtm := { running.dtm with time := 10 } }

theorem witness_nop : running.takesNow opNop (fwOrder 0) 0 := starts (by decide) (by unfold State.startsHere; decide +kernel)

theorem witness_orders : (State.slot (running.desk 0x7777 { fwOrder 0 with desc := { slot := 511 } }) 511).busy = false ∧ 512 ≤ (fwOrder 0).desc.slot.toNat ∧ classOf 0x7777 ≠ some (fwOrder 0).desc.targetClass.toNat ∧
    (holding heldNop).cmd.held.find? (fun h => h.id == 7) = some heldNop ∧ heldNop.started = false ∧ heldNop.timed = true ∧
    heldNop.te.toNat ≤ (holding heldNop).dtm.time.toNat ∧ heldNop.start.toNat ≤ (holding heldNop).dtm.time.toNat ∧
    (holding heldWait).cmd.held.find? (fun h => h.id == 7) = some heldWait ∧ heldWait.word.isWait = true ∧
    heldWait.word.desc.deadline ≠ 0 ∧ heldWait.word.desc.deadline.toNat ≤ (holding heldWait).dtm.time.toNat ∧
    (holding heldLate).cmd.held.find? (fun h => h.id == 7) = some heldLate ∧ heldLate.word.isWait = false ∧ heldLate.missed = false ∧
    heldLate.word.desc.deadline.toNat < (holding heldLate).dtm.time.toNat ∧
    (holding { heldNop with timed := false }).mayStartUntimed heldNop.word 7 ((holding heldNop).orderSize heldNop.word) = true ∧
    (holding heldNop).secTurn heldNop.word 7 = true ∧ (holding heldNop).targetBusy heldNop.word 7 = false ∧
    (holding heldNop).orderServed heldNop.word = true ∧
    State.orderServed { holding heldWait with pwr := { running.pwr with state := .idle } } heldWait.word = false := by decide +kernel

/-- Firmware sends an opcode that no row has; device 6, not the datum master, sends a CMD. -/
def cmdOf6 : Order := { fwOrder 0 with arrival := .trans rx0 }
theorem witness_unlisted : running.comes opNop (fwOrder 0) ∧ running.comes 0x7777 { fwOrder 0 with desc := { slot := 511 } } ∧
    (inGroup running).takes rx0 (.cmd { opcode := opNop, desc := cmdOf6.desc }) ∧ (inGroup running).originOf ((inGroup running).asTaken cmdOf6) = none :=
  ⟨rfl, rfl, by unfold State.takes State.hears; decide +kernel, by decide +kernel⟩

theorem witness_slots : running.blockGated .cmd = false ∧
    (({ running with cmd := { running.cmd with slots := [(511, { ready := true })] } } : State).slot (511 : Fin 512)).ready = true := by decide +kernel

theorem witness_broadcast : (datum .master).blockGated .cmd = false ∧ (datum .master).dtm.state = .master ∧ (datum .master).cmd.bcast.waitingOn = [] ∧
    (cmdOfWords (datum .master).cmd.bcastDesc).opcode ≠ opStepStart ∧ (datum .master).myNum ≠ some (6 : BitVec 12).toNat ∧
    ({ datum .master with ports := [(0, { state := .secure, peerKind := 1, peerNum := 6 })] } : State).outPorts (BitVec.ofNat 16 6) ≠ [] := by decide +kernel

/-! Clocks and power -/

theorem witness_clocks : running.awake = true ∧ State.awake { running with clk := { running.clk with refin := false } } = true ∧ (running.pll 24).coasts = false ∧ (datum .locked).refPresent = true ∧ ({ running.clk with refin := true } : Clk).refin = true ∧
    (∃ d : Fin 25, ({ running with clk := { running.clk with pll := [(3, .gliding)] } } : State).pll d |>.coasts) := by
  refine ⟨by decide, by decide, by decide, by decide, by decide, 3, by decide⟩

theorem witness_gates : (2 : BitVec 5).toNat < gatesOf 12 ∧ ({ running with clk := { running.clk with gateMode := 0x1000 } } : State).clk.treeMode 12 = true ∧
    running.clk.isClosed 12 0 = false ∧ running.gateBusy 12 2 = false ∧ 
    ({ running with aus := [(0, { phase := 1 })] } : State).gateBusy 12 1 = true ∧
    running.clk.treeMode 19 = false ∧ 8 < gatesOf 19 ∧ running.blockBusy 19 8 = false ∧
    State.blockBusy { running with aus := [(0, { phase := 1 })] } 12 0 = true := by decide +kernel

theorem witness_fmeter : fld (0x0000000180000000 : W64) 0 5 ≤ 24 ∧ fld (0xFFFFFFFF8000001E : W64) 0 5 = 30 ∧ fld (0x0000000180000320 : W64) 5 5 = 25 ∧
    fld (0x0000000180000000 : W64) 32 32 ≠ 0 ∧ (0x0000000180000000 : W64).getLsbD 31 = true ∧
    ({ running.clk with measuring := true } : Clk).measuring = true := by decide

theorem witness_power : ({ running.pwr with state := .drained } : Pwr).state = .drained ∧
    State.drainedNow { inState .ready with pwr := { running.pwr with state := .drained } } = true ∧
    ({ running.pwr with state := .idle } : Pwr).state = .idle ∧ running.pwr.state ≠ .idle ∧ running.pwr.state ≠ .drained ∧
    State.reset.img.loaded = false ∧ running.img.loaded = true ∧ running.pwr.admittedSum.toNat ≤ min (fld (2500001 : W64) 0 32) 2500000 ∧
    min (fld (0 : W64) 0 32) 2500000 < ({ running.pwr with admittedSum := 1 } : Pwr).admittedSum.toNat := by decide +kernel

theorem witness_telemetry : running.pwr.outage = 0 ∧ State.reset.img.loaded = false ∧ (0 : W32).toNat ≤ running.pwr.admittedSum.toNat ∧
    hottest ([5, 7, 3].take 96) = some (7, 1) ∧ 7 < 60 * 16 ∧ 60 ≤ running.pwr.warn ∧ running.pwr.warned = false ∧
    bitOf running.pwr.outage 4 = false := by decide +kernel

theorem witness_vddCore : ∃ s : State, ∃ k want : Int, 6 ≤ s.nvm.phase ∧ k.natAbs ≤ 5000 ∧ 600000 ≤ s.pwr.vddCore + k ∧
    s.pwr.vddCore + k ≤ 750000 ∧ max 600000 (min 750000 (Config.vddTarget s.pwr.temp)) = want ∧
    (s.pwr.vddCore + k - want).natAbs < (s.pwr.vddCore - want).natAbs :=
  ⟨{ running with pwr := { running.pwr with vddCore := max 600000 (min 750000 (Config.vddTarget running.pwr.temp)) + 1 } }, -1,
    max 600000 (min 750000 (Config.vddTarget running.pwr.temp)), by decide, by decide, by
      show (600000 : Int) ≤ max 600000 (min 750000 (Config.vddTarget running.pwr.temp)) + 1 + -1; omega, by
      show max 600000 (min 750000 (Config.vddTarget running.pwr.temp)) + 1 + -1 ≤ (750000 : Int); omega, rfl, by
      show (max 600000 (min 750000 (Config.vddTarget running.pwr.temp)) + 1 + -1 - max 600000 (min 750000 (Config.vddTarget running.pwr.temp))).natAbs <
        (max 600000 (min 750000 (Config.vddTarget running.pwr.temp)) + 1 - max 600000 (min 750000 (Config.vddTarget running.pwr.temp))).natAbs
      omega⟩

/-- Five rails at 720 mV and 10 A: 36 W, under a sum of 40 W and over one of 1 W. -/
def rails5 : List RailSample := List.replicate 5 { mv := 720, ma := 10000 }
theorem witness_railPoll : rails5.length = 5 ∧ (running.pwr.poll rails5 (BitVec.allOnes 5)).mean = 36000 ∧
    36000 ≤ (({ running.pwr with admittedSum := 40000 } : Pwr).poll rails5 (BitVec.allOnes 5)).admittedSum.toNat ∧ running.img.loaded = true ∧
    (({ running.pwr with admittedSum := 1000 } : Pwr).poll rails5 (BitVec.allOnes 5)).admittedSum.toNat < 36000 ∧
    (running.pwr.poll rails5 (BitVec.allOnes 5)).above = false := by decide +kernel

/-! Faults -/

def record0 : FaultRec := { seq := 65536, time := 0, step := 0, code := 0, cls := .stat, srcKind := 7, srcInst := 0 }

theorem witness_faults : ({ running.flt with buffer := [record0] } : Flt).buffer = record0 :: [] ∧ running.flt.fence.busy = none ∧
    fenceBitOk (4127 : BitVec 13).toNat = true ∧ ({ running.flt.fence with busy := some (.add 4127) } : Fence).busy = some (.add 4127) ∧
    running.flt.fence.lost = false ∧ running.flt.fence.inUse.seq.toNat + 1 < 2 ^ 64 := by decide +kernel

/-- Every gate of domain 9 but its root is closed, the domain under software. -/
def closedTree : State := { running with clk := { running.clk with
  gateMode := 0x200, closed := (List.range 31).map (fun k => (32 * 9 + (k + 1), true)) } }

theorem witness_rootGate : 0 < gatesOf 9 ∧ closedTree.clk.treeMode 9 = true ∧
    (∀ k ∈ List.range 31, closedTree.clk.isClosed 9 (k + 1) = true) ∧ closedTree.bridgeUsed 1 = false ∧
    closedTree.timedWindow = false ∧ gatesOf 9 ≤ 32 := by decide +kernel

theorem witness_meterRef : State.meterRefGone { running with clk := { running.clk with measuring := true, ref := 0, pll := [(0, .coasting)] } } = true ∧
    State.meterRefGone { running with clk := { running.clk with measuring := true, ref := 0, pll := [(0, .locked)] } } = false := by decide +kernel

theorem witness_heat : hottest ([115 * 16].take 96) = some (115 * 16, 0) ∧ ({ running.pwr with warned := true } : Pwr).warn ≤ 110 ∧
    running.pwr.tripOut = false ∧ running.pwr.admittedSum.toNat < (1 : W32).toNat ∧ running.pwr.above = false := by decide +kernel

/-- A DMA row on its way over the spine. -/
def spineRow : RowReq := { id := 4, owner := 0, src := 0, dst := 0 }

theorem witness_spine : (State.plat { running with plats := [(3, { reqs := [spineRow] })] } 3).reqs[0]? = some spineRow := by decide

/-- A fence store and a commit wait: the first runs once the record of before it is stored. -/
def storing (buffer : List FaultRec) : State := { running with
  flt := { running.flt with buffer := buffer, fence := { running.flt.fence with busy := some (.add 7) } }
  nvm := { running.nvm with storeQ := [{ fence := true, head := 70000 }, { fence := false, head := 70000 }] } }
theorem witness_stores : (storing []).storeRuns true = true ∧ (storing []).storeRuns false = false ∧ (storing [record0]).storeRuns true = false ∧
    (∀ q ∈ (storing [record0]).nvm.storeQ, record0.seq.toNat < q.head.toNat) ∧ (storing []).flt.fence.lost = false := by decide +kernel


/-! Security -/

/-- The module serves host 0, whose CO session stands and whose nonce is unspent; the part is in some image state. -/
def secured (i : ImgState) (x : Sec := {}) : State := { inState i with sec := { x with
  chain := false, state := .operational, co := some 0x8000, nonce := some (List.replicate 32 0), slots := [(0, { st := 1 }), (8, { st := 1 }), (12, { st := 1 })] } }

/-- An order of host 0 for service k: input length, output offset and argument. -/
def secOrder (k len out arg : Nat) : Order := hostOrder 6 (mkWord 256 [(0, 8, k), (32, 32, len), (64, 32, out), (96, 32, arg)])

/-- An order of host 0 for a service is taken, and its checks give a code or none. -/
def asks (s : State) (k len arg : Nat) (c : Option Code) : Prop :=
  s.startsHere opSec (secOrder k len 0 arg) (s.secSize { opcode := opSec, desc := (secOrder k len 0 arg).desc }) ∧
  rowOrder (hostOrder 6 (mkWord 256 [(32, 32, len), (96, 32, arg)])) 0 0 8 k = secOrder k len 0 arg ∧
  (s.started opSec (secOrder k len 0 arg)).secCheck 0x8000 k len 0 arg = c ∧
  ((s.started opSec (secOrder k len 0 arg)).heldOrder (s.orderId opSec (secOrder k len 0 arg))).map (fun q => endpointOf q.arrival) = some 0x8000

/-- The premises of the statements of services hold of an order in a state. -/
def serves (s : State) (k len arg : Nat) : Prop :=
  s.takesNow opSec (secOrder k len 0 arg) (s.secSize { opcode := opSec, desc := (secOrder k len 0 arg).desc }) ∧ asks s k len arg none

theorem serves_of {s : State} {k len arg : Nat} (h : asks s k len arg none) (ha : s.awake = true := by rfl) :
    serves s k len arg := ⟨starts (.inr rfl) h.1 ha, h⟩

theorem witness_reports_services : ∀ k ∈ [(1, 0), (2, coProofLen), (3, 0), (4, 0), (5, 32), (6, 0), (13, 0)], serves (secured .ready) k.1 k.2 0 := by
  have h : ∀ k ∈ [(1, 0), (2, coProofLen), (3, 0), (4, 0), (5, 32), (6, 0), (13, 0)], asks (secured .ready) k.1 k.2 0 none := by
    unfold asks State.startsHere; decide +kernel
  exact fun k hk => serves_of (h k hk)

theorem witness_refusedService : asks (secured .ready) 5 31 0 (some Codes.secFormat) := by unfold asks State.startsHere; decide +kernel

theorem witness_reportStates : ((secured .ready).sec.slot 0).st = 1 ∧ (secured .ready).sec.nonce.isSome = true ∧
    serves (secured .ready) 15 0 4096 ∧ 4096 = ((CmdWord.mk opSec (secOrder 15 0 0 4096).desc).pay32 3).toNat ∧
    serves (secured .ready) 15 0 0 ∧ 0 = ((CmdWord.mk opSec (secOrder 15 0 0 0).desc).pay32 3).toNat :=
  ⟨by decide, by decide, serves_of (by unfold asks State.startsHere; decide +kernel), by decide,
    serves_of (by unfold asks State.startsHere; decide +kernel), by decide⟩

/-- The buffer holds the officer's proof for host 0. -/
def proofMessage : List Byte := coMessage (List.replicate 32 0) (secured .ready).lxg.ownKeyId 0x8000
def proving : State := secured .ready { buf := Memory.write [] 0 (Config.slhSign false [] proofMessage) }

theorem witness_coAuth : serves proving 2 coProofLen 0 ∧
    ((proving.started opSec (secOrder 2 coProofLen 0 0)).sec.nonce = some (List.replicate 32 0) ∧
     ((proving.started opSec (secOrder 2 coProofLen 0 0)).sec.slot 0).st = 1) ∧
    Config.slhVerify false (proving.sec.slot 0).key proofMessage (Memory.read proving.sec.buf 0 coProofLen) = true := by
  refine ⟨serves_of (by unfold asks State.startsHere proving; decide +kernel), by unfold proving; decide +kernel, ?_⟩
  have h := Memory.read_write [] 0 (Config.slhSign false [] proofMessage)
  rw [show (Config.slhSign false [] proofMessage).length = coProofLen by simp [Config.slhSign]; rfl] at h
  show Config.slhVerify false [] proofMessage (Memory.read (Memory.write [] 0 (Config.slhSign false [] proofMessage)) 0 coProofLen) = true
  rw [h]
  exact slh_signed _ _ _

theorem witness_zeroize : serves (secured .ready) 14 0 1 ∧ serves (secured .held) 14 0 2 ∧ serves (secured .held) 14 0 3 ∧
    ∀ n ∈ [1, 2, 3], rowOrder (rowOrder (hostOrder 6) 0 96 32 n) 0 0 8 0x0E = secOrder 14 0 0 n :=
  ⟨serves_of (by unfold asks State.startsHere; decide +kernel), serves_of (by unfold asks State.startsHere; decide +kernel),
    serves_of (by unfold asks State.startsHere; decide +kernel), by decide +kernel⟩

theorem witness_keys : serves (secured .ready { buf := [(0, 11)] }) 7 65 0 ∧ (secured .ready { buf := [(0, 11)] }).sec.bufByte 0 = 11 ∧
    ((secured .ready { buf := [(0, 11)] }).sec.slot 11).st = 0 ∧ serves (secured .ready { buf := [(0, 8)] }) 8 1 0 ∧
    (secured .ready { buf := [(0, 8)] }).sec.bufByte 0 = 8 ∧ ((secured .ready { buf := [(0, 8)] }).sec.slot 8).st = 1 ∧
    serves (secured .ready { buf := [(0, 13)] }) 7 65 0 ∧ serves (secured .ready { buf := [(0, 13)] }) 8 1 0 :=
  ⟨serves_of (by unfold asks State.startsHere; decide +kernel), by decide, by decide, serves_of (by unfold asks State.startsHere; decide +kernel),
    by decide, by decide, serves_of (by unfold asks State.startsHere; decide +kernel), serves_of (by unfold asks State.startsHere; decide +kernel)⟩

/-- Counter i is to become 1; the versions in use allow it, but for a counter that does not exist. -/
def advancing (i : Nat) : State := secured .ready { buf := [(0, BitVec.ofNat 8 i), (4, 1)].filter (fun e => e.2 != 0), loadedSvn := 1
                                                    fsf := { svn := 1, fwKey := 1 }, pcf := { svn := 1, fwKey := 1 } }

theorem witness_svnAdvance : ∀ i ∈ [0, 1, 2, 3, 4], serves (advancing i) 9 8 0 ∧ leNat (Memory.read (advancing i).sec.buf 0 4) = i ∧
    leNat (Memory.read (advancing i).sec.buf 4 4) = 1 ∧ (advancing i).img.loaded = true ∧
    (advancing i).sec.svnOk true i 1 = decide (i < 4) := by
  have h : ∀ i ∈ [0, 1, 2, 3, 4], asks (advancing i) 9 8 0 none ∧ leNat (Memory.read (advancing i).sec.buf 0 4) = i ∧
      leNat (Memory.read (advancing i).sec.buf 4 4) = 1 ∧ (advancing i).img.loaded = true ∧
      (advancing i).sec.svnOk true i 1 = decide (i < 4) := by unfold asks State.startsHere; decide +kernel
  exact fun i hi => ⟨serves_of (h i hi).1, (h i hi).2⟩

/-- A debug token of scope 1 for a part whose key identity is 64 bytes of 5, with its signature. -/
def debugToken : List Byte := ascii "BLKDBGT1" ++ [1, 0, 0, 0, 0, 0, 0, 0] ++ leBytes 8 1 ++ List.replicate 32 0 ++ key 5 ++ List.replicate 8 0
def tokenSig : List Byte := Config.slhSign false [] (ascii "BLK-DBG-TOK1" ++ debugToken)
def unlocking (i : ImgState) : State := { secured i { buf := Memory.write [] 0 (debugToken ++ tokenSig) } with
  lxg := { State.reset.lxg with ownKeyId := key 5 } }

theorem witness_debugUnlock : serves (unlocking .ready) 12 tokenLen 0 ∧ Memory.read (unlocking .ready).sec.buf 0 0x80 = debugToken ∧
    (sub debugToken 0 8 = ascii "BLKDBGT1" ∧ byteAt debugToken 8 = 1 ∧ allZero (sub debugToken 9 7) = true ∧ allZero (sub debugToken 0x78 8) = true ∧
      (unlocking .ready).sec.nonce = some (sub debugToken 0x18 32) ∧ sub debugToken 0x38 64 = (unlocking .ready).lxg.ownKeyId ∧
      (unlocking .ready).dtm.time.toNat < leAt debugToken 0x10 8 ∧ (unlocking .ready).monBusy = false) ∧
    Config.slhVerify false ((unlocking .ready).sec.slot 12).key (ascii "BLK-DBG-TOK1" ++ debugToken)
      (Memory.read (unlocking .ready).sec.buf 0x80 (Config.sigLen false)) = true := by
  have l : debugToken.length = 0x80 := by decide +kernel
  have k : tokenSig.length = Config.sigLen false := by unfold tokenSig Config.slhSign; rw [List.length_map, List.length_range]
  refine ⟨serves_of (by unfold asks State.startsHere unlocking; decide +kernel), ?_, by unfold unlocking; decide +kernel, ?_⟩
  · have h := Memory.read_write_part [] 0 0 0x80 (debugToken ++ tokenSig) (by simp [l])
    rw [List.drop_zero, ← l, List.take_left, l] at h
    exact h
  · have h := Memory.read_write_part [] 0 0x80 (Config.sigLen false) (debugToken ++ tokenSig) (by simp [l, k])
    rw [Nat.zero_add, ← l, List.drop_left, ← k, List.take_length] at h
    show Config.slhVerify false [] _ (Memory.read (Memory.write [] 0 (debugToken ++ tokenSig)) 0x80 (Config.sigLen false)) = true
    rw [← l, ← k, h]
    exact slh_signed _ _ _

/-! A staged file lies in DRAM from address 0; memory is intact. -/

/-- Memory without damage or poison, laid out as one channel. -/
structure Intact (s : State) (mem : Memory) (n : Nat) : Prop where
  mem : s.dram.mem = mem
  poison : s.dram.poison = []
  err : s.dram.err = []
  map : ∀ a, a < n → s.dramMap a = some (0, a)

/-- What a burst read leaves: its memory group counts it. -/
def oneRead (s : State) : State := s.setMg 0 { s.mg 0 with cntRd := (s.mg 0).cntRd + 128 }

theorem Intact.read {s : State} {mem : Memory} {n : Nat} (h : Intact s mem n) : Intact (oneRead s) mem n := ⟨h.mem, h.poison, h.err, h.map⟩

theorem Intact.burst {s : State} {mem : Memory} {n l : Nat} (h : Intact s mem n) (u : DramUser) : s.burstRead u 0 l = (false, oneRead s) := by
  have p : SMap.get false (oneRead s).dram.poison (burstKey 0 l) = false := by
    show SMap.get false s.dram.poison _ = false; rw [h.poison]; rfl
  have q : SMap.get [] (oneRead s).dram.err (burstKey 0 l) = [] := by
    show SMap.get [] s.dram.err _ = []; rw [h.err]; rfl
  have d : (oneRead s).burstLost (burstKey 0 l) = (false, oneRead s) := by unfold State.burstLost; rw [q]; rfl
  have e : (oneRead s).burstFix 0 (burstKey 0 l) = oneRead s := by unfold State.burstFix; rw [q]; rfl
  unfold oneRead at p d e
  unfold State.burstRead
  simp only [Nat.zero_div, p, d, e, Bool.false_eq_true, if_false]
  rfl

/-- A burst of a read, and the read as its bursts. -/
def readStep (u : DramUser) (acc : Bool × State) (b : Nat) : Bool × State :=
  match acc.2.dramMap b with
  | some (c, l) => (acc.1 || (acc.2.burstRead u c l).1, (acc.2.burstRead u c l).2)
  | none => acc

theorem dramRead_steps (s : State) (u : DramUser) (a n : Nat) :
    s.dramRead u a n = (((burstsOf a n).foldl (readStep u) (false, s)).2.dramBytes a n, (burstsOf a n).foldl (readStep u) (false, s)) := rfl

theorem Intact.bursts {mem : Memory} {n : Nat} (u : DramUser) : ∀ (bs : List Nat) (s : State), Intact s mem n → (∀ b ∈ bs, b < n) →
    bs.foldl (readStep u) (false, s) = (false, bs.foldl (fun s _ => oneRead s) s) ∧ Intact (bs.foldl (fun s _ => oneRead s) s) mem n
  | [], s, h, _ => ⟨rfl, h⟩
  | b :: bs, s, h, k => by
    have t := Intact.bursts u bs (oneRead s) h.read (fun x hx => k x (by simp [hx]))
    simp only [List.foldl_cons, readStep, h.map b (k b (by simp)), h.burst, Bool.or_false]
    exact t

theorem range_bursts {α : Type} (f : Nat → α) (n : Nat) : ∀ q : Nat,
    (List.range q).flatMap (fun i => (List.range (min n (128 * i + 128) - 128 * i)).map (fun j => f (128 * i + j)))
      = (List.range (min n (128 * q))).map f
  | 0 => by simp
  | q + 1 => by
    rw [List.range_succ, List.flatMap_append, range_bursts f n q]
    simp only [List.flatMap_cons, List.flatMap_nil, List.append_nil]
    by_cases h : 128 * q ≤ n
    · rw [show min n (128 * (q + 1)) = 128 * q + (min n (128 * q + 128) - 128 * q) by omega, List.range_add, Nat.min_eq_right h]
      simp [List.map_append, List.map_map, Function.comp_def]
    · rw [show min n (128 * q + 128) - 128 * q = 0 by omega, show min n (128 * (q + 1)) = min n (128 * q) by omega]; simp

theorem Intact.bytes {s : State} {n : Nat} {bs : List Byte} (h : Intact s (Memory.write [] 0 bs) n) (l : bs.length ≤ n) (q k : Nat)
    (z : 0 < k) (e : 128 * q + k ≤ bs.length) : s.dramBytes (128 * q) k = (bs.drop (128 * q)).take k := by
  have r := range_bursts (fun i => Memory.byte (Memory.write [] 0 bs) (128 * q + i)) k ((k - 1) / 128 + 1)
  rw [Nat.min_eq_left (by omega)] at r
  have w := Memory.read_write_part [] 0 (128 * q) k bs e
  rw [Memory.read_eq, Nat.zero_add] at w
  rw [w] at r
  refine Eq.trans ?_ r
  unfold State.dramBytes burstsOf
  rw [if_neg (by omega), show (128 * q + k - 1) / 128 - 128 * q / 128 + 1 = (k - 1) / 128 + 1 by omega, Nat.mul_div_cancel_left _ (by decide)]
  simp only [List.flatMap_map]
  rw [List.flatMap_def, List.flatMap_def]
  refine congrArg _ (List.map_congr_left (fun i hi => ?_))
  have hi := List.mem_range.1 hi
  have m : max (128 * q) (128 * (q + i)) = 128 * (q + i) := by omega
  have d : 128 * (q + i) < n := by omega
  have c : min (128 * q + k) (128 * (q + i) + 128) - 128 * (q + i) = min k (128 * i + 128) - 128 * i := by omega
  simp only [m, c, h.map _ d, h.mem, Memory.read_eq, dramKey, Nat.zero_mul, Nat.zero_add]
  exact List.map_congr_left (fun j _ => by rw [show 128 * (q + i) + j = 128 * q + (128 * i + j) by omega])

theorem Intact.dramRead {s : State} {n : Nat} {bs : List Byte} (h : Intact s (Memory.write [] 0 bs) n) (l : bs.length ≤ n) (u : DramUser)
    (q k : Nat) (z : 0 < k) (e : 128 * q + k ≤ bs.length) : s.dramRead u (128 * q) k =
      ((bs.drop (128 * q)).take k, false, (burstsOf (128 * q) k).foldl (fun s _ => oneRead s) s) ∧
    Intact ((burstsOf (128 * q) k).foldl (fun s _ => oneRead s) s) (Memory.write [] 0 bs) n := by
  have r := Intact.bursts u (burstsOf (128 * q) k) s h (by
    intro x hx
    unfold burstsOf at hx
    rw [if_neg (by omega)] at hx
    obtain ⟨i, hi, rfl⟩ := List.mem_map.1 hx
    have := List.mem_range.1 hi
    omega)
  refine ⟨?_, r.2⟩
  rw [dramRead_steps, r.1, r.2.bytes l q k z e]

theorem reads_sec (l : List Nat) : ∀ s : State, (l.foldl (fun s _ => oneRead s) s).sec = s.sec := by
  induction l with
  | nil => exact fun _ => rfl
  | cons b l ih => exact fun s => ih _

theorem stagedAll_intact {u : State} {n : Nat} {bs : List Byte} (h : Intact u (Memory.write [] 0 bs) n) (k : bs.length ≤ n)
    (z : 0 < bs.length) (b : u.img.stageBase.toNat = 0) (l : u.img.stageLen.toNat = bs.length) (t : bs.length ≤ 2 ^ 30) :
    ∃ v, u.stagedAll = (bs, false, v) ∧ v.sec = u.sec := by
  have r := (h.dramRead k .load 0 bs.length z (by omega)).1
  rw [Nat.mul_zero, List.drop_zero, List.take_length] at r
  unfold State.stagedAll
  rw [b, l, Nat.min_eq_left t, r]
  exact ⟨_, rfl, reads_sec _ _⟩

def staged (i : ImgState) (bs : List Byte) : State := { secured i with
  img := { (inState i).img with stageLen := BitVec.ofNat 64 bs.length, loaded := false }
  dram := { running.dram with mem := Memory.write [] 0 bs, chans := [(0, { state := .up, capacity := 64 })] } }

theorem staged_intact (bs : List Byte) (n : Nat) : Intact ((staged .held bs).started opSec (secOrder n 0 0 0)) (Memory.write [] 0 bs) 65536 :=
  ⟨rfl, rfl, rfl, fun a h => by
    have l : ((staged .held bs).started opSec (secOrder n 0 0 0)).layoutOn = false := rfl
    have c : ((staged .held bs).started opSec (secOrder n 0 0 0)).upChans = [0] := rfl
    have m : (((staged .held bs).started opSec (secOrder n 0 0 0)).chan 0).bytes = 64 * 10 ^ 9 := rfl
    unfold State.dramMap State.heldMap
    rw [l, c]
    simp only [m, Bool.false_eq_true, if_false, List.length_cons, List.length_nil, Nat.zero_add, Nat.mod_one, Nat.div_one]
    rw [if_pos (by omega)]
    simp only [List.getD_cons_zero]
    rw [Nat.div_add_mod' a 4096]⟩

theorem staged_all (bs : List Byte) (n : Nat) (z : 0 < bs.length) (k : bs.length ≤ 65536) :
    ∃ v, ((staged .held bs).started opSec (secOrder n 0 0 0)).stagedAll = (bs, false, v) ∧ v.sec = (staged .held bs).sec :=
  stagedAll_intact (staged_intact bs n) k z rfl (by
    show (BitVec.ofNat 64 bs.length).toNat = bs.length
    rw [BitVec.toNat_ofNat]; omega) (by omega)

theorem sub_left (a b : List Byte) (o k : Nat) (h : o + k ≤ a.length) : sub (a ++ b) o k = sub a o k := by
  unfold sub
  rw [List.drop_append_of_le_length (by omega), List.take_append_of_le_length (by simp; omega)]

theorem byteAt_left (a b : List Byte) (o : Nat) (h : o < a.length) : byteAt (a ++ b) o = byteAt a o := by
  unfold byteAt
  rw [List.drop_append_of_le_length (by omega)]
  cases e : a.drop o with
  | nil => rw [List.drop_eq_nil_iff] at e; omega
  | cons x t => rfl

/-- The head and signature block of a firmware image of version 3 with an empty body, under firmware key 0. -/
def fwHead (kind : Nat) : List Byte := ascii "BLKFWIM1" ++ [BitVec.ofNat 8 kind, 0, 1, 0, 3] ++ List.replicate 51 0
def fwTop (kind : Nat) : List Byte := fwHead kind ++ Config.fwKey 0
def fwDigest (kind : Nat) : List Byte := Config.shake256 (ascii "BLK-FW-BODY" ++ fwTop kind) 64
def fwSig (kind : Nat) : List Byte := Config.slhSign false (Config.fwKey 0) (ascii "BLK-FW-SIG1" ++ fwDigest kind)
def sigHead : List Byte := ascii "BLKFWSG1" ++ List.replicate 24 0
def fwImage (kind : Nat) : List Byte := fwTop kind ++ (sigHead ++ fwSig kind)
def fwHeader (kind : Nat) : FwHeader := { kind := kind, fwKey := 0, svn := 3, key := Config.fwKey 0, sig := fwSig kind, digest := fwDigest kind }

theorem slhSign_length (fast : Bool) (pub msg : List Byte) : (Config.slhSign fast pub msg).length = Config.sigLen fast := by
  unfold Config.slhSign; rw [List.length_map, List.length_range]

theorem sub_all (a b : List Byte) (k : Nat) (h : a.length = k) : sub (a ++ b) 0 k = a := by
  subst h; simp [sub]

theorem fwImage_signed (kind : Nat) : (fwHeader kind).signed = true := by
  unfold FwHeader.signed fwHeader fwSig
  simp only [slh_signed, Config.fwKeyDigest, beq_self_eq_true, Bool.and_self]

theorem fwImage_parses (kind : Nat) (hk : kind = 1 ∨ kind = 2) : fwParse (fwImage kind) = some (fwHeader kind) := by
  have lh : (fwHead kind).length = 64 := by simp [fwHead]; decide
  have lt : (fwTop kind).length = 128 := by simp [fwTop, lh, Config.fwKey]
  have ls : sigHead.length = 32 := by decide
  have lg : (fwSig kind).length = 29792 := slhSign_length _ _ _
  have h0 : sub (fwImage kind) 0 128 = fwTop kind := sub_all _ _ _ lt
  have f : ∀ o k, o + k ≤ 64 → sub (fwTop kind) o k = sub (fwHead kind) o k := fun o k h => sub_left _ _ _ _ (by omega)
  have g : ∀ o, o < 64 → byteAt (fwTop kind) o = byteAt (fwHead kind) o := fun o h => byteAt_left _ _ _ (by omega)
  have n : ∀ o k, o + k ≤ 64 → leAt (fwTop kind) o k = leAt (fwHead kind) o k := fun o k h => by unfold leAt; rw [f o k h]
  have hz : leAt (fwHead kind) 0x10 8 = 0 := by rcases hk with rfl | rfl <;> decide +kernel
  have d : (fwImage kind).drop (128 + 0) = sigHead ++ fwSig kind := by rw [Nat.add_zero, ← lt]; exact List.drop_left
  have t : (fwImage kind).take (128 + 0) = fwTop kind := by rw [Nat.add_zero, ← lt]; exact List.take_left
  have key : sub (fwTop kind) 0x40 64 = Config.fwKey 0 := by
    have e := sub_mid (fwHead kind) (Config.fwKey 0) [] 64 64 lh (by simp [Config.fwKey])
    simpa [fwTop] using e
  have sg : sub (sigHead ++ fwSig kind) 0x20 (Config.sigLen false) = fwSig kind := by
    have e := sub_mid sigHead (fwSig kind) [] 32 (Config.sigLen false) ls lg
    simpa using e
  have s0 : sub (sigHead ++ fwSig kind) 0 8 = ascii "BLKFWSG1" := by rw [sub_left _ _ _ _ (by omega)]; decide
  have s1 : sub (sigHead ++ fwSig kind) 8 0x18 = List.replicate 24 0 := by rw [sub_left _ _ _ _ (by omega)]; decide
  have s2 : (sigHead ++ fwSig kind).drop 0x7480 = [] := List.drop_eq_nil_iff.2 (by simp [ls, lg])
  have len : (fwImage kind).length = 128 + 0 + fwSigBytes := by simp [fwImage, lt, ls, lg, fwSigBytes]
  have c : (sub (fwHead kind) 0 8 == ascii "BLKFWIM1" && (byteAt (fwHead kind) 8 == 1 || byteAt (fwHead kind) 8 == 2)
      && byteAt (fwHead kind) 9 < 2 && leAt (fwHead kind) 0x0A 2 == 1 && allZero (sub (fwHead kind) 0x18 0x28)) = true := by
    rcases hk with rfl | rfl <;> decide +kernel
  have v : byteAt (fwHead kind) 8 = kind ∧ byteAt (fwHead kind) 9 = 0 ∧ leAt (fwHead kind) 0x0C 4 = 3 := by
    rcases hk with rfl | rfl <;> decide +kernel
  unfold fwParse
  simp only [h0, f _ _ (show 0 + 8 ≤ 64 by decide), f _ _ (show 0x18 + 0x28 ≤ 64 by decide), g _ (show 8 < 64 by decide),
    g _ (show 9 < 64 by decide), n _ _ (show 0x0A + 2 ≤ 64 by decide), n _ _ (show 0x0C + 4 ≤ 64 by decide),
    n _ _ (show 0x10 + 8 ≤ 64 by decide), hz, d, t, key, sg, s0, s1, s2, len]
  rw [if_pos (by rw [c]; decide)]
  simp only [v]
  rfl

theorem witness_fwUpdate (kind : Nat) (hk : kind = 1 ∨ kind = 2) : ∃ v, ((staged .held (fwImage kind)).started opSec (secOrder 11 0 0 0)).stagedAll
      = (fwImage kind, false, v) ∧ fwParse (fwImage kind) = some (fwHeader kind) ∧ (fwHeader kind).signed = true ∧
    v.sec.fwFresh (fwHeader kind).kind (fwHeader kind).fwKey (fwHeader kind).svn = true ∧ (fwImage kind).length ≤ fwSlotBytes kind := by
  have l : (fwImage kind).length = 29952 := by
    have h : (fwHead kind).length = 64 := by simp [fwHead]; decide
    have g : (fwSig kind).length = 29792 := slhSign_length _ _ _
    have s : sigHead.length = 32 := by decide
    simp [fwImage, fwTop, h, g, s, Config.fwKey]
  obtain ⟨v, h, e⟩ := staged_all (fwImage kind) 11 (by omega) (by omega)
  refine ⟨v, h, fwImage_parses kind hk, fwImage_signed kind, ?_, ?_⟩
  · rw [e]; rcases hk with rfl | rfl <;> decide
  · rw [l]; rcases hk with rfl | rfl <;> decide

theorem witness_fwService : serves (staged .held []) 11 0 0 ∧ serves (staged .held []) 10 0 0 ∧ fwParse [] = none := by
  refine ⟨serves_of (by unfold asks State.startsHere; decide +kernel), serves_of (by unfold asks State.startsHere; decide +kernel), by decide +kernel⟩

/-- A roster of one device, signed under slot 8. -/
def rosterHead : List Byte := ascii "BLKROST1" ++ leBytes 8 2 ++ leBytes 4 1 ++ [8] ++ List.replicate 107 0 ++ (key 6 ++ [1] ++ List.replicate 15 0)
def rosterMessage : List Byte := ascii "BLK-ROSTER1" ++ Config.shake256 rosterHead 64
def rosterTail : List Byte := ascii "BLKRSIG1" ++ List.replicate 24 0
def rosterFile (sig : List Byte) : List Byte := rosterHead ++ (rosterTail ++ sig)

theorem rosterFile_parses (sig : List Byte) (lg : sig.length = 29792) :
    rosterParse (rosterFile sig) = some ({ seq := 2, entries := [{ key := key 6, kind := 1, serial := 0 }] }, 8, rosterMessage, sig) := by
  have lt : rosterHead.length = 208 := by decide +kernel
  have ls : rosterTail.length = 32 := by decide
  have f : ∀ o k, o + k ≤ 208 → sub (rosterFile sig) o k = sub rosterHead o k := fun o k h => sub_left _ _ _ _ (by omega)
  have g : ∀ o, o < 208 → byteAt (rosterFile sig) o = byteAt rosterHead o := fun o h => byteAt_left _ _ _ (by omega)
  have n : ∀ o k, o + k ≤ 208 → leAt (rosterFile sig) o k = leAt rosterHead o k := fun o k h => by unfold leAt; rw [f o k h]
  have c1 : leAt rosterHead 0x10 4 = 1 := by decide +kernel
  have c2 : leAt rosterHead 8 8 = 2 ∧ byteAt rosterHead 0x14 = 8 := by decide +kernel
  have es : ((rosterFile sig).drop 128).take (80 * 1) = rosterHead.drop 128 := by
    unfold rosterFile
    rw [List.drop_append_of_le_length (by omega), List.take_append_of_le_length (by simp; omega), List.take_of_length_le (by simp; omega)]
  have ch : chunksOf 80 (rosterHead.drop 128) = [rosterHead.drop 128] := by decide +kernel
  have en : sub (rosterHead.drop 128) 0 64 = key 6 ∧ byteAt (rosterHead.drop 128) 0x40 = 1 ∧ leAt (rosterHead.drop 128) 0x48 8 = 0
      ∧ allZero (sub (rosterHead.drop 128) 0x41 7) = true := by decide +kernel
  have d : (rosterFile sig).drop (128 + 80 * 1) = rosterTail ++ sig := by
    rw [show 128 + 80 * 1 = rosterHead.length by rw [lt]]; exact List.drop_left
  have t : (rosterFile sig).take (128 + 80 * 1) = rosterHead := by
    rw [show 128 + 80 * 1 = rosterHead.length by rw [lt]]; exact List.take_left
  have sg : sub (rosterTail ++ sig) 0x20 (Config.sigLen false) = sig := by
    have e := sub_mid rosterTail sig [] 32 (Config.sigLen false) ls lg
    simpa using e
  have s0 : sub (rosterTail ++ sig) 0 8 = ascii "BLKRSIG1" := by rw [sub_left _ _ _ _ (by omega)]; decide
  have s1 : sub (rosterTail ++ sig) 8 0x18 = List.replicate 24 0 := by rw [sub_left _ _ _ _ (by omega)]; decide
  have s2 : (rosterTail ++ sig).drop 0x7480 = [] := List.drop_eq_nil_iff.2 (by simp [ls, lg])
  have len : (rosterFile sig).length = 128 + 80 * 1 + fwSigBytes := by simp [rosterFile, lt, ls, lg, fwSigBytes]
  have c : (sub rosterHead 0 8 == ascii "BLKROST1" && 1 ≤ (1 : Nat) && (1 : Nat) ≤ 8192 && 8 ≤ byteAt rosterHead 0x14
      && byteAt rosterHead 0x14 ≤ 11 && allZero (sub rosterHead 0x15 0x6B)) = true := by decide +kernel
  unfold rosterParse
  simp only [f _ _ (show 0 + 8 ≤ 208 by decide), f _ _ (show 0x15 + 0x6B ≤ 208 by decide), g _ (show 0x14 < 208 by decide),
    n _ _ (show 8 + 8 ≤ 208 by decide), n _ _ (show 0x10 + 4 ≤ 208 by decide), c1, d, t, es, ch, sg, s0, s1, s2, len]
  rw [if_pos (by rw [c]; simp [en]; decide)]
  simp only [List.map_cons, List.map_nil, en, c2]
  rfl

theorem witness_rosterService : serves (staged .held (rosterFile [])) 10 0 0 := by
  refine serves_of ?_
  unfold asks State.startsHere; decide +kernel

theorem witness_rosterSet : ∃ v sig, ((staged .held (rosterFile sig)).started opSec (secOrder 10 0 0 0)).stagedAll = (rosterFile sig, false, v) ∧
    rosterParse (rosterFile sig) = some ({ seq := 2, entries := [{ key := key 6, kind := 1, serial := 0 }] }, 8, rosterMessage, sig) ∧
    (v.sec.slot 8).st = 1 ∧ v.sec.roster = none ∧ Config.slhVerify false (v.sec.slot 8).key rosterMessage sig = true := by
  have lt : rosterHead.length = 208 := by decide +kernel
  have ls : rosterTail.length = 32 := by decide
  have lg : (Config.slhSign false [] rosterMessage).length = 29792 := slhSign_length _ _ _
  obtain ⟨v, h, e⟩ := staged_all (rosterFile (Config.slhSign false [] rosterMessage)) 10 (by simp [rosterFile, lt] <;> omega) (by simp [rosterFile, lt, ls, lg])
  exact ⟨v, _, h, rosterFile_parses _ lg, by rw [e]; rfl, by rw [e]; rfl, by rw [e]; exact slh_signed _ _ _⟩

theorem witness_securityEvents : ({ ({} : Sec) with zeroing := some (3, 7) }).zeroing = some (3, 7) ∧
    (({ secured .ready with sec := { (secured .ready).sec with scan := true, expiry := 1 }, dtm := { State.reset.dtm with time := 1 } } : State)).debugOpen = true ∧
    (secured .ready).awake = true ∧ (secured .ready).sec.state ≠ .error ∧ ((secured .ready).sec.entropy.take 1).bad = false ∧
    ((secured .ready { entropy := { last := some 1, run := 40 } }).sec.entropy.take 1).bad = true := by decide

/-- The DRBG is due for a reseed at 2^20 requests, not before; firmware debug is open to halt plat 2. -/
theorem witness_reseedAndJtag : State.reseedDue { running with drbg := { state := [1], since := 2 ^ 20 } } = true ∧
    State.reseedDue { running with drbg := { state := [1], since := 2 ^ 20 - 1 } } = false ∧
    State.jtagActs { secured .ready { fwDebug := true } with smb := { running.smb with jtag := .fwHalt 2 } } = .fwHalt 2 ∧
    State.jtagActs { secured .ready { fwDebug := true } with smb := { running.smb with jtag := .scan } } = .bypass := by
  decide +kernel

/-! Start-up, settings, SMBus, control space -/

def bootSeen : BootSeen := { straps := 0, failTest := 0, fsfValid := (true, true), pcfValid := (true, true), mram := {}, modules := []
                             bridgesUp := 255, pllFail := none, light := 0, signal := 0, heldUs := 0 }

theorem witness_resetRelease : State.reset.nvm.phase = 0 ∧ bootSeen.failTest ≠ 1 ∧ bootSeen.failTest ≠ 2 ∧ bootSeen.failTest ≠ 3 ∧
    bitOf bootSeen.straps 1 = false ∧ (State.reset.readMram bootSeen.mram).sec.pickFw 1 bootSeen.fsfValid = some (0, false) := by decide +kernel

def setting : State := { running with
  nvm := { running.nvm with set0 := mkWord 64 [(0, 16, 12800), (24, 7, 25)], set1 := mkWord 64 [(32, 32, 2500000)], set2 := 100 } }

theorem witness_nvmCommit : setting.openFor (.fw 0) .nvm ∧ setting.nvm.busy = none ∧ setting.nvm.genInUse = none ∧
    setting.nvm.commitBase = (match setting.nvm.genInUse with | some g => g.seq | none => 0) ∧ setting.nvm.storeQ = [] ∧ setting.flt.buffer = [] ∧
    State.storeRuns { setting with nvm := { setting.nvm with storeQ := [{ fence := false, head := 0 }] } } false = true ∧
    badFields setting.nvm.set0 setting.nvm.set1 setting.nvm.set2 = [] ∧
    ({ setting with nvm := { setting.nvm with busy := some (setting.newGen, none) } } : State).nvm.busy = some (setting.newGen, none) := by
  unfold State.openFor; decide +kernel

theorem witness_nvmCommitOrder : setting.takesNow opNvmCommit (rowOrder (fwOrder 7) 0 0 64 0) 0 :=
  starts (by decide) (by unfold State.startsHere; decide +kernel)

def loader (i : Option BootImage) : State := { State.reset with
  smb := { State.reset.smb with awaiting := 1, image := i, regAddr := some 0 }, nvm := { State.reset.nvm with phase := 3, booting := some bootSeen } }

theorem witness_boot : (loader none).awake = true ∧ (loader none).smb.awaiting ≠ 0 ∧ (1 : Byte).toNat = (loader none).smb.awaiting ∧ (loader none).smb.image = none ∧
    (loader (some { kind := 1 })).smb.image = some { kind := 1 } ∧ (0 : W32).toNat = ({ kind := 1 } : BootImage).bytes.length ∧
    (List.replicate 240 (0 : Byte)).length ≤ fwSlotBytes 1 ∧ (loader none).nvm.phase ≠ 0 ∧ (loader none).smb.regAddr = some 0 := by decide +kernel

/-- The image of kind 1 or 2 is whole and verifies; an empty one does not. -/
theorem witness_bootVerify (kind : Nat) (hk : kind = 1 ∨ kind = 2) :
    (loader (some { kind := kind, bytes := fwImage kind, ended := true })).smb.image = some { kind := kind, bytes := fwImage kind, ended := true } ∧
    (loader (some { kind := kind, bytes := fwImage kind, ended := true })).nvm.booting = some bootSeen ∧
    fwParse (fwImage kind) = some (fwHeader kind) ∧ (fwHeader kind).kind = kind ∧ (fwHeader kind).signed = true ∧
    State.reset.sec.fwFresh (fwHeader kind).kind (fwHeader kind).fwKey (fwHeader kind).svn = true ∧ fwParse [] = none :=
  ⟨rfl, rfl, fwImage_parses kind hk, rfl, fwImage_signed kind, by rcases hk with rfl | rfl <;> decide, by decide +kernel⟩

theorem witness_registers : running.pathOpen (.fw 0) = true ∧ running.register 0 = some (.glb, 0) ∧
    running.accessGated .glb 0 = false ∧ (inGroup running).pathOpen (.mgmt 0x8000 0) = true ∧ running.blockGated .glb = false ∧
    running.pathOpen .smbus = true := by decide +kernel

/-- The AU clocks of every plat are gated. -/
def gatedAu : State := { running with clk := { running.clk with closed := (List.range 4).flatMap (fun p => (List.range 3).map (fun g => (32 * (12 + p) + g, true))) } }

theorem witness_gatedRegister : gatedAu.blockGated (.au 3) = true := by decide +kernel

theorem witness_mgmtAccess : (inGroup running).takes { rx0 with src := 0x8000 } (.mgmt false 0 0) ∧
    (inGroup running).takes { rx0 with src := 0x8000 } (.mgmt true 0 7) ∧
    (inGroup running).takes { rx0 with src := 0x8000 } (mgmtBody false { addr := 0, size := 16 } 0) ∧
    (inGroup running).takes { rx0 with src := 0x8000 } (mgmtBody true { addr := 0, size := 4 } 7) := by
  unfold State.takes State.hears; decide +kernel

/-- A device without a number serves a MGMT access at its SECURE port. -/
def unnumbered : State := { running with ports := [(0, { state := .secure, peerKind := 2, peerNum := 0 })] }
theorem witness_openAccess : unnumbered.servesOpen { rx0 with src := 0x8000, dst := 0xFFF } (.mgmt false 0 0) ∧
    unnumbered.servesOpen { rx0 with src := 0x8000, dst := 0xFFF } (.mgmt true 0 7) := by
  unfold State.servesOpen State.hears; decide +kernel

/-- Both copies of the counters are held, the first by the higher number; a start-up finds it damaged. -/
def counters (n : Nat) : Svns := { fsf := BitVec.ofNat 32 n, pcf := 0, img := BitVec.ofNat 32 n, fwkeyMin := 0 }
def counted : State := { State.reset with sec := ({ State.reset.sec with
  puf := true, mram := { State.reset.sec.mram with svns := { copy0 := some (1, counters 1), copy1 := some (0, counters 0) } } } : Sec).putSvns (counters 2) }
theorem witness_counters : counted.sec.svnsHeld 2 ∧ 2 + 2 ^ 34 ≤ 2 ^ 64 ∧
    counted.nvm.phase = 0 ∧ counted.sec.puf = true ∧ counted.sec.mram.svns.copy0 = some (1, counters 1) ∧
    counted.sec.mram.svns.copy1 = some (2, counters 2) ∧ (3, true) ∈ ([(3, true)] : List (Nat × Bool)) :=
  ⟨⟨by rintro c ⟨⟩; decide, by rintro c ⟨⟩; decide, by rintro c ⟨⟩; decide⟩, by decide, by decide +kernel⟩

/-! The whole machine -/

def waiting : State := { running with pending := [.notifyPop, .bootStatus] }

theorem witness_inv : waiting.Inv ∧ ∃ t, step waiting = .next t ∧ t.pending = [.bootStatus] :=
  ⟨⟨by unfold State.canonical; decide, by decide, by decide⟩, _, rfl, rfl⟩

theorem witness_dramRange : let r : DramRange := { kind := 1, base := 0x1000, len := 0x4000, chans := 0x8001, gran := 12, local0 := 0x2000 }
    r.base ≤ 0x4FFF ∧ 0x4FFF < r.base + r.len ∧ ((List.range 16).filter (fun i => r.chans.testBit i)).length = 2 ∧ (0x4FFF - r.base) / 2 ^ r.gran = 3 ∧
    r.map 0x4FFF = (15, 0x3FFF) := by decide +kernel

theorem witness_notify : ∃ n : Notice, (running.notify n).cmd.notices = [n] ∧ bitOf running.cmd.notify 12 = false ∧
    bitOf (mkWord 64 [(12, 1, 1)] : W64) 12 = true ∧ (List.replicate 64 n).length = 64 := by
  refine ⟨{ index := 0, tag := 0, count := 0 }, by decide +kernel⟩


/-! Images that pass every check -/

/-- A field of n bytes at an offset. -/
def at_ (off n v : Nat) (bs : List Byte) : List Byte := bs.take off ++ leBytes n v ++ bs.drop (off + n)

/-- The header of an image: kind, bytes, sections; its table lies at 256. -/
def imgHeader (kind len n : Nat) : List Byte := at_ 8 2 1 <| at_ 0x0A 2 kind <| at_ 0x0C 2 0x9600 <| at_ 0x0E 1 0x20 <| at_ 0x10 8 len <| at_ 0x18 4 n <|
  at_ 0x1C 4 256 (ascii "PREASTIM" ++ List.replicate 248 0)
/-- An entry of the section table: type, plat, items, offset, bytes. -/
def entry (typ plat n off len : Nat) : List Byte := leBytes 2 typ ++ [BitVec.ofNat 8 plat, 0] ++ leBytes 4 n ++ leBytes 8 off ++ leBytes 8 len ++ leBytes 8 0

/-- The head of a signature block under slot 1, whose key is no bytes here; the message and the whole image. -/
def imgSigHead : List Byte := ascii "PRSTSIG1" ++ [1, 1] ++ List.replicate 22 0
def imgMessage (body : List Byte) : List Byte := Image.sigMessage
  { bytes := body, kind := 0, len := body.length + sigBytes, svn := 0, tableOff := 0, mask := 0, baseId := [], layoutId := [], sects := [] }
def signedImage (body : List Byte) : List Byte := body ++ (imgSigHead ++ Config.slhSign false [] (imgMessage body))

theorem signedImage_length (body : List Byte) : (signedImage body).length = body.length + sigBytes := by
  have s : imgSigHead.length = 32 := by decide
  simp [signedImage, slhSign_length, s, Config.sigLen, sigBytes]

/-- The signature of a signed image verifies under the key of slot 1. -/
theorem signedImage_verifies (body : List Byte) (h : 24 ≤ body.length) (l : leAt body 0x10 8 = body.length + sigBytes) :
    Config.slhVerify false [] (imageOf (signedImage body)).sigMessage (imageOf (signedImage body)).signature = true := by
  have n : (imageOf (signedImage body)).len = body.length + sigBytes := by
    show leAt (signedImage body) 0x10 8 = _
    unfold leAt signedImage at *; rw [sub_left _ _ _ _ (by omega)]; exact l
  have m : (imageOf (signedImage body)).sigMessage = imgMessage body := by
    have e : (imageOf (signedImage body)).signed = body := by
      unfold Image.signed; rw [n, Nat.add_sub_cancel]; exact List.take_left
    unfold imgMessage Image.sigMessage Image.identity
    rw [e]
    simp only [Image.signed, Nat.add_sub_cancel, List.take_length]
  have g : (imageOf (signedImage body)).signature = Config.slhSign false [] (imgMessage body) := by
    unfold Image.signature
    rw [n, Nat.add_sub_cancel]
    have e := sub_mid (body ++ imgSigHead) (Config.slhSign false [] (imgMessage body)) [] (body.length + 0x20) (Config.sigLen false)
      (by rw [List.length_append]; rfl) (slhSign_length _ _ _)
    rw [List.append_nil, List.append_assoc] at e
    exact e
  rw [m, g]
  exact slh_signed _ _ _

/-- Every check but the signature. -/
def passesRest (s : State) (im : Image) (full : Bool) : Bool :=
  let t := if full then s.install im else s.installPartial im ((s.nextEpoch im.mask).getD 0)
  check1 im (if full then 1 else 2) s.img.stageLen.toNat && (s.sec.state != .error && 1 ≤ im.keySlot && im.keySlot ≤ 7 &&
    (SMap.get {} s.sec.slots im.keySlot).st == 1 && (SMap.get {} s.sec.slots im.keySlot).key == [] && s.sec.imgSvn.toNat ≤ im.svn)
    && (full || im.baseId == s.img.cfgId) && (check4 im).isNone
    && (firstOf [check5 s t im, check6 s t im, check7 t im, check8 s t im, check9 s t im, check10 s t im]).isNone

theorem checkImage_passes {s : State} {im : Image} {full : Bool} (h : passesRest s im full = true)
    (g : Config.slhVerify false [] im.sigMessage im.signature = true) : ∃ t, s.checkImage im full false = .ok t := by
  unfold passesRest at h
  simp only [Bool.and_eq_true, Option.isNone_iff_eq_none, beq_iff_eq, decide_eq_true_eq] at h
  obtain ⟨⟨⟨⟨c1, ⟨⟨⟨⟨ke, k1⟩, k2⟩, k3⟩, k4⟩, k5⟩, b⟩, c4⟩, c5⟩ := h
  have c2 : s.check2 im false = true := by
    unfold State.check2
    rw [k3, k4, g]
    simp_all
  have c3 : (!full && im.baseId != s.img.cfgId) = false := by
    cases full <;> simp_all
  unfold State.checkImage
  simp only [c1, c2, c3, c4, c5, Bool.not_true, Bool.false_eq_true, if_false]
  exact ⟨_, rfl⟩

/-- The reads of an image staged from address 0. -/
def afterReads (s : State) (n : Nat) : State :=
  (burstsOf 256 (n - 256)).foldl (fun s _ => oneRead s) ((burstsOf 0 256).foldl (fun s _ => oneRead s) s)

theorem staged_image {s : State} {n : Nat} {bs : List Byte} (h : Intact s (Memory.write [] 0 bs) n) (k : bs.length ≤ n)
    (z : 256 < bs.length) (b : s.img.stageBase.toNat = 0) (l : s.img.stageLen.toNat = bs.length) (t : bs.length ≤ 2 ^ 30)
    (g : leAt bs 0x10 8 = bs.length) : s.staged = (bs, false, afterReads s bs.length) := by
  have r := h.dramRead k .load 0 256 (by decide) (by omega)
  have q := r.2.dramRead k .load 2 (bs.length - 256) (by omega) (by omega)
  rw [Nat.mul_zero, List.drop_zero] at r
  have e : leAt (bs.take 256) 0x10 8 = bs.length := by
    rw [← g]
    unfold leAt
    conv => rhs; rw [← List.take_append_drop 256 bs]
    rw [sub_left _ _ _ _ (by simp; omega)]
  unfold State.staged
  simp only [b, l, Nat.min_eq_left t, show min bs.length 256 = 256 by omega, r.1, e, Nat.min_self]
  rw [if_neg (by omega), Nat.zero_add, show (256 : Nat) = 128 * 2 by decide, q.1]
  simp only [Bool.or_false, show 128 * 2 = 256 by decide]
  rw [List.take_of_length_le (l := bs.drop 256) (by simp), List.take_append_drop]
  rfl

/-- The least PARTIAL image: an empty timing table and a budget of 0. -/
def partialBody : List Byte := imgHeader 2 30272 2 ++ entry 13 0xFF 0 320 64 ++ entry 14 0xFF 1 384 64 ++ List.replicate 128 0
def loadable (i : ImgState) (bs : List Byte) : State := { inState i with
  img := { (inState i).img with loaded := i == .ready, stageLen := BitVec.ofNat 64 bs.length, cfgId := List.replicate 64 0 }
  pwr := { running.pwr with limit := 0xFFFFFFFF }, nvm := { running.nvm with mfgBad := true }
  sec := { running.sec with slots := [(1, { st := 1 })] }
  dram := { running.dram with mem := Memory.write [] 0 bs, chans := [(0, { state := .up, capacity := 64 })] } }

/-- The least FULL image: no site, 64 unused rule rows, no parameter region, one DRAM range, the plan of one device. -/
def fullBody : List Byte := imgHeader 1 41024 10
  ++ (List.range 4).flatMap (fun p => entry 1 p 1 (576 + 512 * p) 512)
  ++ entry 9 0xFF 64 2624 8192 ++ entry 10 0xFF 0 10816 0 ++ entry 11 0xFF 1 10816 128 ++ entry 12 0xFF 1 10944 72
  ++ entry 13 0xFF 0 11072 64 ++ entry 14 0xFF 1 11136 64 ++ List.replicate 10240 0
  ++ at_ 0 1 1 (at_ 64 1 6 (at_ 65 1 12 (at_ 66 2 1 (at_ 72 8 0x100000 (at_ 80 8 0x1000 (at_ 88 8 0x100000 (List.replicate 128 0)))))))
  ++ leBytes 8 (2 ^ 48) ++ leBytes 8 1 ++ (List.replicate 7 (leBytes 2 1000)).flatten ++ leBytes 2 1100 ++ [1, 1, 1] ++ List.replicate 221 0

theorem loadable_intact (i : ImgState) (bs : List Byte) (h : bs.length ≤ 65536) :
    Intact (loadable i bs) (Memory.write [] 0 bs) bs.length :=
  ⟨rfl, rfl, rfl, fun a k => by
    have c : (loadable i bs).upChans = [0] := rfl
    have m : ((loadable i bs).chan 0).bytes = 64 * 10 ^ 9 := rfl
    have e : (loadable i bs).heldMap a = some (0, a) := by
      unfold State.heldMap
      rw [c]
      simp only [m, List.length_cons, List.length_nil, Nat.zero_add, Nat.mod_one, Nat.div_one]
      rw [if_pos (by omega)]
      simp only [List.getD_cons_zero]
      rw [Nat.div_add_mod' a 4096]
    have g : (loadable i bs).inStaging a = true := by
      have l : (loadable i bs).img.stageLen.toNat = bs.length := by
        show (BitVec.ofNat 64 bs.length).toNat = _
        rw [BitVec.toNat_ofNat]; omega
      unfold State.inStaging
      rw [l]
      have b : (loadable i bs).img.stageBase.toNat = 0 := rfl
      simp [b]; omega
    unfold State.dramMap
    rw [g, e]
    simp⟩

theorem load_exists (i : ImgState) (full : Bool) (body : List Byte) (h : 256 ≤ body.length)
    (k : body.length + sigBytes ≤ 65536) (l : leAt body 0x10 8 = body.length + sigBytes)
    (p : passesRest (afterReads (loadable i (signedImage body)) (body.length + sigBytes)) (imageOf (signedImage body)) full = true) :
    ∃ u t, ((loadable i (signedImage body)).strikes []).staged = (signedImage body, false, u) ∧
      u.checkImage (imageOf (signedImage body)) full false = .ok t := by
  have n := signedImage_length body
  have z : 0 < sigBytes := by decide
  have e := staged_image (loadable_intact i (signedImage body) (by omega)) (Nat.le_refl _) (by omega) rfl (by
    show (BitVec.ofNat 64 (signedImage body).length).toNat = _
    rw [BitVec.toNat_ofNat]; omega) (by omega) (by
    rw [n, ← l]; unfold leAt signedImage; rw [sub_left _ _ _ _ (by omega)])
  rw [n] at e
  obtain ⟨t, ht⟩ := checkImage_passes p (signedImage_verifies body (by omega) l)
  exact ⟨_, t, e, ht⟩

theorem witness_partialLoadComplete : ∃ u t, ((loadable .ready (signedImage partialBody)).strikes []).staged = (signedImage partialBody, false, u) ∧
    u.checkImage (imageOf (signedImage partialBody)) false false = .ok t :=
  load_exists .ready false partialBody (by decide +kernel) (by decide +kernel) (by decide +kernel) (by decide +kernel)

theorem witness_loadComplete : ∃ u t, ((loadable .loading (signedImage fullBody)).strikes []).staged = (signedImage fullBody, false, u) ∧
    u.checkImage (imageOf (signedImage fullBody)) true false = .ok t :=
  load_exists .loading true fullBody (by decide +kernel) (by decide +kernel) (by decide +kernel) (by decide +kernel)


/-! Well-formed commands: a term that each check refuses, beside one it admits -/

def stok : STok := { value := 0, tag := 0, epoch := 1, poison := false, par := 0, hpar := false }
def anyFlit (n : Nat) : Flit := { flit 1 0 with payload := List.replicate n 0 }
def frame0 (n : Nat) : MonFrame := { status := 0, srcDev := 4095, index := 0, step := 0, payload := [], digest := List.replicate n 0 }
def rec0 (d : Nat) : NormRec := { typ := 0, vote := true, fault := 0, dev := d, shard := 0, step := 0, rset := 0, gsq := 0, trust := [], root := List.replicate 64 0 }
def passed (t : Byte) : Passing := { rx := rx0, typ := t, args := 0, payload := [] }
def table0 (n : Nat) : MTable := { table with entries := [{ num := n, keyId := key 1, ports := [] }] }
def ann0 (n : Nat) : Announce := { ann with nonce := List.replicate n 0, ek := List.replicate 1568 0, keyId := key 1, chainDigest := key 2 }

theorem wf_tokenArrival : (Instr.tokenArrival 0 0 .scalar 0 (.s stok)).wf = true ∧ (Instr.tokenArrival 0 0 .vector 0 (.s stok)).wf = false := by decide
theorem wf_dramWrite : (Instr.dramWrite .host 100 (List.replicate 28 0) false 0 []).wf = true ∧
    (Instr.dramWrite .host 100 (List.replicate 29 0) false 0 []).wf = false := by decide
theorem wf_rwrite : (Instr.rwrite rx0 0 [1] false).wf = true ∧ (Instr.rwrite rx0 0 (List.replicate 65537 0) false).wf = false := by
  decide +kernel
theorem wf_rread : (Instr.rread rx0 0 65536 []).wf = true ∧ (Instr.rread rx0 0 12 []).wf = false ∧ (Instr.rread rx0 0 0 []).wf = false := by decide
theorem wf_resp : (Instr.resp rx0 0 1 0 []).wf = true ∧ (Instr.resp rx0 0 1 0 (List.replicate 65537 0)).wf = false := by
  decide +kernel
theorem wf_coll : (Instr.coll rx0 0 1 0 0 [ptok]).wf = true ∧ (Instr.coll rx0 0 3 0 0 [ptok]).wf = false ∧ (Instr.coll rx0 0 1 0 0 []).wf = false := by decide
theorem wf_normRecord : (Instr.normRecord rx0 (rec0 4095)).wf = true ∧ (Instr.normRecord rx0 (rec0 4096)).wf = false := by decide
theorem wf_frames : (Instr.ackFrame rx0 (frame0 64)).wf = true ∧ (Instr.ackFrame rx0 (frame0 63)).wf = false ∧ (Instr.chunkFrame rx0 (frame0 63)).wf = false ∧
    (Instr.recordFrame rx0 (frame0 63) .computed).wf = false ∧ (Instr.abandonFrame rx0 (frame0 63)).wf = false ∧ (Instr.pullFrame rx0 (frame0 63)).wf = false := by decide
theorem wf_announce : (Instr.announce 0 (ann0 32) .computed).wf = true ∧ (Instr.announce 0 (ann0 31) .computed).wf = false := by decide +kernel
theorem wf_keyx : (Instr.keyx 0 (List.replicate 1568 0) (key 1) (Config.slhSign true [] [])).wf = true ∧
    (Instr.keyx 0 (List.replicate 1568 0) (key 1) []).wf = false := by decide +kernel
theorem wf_member : (Instr.member rx0 (table0 4095) .computed).wf = true ∧ (Instr.member rx0 (table0 4096) .computed).wf = false := by decide
theorem wf_linkstate : (Instr.linkstate rx0 (key 5) []).wf = true ∧ (Instr.linkstate rx0 [] []).wf = false := by decide
theorem wf_flits : (Instr.dataFlit 0 (anyFlit 250) {}).wf = true ∧ (Instr.dataFlit 0 (anyFlit 249) {}).wf = false ∧
    (Instr.linkFlit 0 (anyFlit 250) (0, 0) false).wf = true ∧ (Instr.linkFlit 0 (anyFlit 251) (0, 0) false).wf = false := by decide +kernel
theorem wf_types : (Instr.transactionForward (passed 1)).wf = true ∧ (Instr.transactionForward (passed 0)).wf = false ∧
    (Instr.reservedTransaction rx0 16).wf = true ∧ (Instr.reservedTransaction rx0 15).wf = false := by decide
theorem wf_bmkReservedOp : (Instr.bmkReservedOp (.unit .mu) 0 5).wf = true ∧ (Instr.bmkReservedOp (.unit .mu) 0 4).wf = false := by decide
theorem wf_clocks : (Instr.idleClockStop 0 31).wf = true ∧ (Instr.idleClockStop 0 32).wf = false ∧ (Instr.clockWake 0 32).wf = false := by decide
theorem wf_boot : (Instr.resetRelease { bootSeen with modules := List.replicate 16 { present := false, usable := false, capacityGB := 0, ranks := 0, maxSpeed := 0, spd := [], fastOk := true, trainOk := true } }).wf = true ∧
    (Instr.resetRelease bootSeen).wf = false ∧ (Instr.bootData 0 (List.replicate 255 0)).wf = true ∧ (Instr.bootData 0 (List.replicate 256 0)).wf = false := by decide +kernel
theorem wf_class : (Instr.nop (fwOrder 0)).wf = true ∧ (Instr.nop (fwOrder 1)).wf = false ∧ (Instr.drain 0 1 (.cmd (fwOrder 0))).wf = false ∧
    (Instr.bmkRead (.cmd (fwOrder 3)) 0).wf = true ∧ (Instr.bmkRead (.cmd (fwOrder 0)) 0).wf = false := by decide


/-! Worked examples and stated values of the spec -/

/-- 00_scope.md, two worked examples: the CU at 2:07:19 and the MU at 1:03:10. -/
theorem test_sites : siteIsCu 243 = true ∧ cuSite 121 = 243 ∧ siteIsCu 106 = false ∧ muSite 53 = 106 ∧ muBase 1 53 = 0x08004D400000 := by decide

/-- 02_number_formats.md, one 64-element group of G8E4 by G8I. -/
def exampleGroup : GAcc := (List.range 64).foldl (fun g k =>
  if k < 32 then g.addProduct (decElem .g8e4 0x3C) (decElem .g8i ((k + 240) % 256)) else g.addProduct (decElem .g8e4 0x98) (decElem .g8i 0x28)) {}
theorem test_groupProduct : groupBoundary 0 exampleGroup 0x36 0x3E000000 0x3A 0x3C23D70A = 0xBE119999 ∧
    groupBoundary 0x40000000 exampleGroup 0x36 0x3E000000 0x3A 0x3C23D70A = 0x3FEDCCCD := by decide +kernel

/-- 02_number_formats.md, a G8I block. -/
theorem test_quantiseBlock : (let b := quantBlock .g8i [[0x40400000, 0xBFA00000, 0x3D820000], [0x3CA3D70A, 0x3B656042], [0x42360000, 0xC0E00000, 0x3DCCCCCD], [0]]
    (b.s2, b.groups.map (·.s1), b.groups.map (·.es))) =
    (0x3A800000, [0x5D, 0x23, 0x7C, 0x00], [[0x76, 0xCF, 0x02], [0x77, 0x15], [0x79, 0xED, 0x00], [0]]) := by decide +kernel

/-- 10_adjustment_rule.md, AdamW at step 40,000, and groups 0 and 3 of the trust ratios. -/
def exampleRow : Cfg := { ({} : Cfg) with rules := [[0x0000086000FC449B, 0x3F6000003E000000, 0x3F7E00003E000000, 0x3F8000003C000000, 0x000000003F800000, 0x3D80000032000000,
  0x0000000000000000, 0x0000000041000000]] }
def exampleCoefs : Coefs := fun i => if i = 11 then 0x3A800000 else exampleRow.coef 0 i
theorem test_adamw : (let fl := rowFlags (exampleRow.ruleWord 0 0)
    let clip := clipFactor fl exampleCoefs 0x42000000
    let e := evalU fl exampleCoefs clip { w := 0x3F000000, m1 := 0x3E000000, m2 := 0x3D800000, gh := 0x41000000 }
    (clip, e.m1n, e.m2n, e.u, evalW exampleCoefs fpOne 0x3F000000 e.u)) = (0x3E800000, 0x3E100000, 0x3D800000, 0x3F180000, 0x3EFFB400) := by decide +kernel
def trustCoefs : Coefs := fun i => if i = 13 then 0x3D800000 else if i = 14 then 0x41200000 else if i = 15 then fpOne else exampleCoefs i
theorem test_trust : (let fl := rowFlags 0x00FC44BB
    [trustFactor fl trustCoefs 0x42400000 0x40400000, trustFactor fl trustCoefs 0 0x3F666666, trustFactor fl trustCoefs 0x3F800000 0x42800000,
     evalW trustCoefs 0x41200000 0x3F000000 0x3F180000]) = [0x41200000, fpOne, 0x3D800000, 0x3EFD0800] := by decide +kernel

/-- 12_external_memory.md, one region in memory group 1. -/
theorem test_dramRange : DramRange.map { kind := 1, gran := 12, chans := 0x00F0, base := 0x010000000000, len := 0x3000000000, local0 := 0 } 0x010002F42400 =
    (6, 0x00BD0400) := by decide
theorem test_planes : (regionPlanes (rowFlags 0x00FC449B) { regionOf { plat := 0xFF, words := [], bytes := [], sect := 0, ix := 0 } with elements := 6000000 } 0).2.2.2 =
    36106752 := by decide +kernel

/-- 06_preast_images.md, a loop order that needs 36 tiles. -/
theorem test_accTiles : walkList 0 0 {} ((List.range 36).map (fun i => { word := BitVec.ofNat 64 (i % 32) })) = some (Codes.accTiles, 32) := by decide +kernel

/-- 14_lumoux_links.md, one gradient segment: 9,216 bytes in 38 flits, to row 5,120 of MU 77 of plat 2. -/
theorem test_segment : flitsOf 9216 = 38 ∧ muBase 2 77 + 5120 * 512 = 0x080093680000 := by decide

/-- 09_benchmarks.md, a four-plat gather: the fourth add reaches the threshold, which advances; event 0x44 goes to site 170 of plat 3. -/
def gather : State := { running with bmks := [(49200, { count := 3, thr := 4, mode := 0x2440AA07 })] }
theorem test_gather : (match exec (.bmkAdd (.unit .mu) 49200 1) gather with
    | .next t => ((t.bmk 49200).count, (t.bmk 49200).thr, ((t.sw 3 170).inQ 2 0x09).link)
    | _ => (0, 0, [])) = (4, 8, [.c (mkC 0x44 0)]) ∧ blockAt 0x004C0300 = some (.bmk 49200, 0) := by decide +kernel

/-- 15_datum_and_commands.md, two orders in one tick: the firmware DRAIN of plat 2 is not schedulable; the host's was. -/
def drainOrder (act dl : Nat) (org : Origin) : Order := { fwOrder 1 with
  origin := org, desc := { targetClass := 1, target := 2, actTime := BitVec.ofNat 64 act, deadline := BitVec.ofNat 64 dl } }
def draining : State := { running with
  cfg := { running.cfg with timing := { entries := [{ opcode := opDrain.toNat, cls := 1, unitBytes := 0, base := 1048576, perUnit := 0, max := 1048576 }] } }
  dtm := { running.dtm with time := 10000000 } }
theorem test_orders : (draining.timing { opcode := opDrain, desc := (drainOrder 10500000 11600000 .host).desc } 0).toOption = some (10500000, 1048576) ∧
    earliestStart [(10500000, 11548576)] 10000065 1048576 = 11548576 := by decide +kernel

/-- R324: the CRC of the nine digits, the check value of the CRC-32 that the rule names. -/
theorem test_crc : crc32 (ascii "123456789") = 0xCBF43926 := by decide +kernel

/-- R478: GLB_ID over the SMBus. -/
theorem test_glbId : running.smbRead 0 = (0x0000000400209600, Codes.ok) := by decide +kernel

/-- R204: a count reaches a level ahead of it in the ring of 2^32, and R205: an add wraps. -/
theorem test_benchmarkWraps : reached 0x10 0xFFFFFFF0 = true ∧ reached 0xFFFFFFF0 0x10 = false ∧
    (match exec (.bmkAdd (.unit .mu) 0 2) { running with bmks := [(0, { count := 0xFFFFFFFF })] } with | .next t => (t.bmk 0).count | _ => 0) = 1 := by decide +kernel

/-- R364: the 65th notification is dropped and counted. -/
theorem test_noticesDrop : (let n : Notice := { index := 0, tag := 0, count := 0 }
    let s := ({ running with cmd := { running.cmd with notices := List.replicate 64 n } } : State).notify n
    (s.cmd.notices.length, s.cmd.dropped)) = (64, 1) := by decide +kernel

/-- R146, R387: START from HELD changes nothing, and its code shows; Idle does not follow Active. -/
theorem test_wrongState : (match exec (.start (.reg (.fw 0)) []) (inState .held) with | .next t => (t.img.state, t.img.code) | _ => (.loading, 0)) = (.held, Codes.refused) ∧
    (match exec .idle running with | .next t => (t.pwr.state, t.pwr.result) | _ => (.idle, 0)) = (.active, Codes.refused) := by decide +kernel

end Sys2Proof.Tests
end

section
/-! R6 and R7: the grid of sites of a plat, and the unit that a site holds. -/
namespace Sys2Proof.Machine

/-- R7 at the coordinates of R6: x is below 32, so y and x are the quotient and the remainder of the site index. -/
theorem siteIsCu_grid (y : Nat) {x : Nat} (hx : x < 32) :
    siteIsCu (32 * y + x) = decide ((y + x) % 2 = 0) := by
  have hdiv : (32 * y + x) / 32 = y := by omega
  have hmod : (32 * y + x) % 32 = x := by omega
  rw [siteIsCu, hdiv, hmod, Bool.eq_iff_iff, beq_iff_eq, decide_eq_true_iff]

@[simp] theorem siteIsCu_cuSite (n : Nat) : siteIsCu (cuSite n) = true := by
  rw [siteIsCu, beq_iff_eq, cuSite]
  split <;> omega

@[simp] theorem siteIsCu_muSite (n : Nat) : siteIsCu (muSite n) = false := by
  rw [siteIsCu, beq_eq_false_iff_ne, muSite]
  split <;> omega

theorem cuSite_shiftRight_one (n : Nat) : cuSite n >>> 1 = n := by
  rw [cuSite]
  split <;> omega

theorem muSite_shiftRight_one (n : Nat) : muSite n >>> 1 = n := by
  rw [muSite]
  split <;> omega

/-- Packing four fields, stated for any fields: unfolded at numerals, 2 ^ 24 sends the kernel into deep recursion. -/
theorem mkWord_four (w : Nat) (a b c d : Nat × Nat × Nat) :
    mkWord w [a, b, c, d] = BitVec.ofNat w
      (0 + a.2.2 % 2 ^ a.2.1 * 2 ^ a.1 + b.2.2 % 2 ^ b.2.1 * 2 ^ b.1 +
        c.2.2 % 2 ^ c.2.1 * 2 ^ c.1 + d.2.2 % 2 ^ d.2.1 * 2 ^ d.1) := rfl

/-- The layout of CU_ID and MU_ID (R79, R102): no field overflows its width. -/
theorem unitId_grid (p : Fin 4) (n : Fin 256) (y : Fin 16) (x : Fin 32) :
    unitId p n (32 * y.val + x.val) =
      BitVec.ofNat 64 (n.val + 256 * y.val + 65536 * x.val + 16777216 * p.val) := by
  have hdiv : (32 * y.val + x.val) / 32 = y.val := by omega
  have hmod : (32 * y.val + x.val) % 32 = x.val := by omega
  have hsum : 0 + n.val % 2 ^ 8 * 2 ^ 0 + y.val % 2 ^ 4 * 2 ^ 8 + x.val % 2 ^ 5 * 2 ^ 16 +
      p.val % 2 ^ 2 * 2 ^ 24 = n.val + 256 * y.val + 65536 * x.val + 16777216 * p.val := by omega
  rw [unitId, mkWord_four, hdiv, hmod, hsum]

theorem regValue_cuId (s : State) (p : Fin 4) (n : Fin 256) :
    s.regValue (.cu p n) 0x000 = some (unitId p n (cuSite n)) := rfl

theorem regValue_muId (s : State) (p : Fin 4) (n : Fin 256) :
    s.regValue (.mu p n) 0x000 = some (unitId p n (muSite n)) := rfl

/-- R6: a site whose unit number is below 256 lies on the grid of 16 rows of 32, and the ID of its unit shows where. -/
theorem exists_grid_of_unit (p : Fin 4) {n : Fin 256} {site : Nat} (hunit : site >>> 1 = n.val) :
    ∃ (y : Fin 16) (x : Fin 32), 32 * y.val + x.val = site ∧
      unitId p n site = BitVec.ofNat 64 (n.val + 256 * y.val + 65536 * x.val + 16777216 * p.val) := by
  have hy : site / 32 < 16 := by omega
  have hx : site % 32 < 32 := by omega
  have hsite : 32 * (site / 32) + site % 32 = site := Nat.div_add_mod site 32
  have hid := unitId_grid p n ⟨site / 32, hy⟩ ⟨site % 32, hx⟩
  rw [hsite] at hid
  exact ⟨⟨site / 32, hy⟩, ⟨site % 32, hx⟩, hsite, hid⟩

/-- Settles O52: the site of unit n is 2n or 2n + 1, which lies on the grid, and its ID register is packed from it. -/
theorem sitesAndUnitsOfAPlat : Obligations.SitesAndUnitsOfAPlat := by
  refine ⟨fun y x => siteIsCu_grid y.val x.isLt, fun s p n => ?cu, fun s p n => ?mu⟩
  case cu =>
    obtain ⟨y, x, hsite, hid⟩ := exists_grid_of_unit p (cuSite_shiftRight_one n)
    exact ⟨y, x, hsite ▸ siteIsCu_cuSite n, hsite ▸ cuSite_shiftRight_one n,
      (regValue_cuId s p n).trans (congrArg some hid)⟩
  case mu =>
    obtain ⟨y, x, hsite, hid⟩ := exists_grid_of_unit p (muSite_shiftRight_one n)
    exact ⟨y, x, hsite ▸ siteIsCu_muSite n, hsite ▸ muSite_shiftRight_one n,
      (regValue_muId s p n).trans (congrArg some hid)⟩

end Sys2Proof.Machine
end

section
/-! What the links, the command path and the benchmarks' waits leave alone: the image state, the configuration and the
units. -/
namespace Sys2Proof.Machine

/-- t is s but for free values drawn, messages, ports, links, orders, fault records, sessions and plats. -/
def SameUnits (s t : State) : Prop :=
  { t with out := s.out, free := s.free, ports := s.ports, lxg := s.lxg, cmd := s.cmd, flt := s.flt, sec := s.sec,
           drbg := s.drbg, plats := s.plats } = s

theorem SameUnits.refl (s : State) : SameUnits s s := rfl

theorem State.setLinks_sameUnits (s : State) (ports : SMap Port) (lxg : Lxg) :
    SameUnits s { s with ports := ports, lxg := lxg } := rfl

theorem State.setFree_sameUnits (s : State) (n : Nat) : SameUnits s { s with free := n } := rfl

theorem SameUnits.trans {r s t : State} (h : SameUnits r s) (k : SameUnits s t) : SameUnits r t := by
  have hk := congrArg (fun x : State =>
    { x with out := r.out, free := r.free, ports := r.ports, lxg := r.lxg, cmd := r.cmd, flt := r.flt, sec := r.sec,
             drbg := r.drbg, plats := r.plats }) k
  exact hk.trans h

theorem Reports.sameUnits {s t : State} (h : Reports s t) : SameUnits s t := by
  have hk := congrArg (fun x : State => { x with free := s.free, lxg := s.lxg, sec := s.sec, plats := s.plats }) h.same
  exact hk

theorem SameUnits.foldl {α : Type} (f : State → α → State) (h : ∀ s a, SameUnits s (f s a)) (l : List α) (s : State) :
    SameUnits s (l.foldl f s) := by
  induction l generalizing s with
  | nil => exact .refl s
  | cons a l ih => exact (h s a).trans (ih _)

section
variable {s t : State} (h : SameUnits s t)
include h
theorem SameUnits.img : t.img = s.img := by
  have e := congrArg State.img h; exact e
theorem SameUnits.cfg : t.cfg = s.cfg := by
  have e := congrArg State.cfg h; exact e
theorem SameUnits.cus : t.cus = s.cus := by
  have e := congrArg State.cus h; exact e
theorem SameUnits.mus : t.mus = s.mus := by
  have e := congrArg State.mus h; exact e
theorem SameUnits.sws : t.sws = s.sws := by
  have e := congrArg State.sws h; exact e
theorem SameUnits.dram : t.dram = s.dram := by
  have e := congrArg State.dram h; exact e
end

/-! Links -/

theorem State.passOn_sameUnits (s : State) (t : Trans) : SameUnits s (s.passOn t) := by
  unfold State.passOn
  split
  · exact (s.putOn_reports _ t).sameUnits
  · cases t.inPort <;> exact rfl

theorem State.unkeep_sameUnits (s : State) (t : Trans) : SameUnits s (s.unkeep t) := by
  unfold State.unkeep
  split
  · exact .refl s
  · exact (s.setPort_reports _ _).sameUnits

theorem State.retryHeld_sameUnits (s : State) : SameUnits s s.retryHeld := by
  unfold State.retryHeld
  exact (s.setLinks_sameUnits s.ports _).trans
    (SameUnits.foldl _ (fun s t => (s.unkeep_sameUnits t).trans (State.passOn_sameUnits _ t)) _ _)

theorem State.endSession_sameUnits (s : State) : SameUnits s s.endSession := by
  unfold State.endSession
  split
  · exact .refl s
  · split <;> exact rfl

theorem State.sendLinkstate_sameUnits (s : State) : SameUnits s s.sendLinkstate := by
  unfold State.sendLinkstate
  exact (s.setLinks_sameUnits s.ports _).trans (State.flood_reports _ none _).sameUnits

theorem State.leftSecure_sameUnits (s : State) : SameUnits s s.leftSecure :=
  s.sendLinkstate_sameUnits.trans s.sendLinkstate.endSession_sameUnits

theorem State.lostQuiet_sameUnits (s : State) (t : Trans) (c : Code) : SameUnits s (s.lostQuiet t c) :=
  (s.setLinks_sameUnits s.ports _).trans (State.logPort_reports (s.dropReq t) .stat c _).sameUnits

theorem State.redirect_sameUnits (s : State) (ts : List Trans) : SameUnits s (s.redirect State.lostQuiet ts) := by
  unfold State.redirect
  refine SameUnits.foldl _ (fun s t => ?_) ts s
  split
  · exact .refl s
  · split
    · have hsend := (s.trySend_reports t).sameUnits
      split
      next u heq => rw [heq] at hsend; exact hsend
      next u c heq => rw [heq] at hsend; exact hsend.trans (u.lostQuiet_sameUnits t c)
    · exact s.passOn_sameUnits t

theorem State.closePort_sameUnits (s : State) (n : Nat) : SameUnits s (s.closePort n State.lostQuiet) := by
  unfold State.closePort
  dsimp only
  refine SameUnits.trans ?_ (State.redirect_sameUnits _ _)
  split
  · exact (s.setLinks_sameUnits _ _).trans (State.leftSecure_sameUnits _)
  · exact s.setLinks_sameUnits _ _

theorem State.closeFenced_sameUnits (s : State) : SameUnits s s.closeFenced := by
  refine SameUnits.foldl _ (fun s n => ?_) _ s
  split
  · exact s.closePort_sameUnits n
  · exact .refl s

theorem State.bridgeLeft_sameUnits (s : State) : SameUnits s s.bridgeLeft := by
  refine SameUnits.foldl _ (fun s n => ?_) _ s
  dsimp only
  split
  · exact (((s.setPort_reports _ _).sameUnits.trans (State.leftSecure_sameUnits _)).trans
      (State.redirect_sameUnits _ _)).trans (State.logPort_reports _ _ _ _).sameUnits
  · exact .refl s

theorem State.tableNow_sameUnits (s : State) : SameUnits s s.tableNow := by
  unfold State.tableNow
  split
  · exact ((s.setLinks_sameUnits _ _).trans (State.bridgeLeft_sameUnits _)).trans (State.retryHeld_sameUnits _)
  · exact .refl s

theorem State.closeFenced_tableNow_sameUnits (s : State) : SameUnits s s.closeFenced.tableNow :=
  s.closeFenced_sameUnits.trans s.closeFenced.tableNow_sameUnits

/-! Waits and orders -/

theorem State.abandonWaits_sameUnits (s : State) : SameUnits s s.abandonWaits := by
  refine SameUnits.foldl _ (fun s p => ?_) _ s
  have hset : SameUnits s (s.setPlat p { s.plat p with waits := [] }) := rfl
  exact hset.trans (Reports.foldl _ (fun s _ => s.waitReply_reports _ _ 0) _ _).sameUnits

theorem State.abandonWaits_purgeArray_sameUnits (s : State) : SameUnits s s.abandonWaits.purgeArray :=
  s.abandonWaits_sameUnits.trans (s.abandonWaits.setLinks_sameUnits _ _)

/-- The end of an image operation shows its result and answers its order. -/
theorem State.imgEnd_sameUnits (s : State) (op : Nat) (code : Code) :
    ∃ i : Img, SameUnits { s with img := i } (s.imgEnd op code) :=
  ⟨_, (State.completeAll_reports _ _ _ _).sameUnits⟩

theorem State.endLoad_sameUnits (s : State) : ∃ i : Img, SameUnits { s with img := i } s.endLoad := by
  unfold State.endLoad
  dsimp only
  split
  · obtain ⟨i, h⟩ := State.imgEnd_sameUnits _ _ _
    exact ⟨i, (State.setFree_sameUnits { s with img := i } _).trans h⟩
  · split
    · obtain ⟨i, h⟩ := State.imgEnd_sameUnits _ _ _
      exact ⟨i, (State.setFree_sameUnits { s with img := i } _).trans h⟩
    · exact ⟨s.img, .refl s⟩

end Sys2Proof.Machine
end

section
/-! UNLOAD (R150). -/
namespace Sys2Proof.Machine

/-! The configuration is cleared -/

theorem State.clearConfig_cfg (s : State) : s.clearConfig.cfg = {} :=
  (State.closeFenced_tableNow_sameUnits _).cfg

theorem State.clearConfig_img (s : State) : s.clearConfig.img = { s.img with
    state := .held, loaded := false, partialBusy := false, partialMask := 0
    cfgId := List.replicate 64 0, fullId := List.replicate 64 0, layoutId := List.replicate 64 0
    stopAtBoundary := false, stopDrained := false } := by
  rw [← s.abandonWaits_purgeArray_sameUnits.img]
  exact (State.closeFenced_tableNow_sameUnits _).img

theorem State.clearConfig_cus (s : State) : s.clearConfig.cus = SMap.mapVals {} (fun _ c => c.halt) s.cus := by
  rw [← s.abandonWaits_purgeArray_sameUnits.cus]
  exact (State.closeFenced_tableNow_sameUnits _).cus

theorem State.clearConfig_mus (s : State) : s.clearConfig.mus = SMap.mapVals {} (fun _ m => m.halt) s.mus := by
  rw [← s.abandonWaits_purgeArray_sameUnits.mus]
  exact (State.closeFenced_tableNow_sameUnits _).mus

theorem State.clearConfig_sws (s : State) : s.clearConfig.sws = SMap.mapVals {} (fun _ w => w.halt) s.sws := by
  rw [← s.abandonWaits_purgeArray_sameUnits.sws]
  exact (State.closeFenced_tableNow_sameUnits _).sws

theorem State.clearConfig_dram (s : State) : s.clearConfig.dram = s.dram := by
  have hpurged := s.abandonWaits_purgeArray_sameUnits.dram
  unfold State.clearConfig
  generalize s.abandonWaits.purgeArray = t at hpurged ⊢
  exact (State.closeFenced_tableNow_sameUnits _).dram.trans hpurged

theorem Cu.halt_epoch (c : Cu) : fld c.halt.cfg 36 4 = 0 := fld_putFld c.cfg 36 4 0 (by decide)

/-! AU_RULE -/

theorem arrIx_none {base n o : Nat} (h : base + 8 * n ≤ o) : arrIx base n o = none := by
  rw [arrIx, if_neg (by simp only [Bool.and_eq_true, decide_eq_true_eq]; omega)]

theorem arrIx_some {base n i : Nat} (hi : i < n) (hb : base % 8 = 0) : arrIx base n (base + 8 * i) = some i := by
  rw [arrIx, if_pos (by simp only [Bool.and_eq_true, decide_eq_true_eq]; omega)]
  congr 1
  omega

theorem State.regValue_auRule {s : State} (h : s.img.state = .held) (g : Fin 4) (i : Fin 1024) :
    s.regValue (.au g) (0x8000 + 8 * i) = some 0 := by
  show s.auRead g (0x8000 + 8 * i) = some 0
  unfold State.auRead
  split
  case h_10 => rw [arrIx_none (by omega), arrIx_some i.isLt (by decide), h]; rfl
  all_goals omega

/-! The operation -/

theorem State.unloadOp_refused {s : State} (h : s.monBusy = true) : s.unloadOp = s.imgDone Codes.refused := by
  rw [State.unloadOp, if_pos h]

section
variable {s : State} (hbusy : s.monBusy = false)
include hbusy

/-- The state of the cleared configuration is named t: the rules below need not look into it. -/
theorem State.unloadOp_done : ∃ (t : State) (m : Mon), t = s.endLoad.clearConfig ∧
    s.unloadOp = State.imgDone { t with mon := m } Codes.ok := by
  rw [State.unloadOp, hbusy]
  exact ⟨_, _, rfl, rfl⟩

theorem State.unloadOp_code : s.unloadOp.2 = some Codes.ok := by
  obtain ⟨t, m, -, hop⟩ := State.unloadOp_done hbusy
  rw [hop]
  rfl

/-- What UNLOAD takes over from the cleared configuration, and the result that it shows (R155). -/
theorem State.unloadOp_fields : s.unloadOp.1.cfg = s.endLoad.clearConfig.cfg ∧ s.unloadOp.1.cus = s.endLoad.clearConfig.cus ∧
    s.unloadOp.1.mus = s.endLoad.clearConfig.mus ∧ s.unloadOp.1.sws = s.endLoad.clearConfig.sws ∧
    s.unloadOp.1.dram = s.endLoad.clearConfig.dram ∧ s.unloadOp.1.img = { s.endLoad.clearConfig.img with
      code := Codes.ok, check := 0, plat := 0xFF, section_ := 0xFFFF, item := 0 } := by
  obtain ⟨t, m, ht, hop⟩ := State.unloadOp_done hbusy
  rw [hop, ← ht]
  exact ⟨rfl, rfl, rfl, rfl, rfl, rfl⟩

theorem State.unloadOp_cfg : s.unloadOp.1.cfg = {} := by
  obtain ⟨hcfg, -⟩ := State.unloadOp_fields hbusy
  rw [hcfg, State.clearConfig_cfg]

theorem State.unloadOp_img : s.unloadOp.1.img = { s.endLoad.img with
    state := .held, loaded := false, partialBusy := false, partialMask := 0
    cfgId := List.replicate 64 0, fullId := List.replicate 64 0, layoutId := List.replicate 64 0
    stopAtBoundary := false, stopDrained := false
    code := Codes.ok, check := 0, plat := 0xFF, section_ := 0xFFFF, item := 0 } := by
  obtain ⟨-, -, -, -, -, himg⟩ := State.unloadOp_fields hbusy
  rw [himg, State.clearConfig_img]

theorem State.unloadOp_cu (hwf : SMap.wf {} s.cus = true) (p n : Nat) : s.unloadOp.1.cu p n = (s.cu p n).halt := by
  obtain ⟨-, hcus, -⟩ := State.unloadOp_fields hbusy
  obtain ⟨i, hend⟩ := s.endLoad_sameUnits
  rw [State.cu, hcus, State.clearConfig_cus, hend.cus, SMap.get_mapVals hwf _ _ (by decide), State.cu]

theorem State.unloadOp_mu (hwf : SMap.wf {} s.mus = true) (p n : Nat) : s.unloadOp.1.mu p n = (s.mu p n).halt := by
  obtain ⟨-, -, hmus, -⟩ := State.unloadOp_fields hbusy
  obtain ⟨i, hend⟩ := s.endLoad_sameUnits
  rw [State.mu, hmus, State.clearConfig_mus, hend.mus, SMap.get_mapVals hwf _ _ (by decide), State.mu]

theorem State.unloadOp_sw (hwf : SMap.wf {} s.sws = true) (p n : Nat) : s.unloadOp.1.sw p n = (s.sw p n).halt := by
  obtain ⟨-, -, -, hsws, -⟩ := State.unloadOp_fields hbusy
  obtain ⟨i, hend⟩ := s.endLoad_sameUnits
  rw [State.sw, hsws, State.clearConfig_sws, hend.sws, SMap.get_mapVals hwf _ _ (by decide), State.sw]

theorem State.unloadOp_dram : s.unloadOp.1.dram = s.dram := by
  obtain ⟨-, -, -, -, hdram, -⟩ := State.unloadOp_fields hbusy
  obtain ⟨i, hend⟩ := s.endLoad_sameUnits
  rw [hdram, State.clearConfig_dram, hend.dram]

end

theorem State.imgOp_unload {s : State} (h : s.img.state = .ready) (hp : s.pwr.state ≠ .idle) : s.imgOp 4 = s.unloadOp := by
  simp [State.imgOp, h, hp]

theorem imgEff_eq (w : CmdWord) (s : State) :
    imgEff w s = ((s.imgOp (w.payByte 0 % 8)).1, (s.imgOp (w.payByte 0 % 8)).2.map (fun c => { code := c })) := rfl

/-- The operation that the row of an IMAGE order names is the one its word holds (R362). -/
theorem payByte_rowOrder (o : Order) {op : Nat} (h : op < 8) :
    CmdWord.payByte { opcode := opImage, desc := (rowOrder o 0 0 3 op).desc } 0 % 8 = op := by
  have hput : fld (putFld o.desc.payload 0 3 op) 0 3 = op % 2 ^ 3 := fld_putFld o.desc.payload 0 3 op (by decide)
  show fld (putFld o.desc.payload 0 3 op) 0 8 % 8 = op
  simp only [fld] at hput ⊢
  omega

theorem exec_unload_reg {s : State} {path : Path} (ho : s.openFor path .glb) (h : s.img.state = .ready)
    (hp : s.pwr.state ≠ .idle) : exec (.unload (.reg path)) s = .next s.unloadOp.1 := by
  show execUnload (.reg path) s = _
  rw [execUnload, imgVia, State.writeBy_open ho, State.woken_glbBlock, State.imgOp_unload h hp]

theorem exec_unload_order {s u : State} {o r : Order} {c : Code} (hr : rowOrder o 0 0 3 4 = r) (ht : s.takesNow opImage r 0)
    (hu : s.started opImage r = u) (h : u.img.state = .ready) (hp : u.pwr.state ≠ .idle) (hc : u.unloadOp.2 = some c) :
    exec (.unload (.cmd o)) s = .next (u.unloadOp.1.complete (s.orderId opImage r) { code := c }) := by
  have hop : CmdWord.payByte { opcode := opImage, desc := r.desc } 0 % 8 = 4 := hr ▸ payByte_rowOrder o (by decide)
  show execUnload (.cmd o) s = _
  unfold execUnload imgVia
  dsimp only
  rw [hr, if_neg (by decide), State.cmdArrive_now ht, hu, imgEff_eq, hop, State.imgOp_unload h hp, hc]
  rfl

/-- Settles O55: a part that is busy with a monument stream shows REFUSED only; otherwise every unit halts, and what the
links and orders do after that leaves units, configuration and image state alone. -/
theorem unloadClearsTheConfiguration : Obligations.UnloadClearsTheConfiguration := by
  intro cleared hcleared
  have hdone : ∀ s : State, s.Inv → s.monBusy = false → cleared s s.unloadOp.1 := by
    rintro s ⟨⟨hcus, hmus, hsws, -⟩, -, -⟩ hbusy
    have himg := State.unloadOp_img hbusy
    have hheld : s.unloadOp.1.img.state = .held := by rw [himg]
    have hcu := State.unloadOp_cu hbusy hcus
    have hmu := State.unloadOp_mu hbusy hmus
    have hsw := State.unloadOp_sw hbusy hsws
    rw [hcleared]
    refine ⟨State.unloadOp_cfg hbusy, hheld, by rw [himg], fun p n => ?cu, fun p n => ?mu, fun p x => ?sw,
      State.regValue_auRule hheld, by rw [himg], by rw [himg], by rw [himg], fun p n => ?sram,
      by rw [State.unloadOp_dram hbusy]⟩
    case cu => rw [hcu]; exact ⟨rfl, Cu.halt_epoch _⟩
    case mu => rw [hmu]; exact ⟨rfl, rfl⟩
    case sw => rw [hsw]; exact ⟨rfl, rfl⟩
    case sram => rw [hmu]; rfl
  refine ⟨fun s path hinv hopen hready hpwr => ⟨fun hbusy => ?_, fun hbusy => ?_⟩,
    fun s u o r hr ht hu hinv hready hpwr => ⟨fun hbusy => ?_, fun hbusy => ?_⟩⟩
  · rw [exec_unload_reg hopen hready hpwr, State.unloadOp_refused hbusy]
    rfl
  · exact ⟨_, exec_unload_reg hopen hready hpwr, hdone s hinv hbusy⟩
  · have hcode : u.unloadOp.2 = some Codes.refused := by rw [State.unloadOp_refused hbusy]; rfl
    rw [exec_unload_order hr ht hu hready hpwr hcode, State.unloadOp_refused hbusy]
    rfl
  · exact ⟨_, exec_unload_order hr ht hu hready hpwr (State.unloadOp_code hbusy), hdone u hinv hbusy⟩

end Sys2Proof.Machine
end

section
/-! R275: where an address of a DRAM range lies. -/
namespace Sys2Proof.Machine

/-- The numbers below n that meet p, in ascending order: place i holds the one that i of them precede. -/
theorem length_filter_range_getElem (p : Nat → Bool) {n i : Nat} (hi : i < ((List.range n).filter p).length) :
    ((List.range ((List.range n).filter p)[i]).filter p).length = i := by
  induction n with
  | zero => exact absurd hi (Nat.not_lt_zero i)
  | succ n ih =>
    have hsplit : (List.range (n + 1)).filter p = (List.range n).filter p ++ [n].filter p := by
      rw [List.range_succ, List.filter_append]
    simp only [hsplit] at hi ⊢
    by_cases hlow : i < ((List.range n).filter p).length
    · rw [List.getElem_append_left hlow]
      exact ih hlow
    · have hlast := hi
      rw [List.length_append] at hlast
      have hone : ([n].filter p).length ≤ 1 := List.length_filter_le p [n]
      have hplace : i = ((List.range n).filter p).length := by omega
      have hval : ([n].filter p)[i - ((List.range n).filter p).length] = n :=
        List.mem_singleton.mp (List.mem_filter.mp (List.getElem_mem _)).1
      rw [List.getElem_append_right (Nat.le_of_not_lt hlow), hval]
      exact hplace.symm

theorem DramRange.mem_chanList {r : DramRange} {ch : Nat} :
    ch ∈ r.chanList ↔ ch < 16 ∧ r.chans.testBit ch = true := by
  rw [DramRange.chanList, List.mem_filter, List.mem_range]

theorem DramRange.map_channel (r : DramRange) (a : Nat)
    (hk : (a - r.base) / 2 ^ r.gran % r.chanList.length < r.chanList.length) :
    (r.map a).1 = r.chanList[(a - r.base) / 2 ^ r.gran % r.chanList.length] := by
  show r.chanList.getD _ 0 = _
  rw [List.getD_eq_getElem?_getD, List.getElem?_eq_getElem hk, Option.getD_some]

/-- The local address in the shifts and masks of R275; the model writes it in powers of two. -/
theorem DramRange.map_local (r : DramRange) (a : Nat) :
    (r.map a).2 = r.local0 + (((a - r.base) / 2 ^ r.gran / r.chanList.length) <<< r.gran) +
      ((a - r.base) &&& (2 ^ r.gran - 1)) := by
  rw [Nat.shiftLeft_eq, Nat.and_two_pow_sub_one_eq_mod]
  rfl

/-- Settles O54: the channel stands at place gi mod c of the ascending list of the mask's set bits, so that many set bits
are below it. -/
theorem dramRangeMapping : Obligations.DramRangeMapping := by
  rintro r a c gi - - hcount hpos rfl
  have hlen : r.chanList.length = c := hcount
  subst hlen
  have hk := Nat.mod_lt ((a - r.base) / 2 ^ r.gran) hpos
  have hchan := r.map_channel a hk
  obtain ⟨hlt, hbit⟩ : (r.map a).1 < 16 ∧ r.chans.testBit (r.map a).1 = true :=
    DramRange.mem_chanList.mp (hchan ▸ List.getElem_mem hk)
  refine ⟨hlt, hbit, ?below, r.map_local a⟩
  case below =>
    rw [hchan]
    exact length_filter_range_getElem (fun i => r.chans.testBit i) hk

end Sys2Proof.Machine
end

section
/-! R364: where a notification goes, and what CMD_NOTIFY_POP takes. -/
namespace Sys2Proof.Machine

section
variable {s : State} (n : Notice)

/-- With en set, a CPL to the host endpoint in the low bits of CMD_NOTIFY; the queue takes nothing. -/
theorem State.notify_toHost (hen : bitOf s.cmd.notify 12 = true) :
    s.notify n = s.send {
      src := s.ownSrc, dst := BitVec.ofNat 16 (0x8000 + fld s.cmd.notify 0 12), tag := 0,
      body := .cpl {
        status := Codes.ok, opcode := 0xFFFF, slot := 0xFFFF,
        value := mkWord 64 [(0, 16, n.index), (16, 8, n.tag), (32, 32, n.count.toNat)] } } := by
  rw [State.notify, if_pos hen]

theorem State.notify_queued (hen : bitOf s.cmd.notify 12 = false) (hroom : s.cmd.notices.length < 64) :
    s.notify n = { s with cmd := { s.cmd with notices := s.cmd.notices ++ [n] } } := by
  rw [State.notify, if_neg (ne_true_of_eq_false hen), if_pos hroom]

theorem State.notify_dropped (hen : bitOf s.cmd.notify 12 = false) (hfull : 64 ≤ s.cmd.notices.length) :
    s.notify n = { s with cmd := { s.cmd with dropped := satAdd 7 s.cmd.dropped 1 } } := by
  rw [State.notify, if_neg (ne_true_of_eq_false hen), if_neg (Nat.not_lt.mpr hfull)]

end

theorem exec_notifyPop {s : State} (hopen : s.blockGated .cmd = false) : exec .notifyPop s = .next (notifyPop s) := by
  show execNotifyPop s = _
  rw [execNotifyPop, State.atBlock_open hopen, State.woken_cmdBlock]

theorem notifyPop_notices (s : State) : (notifyPop s).cmd.notices = s.cmd.notices.drop 1 := rfl

theorem notifyPop_out (s : State) : (notifyPop s).out = s.out ++ [.value s.cmd.popWord] := rfl

/-- Settles O56: en and the room in the queue choose the branch of a notification, and a pop at the open command block
drops the head of the queue. -/
theorem notificationsGoToHostOrQueue : Obligations.NotificationsGoToHostOrQueue := by
  refine ⟨fun s n => State.notify_toHost n, fun s n => State.notify_queued n, fun s n => State.notify_dropped n,
    fun s n ns hopen hqueue => ⟨notifyPop s, exec_notifyPop hopen, ?oldestGone, notifyPop_out s⟩⟩
  case oldestGone =>
    rw [notifyPop_notices, hqueue, List.drop_one, List.tail_cons]

end Sys2Proof.Machine
end

section
/-! R474: an access of another size than 8 bytes, a misaligned one and one above bit 47 reach no register. -/
namespace Sys2Proof.Machine

/-! No register lies at the address: each access is REFUSED and leaves the state, and a read shows 0. -/

theorem State.register_eq_none {a : W64} (s : State) (haddr : a.toNat % 8 ≠ 0 ∨ 2 ^ 48 ≤ a.toNat) :
    s.register a = none := by
  have hout : ¬(decide (a.toNat < 2 ^ 48) && decide (a.toNat % 8 = 0)) = true := by
    simp only [Bool.and_eq_true, decide_eq_true_eq]
    omega
  rw [State.register, if_neg hout]

section
variable {s : State} {a : W64} (hreg : s.register a = none)
include hreg

theorem State.readReg_noRegister : s.readReg a = (0, Codes.refused, s) := by
  rw [State.readReg, hreg]

theorem State.writeReg_noRegister (w : Who) (v : W64) : s.writeReg w a v = (s, Codes.refused) := by
  rw [State.writeReg, hreg]

theorem State.smbRead_noRegister : s.smbRead a = (0, Codes.refused) := by
  rw [State.smbRead, hreg]

end

/-! The accesses that R474 refuses, by each path. -/

section
variable {a : W64} {size : Nat} (hbad : size ≠ 8 ∨ a.toNat % 8 ≠ 0 ∨ 2 ^ 48 ≤ a.toNat)
include hbad

theorem registerWrite_refused {s : State} {path : Path} (hopen : s.pathOpen path = true) (v : W64) :
    registerWrite path a size v s = s.emit (.code Codes.refused) := by
  unfold registerWrite
  rw [hopen, Bool.not_true, if_neg Bool.false_ne_true]
  obtain hsize | haddr := hbad
  · rw [if_pos hsize]
  · simp only [State.writeReg_noRegister (s.register_eq_none haddr)]
    cases path <;> exact ite_self _

theorem readClear_refused {s : State} {path : Path} (hopen : s.pathOpen path = true) :
    readClear path a size s = (s.emit (.code Codes.refused)).emit (.value 0) := by
  unfold readClear
  rw [hopen, Bool.not_true, if_neg Bool.false_ne_true]
  obtain hsize | haddr := hbad
  · rw [if_pos hsize]
  · have hreg := s.register_eq_none haddr
    simp only [State.readReg_noRegister hreg, State.smbRead_noRegister hreg]
    cases path <;> exact ite_self _

/-- The answer is the only thing that a refused transaction leaves beside its arrival (R332). -/
theorem mgmtRead_refused {s : State} {rx : Rx} (htakes : s.takes rx (mgmtBody false { addr := a, size := size } 0)) :
    mgmtRead rx { addr := a, size := size } s =
      (s.taken rx (mgmtBody false { addr := a, size := size } 0)).respond (s.headerOf rx) 0x0B Codes.refused 0 := by
  rw [mgmtRead, State.take_here htakes]
  obtain hsize | haddr := hbad
  · rw [if_pos hsize]
  · rw [State.readReg_noRegister (State.register_eq_none _ haddr), ite_self]

theorem mgmtWrite_refused {s : State} {rx : Rx} {v : W64}
    (htakes : s.takes rx (mgmtBody true { addr := a, size := size } v)) :
    mgmtWrite rx { addr := a, size := size } v s =
      (s.taken rx (mgmtBody true { addr := a, size := size } v)).respond (s.headerOf rx) 0x0B Codes.refused := by
  rw [mgmtWrite, State.take_here htakes]
  obtain hsize | haddr := hbad
  · rw [if_pos hsize]
  · rw [State.writeReg_noRegister (State.register_eq_none _ haddr), ite_self]

end

/-- Settles O53: no register lies at a misaligned address or above bit 47, and every path checks the size before it looks
for the register. -/
theorem misalignedAccessesAreRefused : Obligations.MisalignedAccessesAreRefused := by
  refine ⟨fun s path a size v hbad hopen => ⟨?write, ?read⟩,
    fun s u rx a v size hbad => ⟨fun htakes htaken => ?mgmtRead, fun htakes htaken => ?mgmtWrite⟩⟩
  case write => exact congrArg Host.Outcome.next (registerWrite_refused hbad hopen v)
  case read => exact congrArg Host.Outcome.next (readClear_refused hbad hopen)
  case mgmtRead => exact htaken ▸ congrArg Host.Outcome.next (mgmtRead_refused hbad htakes)
  case mgmtWrite => exact htaken ▸ congrArg Host.Outcome.next (mgmtWrite_refused hbad htakes)

end Sys2Proof.Machine
end

section
/-! Every step: what it runs, what it keeps, and that it never stops. -/
namespace Sys2Proof.Machine

/-! What a step runs -/

theorem step_of_pending {s : State} {c : Instr} {rest : List Instr} (h : s.pending = c :: rest) :
    step s = exec c { s with pending := rest } := by
  rw [step, h]

theorem step_of_idle {s : State} (h : s.pending = []) : step s = .next (tick s) := by
  rw [step, h]

/-- Settles O1: the queue is not empty, so step takes its first branch. -/
theorem frontCommandRunsWithTheRest : Obligations.FrontCommandRunsWithTheRest :=
  fun _ _ _ => step_of_pending rfl

/-- Every command has a next state: each meaning is the next state of a function. -/
theorem exec_next (c : Instr) (s : State) : ∃ t, exec c s = .next t := by
  cases c <;> exact ⟨_, rfl⟩

/-- Settles O48: the two branches of step are a tick and the meaning of a command, and both have a next state. -/
theorem everyStepGoesOn : Obligations.EveryStepGoesOn := by
  refine ⟨fun s => ?_, exec_next⟩
  cases hq : s.pending with
  | nil => exact ⟨tick s, step_of_idle hq⟩
  | cons c rest =>
    obtain ⟨t, ht⟩ := exec_next c { s with pending := rest }
    exact ⟨t, (step_of_pending hq).trans ht⟩

/-- What a step keeps, with the front of the queue taken: the state it is held against is s itself without that front, or
s whose protected records a start-up has read (R430). -/
theorem step_keeps_before {s t : State} (h : step s = .next t) :
    (s.pending = [] ∧ Keeps s t) ∨
    ∃ c rest, s.pending = c :: rest ∧ Keeps (({ s with pending := rest } : State).before c) t := by
  cases hq : s.pending with
  | nil =>
    rw [step_of_idle hq] at h
    obtain rfl := Host.Outcome.next.inj h
    exact .inl ⟨rfl, tick_keeps (.refl s)⟩
  | cons c rest => exact .inr ⟨c, rest, rfl, step_keeps hq h⟩

/-! The tick of an idle part -/

theorem State.setPlls_pll (s : State) (f : Pll → Pll) (d : Fin 25) : (s.setPlls f).pll d = f (s.pll d) := by
  have hfold : ∀ (l : List Nat) (m : SMap Pll), l.Nodup →
      SMap.get .unlocked (l.foldl (fun m d => SMap.set .unlocked m d (f (SMap.get .unlocked m d))) m) d.val =
        if d.val ∈ l then f (SMap.get .unlocked m d.val) else SMap.get .unlocked m d.val := by
    intro l
    induction l with
    | nil => intro m _; rfl
    | cons a l ih =>
      intro m hnodup
      obtain ⟨ha, hl⟩ := List.nodup_cons.mp hnodup
      rw [List.foldl_cons, ih _ hl, SMap.get_set]
      by_cases hd : d.val = a
      · subst hd
        simp [ha]
      · simp [hd]
  exact (hfold _ _ List.nodup_range).trans (if_pos (List.mem_range.mpr d.isLt))

theorem tick_awake {s : State} (h : s.nvm.phase ≠ 0) :
    tick s = { s with
      dtm := s.dtm.tick, pwr := { s.pwr with moving := false }
      clk := { s.clk with
        pll := (s.setPlls (fun p => if p == .gliding then .coasting else p)).clk.pll, stopped := s.wakeBusy.clk.stopped }
      flt := if s.flt.stepState = .failed then { s.flt with stepState := .quiescing } else s.flt } := by
  simp only [tick, if_neg h, State.wakeBusy, State.setPlls, beq_iff_eq]
  split <;> rfl

/-- Settles O2: the tick changes four groups of fields of a part out of reset, each as its own function says. -/
theorem emptyQueueIsOneTick : Obligations.EmptyQueueIsOneTick := by
  refine fun s hq => ⟨step_of_idle hq, fun h => by rw [tick, if_pos h], fun h => ?_⟩
  rw [tick_awake h]
  refine ⟨rfl, rfl, fun d => ?plls, rfl, rfl, rfl⟩
  case plls =>
    have hpll := s.setPlls_pll (fun p => if p == .gliding then .coasting else p) d
    simp only [State.pll, beq_iff_eq] at hpll ⊢
    exact hpll

/-! The invariant and the output -/

theorem State.Inv.keeps {r t : State} (h : r.Inv) (k : Keeps r t) : t.Inv := by
  obtain ⟨⟨hcus, hmus, hsws, hplats, hbmks, haus, hports, hmem, hbuf, hsram⟩, hbuffer, hnotices⟩ := h
  exact ⟨⟨k.cus hcus, k.mus hmus, k.sws hsws, k.plats hplats, k.bmks hbmks, k.aus haus, k.ports hports, k.mem hmem,
    k.buf hbuf, k.sram hsram⟩, k.buffer hbuffer, k.notices hnotices⟩

theorem State.Inv.before {s : State} (h : s.Inv) (c : Instr) : (s.before c).Inv := by
  obtain e | ⟨b, -, e⟩ := s.before_eq c
  · rwa [e]
  · obtain ⟨⟨hcus, hmus, hsws, hplats, hbmks, haus, hports, hmem, hbuf, hsram⟩, hbuffer, hnotices⟩ := h
    rw [e]
    exact ⟨⟨hcus, hmus, hsws, hplats, hbmks, haus, hports, hmem, (Sec.loadRecords_buf _ _).symm ▸ hbuf, hsram⟩,
      hbuffer, hnotices⟩

/-- Settles O46: every array is empty after reset, and so are the two buffers. -/
theorem resetStateMeetsInv : Obligations.ResetStateMeetsInv :=
  ⟨⟨rfl, rfl, rfl, rfl, rfl, rfl, rfl, rfl, rfl, fun _ he => absurd he List.not_mem_nil⟩, Nat.zero_le _, Nat.zero_le _⟩

/-- Settles O47: what a step keeps of the state it is held against includes each part of the invariant. -/
theorem stepKeepsInv : Obligations.StepKeepsInv := by
  intro s t hinv hstep
  obtain ⟨-, hk⟩ | ⟨c, rest, -, hk⟩ := step_keeps_before hstep
  · exact hinv.keeps hk
  · have hrest : ({ s with pending := rest } : State).Inv := hinv
    exact (hrest.before c).keeps hk

/-- Settles O49: reading the protected records touches neither queue nor output. -/
theorem stepTakesOneCommandAndOnlyAddsOutput : Obligations.StepTakesOneCommandAndOnlyAddsOutput := by
  intro s t hstep
  obtain ⟨hq, hk⟩ | ⟨c, rest, hq, hk⟩ := step_keeps_before hstep
  · exact ⟨by rw [hk.pending, hq]; rfl, hk.out, hk.free⟩
  · have hsame : ∀ u : State, (u.before c).pending = u.pending ∧ (u.before c).out = u.out ∧ (u.before c).free = u.free := by
      intro u
      obtain e | ⟨b, -, e⟩ := u.before_eq c <;> rw [e] <;> exact ⟨rfl, rfl, rfl⟩
    obtain ⟨hpending, hout, hfree⟩ := hsame { s with pending := rest }
    refine ⟨by rw [hk.pending, hpending, hq]; rfl, ?_, hfree ▸ hk.free⟩
    have hkout := hk.out
    rwa [hout] at hkout

/-! Anti-rollback counters (R430, R448) -/

theorem State.before_svns {s : State} {n : Nat} (h : s.sec.svnsHeld n) {c : Instr}
    (hgood : ∀ b, c = .resetRelease b → (3, false) ∉ b.mram.badRecords ∧ (3, true) ∉ b.mram.badRecords) :
    (s.before c).sec.svns = s.sec.svns := by
  obtain e | ⟨b, hc, e⟩ := s.before_eq c
  · rw [e]
  · obtain ⟨h0, h1⟩ := hgood b hc
    rw [e]
    exact Sec.loadRecords_svns h h0 h1

/-- No counter falls between two states, in the terms of their four values. -/
theorem Keeps.svns_le {r t : State} (h : Keeps r t) {v : Svns} (hv : r.sec.svns = v) :
    v.fsf.toNat ≤ t.sec.fsfSvn.toNat ∧ v.pcf.toNat ≤ t.sec.pcfSvn.toNat ∧ v.img.toNat ≤ t.sec.imgSvn.toNat ∧
      v.fwkeyMin.toNat ≤ t.sec.fwkeyMin.toNat := by
  subst hv
  exact ⟨h.fsf, h.pcf, h.img, h.key⟩

theorem resetSec_svnsHeld : State.reset.sec.svnsHeld 2 := by
  refine ⟨fun c hc => ?_, fun c hc => ?_, fun c hc => ?_⟩ <;> cases hc <;> decide

/-- The copy that is left is the one a start-up reads. -/
theorem Sec.loadRecords_svns_of_one {x : Sec} {bad : List (Fin 4 × Bool)} {a c : W64 × Svns} (hpuf : x.puf = true)
    (h0 : x.mram.svns.copy0 = some a) (h1 : x.mram.svns.copy1 = some c) :
    ((3, false) ∈ bad → (3, true) ∉ bad → (x.loadRecords bad).svns = c.2) ∧
      ((3, false) ∉ bad → (3, true) ∈ bad → (x.loadRecords bad).svns = a.2) := by
  constructor <;> intro hb0 hb1 <;>
    simp [Sec.loadRecords, Sec.svns, hpuf, SecMram.seen, Copies.keep, Copies.newer, h0, h1, hb0, hb1]

/-- Settles O50: the counters only rise against the state whose records have been read, and reading undamaged records
leaves the counters. -/
theorem antiRollbackCountersNeverDecrease : Obligations.AntiRollbackCountersNeverDecrease := by
  refine ⟨resetSec_svnsHeld, fun s t n hn hheld hstep => ?held, fun s t n hheld hgood hstep => ?rise,
    fun x bad a c hpuf h0 h1 => Sec.loadRecords_svns_of_one hpuf h0 h1, fun s t b v hphase hexec hv => ?start⟩
  case held =>
    obtain ⟨-, hk⟩ | ⟨c, rest, -, hk⟩ := step_keeps_before hstep
    · exact hk.held n hn hheld
    · have hrest : ({ s with pending := rest } : State).sec.svnsHeld n := hheld
      exact hk.held n hn (State.before_held hrest c)
  case rise =>
    obtain ⟨-, hk⟩ | ⟨c, rest, hq, hk⟩ := step_keeps_before hstep
    · exact hk.svns_le rfl
    · have hrest : ({ s with pending := rest } : State).sec.svnsHeld n := hheld
      refine hk.svns_le (State.before_svns hrest fun b hc => hgood b ?_)
      rw [hq, hc]
      rfl
  case start =>
    refine (exec_keeps hexec).svns_le ?_
    rw [← hv]
    simp only [State.before, State.recordsRead, hphase, ne_eq, not_true_eq_false, if_false]

end Sys2Proof.Machine
end

section
/-! Compute units: the matrix engine and the vector pipeline. -/
namespace Sys2Proof.Machine

/-! The scrub of one accumulator word (R63) -/

section
variable {s : State} {p n t : Nat}

theorem State.scrubWord_ce (ht : ((s.cu p n).tile t).st = .held ∨ ((s.cu p n).tile t).st = .retiring) :
    s.scrubWord p n t .ce =
      (s.setCu p n ({ s.cu p n with accCe := (s.cu p n).accCe + 1 }.flag 6)).raiseCu .corr Codes.accCorrected p n := by
  obtain ht | ht := ht <;> simp [State.scrubWord, ht]

theorem State.scrubWord_ue_held (ht : ((s.cu p n).tile t).st = .held) :
    s.scrubWord p n t .ue = (s.setCu p n
      (((s.cu p n).setTile t { (s.cu p n).tile t with poison := true }).flag 1)).raiseCu .cont Codes.accUncorrectable p n := by
  simp [State.scrubWord, ht]

theorem State.scrubWord_ue_retiring (ht : ((s.cu p n).tile t).st = .retiring) :
    s.scrubWord p n t .ue = (s.setCu p n
      ((((s.cu p n).setTile t { (s.cu p n).tile t with poison := true }).flag 1).poisonSets t)).raiseCu .cont
        Codes.accUncorrectable p n := by
  simp [State.scrubWord, ht]

/-- A unit whose clock runs in a loaded part scrubs the words of a row in turn. -/
theorem accumulatorScrub_clocked (himg : s.img.state ≠ .held) (hclk : s.cuClocked p n = true) (errs : List (Nat × EccKind)) :
    accumulatorScrub p n errs s = errs.foldl (fun s e => s.scrubWord p n e.1 e.2) s := by
  simp [accumulatorScrub, himg, hclk]

end

/-- Settles O3: each command's premises name the branch of its meaning that is taken. -/
theorem matrixEngineCommandsComplete : Obligations.MatrixEngineCommandsComplete := by
  refine ⟨fun s p n e x y hlive hop hrun hengine hx hy hxbad hybad => congrArg Host.Outcome.next ?kStep,
    fun s p n d hlive hrun hop hengine hin hdesc hset htile => congrArg Host.Outcome.next ?operationStart,
    fun s p n t hlive hmem hfail => congrArg Host.Outcome.next ?comparison,
    fun s p n q qs hlive hreadout hsets hcomplete hcompared hout => congrArg Host.Outcome.next ?setReadout,
    fun s p n q hreadout hlive hout => congrArg Host.Outcome.next ?readoutComplete,
    fun s p n t w himg hclk ht => ⟨congrArg Host.Outcome.next ?corrected,
      fun hheld => congrArg Host.Outcome.next ?uncorrectableHeld,
      fun hret => congrArg Host.Outcome.next ?uncorrectableRetiring, congrArg Host.Outcome.next ?clean⟩⟩
  case kStep => simp [kStep, hlive, hop, hrun, hengine, hx, hy, hxbad, hybad]
  case operationStart =>
    have hempty : ((s.cu p n).inA.isEmpty && (s.cu p n).inB.isEmpty) = false := by
      rcases hin with h | h
      · rw [List.isEmpty_eq_false_iff.mpr h, Bool.false_and]
      · rw [List.isEmpty_eq_false_iff.mpr h, Bool.and_false]
    cases hcont : d.cont <;> simp [tileOperationStart, hlive, hop, hrun, hengine, hempty, hdesc, hset, htile, hcont]
  case comparison => simp [checksumComparison, hlive, hmem, hfail]
  case setReadout =>
    have hall : q.tiles.all q.compared.contains = true := by simpa using hcompared
    simp only [retireSetReadout, hlive, hreadout, hsets, hcomplete, hall, hout]
    simp
  case readoutComplete => simp [readoutComplete, hreadout, hlive, hout]
  case corrected => exact (accumulatorScrub_clocked himg hclk _).trans (State.scrubWord_ce ht)
  case uncorrectableHeld => exact (accumulatorScrub_clocked himg hclk _).trans (State.scrubWord_ue_held hheld)
  case uncorrectableRetiring => exact (accumulatorScrub_clocked himg hclk _).trans (State.scrubWord_ue_retiring hret)
  case clean => exact accumulatorScrub_clocked himg hclk []

/-- Settles O4: a token that decodes well enters its stream; a scalar of the row's tag finds P free. -/
theorem vectorPipelineCommandsComplete : Obligations.VectorPipelineCommandsComplete := by
  refine ⟨fun s p n t ts r hlive hop hout hin hr hbad => congrArg Host.Outcome.next ?streamX,
    fun s p n t ts r hlive hop hout hin hrun hr hbad => congrArg Host.Outcome.next ?streamY,
    fun s p n t ts hlive hop hrun hin hp htag => congrArg Host.Outcome.next ?scalar⟩
  case streamX =>
    subst hr
    simp only [rowStreamToken, hlive, hop, hout, hin, Bool.not_true, bne_self_eq_false, Bool.or_self, Bool.false_eq_true,
      if_false]
    exact if_neg (ne_true_of_eq_false hbad)
  case streamY =>
    subst hr
    simp only [rowStreamToken, hlive, hop, hout, hin, beq_false_of_ne hrun, Bool.not_true, bne_self_eq_false, Bool.or_self,
      Bool.false_eq_true, if_false, if_true]
    exact if_neg (ne_true_of_eq_false hbad)
  case scalar => simp [scalarInputArrival, hlive, hop, hrun, hin, hp, htag]

end Sys2Proof.Machine
end

section
/-! Memory units: the narrow view, the address generators, segments, queues, row commands and the row scrubber. -/
namespace Sys2Proof.Machine

theorem State.awake_of_muClocked {s : State} {p n : Nat} (h : s.muClocked p n = true) : s.awake = true := by
  simp only [State.muClocked, Bool.and_eq_true] at h
  exact h.1.1

@[simp] theorem State.strikes_nil (s : State) : s.strikes [] = s := rfl

/-- Settles O5: the gate is checked before size and alignment, these before the word is read or stored. -/
theorem narrowViewReadsAndWrites : Obligations.NarrowViewReadsAndWrites := by
  refine ⟨fun s p n off hclk hoff hecc htag => congrArg Host.Outcome.next ?read,
    fun s p n off b bad t hclk hoff hue hread => congrArg Host.Outcome.next ?readDamaged,
    fun s p n off v hclk hoff hfree => congrArg Host.Outcome.next ?write,
    fun s p n off size v hclk hbad => ⟨congrArg Host.Outcome.next ?readRefused, congrArg Host.Outcome.next ?writeRefused⟩,
    fun s p n off size v hawake hclk => ⟨congrArg Host.Outcome.next ?readGated, congrArg Host.Outcome.next ?writeGated⟩⟩
  case read => simp [narrowRead, s.awake_of_muClocked hclk, hclk, hoff, State.muRead_clean _ _ _ _ _ _ hecc htag, hecc]
  case readDamaged => simp [narrowRead, s.awake_of_muClocked hclk, hclk, hoff, hread, hue]
  case write =>
    obtain hfree | hfree := hfree <;> simp [narrowWrite, s.awake_of_muClocked hclk, hclk, hoff, hfree]
  case readRefused =>
    obtain hbad | hbad := hbad <;> simp [narrowRead, s.awake_of_muClocked hclk, hclk, hbad]
  case writeRefused =>
    obtain hbad | hbad := hbad <;> simp [narrowWrite, s.awake_of_muClocked hclk, hclk, hbad, Mu.flag]
  case readGated => simp [narrowRead, hawake, hclk]
  case writeGated => simp [narrowWrite, hawake, hclk]

/-! Address generators -/

/-- Whether a generator may start does not depend on the control events that wait. -/
theorem State.mayStart_setEvents (s : State) (p n a : Nat) (ts : List Nat) :
    (s.setMu p n { s.mu p n with events := ts }).mayStart p n a = s.mayStart p n a := by
  have hwalk : ∀ b, (s.setMu p n { s.mu p n with events := ts }).mayWalk p n b = s.mayWalk p n b := by
    intro b
    simp only [State.mayWalk, State.mu_setMu]
    rfl
  simp only [State.mayStart, hwalk, State.mu_setMu]
  rfl

/-- The generator that alone listens to a tag is the one a control event of that tag reaches. -/
theorem Mu.tagged_eq {m : Mu} {t : Nat} {a : Fin 4}
    (h : ∀ b : Fin 4, ((m.ag b).words ≠ [] ∧ (m.ag b).startTag = t) ↔ b = a) : m.tagged t = [a.val] := by
  have hhit : (List.range 4).filter (fun b => !(m.ag b).words.isEmpty && (m.ag b).startTag == t) = [a.val] := by
    have hb : ∀ b : Fin 4, (!(m.ag b).words.isEmpty && (m.ag b).startTag == t) = decide (b = a) := fun b => by
      rw [Bool.eq_iff_iff, decide_eq_true_iff, ← h b]
      simp
    have h0 := hb 0; have h1 := hb 1; have h2 := hb 2; have h3 := hb 3
    simp only [Fin.val_zero, Fin.val_one, Fin.val_two, show (3 : Fin 4).val = 3 from rfl] at h0 h1 h2 h3
    simp only [show List.range 4 = [0, 1, 2, 3] from rfl, List.filter_cons, List.filter_nil, h0, h1, h2, h3]
    clear h hb h0 h1 h2 h3
    revert a
    decide
  unfold Mu.tagged
  dsimp only
  rw [hhit]
  cases hpop : m.isPop a.val <;> simp [hpop]

/-- Settles O6: each command's premises name the branch of its meaning that is taken. -/
theorem generatorCommandsComplete : Obligations.GeneratorCommandsComplete := by
  refine ⟨fun s p n a t ts hev hlive htag => ⟨fun hmay hpend => congrArg Host.Outcome.next ?start,
      fun hmay hpend => congrArg Host.Outcome.next ?counted⟩,
    fun s p n a hmay hpend => congrArg Host.Outcome.next ?pendingStart,
    fun s p n a line ups hlive hbusy hidx hkind hline => congrArg Host.Outcome.next ?address,
    fun s p n a line hlive hbusy hidx hkind hline hpath hwrite hdead hholds hroom hecc htag =>
      congrArg Host.Outcome.next ?directRead,
    fun s p n a hlive hbusy hidx hsegs hparked => congrArg Host.Outcome.next ?walkEnd,
    fun s p n r hlive hfail hwin hkind hfreed hbatch => congrArg Host.Outcome.next ?credit⟩
  case start =>
    have hroom : (s.mu p n).eventRoom t = true := by simp [Mu.eventRoom, Mu.tagged_eq htag, hpend]
    have hag : ({ s.mu p n with events := ts } : Mu).ag a = (s.mu p n).ag a := rfl
    simp [generatorStartEvent, hev, hlive, hroom, Mu.tagged_eq htag, State.mayStart_setEvents, hmay, hag, hpend]
  case counted =>
    have hroom : (s.mu p n).eventRoom t = true := by simp [Mu.eventRoom, Mu.tagged_eq htag, hpend]
    have hag : ({ s.mu p n with events := ts } : Mu).ag a = (s.mu p n).ag a := rfl
    simp [generatorStartEvent, hev, hlive, hroom, Mu.tagged_eq htag, State.mayStart_setEvents, hmay, hag]
  case pendingStart => simp [pendingWalkStart, hmay, hpend]
  case address =>
    simp only [generatorAddress, hlive, hbusy, Nat.not_le.mpr hidx, hkind, hline]
    rfl
  case directRead =>
    simp [generatorAddress, State.directRead, hlive, hbusy, Nat.not_le.mpr hidx, hkind, hline, hpath, hwrite, hdead, hholds,
      hroom, State.muRead_clean _ _ _ _ _ _ hecc htag]
  case walkEnd =>
    have hseg : (s.mu p n).segs.any (fun x => x.gen == some a.val) = false := by simpa using hsegs
    have hpark : ((s.mu p n).reg ((s.mu p n).ag a).region).parked.any (fun x => x.gen == some a.val) = false := by
      simpa using hparked
    simp [walkEnd, hlive, hbusy, Nat.not_lt.mpr hidx, hseg, hpark]
  case credit =>
    refine if_pos ?_
    simp [hlive, hfail, hwin, hkind, hfreed]
    exact hbatch

/-! Row commands -/

/-- The rows of a COPY are read one after the other from memory that nothing has damaged. -/
theorem State.copyRows_clean {s : State} {p n : Nat} (hecc : (s.mu p n).ecc = []) (htag : (s.mu p n).tagEcc = [])
    (src : Nat) (l : List Nat) (rows : List (List Byte × Bool)) :
    l.foldl (fun (acc : List (List Byte × Bool) × State) i =>
        let (bs, bad, s) := acc.2.muRead p n (512 * (src + i)) 512
        (acc.1 ++ [(bs, bad)], s)) (rows, s) =
      (rows ++ l.map (fun i => ((s.mu p n).sram.read (512 * (src + i)) 512, (s.mu p n).rowPoison (src + i))), s) := by
  induction l generalizing rows with
  | nil => simp
  | cons i l ih =>
    rw [List.foldl_cons, State.muRead_row s p n _ _ hecc htag]
    dsimp only
    rw [ih, List.map_cons, List.append_assoc, List.singleton_append]

/-- Settles O7: the checks of each command come before its effect, in the order of its premises. -/
theorem rowSegmentAndQueueCommandsComplete : Obligations.RowSegmentAndQueueCommandsComplete := by
  refine ⟨fun s u p n x xs back hsegs hlive hu hback => ?segment,
    fun s u p n r x ts hfind hlive hts => congrArg Host.Outcome.next ?parked,
    fun s p n k r t ts hq hin hlive hfull => congrArg Host.Outcome.next ?queueIn,
    fun s p n k r hq hlive hempty hroom => congrArg Host.Outcome.next ?queueOut,
    fun s p n dst rows byEvent hclk href => congrArg Host.Outcome.next ?fill,
    fun s p n dst src rows byEvent hclk href hheld hecc htag => congrArg Host.Outcome.next ?copy,
    fun s p n hcmd hclk => congrArg Host.Outcome.next ?done,
    fun s p n hclk hecc htag => congrArg Host.Outcome.next ?scrub,
    fun s p n hclk => congrArg Host.Outcome.next ?late⟩
  case segment =>
    have hreg : (u.mu p n).reg x.region = (s.mu p n).reg x.region := by rw [← hu, State.mu_setMu]; rfl
    have hrun : accumulateSegment p n s = (u.segAccept p n x).getD s := by
      simp only [accumulateSegment, hsegs, hlive, hu, Bool.not_true, Bool.false_eq_true, if_false]
      cases u.segAccept p n x <;> rfl
    have hb : ∀ t : State, (if x.gen.isNone = true then t.freeRows p n x.region x.parkNeed else t) = back t := by
      intro t
      rw [hback]
      cases x.gen <;> rfl
    have haccept : u.segAccept p n x =
        if ((s.mu p n).reg x.region).orderBad x then some ((back u).raiseMu Codes.accumOrder p n x.region (some 3))
        else if ((s.mu p n).reg x.region).orderReady x then some (back (u.segApply p n x))
        else if ((s.mu p n).reg x.region).parkFree.length < x.parkNeed then none else some (u.parkSegment p n x) := by
      simp only [State.segAccept, hreg, hb]
    refine ⟨fun hbad => congrArg Host.Outcome.next (hrun.trans ?_),
      fun hbad hready => congrArg Host.Outcome.next (hrun.trans ?_),
      fun hbad hready hroom => congrArg Host.Outcome.next (hrun.trans ?_),
      fun hbad hready hroom => congrArg Host.Outcome.next (hrun.trans ?_)⟩
    · simp [haccept, hbad]
    · simp [haccept, hbad, hready]
    · simp [haccept, hbad, hready, Nat.not_lt.mpr hroom]
    · simp [haccept, hbad, hready, hroom]
  case parked =>
    simp only [parkedSegmentApply, hfind, hlive, hts, Bool.not_true, Bool.false_eq_true, if_false, Option.isNone_iff_eq_none]
  case queueIn => simp [queueTokenIn, hq, hin, hlive, hfull]
  case queueOut => simp [queueTokenOut, hq, hlive, hempty, hroom]
  case fill =>
    have hheld : s.copyHeld p n { copy := false, dst := dst.toNat, src := 0, rows := rows.toNat } = false := by
      simp [State.copyHeld]
    have hrows : ∀ row : List Byte, List.replicate rows.toNat (row, false) =
        (List.replicate rows.toNat row).map (fun row => (row, false)) := fun row => by
      rw [List.map_replicate]
    simp only [State.rowCommand, State.awake_of_muClocked hclk, hclk, href, hheld, hrows, List.zipIdx_map, List.foldl_map,
      Bool.not_true, Bool.and_false, Bool.false_eq_true, if_false]
    rfl
  case copy =>
    have hgo : (byEvent && s.copyHeld p n { copy := true, dst := dst.toNat, src := src.toNat, rows := rows.toNat }) = false := by
      cases byEvent with
      | false => rfl
      | true => exact hheld rfl
    simp only [State.rowCommand, State.awake_of_muClocked hclk, hclk, href, hgo, State.copyRows_clean hecc htag]
    simp
  case done => simp [rowCommandDone, Option.isSome_iff_ne_none, hcmd, hclk]
  case scrub =>
    have hcheck : ∀ l : List Nat, l.foldl (fun s' i => State.muCheck s' p n (512 * (16 * (s.mu p n).scrubRow + i)) 512 .scrub) s = s := by
      intro l
      induction l with
      | nil => rfl
      | cons i l ih => rw [List.foldl_cons, State.muCheck_clean _ _ _ _ _ _ hecc htag, ih]
    simp [scrubRow, hclk, hcheck]
  case late => simp [scrubLate, hclk]

end Sys2Proof.Machine
end

section
/-! The backsight stash: walks, spills and refills of frames. -/
namespace Sys2Proof.Machine

/-- The rows of a frame are read one after the other from memory that nothing has damaged. -/
theorem State.frameRows_clean {s : State} {p n : Nat} (hecc : (s.mu p n).ecc = []) (htag : (s.mu p n).tagEcc = [])
    (rows : List Nat) (bytes : List Byte) :
    rows.foldl (fun (acc : List Byte × State) row =>
        (acc.1 ++ (acc.2.muRead p n (512 * row) 512).1, (acc.2.muRead p n (512 * row) 512).2.2)) (bytes, s) =
      (bytes ++ rows.flatMap (fun row => (s.mu p n).sram.read (512 * row) 512), s) := by
  induction rows generalizing bytes with
  | nil => simp
  | cons row rows ih =>
    rw [List.foldl_cons, State.muRead_row s p n _ _ hecc htag]
    dsimp only
    rw [ih, List.flatMap_cons, List.append_assoc]

/-- Settles O8: each walk, spill and refill takes the branch that its premises name. -/
theorem stashCommandsComplete : Obligations.StashCommandsComplete := by
  refine ⟨fun s u p n a ups g reg hg hreg hu hlive hbusy hidx hkind hwrite hinput => ?push,
    fun s u p n a ups g reg take bad hg hreg hu hlive hbusy hidx hkind hwrite hlink htake hbad => ?pop,
    fun s t p n r ups x fr bad reg hreg hruns hkind hwait hspill hneeds hmoves hres ht hframe => ?spill,
    fun s t p n r ups x fr reg hreg hruns hkind hreserve hpop hpush hmoves hres ht hfree => ?refill⟩
  case push =>
    refine ⟨fun hmb => congrArg Host.Outcome.next ?_, fun hmb hroom => congrArg Host.Outcome.next ?_,
      fun t fr bad hmb hroom ht hframe => ⟨fun hres => congrArg Host.Outcome.next ?_,
        fun x hres => congrArg Host.Outcome.next ?_⟩⟩ <;>
      simp only [pushWalk, hg, hreg, hu, hlive, hbusy, hkind, hwrite, Nat.not_le.mpr hidx, Nat.not_lt.mpr hinput]
    · simp [hmb]
    · simp [Nat.not_le.mpr hmb, hroom]
    · simp [Nat.not_le.mpr hmb, Nat.not_le.mpr hroom, ht, hframe, hres]
    · simp [Nat.not_le.mpr hmb, Nat.not_le.mpr hroom, ht, hframe, hres]
  case pop =>
    subst htake hbad
    refine ⟨fun hwait => congrArg Host.Outcome.next ?_, fun href => ⟨fun hheld hlo hover => congrArg Host.Outcome.next ?_,
      fun hheld hover => congrArg Host.Outcome.next ?_, fun hheld hover => congrArg Host.Outcome.next ?_,
      fun bytes rowBad hheld hover hups hecc htag hbytes hrowBad => ?_⟩⟩
    · simp only [popWalk, hg, hreg, hu, hlive, hbusy, hkind, hwrite, Nat.not_le.mpr hidx, hlink]
      obtain hwait | ⟨hheld, hlo, hover⟩ := hwait
      · simp [hwait]
      · simp [hheld, hlo, hover]
    · simp only [popWalk, hg, hreg, hu, hlive, hbusy, hkind, hwrite, Nat.not_le.mpr hidx, hlink, href]
      simp [hheld, hlo, hover]
    · simp only [popWalk, hg, hreg, hu, hlive, hbusy, hkind, hwrite, Nat.not_le.mpr hidx, hlink, href]
      simp [hheld, hover]
    · simp only [popWalk, hg, hreg, hu, hlive, hbusy, hkind, hwrite, Nat.not_le.mpr hidx, hlink, href]
      simp [Nat.not_lt.mpr hheld, hover]
    · subst hups
      obtain rfl : s = u := hu
      have hread := State.frameRows_clean hecc htag
        ((List.range (frameRows g.frameTokens)).map (fun i => reg.stashRow (reg.hi - frameRows g.frameTokens + i))) []
      rw [List.flatMap_map, hbytes, List.nil_append] at hread
      have hrows : ((List.range (frameRows g.frameTokens)).map
          (fun i => reg.stashRow (reg.hi - frameRows g.frameTokens + i))).map (s.mu p n).rowPoison = rowBad := by
        rw [List.map_map]
        exact hrowBad
      refine ⟨fun hmatch => congrArg Host.Outcome.next ?_, fun hmatch => congrArg Host.Outcome.next ?_⟩ <;>
        simp only [popWalk, hg, hreg, State.strikes_nil, hlive, hbusy, hkind, hwrite, Nat.not_le.mpr hidx, hlink, href,
          hread, hrows, Nat.not_lt.mpr hheld, hover, hmatch]
      · simp
      · simp
  case spill =>
    refine ⟨fun hbad hfr hheld hlen => congrArg Host.Outcome.next ?_, fun hbad => congrArg Host.Outcome.next ?_⟩ <;>
      simp only [stashSpill, hreg, hruns, hkind, hwait, hspill, Nat.not_le.mpr hneeds, hmoves, hres, ht, hframe]
    · simp [hbad, Nat.ne_of_gt hfr, Nat.not_lt.mpr hheld, Nat.not_lt.mpr hlen]
    · obtain hbad | hbad | hbad := hbad <;> simp [hbad]
  case refill =>
    refine ⟨fun hlo => congrArg Host.Outcome.next ?_, fun hlo => congrArg Host.Outcome.next ?_⟩ <;>
      simp only [stashRefill, hreg, hruns, hkind, hpop, hpush, hmoves, hres, ht, Nat.not_lt.mpr hfree]
    · simp [hreserve, Nat.not_lt.mpr hlo]
    · simp [hreserve, hlo]

end Sys2Proof.Machine
end

section
/-! The traverse: tokens in the switches, the deadlock detector, and drains. -/
namespace Sys2Proof.Machine

/-- Settles O9: each command's premises name the branch of its meaning that is taken. -/
theorem switchCommandsComplete : Obligations.SwitchCommandsComplete := by
  refine ⟨fun s p x net c flips t u ts hlink hmove hgate hrun hmay hjudge => congrArg Host.Outcome.next ?pass,
    fun s p x net c flips t ts hlink hmove hgate hrun hmay hjudge => congrArg Host.Outcome.next ?stale,
    fun s t' p x net c flips t ts o hlink hmove hgate hrun hmay hjudge ht' => congrArg Host.Outcome.next ?parity,
    fun s p x net c ready bad q t ts outs hq hhead houts hmove hgate hrun hne hfree => congrArg Host.Outcome.next ?departure,
    fun s p x net c hfull hmove => congrArg Host.Outcome.next ?blocked,
    fun s p cycle vp vs net c hen hmove hseen hvictim => ⟨fun hspill => congrArg Host.Outcome.next ?spill,
      fun hspill => congrArg Host.Outcome.next ?spilling⟩,
    fun s p q x net c rest hen hmove hseen hvictim => congrArg Host.Outcome.next ?exhausted,
    fun s p x hspill hempty => congrArg Host.Outcome.next ?spillEnd⟩
  case pass => simp [tokenArrival, hlink, hmove, hgate, hrun, hmay, hjudge]
  case stale => 
    simp [tokenArrival, hlink, hmove, hgate, hrun, hmay, hjudge]
    rfl
  case parity =>
    subst ht'
    simp [tokenArrival, hlink, hmove, hgate, hrun, hmay, hjudge]
    rfl
  case departure =>
    have hmoves : ((s.sw p x).run == .running || (s.sw p x).run == .draining) = true := by simpa using hrun
    have hall : outs.all (s.destFree p ready t) = true := by simpa using hfree
    simp only [tokenDeparture, hq, hhead, houts, hmove, hgate, hmoves, List.isEmpty_eq_false_iff.mpr hne, hall]
    simp
  case blocked => simp [queueBlocked, hfull, hmove]
  case spill =>
    simp [deadlockResolution, hen, hmove, hseen, hvictim, hspill]
    rfl
  case spilling => simp [deadlockResolution, hen, hmove, hseen, hvictim, Option.isSome_iff_ne_none, hspill]
  case exhausted => simp [deadlockResolution, hen, hmove, hseen, hvictim]
  case spillEnd => simp [spillEnd, Option.isSome_iff_ne_none, hspill, hempty]

/-! Drains by register and by order (R122, R123, R362) -/

/-- The 64-bit word that a row puts at the start of its order's payload is the order's first word. -/
theorem payWord_rowOrder (o : Order) (op : W16) (target v : Nat) :
    CmdWord.payWord { opcode := op, desc := (rowOrder o target 0 64 v).desc } 0 = BitVec.ofNat 64 v := by
  have hput : fld (putFld o.desc.payload 0 64 v) (64 * 0) 64 = v % 2 ^ 64 := fld_putFld o.desc.payload 0 64 v (by decide)
  show BitVec.ofNat 64 (fld (putFld o.desc.payload 0 64 v) (64 * 0) 64) = _
  rw [hput]
  apply BitVec.eq_of_toNat_eq
  simp

theorem drainEff_rowOrder (u : State) (o : Order) (p : Fin 4) (v : Nat) :
    drainEff { opcode := opDrain, desc := (rowOrder o p 0 64 v).desc } u =
      ((u.drainWord p (BitVec.ofNat 64 v)).1, (u.drainWord p (BitVec.ofNat 64 v)).2.map (fun c => { code := c })) := by
  have htarget : (rowOrder o p 0 64 v).desc.target.toNat = p := by
    show (BitVec.ofNat 16 p.val).toNat = _
    rw [BitVec.toNat_ofNat]
    omega
  unfold drainEff
  dsimp only
  rw [htarget, if_neg (by omega), payWord_rowOrder]

/-- The operation of a DRAIN word stands in its low two bits, the mask in bits 31 to 16 (R362). -/
theorem fld_drainWord (mask : W16) {k : Nat} (hk : k < 4) :
    fld (BitVec.ofNat 64 (k + mask.toNat * 65536)) 0 2 = k ∧
      BitVec.ofNat 16 (fld (BitVec.ofNat 64 (k + mask.toNat * 65536)) 16 16) = mask := by
  have hmask := mask.isLt
  rw [fld_ofNat _ _ _ (by decide), fld_ofNat _ _ _ (by decide)]
  refine ⟨by omega, BitVec.eq_of_toNat_eq ?_⟩
  rw [BitVec.toNat_ofNat]
  omega

theorem State.drainWord_drain (u : State) (p : Nat) (mask : W16) :
    u.drainWord p (BitVec.ofNat 64 (mask.toNat * 65536)) = u.drainOrder p mask := by
  obtain ⟨hop, hm⟩ := fld_drainWord mask (k := 0) (by decide)
  rw [Nat.zero_add] at hop hm
  simp only [State.drainWord, hop, hm]

theorem State.drainWord_resume (u : State) (p : Nat) (mask : W16) :
    u.drainWord p (BitVec.ofNat 64 (1 + mask.toNat * 65536)) =
      ((u.resumeOrder p mask).1, some (u.resumeOrder p mask).2) := by
  obtain ⟨hop, hm⟩ := fld_drainWord mask (k := 1) (by decide)
  simp only [State.drainWord, hop, hm]

section
variable {s : State} {p : Nat} {mask : W16}

theorem State.drainOrder_begins (hne : mask ≠ 0) (hfree : mask &&& ((s.plat p).draining ||| (s.plat p).drained) = 0) :
    s.drainOrder p mask = ((s.beginDrain p mask).drainCode p Codes.ok, none) := by
  rw [State.drainOrder]
  rw [hfree, if_neg (by decide), if_neg hne]

theorem State.drainOrder_none (h0 : mask = 0) : s.drainOrder p mask = (s.drainCode p Codes.ok, some Codes.ok) := by
  subst h0
  rw [State.drainOrder]
  rw [show (0 : W16) &&& _ = 0 from BitVec.zero_and, if_neg (by decide), if_pos rfl]

theorem State.drainOrder_refused (hbusy : mask &&& ((s.plat p).draining ||| (s.plat p).drained) ≠ 0) :
    s.drainOrder p mask = (s.drainCode p Codes.refused, some Codes.refused) := by
  rw [State.drainOrder]
  rw [if_pos (bne_iff_ne.mpr hbusy)]

theorem State.resumeOrder_opens (hdrained : mask &&& ~~~(s.plat p).drained = 0) (hfree : mask &&& s.replacing p = 0) :
    s.resumeOrder p mask = ((s.reopen p mask).drainCode p Codes.ok, Codes.ok) := by
  rw [State.resumeOrder, hdrained, hfree, if_neg (by decide)]

theorem State.resumeOrder_refused (hbad : mask &&& ~~~(s.plat p).drained ≠ 0 ∨ mask &&& s.replacing p ≠ 0) :
    s.resumeOrder p mask = (s.drainCode p Codes.refused, Codes.refused) := by
  rw [State.resumeOrder, if_pos]
  simpa only [Bool.or_eq_true, bne_iff_ne] using hbad

end

/-! The sites of a drain that is over -/

/-- One site of a completed drain stands still, its unit with it. -/
def State.drainSite (s : State) (p i : Nat) : State :=
  let s := s.setSw p i { s.sw p i with run := .drained }
  if siteIsCu i then
    (let c := s.cu p (i / 2)
     if c.run == .live then s.setCu p (i / 2) { c with run := .drained } else s)
  else
    (let m := s.mu p (i / 2)
     if m.run == .live then s.setMu p (i / 2) { m with run := .drained } else s)

theorem State.drainSite_sw (s : State) (p i x : Nat) :
    (s.drainSite p i).sw p x = (s.setSw p i { s.sw p i with run := .drained }).sw p x := by
  unfold State.drainSite
  dsimp only
  split <;> split <;> rfl

theorem State.drainSite_run (s : State) (p i x : Nat) :
    ((s.drainSite p i).sw p x).run = if x = i then .drained else (s.sw p x).run := by
  rw [State.drainSite_sw]
  by_cases hx : x = i
  · subst hx
    simp
  · have hkey : siteKey p x ≠ siteKey p i := by simpa [siteKey] using hx
    rw [State.sw_setSw_ne _ _ _ _ _ _ hkey, if_neg hx]

theorem State.foldl_drainSite_run (p x : Nat) (l : List Nat) (s : State) :
    ((l.foldl (fun s i => s.drainSite p i) s).sw p x).run = if x ∈ l then .drained else (s.sw p x).run := by
  induction l generalizing s with
  | nil => rfl
  | cons i l ih =>
    rw [List.foldl_cons, ih, State.drainSite_run]
    by_cases hx : x = i <;> by_cases hl : x ∈ l <;> simp [hx, hl]

theorem drainComplete_eq {s : State} {p : Nat} {mask : W16} (hof : s.drainOf p mask = true)
    (hsites : ∀ x ∈ s.sitesOf p mask, s.siteQuiet p x = true ∧ s.siteClosed p x = true) :
    ∃ (x : Plat) (f : W16 → Bool), x.drained = (s.plat p).drained ||| mask ∧
      x.draining = (s.plat p).draining &&& ~~~mask ∧ drainComplete p mask s =
      (((s.sitesOf p mask).foldl (fun s i => s.drainSite p i) s).setPlat p x).completeDrains p Codes.ok f := by
  have hall : (s.sitesOf p mask).all (fun i => s.siteQuiet p i && s.siteClosed p i) = true := by simpa using hsites
  refine ⟨_, _, ?_, ?_, if_neg ?_⟩
  case refine_3 =>
    rw [hof, hall]
    decide
  all_goals rfl

/-- Settles O10: the word of the order is what the register takes; a completed drain changes its sites, then its plat. -/
theorem drainsRunAndComplete : Obligations.DrainsRunAndComplete := by
  refine ⟨fun s p mask path hopen => ?drainReg, fun s u p mask o r hr ht hu => ?drainCmd,
    fun s p mask path hopen => ?resumeReg, fun s u p mask o r hr ht hu => ?resumeCmd,
    fun s p mask hof hsites => ?complete, fun s u w p mask late hof hlate hne hu hw => ?timeout⟩
  case drainReg =>
    have hrun : drain p mask (.reg path) s = ((s.woken (.trv p)).drainOrder p mask).1 := by
      rw [drain, State.writeBy_open hopen]
    rw [← State.woken_plat s (.trv p)]
    refine ⟨fun hne hfree => congrArg Host.Outcome.next ?_, fun h0 => congrArg Host.Outcome.next ?_,
      fun hbusy => congrArg Host.Outcome.next ?_⟩ <;> refine hrun.trans ?_
    · rw [State.drainOrder_begins hne hfree]
    · rw [State.drainOrder_none h0]
    · rw [State.drainOrder_refused hbusy]
  case drainCmd =>
    have hrun : drain p mask (.cmd o) s = (match (u.drainOrder p mask).2 with
        | some c => (u.drainOrder p mask).1.complete (s.orderId opDrain r) { code := c }
        | none => (u.drainOrder p mask).1) := by
      rw [drain]
      rw [hr, State.cmdArrive_now ht, hu, ← hr, drainEff_rowOrder, State.drainWord_drain]
      cases (u.drainOrder p mask).2 <;> rfl
    refine ⟨fun h0 => congrArg Host.Outcome.next ?_, fun hne hfree => congrArg Host.Outcome.next ?_,
      fun hbusy => congrArg Host.Outcome.next ?_⟩ <;> refine hrun.trans ?_
    · rw [State.drainOrder_none h0]
    · rw [State.drainOrder_begins hne hfree]
    · rw [State.drainOrder_refused hbusy]
  case resumeReg =>
    have hrun : resume p mask (.reg path) s = ((s.woken (.trv p)).resumeOrder p mask).1 := by
      rw [resume, State.writeBy_open hopen]
    have hrep : (s.woken (.trv p)).replacing p = s.replacing p := by rw [State.replacing, State.woken_img]; rfl
    rw [← hrep, ← State.woken_plat s (.trv p)]
    refine ⟨fun hdrained hfree => congrArg Host.Outcome.next ?_, fun hbad => congrArg Host.Outcome.next ?_⟩ <;>
      refine hrun.trans ?_
    · rw [State.resumeOrder_opens hdrained hfree]
    · rw [State.resumeOrder_refused hbad]
  case resumeCmd =>
    have hrun : resume p mask (.cmd o) s =
        (u.resumeOrder p mask).1.complete (s.orderId opDrain r) { code := (u.resumeOrder p mask).2 } := by
      rw [resume]
      rw [hr, State.cmdArrive_now ht, hu, ← hr, drainEff_rowOrder, State.drainWord_resume]
      rfl
    refine ⟨fun hdrained hfree => congrArg Host.Outcome.next ?_, fun hbad => congrArg Host.Outcome.next ?_⟩ <;>
      refine hrun.trans ?_
    · rw [State.resumeOrder_opens hdrained hfree]
    · rw [State.resumeOrder_refused hbad]
  case complete =>
    obtain ⟨x, f, hdrained, hdraining, hrun⟩ := drainComplete_eq hof hsites
    have hreports := Reports.foldl (fun s (h : Held) => s.complete h.id { code := Codes.ok })
      (fun s h => s.complete_reports h.id _)
    refine ⟨_, congrArg Host.Outcome.next hrun, ?_, ?_, fun i hi => ?_⟩
    · rw [State.completeDrains, (hreports _ _).plat, State.plat_setPlat, hdrained]
    · rw [State.completeDrains, (hreports _ _).plat, State.plat_setPlat, hdraining]
    · rw [State.completeDrains, (hreports _ _).sw, State.sw_of_setPlat, State.foldl_drainSite_run, if_pos hi]
  case timeout =>
    have hrun : drainTimeout p mask s = if w.img.state == .stopping && !w.stepFailed then w.enterFailed else w := by
      subst hlate hu hw
      rw [drainTimeout]
      dsimp only
      rw [hof, if_neg (by simpa only [decide_eq_true_eq, Bool.not_true, Bool.or_false] using hne)]
    refine ⟨fun hstay => congrArg Host.Outcome.next (hrun.trans ?_), fun hstop hfail => congrArg Host.Outcome.next (hrun.trans ?_)⟩
    · obtain hstay | hstay := hstay <;> simp [hstay]
    · simp [hstop, hfail]

end Sys2Proof.Machine
end

section
/-! What damage to memory leaves alone: everything but the units' memories, DRAM and the free values drawn. -/
namespace Sys2Proof.Machine

/-- t is s but for the units' memories, DRAM and the free values drawn. -/
def Struck (s t : State) : Prop := { t with free := s.free, mus := s.mus, dram := s.dram } = s

theorem State.strikeWord_struck (s : State) (p n w : Nat) (e : EccKind) : Struck s (s.strikeWord p n w e) := by
  unfold State.strikeWord
  dsimp only
  split <;> exact rfl

theorem State.strikeBurst_struck (s : State) (c b w r d : Nat) : Struck s (s.strikeBurst c b w r d) := by
  unfold State.strikeBurst
  dsimp only
  repeat' split
  all_goals exact rfl

theorem State.strike_struck (s : State) (u : Upset) : Struck s (s.strike u) := by
  cases u with
  | muWord => exact s.strikeWord_struck _ _ _ _
  | muTag => exact rfl
  | burst => exact s.strikeBurst_struck _ _ _ _ _

theorem State.strikes_struck (s : State) (ups : List Upset) : Struck s (s.strikes ups) := by
  induction ups generalizing s with
  | nil => exact rfl
  | cons u ups ih =>
    have hk := congrArg (fun x : State => { x with free := s.free, mus := s.mus, dram := s.dram }) (ih (s.strike u))
    exact hk.trans (s.strike_struck u)

section
variable (s : State) (ups : List Upset)
@[simp] theorem State.strikes_img : (s.strikes ups).img = s.img := by
  have e := congrArg State.img (s.strikes_struck ups); exact e
@[simp] theorem State.strikes_cfg : (s.strikes ups).cfg = s.cfg := by
  have e := congrArg State.cfg (s.strikes_struck ups); exact e
@[simp] theorem State.strikes_adj : (s.strikes ups).adj = s.adj := by
  have e := congrArg State.adj (s.strikes_struck ups); exact e
@[simp] theorem State.strikes_aus : (s.strikes ups).aus = s.aus := by
  have e := congrArg State.aus (s.strikes_struck ups); exact e
@[simp] theorem State.strikes_plats : (s.strikes ups).plats = s.plats := by
  have e := congrArg State.plats (s.strikes_struck ups); exact e
@[simp] theorem State.strikes_mon : (s.strikes ups).mon = s.mon := by
  have e := congrArg State.mon (s.strikes_struck ups); exact e
@[simp] theorem State.strikes_pwr : (s.strikes ups).pwr = s.pwr := by
  have e := congrArg State.pwr (s.strikes_struck ups); exact e
@[simp] theorem State.strikes_flt : (s.strikes ups).flt = s.flt := by
  have e := congrArg State.flt (s.strikes_struck ups); exact e
@[simp] theorem State.strikes_plat (p : Nat) : (s.strikes ups).plat p = s.plat p := by rw [State.plat, State.strikes_plats]; rfl
@[simp] theorem State.strikes_au (g : Nat) : (s.strikes ups).au g = s.au g := by rw [State.au, State.strikes_aus]; rfl
end

end Sys2Proof.Machine
end

section
/-! Image operations: by IMG_CMD, as an order, and the ends of loads and stops. -/
namespace Sys2Proof.Machine

theorem imgVia_reg {s : State} {path : Path} (hopen : s.openFor path .glb) (op : Nat) :
    imgVia op (.reg path) s = (s.imgOp op).1 := by
  rw [imgVia, State.writeBy_open hopen, State.woken_glbBlock]

theorem imgVia_cmd {s u : State} {o r : Order} {op : Nat} (hop : op < 8) (hr : rowOrder o 0 0 3 op = r)
    (ht : s.takesNow opImage r (if op < 2 then s.img.stageLen.toNat else 0)) (hu : s.started opImage r = u) :
    imgVia op (.cmd o) s = (match (u.imgOp op).2 with
      | some c => (u.imgOp op).1.complete (s.orderId opImage r) { code := c }
      | none => (u.imgOp op).1) := by
  have hword : CmdWord.payByte { opcode := opImage, desc := r.desc } 0 % 8 = op := hr ▸ payByte_rowOrder o hop
  rw [imgVia, hr, State.cmdArrive_now ht, hu, imgEff_eq, hword]
  cases (u.imgOp op).2 <;> rfl

section
variable {s : State} (hpwr : s.pwr.state ≠ .idle)
include hpwr

theorem State.imgOp_load (himg : s.img.state = .held) : s.imgOp 0 = (s.loadBegin, none) := by
  simp [State.imgOp, hpwr, himg]

theorem State.imgOp_loadPartial (himg : s.img.state = .ready ∨ s.img.state = .running) : s.imgOp 1 = s.partialBegin := by
  obtain himg | himg := himg <;> simp [State.imgOp, hpwr, himg]

theorem State.imgOp_start (himg : s.img.state = .ready) : s.imgOp 2 = s.startOp := by
  simp [State.imgOp, hpwr, himg]

theorem State.imgOp_stop (himg : s.img.state = .running) : s.imgOp 3 = (s.stopOp, none) := by
  simp [State.imgOp, hpwr, himg]

theorem State.imgOp_abort (himg : s.img.state = .loading) : s.imgOp 5 = s.endLoad.imgDone Codes.imageAborted := by
  simp [State.imgOp, hpwr, himg]

end

/-- A partial load is accepted from what its header says (R152). -/
theorem State.partialBegin_eq {s u : State} {h : List Byte} {bad : Bool} (hbusy : s.img.partialBusy = false)
    (hread : s.dramRead .load s.img.stageBase.toNat (min s.img.stageLen.toNat 256) = (h, bad, u)) :
    s.partialBegin = if u.maskDrained (BitVec.ofNat 64 (leAt h 0x28 8)) = true then
      ({ u with img := { u.img with
        partialBusy := true, partialMask := BitVec.ofNat 64 (leAt h 0x28 8), progress := 0, course := 0 } }, none)
      else u.imgDone Codes.refused := by
  simp only [State.partialBegin, hbusy, hread]
  cases u.maskDrained (BitVec.ofNat 64 (leAt h 0x28 8)) <;> rfl

/-- Settles O11: a load begins in the row of R146 of its state, and ends with the checks' result. -/
theorem loadsBeginAndComplete : Obligations.LoadsBeginAndComplete := by
  refine ⟨fun s path hopen himg hpwr => congrArg Host.Outcome.next ?reg,
    fun s u o r hr ht hu himg hpwr => congrArg Host.Outcome.next ?order,
    fun s u bad ups bs n himg hstaged hn => ⟨fun t ht => congrArg Host.Outcome.next ?loaded,
      fun f hf => congrArg Host.Outcome.next ?loadFailed⟩,
    fun s u path h bad hopen himg hpwr hbusy hread => ⟨fun hdrained => congrArg Host.Outcome.next ?accepted,
      fun hdrained => congrArg Host.Outcome.next ?refused⟩,
    fun s u bad ups bs n fin hbusy hstaged hn hfin => ⟨fun t ht => congrArg Host.Outcome.next ?partialLoaded,
      fun f hf => congrArg Host.Outcome.next ?partialFailed⟩⟩
  case reg => rw [imgVia_reg hopen, State.imgOp_load hpwr himg, State.loadBegin]
  case order => rw [imgVia_cmd (by decide) hr ht hu, State.imgOp_load hpwr himg]; rfl
  case loaded => simp [loadComplete, himg, hstaged, hn, ht]
  case loadFailed => simp [loadComplete, himg, hstaged, hn, hf]
  case accepted =>
    rw [imgVia_reg hopen, State.imgOp_loadPartial hpwr himg, State.partialBegin_eq hbusy hread, if_pos hdrained]
  case refused =>
    rw [imgVia_reg hopen, State.imgOp_loadPartial hpwr himg, State.partialBegin_eq hbusy hread,
      if_neg (ne_true_of_eq_false hdrained)]
  case partialLoaded =>
    subst hfin hn
    simp [partialLoadComplete, hbusy, hstaged, ht]
  case partialFailed =>
    subst hfin hn
    simp [partialLoadComplete, hbusy, hstaged, hf]

/-! START and STOP -/

/-- Opening the regions of a drained part again changes units, switches and plats. -/
theorem State.reopen_img_flt (s : State) (p : Nat) (mask : W16) :
    (s.reopen p mask).img = s.img ∧ (s.reopen p mask).flt = s.flt := by
  unfold State.reopen
  dsimp only
  generalize s.sitesOf p mask = l
  show State.img (l.foldl _ s) = _ ∧ State.flt (l.foldl _ s) = _
  induction l generalizing s with
  | nil => exact ⟨rfl, rfl⟩
  | cons x l ih =>
    rw [List.foldl_cons]
    refine (ih _).imp (fun h => h.trans ?_) (fun h => h.trans ?_) <;> (split <;> split <;> rfl)

/-- A START of a member that stands in READY runs (R148). -/
theorem State.startOp_member {s : State} (hdebug : s.debugOpen = false) (hbad : s.mon.restoreBad = false)
    (hrestore : s.mon.restore = none) (hmember : s.planMember = true) :
    s.startOp.1.img.state = .running ∧ s.startOp.1.flt.stepState = .idle ∧ s.startOp.1.img.code = Codes.ok ∧
      s.startOp.1.img.stopDrained = false := by
  have hopen : ∀ (l : List Nat) (v : State),
      (l.foldl (fun s p => s.reopen p ((s.plat p).drained &&& ~~~s.replacing p)) v).img = v.img ∧
      (l.foldl (fun s p => s.reopen p ((s.plat p).drained &&& ~~~s.replacing p)) v).flt = v.flt := by
    intro l
    induction l with
    | nil => exact fun v => ⟨rfl, rfl⟩
    | cons p l ih =>
      intro v
      have hv := v.reopen_img_flt p ((v.plat p).drained &&& ~~~v.replacing p)
      rw [List.foldl_cons]
      exact ⟨(ih _).1.trans hv.1, (ih _).2.trans hv.2⟩
  simp only [State.startOp, hdebug, hbad, hrestore, hmember, Option.isSome_none, Bool.or_self, Bool.not_true,
    Bool.false_eq_true, if_false, State.imgDone]
  cases s.img.stopDrained <;> simp [hopen]

/-- Settles O12: each operation takes the row of R146 of its state; as an order it is the same. -/
theorem imageStatesChange : Obligations.ImageStatesChange := by
  refine ⟨fun s path ups hopen himg hpwr hdebug hbad hrestore hmember => ?start, fun s u path hopen himg hpwr hu => ?stop,
    fun s himg hbound hfail hdrained => congrArg Host.Outcome.next ?stopComplete,
    fun s path hopen himg hpwr hbusy => ?unload,
    fun s path hopen himg hpwr => congrArg Host.Outcome.next ?abort,
    fun s u o r op i hi hr ht hu => ?order⟩
  case start =>
    obtain ⟨hrun, hstep, hcode, hstop⟩ := State.startOp_member hdebug
      (by rw [State.strikes_mon, hbad]) (by rw [State.strikes_mon, hrestore]) hmember
    have hop : imgVia 2 (.reg path) (s.strikes ups) = (s.strikes ups).startOp.1 := by
      rw [imgVia_reg hopen, State.imgOp_start (by rwa [State.strikes_pwr]) (by rw [State.strikes_img, himg])]
    exact ⟨_, congrArg Host.Outcome.next hop, hrun, hstep, hcode, hstop⟩
  case stop =>
    have hop : imgVia 3 (.reg path) s = s.stopOp := by
      rw [imgVia_reg hopen, State.imgOp_stop hpwr himg]
    refine ⟨fun hres => congrArg Host.Outcome.next (hop.trans ?_), fun hres hfail => congrArg Host.Outcome.next (hop.trans ?_),
      fun hres hfail => ⟨fun hpass => congrArg Host.Outcome.next (hop.trans ?_),
        fun hpass hin => congrArg Host.Outcome.next (hop.trans ?_), fun hpass hin => congrArg Host.Outcome.next (hop.trans ?_)⟩⟩
    · simp [State.stopOp, hu, hres]
    · simp [State.stopOp, hu, hres, hfail]
    · simp [State.stopOp, hu, hres, hfail, hpass]
    · simp [State.stopOp, hu, hres, hfail, hpass, hin]
    · simp [State.stopOp, hu, hres, hfail, hpass, hin]
  case stopComplete =>
    have hall : (List.range 4).all (fun p => (s.plat p).draining == 0 && s.openRegions p == 0) = true := by
      rw [List.all_eq_true]
      intro p hp
      obtain ⟨hdraining, hopen⟩ := hdrained ⟨p, List.mem_range.mp hp⟩
      simp only at hdraining hopen
      rw [hdraining, hopen]
      rfl
    rw [stopComplete, himg, hbound, hfail, hall]
    rfl
  case unload =>
    refine ⟨?_, ?_⟩
    · rw [exec_unload_reg hopen himg hpwr, State.unloadOp, hbusy, if_neg Bool.false_ne_true]
    · rw [State.clearConfig_img]
  case abort =>
    rw [imgVia_reg hopen, State.imgOp_abort hpwr himg, State.endLoad]
    simp [himg]
  case order =>
    have hop := imgVia_cmd (by omega) hr ht hu
    simp only [List.mem_cons, Prod.mk.injEq, List.not_mem_nil, or_false] at hi
    obtain ⟨rfl, rfl⟩ | ⟨rfl, rfl⟩ | ⟨rfl, rfl⟩ | ⟨rfl, rfl⟩ | ⟨rfl, rfl⟩ | ⟨rfl, rfl⟩ := hi <;>
      exact congrArg Host.Outcome.next hop

end Sys2Proof.Machine
end

section
/-! The plat DMA engine, triggers and the sequencer. -/
namespace Sys2Proof.Machine

/-- A row that is copied on this device is read, then written, and marked where it is bad (R185). -/
theorem State.rowMove_local {s u : State} {p : Nat} {r : RowReq} {a : DmaActive} {bs : List Byte} {dirty : Bool}
    (hread : s.spaceRead (dmaUser p a.job.src) r.src (a.job.bytesAt r.dst) = (bs, dirty, u)) (hloc : a.job.desc.remote = false) :
    s.rowMove p r a = (u.spaceWrite (dmaUser p a.job.src) r.dst bs (dirty || r.spoiled)).rowCopied p r (dirty || r.spoiled) := by
  simp [State.rowMove, hread, hloc]

/-- The rows of a descriptor in service are checked in the order of its premises. -/
theorem rowRequestDone_eq {s u v : State} {p ix : Nat} {ups : List Upset} {q r : RowReq} {a : DmaActive}
    (hq : (s.plat p).reqs[ix]? = some q) (howner : (s.plat p).ownerOf q = some a) (hv : s.serveRows = v)
    (hr : ((v.plat p).reqs[ix]?).getD q = r) (hgate : v.gatesOpen (.dma p) = true) (hsent : r.sent = false)
    (hserved : r.served = true) (hfirst : v.rowFirst r = true) (hruns : v.img.state = .ready ∨ v.tokensMove = true)
    (hu : v.strikes ups = u) :
    rowRequestDone p ix ups s =
      if a.failed then u.rowFinished p r false
      else if u.dmaRefuses a.job r.dst then (u.dmaRefused p a).rowFinished p r false
      else if !u.dmaRowOk p a.job r.src r.dst then (u.dmaAddr p a).rowFinished p r false
      else u.rowMove p r a := by
  have hgo : (v.img.state == .ready || v.tokensMove) = true := by simpa using hruns
  simp only [rowRequestDone, hq, howner, hv, hr, hgate, hsent, hserved, hfirst, hgo, hu, Bool.not_true, Bool.or_self,
    Bool.false_eq_true, if_false]

/-- Settles O13: the engine's checks come in the order of each command's premises. -/
theorem platDmaMovesRows : Obligations.PlatDmaMovesRows := by
  refine ⟨fun s p j hgate hnext hsrc => congrArg Host.Outcome.next ?start,
    fun s p j hgate hnext hsrc => congrArg Host.Outcome.next ?startHost,
    fun s p a src dst groups hgate hnext hsrc hdst hgroups => ⟨fun hfull => congrArg Host.Outcome.next ?full,
      fun hroom => ⟨fun hrefuse => congrArg Host.Outcome.next ?issueRefused,
        fun hrefuse hok => congrArg Host.Outcome.next ?issueAddr, fun hrefuse hok => congrArg Host.Outcome.next ?issue⟩⟩,
    fun s u v p ix ups q r a hq howner hv hr hgate hsent hserved hfirst hruns hu => ?done,
    fun s u w v p r a bs dirty hread hloc hw hv => ?move,
    fun s p a hnext => congrArg Host.Outcome.next ?complete,
    fun s p a hfail hinc hframe => ?doneAdd⟩
  case start => simp [dmaDescriptorStart, hgate, hnext, hsrc]
  case startHost => simp [dmaDescriptorStart, hgate, hnext, hsrc]
  case full => simp [rowRequestIssue, hgate, hnext, hfull]
  case issueRefused => simp [rowRequestIssue, hgate, hnext, Nat.not_le.mpr hroom, hdst, hrefuse]
  case issueAddr => simp [rowRequestIssue, hgate, hnext, Nat.not_le.mpr hroom, hsrc, hdst, hrefuse, hok]
  case issue =>
    subst hgroups
    simp only [rowRequestIssue, hgate, hnext, if_neg (Nat.not_le.mpr hroom), hsrc, hdst, hrefuse, hok, Bool.not_true,
      Bool.false_eq_true, if_false, Bool.and_eq_true, decide_eq_true_eq]
    rfl
  case done =>
    have hrun := rowRequestDone_eq hq howner hv hr hgate hsent hserved hfirst hruns hu
    refine ⟨fun hfail => congrArg Host.Outcome.next (hrun.trans ?_), fun hfail =>
      ⟨fun hrefuse => congrArg Host.Outcome.next (hrun.trans ?_), fun hrefuse hok => congrArg Host.Outcome.next (hrun.trans ?_),
        fun hrefuse hok => congrArg Host.Outcome.next (hrun.trans ?_)⟩⟩
    · simp [hfail]
    · simp [hfail, hrefuse]
    · simp [hfail, hrefuse, hok]
    · simp [hfail, hrefuse, hok]
  case move => rw [State.rowMove_local hread hloc, hw, State.rowCopied, hv]
  case complete => simp only [descriptorComplete, hnext]
  case doneAdd => simp [State.dmaComplete, hfail, hinc, hframe]

/-- Control events reach a switch, no plat. -/
theorem State.injectEvent_plat (s : State) (q site tag p : Nat) : (s.injectEvent q site tag).plat p = s.plat p := rfl

/-- The plat of a trigger whose descriptor, if it has one, waits for the engine (R190). -/
def Plat.triggerDma (x : Plat) (g : Trigger) (ds : List DmaDesc) : Plat :=
  if g.dma then
    match ds[g.dmaIx]? with
    | some d => { x with
      waitingDma := x.waitingDma ++ [{ src := .program, index := g.dmaIx, desc := d, firing := SMap.get 0 x.firings g.dmaIx }]
      firings := SMap.set 0 x.firings g.dmaIx (SMap.get 0 x.firings g.dmaIx + 1) }
    | none => x
  else x

theorem Plat.triggerDma_keeps (x : Plat) (g : Trigger) (ds : List DmaDesc) :
    (x.triggerDma g ds).thr = x.thr ∧ (x.triggerDma g ds).fired = x.fired ∧ (x.triggerDma g ds).seqReq = x.seqReq := by
  unfold Plat.triggerDma
  repeat' split
  all_goals exact ⟨rfl, rfl, rfl⟩

/-- The plat of a trigger that fires: its descriptor, the start of its run and its two counts. -/
def Plat.trigger (x : Plat) (t : Nat) (g : Trigger) (ds : List DmaDesc) : Plat :=
  { x.triggerDma g ds with
    seqReq := x.seqReq ++ (if g.seq then [g.seqIx] else [])
    thr := SMap.set 0 x.thr t (SMap.get 0 x.thr t + g.inc), fired := SMap.set 0 x.fired t (SMap.get 0 x.fired t + 1) }

theorem triggerFire_plat {s : State} {p t : Nat} {g : Trigger} (hg : (s.cfg.triggers p)[t]? = some g)
    (hin : s.inputsOpen = true) (hgate : s.gatesOpen (.dma p) = true) (hready : s.triggerReady p t g = true)
    (hfirst : ((s.cfg.triggers p).take t).zipIdx.any (fun (h, i) => s.triggerReady p i h) = false) :
    (triggerFire p t s).plat p = (s.plat p).trigger t g (s.cfg.dmaEntries p) := by
  obtain ⟨hthr, hfired, hseq⟩ := (s.plat p).triggerDma_keeps g (s.cfg.dmaEntries p)
  have hplat : ∀ x : Plat, (if g.event = true then (s.setPlat p x).injectEvent p g.site g.tag else s.setPlat p x).plat p = x := by
    intro x
    split <;> simp [State.injectEvent_plat]
  simp only [triggerFire, hg, hin, hgate, hready, hfirst, Bool.not_true, Bool.or_self, Bool.false_eq_true, if_false,
    State.plat_setPlat]
  rw [hplat]
  change (let x := (s.plat p).triggerDma g (s.cfg.dmaEntries p)
    let y := if g.seq then { x with seqReq := x.seqReq ++ [g.seqIx] } else x
    ({ y with
      thr := SMap.set 0 y.thr t (SMap.get 0 y.thr t + g.inc)
      fired := SMap.set 0 y.fired t (SMap.get 0 y.fired t + 1) } : Plat)) = _
  unfold Plat.trigger
  cases g.seq <;> simp [hthr, hfired, hseq]

/-- Settles O14: a push, a trigger and a start are each accepted under the premises of their checks. -/
theorem queuePushTriggerAndSequencerStart : Obligations.QueuePushTriggerAndSequencerStart := by
  refine ⟨fun s p hawake hgate himg hpwr hroom d hd hremote hclosed => congrArg Host.Outcome.next ?push,
    fun s p t g hg hin hgate hready hfirst => ?trigger,
    fun s p ix hin hgate hhead hrun => congrArg Host.Outcome.next ?start,
    fun s p ix hin hgate hhead hrun hroom => congrArg Host.Outcome.next ?held,
    fun s p ix rest hpend hin hgate hrun => congrArg Host.Outcome.next ?pending⟩
  case push =>
    have hentry : (d.remote && !(s.cfg.dmaEntries p).any (fun e => e.remote && e.cbm == d.cbm)) = false := by
      cases hr : d.remote with
      | false => rfl
      | true =>
        obtain ⟨e, he, her, hcbm⟩ := hremote hr
        have hany : (s.cfg.dmaEntries p).any (fun e => e.remote && e.cbm == d.cbm) = true :=
          List.any_eq_true.mpr ⟨e, he, by simp [her, hcbm]⟩
        rw [hany]
        rfl
    have hwoken : (s.woken (.dma p)).pushClosed d = s.pushClosed d := by rw [State.woken_eq]; rfl
    simp only [State.whenAwake, hawake, hgate, dmaHqPush, ← hd, State.woken_plat, State.woken_img, State.woken_pwr,
      State.woken_cfg, hwoken, hclosed, hentry]
    simp [himg, hpwr, Nat.not_le.mpr hroom]
  case trigger =>
    have hnone : ((s.cfg.triggers p).take t).zipIdx.any (fun (h, i) => s.triggerReady p i h) = false := by
      rw [List.any_eq_false]
      rintro ⟨h, i⟩ hmem
      dsimp only
      rw [hfirst i h (List.mk_mem_zipIdx_iff_getElem?.mp hmem)]
      exact Bool.false_ne_true
    refine ⟨_, rfl, ?_⟩
    rw [triggerFire_plat hg hin hgate hready hnone]
    refine ⟨by simp [Plat.trigger], by simp [Plat.trigger], rfl, fun d hd hdma => ?_⟩
    simp [Plat.trigger, Plat.triggerDma, hd, hdma]
  case start => simp [sequencerStart, hin, hgate, hhead, hrun]
  case held => simp [sequencerStart, hin, hgate, hhead, Option.isSome_iff_ne_none.mpr hrun, hroom]
  case pending => simp [sequencerPendingStart, hpend, hin, hgate, hrun]

end Sys2Proof.Machine
end

section
/-! Benchmark operations (R205 to R207). -/
namespace Sys2Proof.Machine

/-- An operation that reaches its benchmark by a path other than the command path is done there (R208). -/
theorem bmkOp_path {s : State} {src : BmkSrc} {i : Nat} {op : BmkOp} (h : s.bmkPath src i op) :
    bmkOp src i op s = (s.bmkAt src i op).bmkDo (s.bmkSrcAt src) i op := by
  cases src with
  | fw p => rw [bmkOp, State.writeBy_open h, State.woken_bmkBlock]; rfl
  | host rx => rw [bmkOp, State.atBlock_open h, State.woken_bmkBlock]; rfl
  | remote rx => rw [bmkOp, State.take_here h]; rfl
  | unit u => rfl
  | cmd o => exact h.elim

/-- The same, with the state and the source named. -/
theorem bmkOp_at {s u : State} {src y : BmkSrc} {i : Nat} {op : BmkOp} (h : s.bmkPath src i op)
    (hu : s.bmkAt src i op = u) (hy : s.bmkSrcAt src = y) : bmkOp src i op s = u.bmkDo y i op := by
  rw [bmkOp_path h, hu, hy]

section
variable {u v : State} {y : BmkSrc} {i : Nat} {op : BmkOp}

/-- A permitted operation answers what its effect says, and releases what it releases. -/
theorem State.bmkDo_answered {c : Code} {x : W64} {obj : List Byte} (hcheck : u.bmkCheck y i op = none)
    (happly : u.bmkApply y i op = (v, some (c, x, obj))) : u.bmkDo y i op = (v.bmkReply y c x obj).bmkAfter i op := by
  rw [State.bmkDo, hcheck, happly]

theorem State.bmkDo_parked (hcheck : u.bmkCheck y i op = none) (happly : u.bmkApply y i op = (v, none)) :
    u.bmkDo y i op = v := by
  rw [State.bmkDo, hcheck, happly]

end

section
variable {u : State} (y : BmkSrc) {i : Nat} {v : W32}

theorem State.bmkApply_wait_reached (h : reached (u.bmk i).count v = true) :
    u.bmkApply y i (.wait v) = (u.countOp i, some (Codes.ok, BitVec.ofNat 64 (u.bmk i).count.toNat, [])) := by
  simp [State.bmkApply, h]

theorem State.bmkApply_wait_parks (h : reached (u.bmk i).count v = false) (hroom : (u.plat (homePlat i)).waits.length < 256) :
    u.bmkApply y i (.wait v) = (u.setPlat (homePlat i) { u.plat (homePlat i) with
      waits := (u.plat (homePlat i)).waits ++ [{ index := i, level := v, src := y }]
      waitPeak := max (u.plat (homePlat i)).waitPeak ((u.plat (homePlat i)).waits.length + 1)
      cntOps := (u.plat (homePlat i)).cntOps + 1 }, none) := by
  simp [State.bmkApply, h, Nat.not_le.mpr hroom, State.countOp]

theorem State.bmkApply_wait_full (h : reached (u.bmk i).count v = false) (hfull : 256 ≤ (u.plat (homePlat i)).waits.length) :
    u.bmkApply y i (.wait v) = (u.setPlat (homePlat i) { u.plat (homePlat i) with
      bmkFault := setBit (u.plat (homePlat i)).bmkFault 1
      cntWaitFull := (u.plat (homePlat i)).cntWaitFull + 1 }, some (Codes.bmkWaitFull, 0, [])) := by
  simp [State.bmkApply, h, hfull]

end

/-- An operation of a reserved code is REFUSED by whoever takes it up (R205, R208, R210). -/
theorem State.bmkDo_reserved {u : State} (himg : u.img.state ≠ .held) (hfail : u.stepFailed = false) (y : BmkSrc)
    (hy : ∀ o, y ≠ .cmd o) (i op : Nat) : u.bmkDo y i (.reserved op) = u.bmkReply y Codes.refused 0 [] := by
  cases y with
  | fw p =>
    have hcheck : u.bmkCheck (.fw p) i (.reserved op) = none := by simp [State.bmkCheck, himg]
    exact State.bmkDo_answered hcheck rfl
  | host rx =>
    have hcheck : u.bmkCheck (.host rx) i (.reserved op) = none := by simp [State.bmkCheck, State.hostMay, himg]
    exact State.bmkDo_answered hcheck rfl
  | unit w =>
    have hcheck : u.bmkCheck (.unit w) i (.reserved op) = some Codes.refused := by cases w <;> rfl
    rw [State.bmkDo, hcheck]
  | remote rx =>
    have hcheck : u.bmkCheck (.remote rx) i (.reserved op) = some Codes.refused := by simp [State.bmkCheck, himg, hfail]
    rw [State.bmkDo, hcheck]
    rfl
  | cmd o => exact absurd rfl (hy o)

theorem State.bmkSrcAt_ne_cmd {s : State} {src : BmkSrc} {i : Nat} {op : BmkOp} (h : s.bmkPath src i op) (o : Order) :
    s.bmkSrcAt src ≠ .cmd o := by
  cases src with
  | cmd o => exact h.elim
  | _ => exact fun e => by cases e

/-- Settles O15: each operation reaches its unit, passes the check, and has the effect of its row of R205. -/
theorem benchmarkOperationsComplete : Obligations.BenchmarkOperationsComplete := by
  refine ⟨fun s u src y i hpath hu hy hcheck => congrArg Host.Outcome.next ((bmkOp_at hpath hu hy).trans ?read),
    fun s u src y i v hpath hu hy hcheck => congrArg Host.Outcome.next ((bmkOp_at hpath hu hy).trans ?add),
    fun s u src y i v hpath hu hy hcheck => congrArg Host.Outcome.next ((bmkOp_at hpath hu hy).trans ?set),
    fun s u o r q i v hr ht hu hq hcheck => congrArg Host.Outcome.next ?order,
    fun s u src y i v hpath hu hy hcheck => ⟨fun h => congrArg Host.Outcome.next ((bmkOp_at hpath hu hy).trans ?reached),
      fun h hroom => congrArg Host.Outcome.next ((bmkOp_at hpath hu hy).trans ?parks),
      fun h hfull => congrArg Host.Outcome.next ((bmkOp_at hpath hu hy).trans ?full)⟩,
    fun s u src y i thr mode hpath hu hy hcheck =>
      ⟨fun hgood => congrArg Host.Outcome.next ((bmkOp_at hpath hu hy).trans ?arm),
        fun hbad => congrArg Host.Outcome.next ((bmkOp_at hpath hu hy).trans ?armRefused)⟩,
    fun s u src y i op hop hpath hu hy himg hfail => congrArg Host.Outcome.next ?reserved⟩
  case read => exact State.bmkDo_answered hcheck rfl
  case add => exact State.bmkDo_answered hcheck rfl
  case set => exact State.bmkDo_answered hcheck rfl
  case order =>
    have heff : bmkOrder (s.orderId opBmk r) i (.add v) u = (((((u.countOp i).setBmk i { u.bmk i with
        count := (u.bmk i).count + v }).complete (s.orderId opBmk r)
        { code := Codes.ok, value := some (BitVec.ofNat 64 (u.bmk i).count.toNat) }).bmkEval i), none) := by
      rw [bmkOrder, hq]
      dsimp only
      rw [hcheck]
      rfl
    rw [bmkOp, hr, State.cmdArrive_now ht, hu, heff]
  case reached => exact State.bmkDo_answered hcheck (State.bmkApply_wait_reached y h)
  case parks => exact State.bmkDo_parked hcheck (State.bmkApply_wait_parks y h hroom)
  case full => exact State.bmkDo_answered hcheck (State.bmkApply_wait_full y h hfull)
  case arm =>
    rw [State.bmkDo_answered hcheck (by rw [State.bmkApply, hgood]; rfl), State.bmkAfter, hgood]
    rfl
  case armRefused =>
    rw [State.bmkDo_answered hcheck (by rw [State.bmkApply, hbad]; rfl), State.bmkAfter, hbad]
    rfl
  case reserved =>
    rw [if_neg (Nat.not_lt.mpr hop), bmkOp_at hpath hu hy]
    exact State.bmkDo_reserved himg hfail y (fun o => hy ▸ State.bmkSrcAt_ne_cmd hpath o) i op

end Sys2Proof.Machine
end

section
/-! Requantisation of a piece and the exchange records of this device. -/
namespace Sys2Proof.Machine

/-! ## The partial sums of gsq stand through faults and stores -/

/-- What a failing step leaves of the adjustment's own file: that a step runs, its partial sums, and AU_EXCH. -/
def Adj.lasting (a : Adj) : Bool × List (Nat × W32) × W64 := (a.inStep, a.partials, a.exch)

/-- A step that leaves a projection of the state alone leaves it alone when it is folded over a list. -/
theorem foldl_proj {α β : Type} (proj : State → β) (f : State → α → State) (h : ∀ s a, proj (f s a) = proj s) (l : List α)
    (s : State) : proj (l.foldl f s) = proj s := by
  induction l generalizing s with
  | nil => rfl
  | cons a l ih => rw [List.foldl_cons, ih, h]

@[simp] theorem State.logFault_adj (s : State) (c : FClass) (code : Code) (kind inst : Nat) (d : W64) :
    (s.logFault c code kind inst d).adj = s.adj := rfl

@[simp] theorem State.logPort_adj (s : State) (c : FClass) (code : Code) (n : Nat) : (s.logPort c code n).adj = s.adj := rfl

theorem State.sendNorm_lasting (s : State) (r : NormRec) : (s.sendNorm r).adj.lasting = s.adj.lasting := by
  unfold State.sendNorm
  refine foldl_proj (·.adj.lasting) _ (fun s e => ?_) _ s
  have h := fun t : Trans => congrArg Adj.lasting (s.trySend_reports t).adj
  dsimp only
  split <;> exact h _

theorem State.sendFail_lasting (s : State) : s.sendFail.adj.lasting = s.adj.lasting := by
  unfold State.sendFail
  dsimp only
  repeat' split
  · rfl
  all_goals exact State.sendNorm_lasting _ _

theorem State.stepFail_lasting (s : State) : s.stepFail.adj.lasting = s.adj.lasting := by
  unfold State.stepFail State.enterFailed
  split
  · dsimp only
    split
    · exact s.sendFail_lasting
    · rfl
  · rfl

theorem State.raise_lasting (s : State) {c : FClass} (hc : c ≠ .fatal) (code : Code) (kind inst : Nat) (d : W64) :
    (s.raise c code kind inst d).adj.lasting = s.adj.lasting := by
  cases c with
  | corr => rfl
  | stat => rfl
  | cont => exact State.stepFail_lasting _
  | fatal => exact absurd rfl hc

theorem State.raise_partials (s : State) {c : FClass} (hc : c ≠ .fatal) (code : Code) (kind inst : Nat) (d : W64) :
    (s.raise c code kind inst d).adj.partials = s.adj.partials :=
  congrArg (fun x : Bool × List (Nat × W32) × W64 => x.2.1) (s.raise_lasting hc code kind inst d)

/-! ## A stored plane and the round of a region -/

/-- A projection that strikes out single errors only stands through a corrected burst. -/
theorem State.burstFix_partials (s : State) (c key : Nat) : (s.burstFix c key).adj.partials = s.adj.partials :=
  foldl_proj (·.adj.partials) (fun s h => s.dramCorrect c key h) (fun _ _ => rfl) _ s

theorem State.burstLost_partials (s : State) (key : Nat) : (s.burstLost key).2.adj.partials = s.adj.partials := by
  unfold State.burstLost
  dsimp only
  repeat' split
  all_goals rfl

/-- An AU's write to DRAM may find a burst poisoned or lost: a contained fault, which leaves the partials as they are. -/
theorem State.burstRead_partials (s : State) (c l : Nat) :
    (s.burstRead .auPass2 c l).2.adj.partials = s.adj.partials := by
  unfold State.burstRead
  simp only [dramIsAu, dramCls]
  split
  · simp only [if_true]
    exact State.raise_partials _ (by decide) _ _ _ _
  · have hlost := (s.setMg (c / 4) { s.mg (c / 4) with cntRd := (s.mg (c / 4)).cntRd + 128 }).burstLost_partials
      (burstKey c l)
    split
    · simp only [show (FClass.cont == FClass.stat) = false from rfl, Bool.false_eq_true, if_false]
      rw [State.burstFix_partials, State.raise_partials _ (by decide)]
      exact hlost
    · rw [State.burstFix_partials]
      exact hlost

theorem State.burstWrite_partials (s : State) (c l : Nat) (bs : List Byte) (poison : Bool) :
    (s.burstWrite .auPass2 c l bs poison).adj.partials = s.adj.partials := by
  unfold State.burstWrite
  dsimp only
  split
  · rfl
  · exact State.burstRead_partials _ _ _

theorem State.spaceWrite_partials (s : State) (a : Nat) (bs : List Byte) (poison : Bool) :
    (s.spaceWrite .auPass2 a bs poison).adj.partials = s.adj.partials := by
  unfold State.spaceWrite
  split
  · unfold State.muPoisonIn
    dsimp only
    split <;> rfl
  · refine foldl_proj (·.adj.partials) _ (fun s b => ?_) _ s
    dsimp only
    repeat' split
    · rfl
    · exact State.burstWrite_partials _ _ _ _ _
    · rfl

theorem State.writePlane_partials (s : State) (t : Stored) (k : Nat) (xs : List W32) (bad : List Nat) :
    (s.writePlane t k xs bad).adj.partials = s.adj.partials := by
  refine (foldl_proj (·.adj.partials) _ (fun s row => ?_) _ _).trans (State.spaceWrite_partials _ _ _ _)
  split <;> rfl

/-- The round of the piece's region is over. -/
theorem State.roundTaken_reg (s : State) (p : Piece) :
    (((s.roundTaken p).mu p.rPlat p.rMu).reg p.rReg).roundDone = false ∧
      (((s.roundTaken p).mu p.rPlat p.rMu).reg p.rReg).applied = [] := by
  have h : ((s.roundTaken p).mu p.rPlat p.rMu).reg p.rReg =
      { (s.mu p.rPlat p.rMu).reg p.rReg with roundDone := false, applied := [] } := by
    unfold State.roundTaken
    rw [State.mu_setMu]
    exact SMap.get_set_self _ _ _
  rw [h]
  exact ⟨rfl, rfl⟩

/-- A piece without error feedback is quantised from its buffer alone: no plane of the error is read, and no bad block of
one raises a fault. -/
theorem requantisation_plain {s u : State} {item : Nat} {r : Region} {p : Piece} {bs : List Byte} {bad : Bool}
    (hready : s.requantReady item = some (r, p)) (he : p.eEn = false)
    (hread : s.muRead p.rPlat p.rMu (((s.mu p.rPlat p.rMu).reg p.rReg).baseRow * 512) (4 * pieceElems r p) = (bs, bad, u)) :
    requantisation item [] s = (u.requantWrite item p (s.holdAt r p) s.stepIndex.toNat (pieceElems r p)
      (unpackElems 32 bs |>.map (BitVec.ofNat 32)) ((u.requantBad p ((s.holdAt r p).g.g * (s.holdAt r p).g.nb)
        (pieceElems r p) ((s.holdAt r p).err (s.stepIndex.toNat + 1))).1 ++ []).eraseDups).roundTaken p := by
  simp [requantisation, hready, State.strikes_nil, State.requantRead, State.requantBad, he, hread] <;> rfl

/-- Settles O16: each record goes out in its own branch; a piece without error feedback adds the sum of squares of its
decoded values, which no store and no fault of the same event takes away. -/
theorem requantisationAndExchangeRecords : Obligations.RequantisationAndExchangeRecords := by
  refine ⟨fun s u hin hruns hsent hk hdone => ⟨fun hres hhold hstep hu => ⟨congrArg Host.Outcome.next ?own, ?gsq⟩,
      fun hres => congrArg Host.Outcome.next ?residue, fun hres hhold => congrArg Host.Outcome.next ?hold⟩,
    fun s r hin hruns hsealed hsent hk hdone hr => congrArg Host.Outcome.next ?gate,
    fun s hin hruns hok hsent hk hdone hbad hreqs => congrArg Host.Outcome.next ?commit,
    fun s u item r p bs bad hready he hread => ⟨_, congrArg Host.Outcome.next (requantisation_plain hready he hread),
      ?partials, State.roundTaken_reg _ p⟩⟩
  case own =>
    subst hu
    have hall : (List.range 4).all (fun g => (s.au g).step == s.stepIndex) = true :=
      List.all_eq_true.mpr fun g hg => beq_iff_eq.mpr (hstep ⟨g, List.mem_range.mp hg⟩)
    simp only [sealSend, hin, hruns, hsent, hk, hdone, hres, hhold, hall]
    rfl
  case gsq =>
    subst hu
    exact if_pos hdone
  case residue => simp [sealSend, hin, hruns, hsent, hk, hdone, hres, State.raiseResidue]
  case hold => simp [sealSend, hin, hruns, hsent, hk, hdone, hres, hhold]
  case gate =>
    subst hr
    simp [gateSend, hin, hruns, hsealed, hsent, hk, hdone]
  case commit =>
    have hnone : s.lxg.reqs.any (fun q => q.kind == .gather) = false :=
      List.any_eq_false.mpr fun q hq => by simpa using hreqs q hq
    simp [commitSend, hin, hruns, hok, hsent, hk, hdone, hbad, hnone]
  case partials =>
    simp [State.requantWrite, State.roundTaken, he, State.writePlane_partials]

end Sys2Proof.Machine
end

section
/-! The frame of the benchmark operations fails: a remote operation is a flit, and a flit of a forged tag drops its link. -/
namespace Sys2Proof.Machine

/-- A bridge whose one port is secure and leads to host 5, which holds the CO session. -/
def hostOverPort0 : State :=
  { ports := [(0, { state := .secure, peerKind := 2, peerNum := 5 })], sec := { co := some 0x8005 }
    lxg := { strapBridge := true } }

/-- A flit at port 0 whose tag does not verify. -/
def forgedFlit : Rx := { port := 0, src := 0x8005, dst := 0, tag := 0, hops := 0, tagOk := false }

/-- The flit drops the link (R326), and with its last link the host's session ends (R433). -/
theorem forgedFlit_endsSession : (bmkOp (.remote forgedFlit) 0 .read hostOverPort0).sec.co = none := by
  decide +kernel

/-- Refutes O59: a remote READ whose flit has a forged tag takes the link down, and a CO session over that link ends with
it, so the security registers are not as they were. -/
theorem not_benchmarkOperationsLeaveTheRest : ¬ Obligations.BenchmarkOperationsLeaveTheRest := by
  rintro ⟨h, -⟩
  obtain ⟨-, -, -, -, -, -, -, -, -, -, hsec, -, -⟩ :=
    h hostOverPort0 _ (.remote forgedFlit) 0 0 (Or.inl rfl) (fun o ho => BmkSrc.noConfusion ho)
  have hco : (bmkOp (.remote forgedFlit) 0 .read hostOverPort0).sec.co = some 0x8005 := congrArg Sec.co hsec
  rw [forgedFlit_endsSession] at hco
  cases hco

end Sys2Proof.Machine
end

section
/-! The two passes of the adjustment, the boundary of a step, its start and its restart. -/
namespace Sys2Proof.Machine

/-! ## Writing every AU -/

/-- s with the AUs of l written from what they hold in s. -/
def State.setAus (s : State) (h : Nat → Au) (l : List Nat) : State := l.foldl (fun t g => t.setAu g (h g)) s

/-- A fold that writes each AU from its own value alone writes them all from the state it starts in. -/
theorem State.foldl_setAu {s : State} {f : State → Nat → State} {h : Nat → Au} (l : List Nat) (hl : l.Nodup)
    (hf : ∀ (t : State), ∀ g ∈ l, { t with aus := s.aus } = s → t.au g = s.au g → f t g = t.setAu g (h g)) :
    l.foldl f s = s.setAus h l := by
  suffices hgen : ∀ t : State, { t with aus := s.aus } = s → (∀ g ∈ l, t.au g = s.au g) → l.foldl f t = t.setAus h l from
    hgen s rfl (fun _ _ => rfl)
  induction l with
  | nil => exact fun _ _ _ => rfl
  | cons g l ih =>
    intro t ht hau
    obtain ⟨hg, hl⟩ := List.nodup_cons.mp hl
    rw [State.setAus, List.foldl_cons, List.foldl_cons, hf t g List.mem_cons_self ht (hau g List.mem_cons_self)]
    refine ih hl (fun t k hk => hf t k (List.mem_cons_of_mem g hk)) _ ht (fun k hk => ?_)
    rw [State.au_setAu_ne _ _ _ _ (by rintro rfl; exact hg hk), hau k (List.mem_cons_of_mem g hk)]

theorem State.setAus_others (s : State) (h : Nat → Au) (l : List Nat) : { s.setAus h l with aus := s.aus } = s := by
  suffices hgen : ∀ t : State, { t with aus := s.aus } = s → { t.setAus h l with aus := s.aus } = s from hgen s rfl
  induction l with
  | nil => exact fun _ ht => ht
  | cons g l ih => exact fun t ht => ih (t.setAu g (h g)) ht

/-- An AU of the list holds what was written to it; another one keeps its contents. -/
theorem State.au_setAus_mem (s : State) (h : Nat → Au) (l : List Nat) (k : Nat) :
    (s.setAus h l).au k = if k ∈ l then h k else s.au k := by
  induction l generalizing s with
  | nil => rfl
  | cons g l ih =>
    have hrest : (s.setAus h (g :: l)).au k = ((s.setAu g (h g)).setAus h l).au k := rfl
    rw [hrest, ih]
    by_cases hmem : k ∈ l
    · rw [if_pos hmem, if_pos (List.mem_cons_of_mem g hmem)]
    · rw [if_neg hmem]
      by_cases hk : k = g
      · rw [hk, State.au_setAu, if_pos List.mem_cons_self]
      · rw [State.au_setAu_ne _ _ _ _ hk, if_neg (List.not_mem_cons_of_ne_of_not_mem hk hmem)]

theorem State.au_setAus (s : State) (h : Nat → Au) (g : Fin 4) : (s.setAus h (List.range 4)).au g = h g := by
  rw [State.au_setAus_mem, if_pos (List.mem_range.mpr g.isLt)]

/-! ## What the passes do -/

theorem State.blockStore_factors (s : State) (b : FactorBlock) :
    { s.blockStore b with adj := { (s.blockStore b).adj with factors := s.adj.factors } } = s := by
  unfold State.blockStore
  split
  · rfl
  · split <;> rfl

/-- Storing factor blocks changes the factors alone. -/
theorem State.blockStores_factors (blocks : List FactorBlock) (s : State) :
    { blocks.foldl State.blockStore s with
      adj := { (blocks.foldl State.blockStore s).adj with factors := s.adj.factors } } = s := by
  induction blocks generalizing s with
  | nil => rfl
  | cons b blocks ih =>
    rw [List.foldl_cons]
    have h := congrArg (fun t : State => { t with adj := { t.adj with factors := s.adj.factors } }) (ih (s.blockStore b))
    exact h.trans (s.blockStore_factors b)

/-- Blocks of which none is stale raise nothing: they are stored. -/
theorem State.precondReport_fresh {s : State} {blocks : List FactorBlock} (h : ∀ b ∈ blocks, s.blockStale b = false) :
    s.precondReport blocks = blocks.foldl State.blockStore s := by
  have hnone : blocks.filter s.blockStale = [] := List.filter_eq_nil_iff.mpr fun b hb => by simp [h b hb]
  rw [State.precondReport, hnone]
  rfl

/-- Settles O17: the AUs start each pass together, each its own part; an evaluation takes the branch that the region, its
piece and the position name. -/
theorem passesAndBoundaryComplete : Obligations.PassesAndBoundaryComplete := by
  refine ⟨fun s hin hruns hsealed haus hcoefs => ?pass1,
    fun s blocks hin hruns hok hpass haus hlocks hskip hstale => ?pass2,
    fun s g ups r hruns hin hphase hdone hopen hr => ?element,
    fun s g hruns hin hphase hdone hopen hregion hparked => congrArg Host.Outcome.next ?done,
    fun s t g slot ri item k row ups r r' p hslot hruns hin hphase hopen hr hp ht => congrArg Host.Outcome.next ?parked⟩
  case pass1 =>
    have hany : (List.range 4).any (fun g => (s.au g).phase == 1) = true :=
      List.any_eq_true.mpr ⟨0, by decide, beq_iff_eq.mpr (haus 0).1⟩
    have hrun : pass1Start s = s.setAus (fun g => { (s.au g).startPass 2 with live := s.liveMap }) (List.range 4) := by
      simp only [pass1Start, hin, hruns, hsealed, hany, Bool.and_self, if_true]
      refine State.foldl_setAu _ List.nodup_range (fun t g hg ht hau => ?_)
      obtain ⟨hphase, hstep, hlatched, hopen⟩ := haus ⟨g, List.mem_range.mp hg⟩
      have hopen' : t.gatesOpen (.au g) = true := by rw [← hopen, ← ht]; rfl
      have hdtm : t.dtm = s.dtm := by rw [← ht]
      simp only at hphase hstep hlatched
      simp [hau, hphase, hopen', hstep, hdtm, hlatched, hcoefs]
    refine ⟨_, congrArg Host.Outcome.next hrun, State.au_setAus s _, State.setAus_others s _ _⟩
  case pass2 =>
    have hnolock : s.mon.locks.any (fun m => m + 2 == s.stepIndex.toNat) = false :=
      List.any_eq_false.mpr fun m hm => by simpa using hlocks m hm
    have hall : (List.range 4).all (fun g => (s.au g).phase == 3) = true :=
      List.all_eq_true.mpr fun g hg => beq_iff_eq.mpr (haus ⟨g, List.mem_range.mp hg⟩)
    have hfresh := State.precondReport_fresh hstale
    have hsame := State.blockStores_factors blocks s.applyFreezes
    generalize hu : blocks.foldl State.blockStore s.applyFreezes = u at hsame hfresh
    have hrun : pass2Start blocks s = State.setAus { u with
        adj := { u.adj with pass2 := true }, mon := { u.mon with pass2Step := some u.stepIndex.toNat } }
        (fun g => (u.au g).startPass 4) (List.range 4) := by
      simp only [pass2Start, hin, hruns, hok, hpass, hall, hnolock, hskip, hfresh, Bool.and_self, Bool.not_false, Bool.true_or,
        Bool.false_eq_true, if_true, if_false]
      exact State.foldl_setAu _ List.nodup_range (fun t g _ _ hau => by rw [hau]; rfl)
    have haus : u.aus = s.aus := by
      have e := congrArg State.aus hsame
      exact e
    have hau : ∀ g, u.au g = s.au g := fun g => by simp only [State.au, haus]
    have hrest := State.setAus_others { u with
        adj := { u.adj with pass2 := true }, mon := { u.mon with pass2Step := some u.stepIndex.toNat } }
        (fun g => (u.au g).startPass 4) (List.range 4)
    have hadj := congrArg State.adj hrest
    have hmon := congrArg State.mon hrest
    refine ⟨_, congrArg Host.Outcome.next hrun, fun g => ?_, congrArg Adj.pass2 hadj, (congrArg Adj.freeze hadj).trans ?_,
      (congrArg Adj.factors hadj).trans ?_, (congrArg Mon.pass2Step hmon).trans ?_⟩
    · rw [State.au_setAus, hau]
    · have hf := congrArg (fun t : State => t.adj.freeze) hsame
      exact hf
    · rfl
    · show some (u.au 0).step.toNat = _
      rw [hau]
      rfl
  case element =>
    have hphase : (decide ((s.au g).phase = 2) || decide ((s.au g).phase = 4)) = true := by simpa using hphase
    refine ⟨fun hby => congrArg Host.Outcome.next ?_, fun hby hsparse hpos => congrArg Host.Outcome.next ?_,
      fun hby hsparse hpos => congrArg Host.Outcome.next ?_, fun hby hend => congrArg Host.Outcome.next ?_⟩ <;>
      simp only [auElementEvaluate, hruns, hin, hphase, hdone, hopen, hr, hby]
    · simp
    · simp [hsparse, Nat.not_le.mpr hpos]
    · simp [hsparse, Nat.not_le.mpr hpos]
    · by_cases hsparse : r.sparse = true
      · rw [if_pos hsparse] at hend
        simp [hsparse, hend]
      · rw [if_neg hsparse] at hend
        simp [hsparse, hend]
  case done =>
    have hphase : (decide ((s.au g).phase = 2) || decide ((s.au g).phase = 4)) = true := by simpa using hphase
    have hnone : (s.cfg.regions.drop (s.au g).region).head? = none := by simpa using hregion
    simp [auElementEvaluate, hruns, hin, hphase, hdone, hopen, hnone, hparked]
  case parked =>
    have hphase : (decide ((s.au g).phase = 2) || decide ((s.au g).phase = 4)) = true := by simpa using hphase
    simp only [parkedSlotEvaluate, hslot, hruns, hin, hphase, hopen, hr, hp, ht, Bool.and_self, if_true]
    exact ite_congr (by simp) (fun _ => rfl) (fun _ => rfl)

end Sys2Proof.Machine
end

section
/-! The start, the boundary and the restart of a step. -/
namespace Sys2Proof.Machine

/-! ## What events of the boundary leave of the adjustment: the AUs, and whether a step runs -/

def State.atWork (s : State) : SMap Au × Bool := (s.aus, s.adj.inStep)

theorem Reports.atWork {s t : State} (h : Reports s t) : t.atWork = s.atWork := by
  rw [State.atWork, h.aus, h.adj, State.atWork]

theorem SameUnits.atWork {s t : State} (h : SameUnits s t) : t.atWork = s.atWork := by
  have e := congrArg State.atWork h
  exact e

theorem State.raise_atWork (s : State) {c : FClass} (hc : c ≠ .fatal) (code : Code) (kind inst : Nat) (d : W64) :
    (s.raise c code kind inst d).atWork = s.atWork := by
  have hin : (s.raise c code kind inst d).adj.inStep = s.adj.inStep :=
    congrArg Prod.fst (s.raise_lasting hc code kind inst d)
  have haus : (s.raise c code kind inst d).aus = s.aus := by
    cases c with
    | corr => exact (s.raise_corr_reports code kind inst d).aus
    | stat => exact (s.raise_stat_reports code kind inst d).aus
    | cont => exact (s.raise_cont_contained code kind inst d).aus
    | fatal => exact absurd rfl hc
  rw [State.atWork, hin, haus, State.atWork]

theorem State.raisePort_atWork (s : State) {c : FClass} (hc : c ≠ .fatal) (code : Code) (n : Nat) :
    (s.raisePort c code n).atWork = s.atWork := by
  unfold State.raisePort
  exact s.raise_atWork hc _ _ _ _

theorem State.send_atWork (s : State) (t : Trans) : (s.send t).atWork = s.atWork := by
  have h := (s.trySend_reports t).atWork
  unfold State.send State.lost
  split <;> rename_i hx <;> rw [hx] at h
  · exact h
  · exact (State.raise_atWork _ (by split <;> decide) _ _ _ _).trans h

theorem State.request_atWork (s : State) (dst : W16) (array : Bool) (kind : ReqKind) (body : TBody) :
    (s.request dst array kind body).atWork = s.atWork := State.send_atWork _ _

theorem State.notify_atWork (s : State) (n : Notice) : (s.notify n).atWork = s.atWork := by
  unfold State.notify
  repeat' split
  · exact State.send_atWork _ _
  all_goals rfl

theorem State.armedAction_atWork (s : State) (i : Nat) (b : Bmk) : (s.armedAction i b).atWork = s.atWork := by
  unfold State.armedAction
  repeat' split
  · rfl
  · rfl
  · exact State.notify_atWork _ _
  · rfl

theorem State.bmkEval_atWork (s : State) (i : Nat) : (s.bmkEval i).atWork = s.atWork :=
  (foldl_proj State.atWork _ (fun s _ => (s.waitReply_reports _ _ _).atWork) _ _).trans
    (foldl_proj State.atWork _ (fun s _ => s.armedAction_atWork i _) _ _)

theorem State.grant_atWork (s : State) (p n r k : Nat) : (s.grant p n r k).atWork = s.atWork := by
  unfold State.grant
  dsimp only
  repeat' split
  · rfl
  · exact State.bmkEval_atWork _ _
  · exact State.request_atWork _ _ _ _ _

theorem State.grantFreed_atWork (s : State) : s.grantFreed.atWork = s.atWork := by
  refine foldl_proj State.atWork _ (fun s w => ?_) _ s
  dsimp only
  split
  · exact s.grant_atWork _ _ _ _
  · rfl

theorem State.closureBoundary_atWork (s : State) (n : Nat) : (s.closureBoundary n).atWork = s.atWork := by
  unfold State.closureBoundary
  dsimp only
  repeat' split
  all_goals rfl

theorem State.tableEffect_atWork (s : State) (t : MTable) : (s.tableEffect t).atWork = s.atWork :=
  (State.retryHeld_sameUnits _).atWork.trans (State.bridgeLeft_sameUnits _).atWork

theorem State.allDrained_atWork (s : State) : s.allDrained.atWork = s.atWork := by
  unfold State.allDrained
  refine foldl_proj State.atWork _ (fun s p => ?_) _ s
  dsimp only
  generalize s.sitesOf p 0xFFFF = sites
  generalize sites.foldl (fun m i => setBit m (s.sw p i).cregion) (0 : W16) = mask
  refine Eq.trans rfl (foldl_proj State.atWork (fun s i => if siteIsCu i then _ else _) (fun s i => ?_) sites s)
  split <;> rfl

theorem State.drainedIdle_atWork (s : State) : s.drainedIdle.atWork = s.atWork := by
  have h := s.allDrained_atWork
  unfold State.drainedIdle
  generalize s.allDrained = d at h
  exact h

theorem State.stopEnd_atWork (s : State) : s.stopEnd.atWork = s.atWork :=
  (State.completeAll_reports _ _ _ _).atWork

theorem State.beginDrain_atWork (s : State) (p : Nat) (mask : W16) : (s.beginDrain p mask).atWork = s.atWork := by
  unfold State.beginDrain
  dsimp only
  generalize s.sitesOf p mask = sites
  refine (foldl_proj State.atWork (fun s x => s.closeInputs p x) (fun _ _ => rfl) sites _).trans ?_
  exact foldl_proj State.atWork (fun s x => s.setSw p x { s.sw p x with run := .draining, drainSet := mask }) (fun _ _ => rfl)
    sites s

theorem State.drainAll_atWork (s : State) : s.drainAll.atWork = s.atWork := by
  unfold State.drainAll
  exact foldl_proj State.atWork _ (fun s p => s.beginDrain_atWork p _) _ s

/-- A stop between two steps abandons none. -/
theorem State.stopOp_atWork {s : State} (h : s.adj.inStep = false) : s.stopOp.atWork = s.atWork := by
  have hcancel : s.cancelClass0.atWork = s.atWork := s.cancelClass0_reports.atWork
  unfold State.stopOp
  dsimp only
  have hnow := (State.tableNow_sameUnits { s.cancelClass0 with img := { s.cancelClass0.img with state := .stopping } }).atWork
  generalize State.tableNow { s.cancelClass0 with img := { s.cancelClass0.img with state := .stopping } } = t at hnow
  have hin : t.adj.inStep = false := (congrArg Prod.snd (hnow.trans hcancel)).trans h
  simp only [hin, Bool.false_eq_true, if_false]
  repeat' split
  · exact (State.stopEnd_atWork t.drainedIdle).trans ((State.drainedIdle_atWork t).trans (hnow.trans hcancel))
  · exact hnow.trans hcancel
  · exact hnow.trans hcancel
  · exact (State.drainAll_atWork t).trans (hnow.trans hcancel)

theorem State.boundaryTable_atWork {s : State} (h : s.adj.inStep = false) : s.boundaryTable.atWork = s.atWork := by
  unfold State.boundaryTable
  split
  · rfl
  next table _ =>
    have htable := s.tableEffect_atWork table
    generalize s.tableEffect table = t at htable
    have hin : t.adj.inStep = false := (congrArg Prod.snd htable).trans h
    dsimp only
    repeat' split
    · rfl
    · rw [State.raisePort_atWork _ (by decide), State.stopOp_atWork hin, htable]
    · exact htable

/-- The end of a boundary: the table that waits, and the drain of a STOP that waits. -/
theorem State.boundaryEnd_atWork {x : State} (h : x.adj.inStep = false) :
    (if x.boundaryTable.img.stopAtBoundary then
      State.drainAll { x.boundaryTable with img := { x.boundaryTable.img with stopAtBoundary := false } }
      else x.boundaryTable).atWork = x.atWork := by
  have htable := State.boundaryTable_atWork h
  generalize x.boundaryTable = y at htable
  split
  · exact (State.drainAll_atWork _).trans htable
  · exact htable

/-- After its last event a step has moved every AU on by one. -/
theorem stepBoundary_steps {s : State} (hin : s.adj.inStep = true) (hruns : s.arrayRuns = true)
    (hsent : s.adj.commitSent = some true) (hall : s.haveAll 3 = true) (g : Fin 4) :
    ((stepBoundary s).au g).step = (s.au g).step + 1 := by
  have hfold := State.foldl_setAu (s := s) (f := fun s g => s.setAu g { s.au g with step := (s.au g).step + 1, phase := 0 })
    (h := fun g => { s.au g with step := (s.au g).step + 1, phase := 0 }) (List.range 4) List.nodup_range
    (fun t g _ _ hau => by rw [hau])
  have hau := s.au_setAus (fun g => { s.au g with step := (s.au g).step + 1, phase := 0 }) g
  simp only [stepBoundary, hin, hruns, hsent, hall, hfold, beq_self_eq_true, Bool.and_self, if_true]
  generalize s.setAus (fun g => { s.au g with step := (s.au g).step + 1, phase := 0 }) (List.range 4) = u at hau
  have hgrant := State.grantFreed_atWork { u with
      adj := u.adj.boundary s.stepIndex.toNat
      flt := { u.flt with stepState := .idle, attempts := 0, begun := none }
      mon := { u.mon with boundary := true } }
  generalize State.grantFreed _ = v at hgrant
  have hclosure := (v.closureBoundary_atWork s.stepIndex.toNat).trans hgrant
  generalize v.closureBoundary s.stepIndex.toNat = w at hclosure
  have haus : ∀ x : State, x.atWork = w.atWork → ((if x.boundaryTable.img.stopAtBoundary then
      State.drainAll { x.boundaryTable with img := { x.boundaryTable.img with stopAtBoundary := false } }
      else x.boundaryTable).au g).step = (s.au g).step + 1 := fun x hx => by
    have hin := congrArg Prod.snd (hx.trans hclosure)
    have hend := (State.boundaryEnd_atWork hin).trans (hx.trans hclosure)
    have hsteps := congrArg (fun x : SMap Au × Bool => (SMap.get {} x.1 g.val).step) hend
    exact hsteps.trans (congrArg Au.step hau)
  split
  · exact haus _ (w.complete_reports _ _).atWork
  · exact haus _ rfl

/-! ## Orders that start a step -/

/-- An order that has just started is among the held ones. -/
theorem State.started_held (s : State) (op : W16) (o : Order) :
    (s.started op o).cmd.held.any (fun h => h.id == s.cmd.nextId) = true := by
  rw [← s.orderId_eq op o]
  refine List.any_eq_true.mpr ⟨{ (s.desk op o).entryOf op (s.atDesk o) {} with started := true }, ?_, beq_self_eq_true _⟩
  refine List.mem_map.mpr ⟨(s.desk op o).entryOf op (s.atDesk o) {}, List.mem_append_right _ List.mem_cons_self, ?_⟩
  exact if_pos (beq_self_eq_true _)

/-- No record has come: there is nothing to judge. -/
theorem State.judge_noRecs {s : State} (hrecs : s.adj.recs = []) (hseals : s.cfg.plan.seals ≠ []) : s.judge = s := by
  have hnone : ∀ typ, s.haveAll typ = false := fun typ => by
    obtain ⟨e, l, hl⟩ := List.exists_cons_of_ne_nil hseals
    simp [State.haveAll, hrecs, hl]
  have hbad : s.judgeBad = s := by simp [State.judgeBad, hrecs]
  have hseal : s.judgeSeal = s := by simp [State.judgeSeal, hnone]
  have hgate : s.judgeGate = s := by simp [State.judgeGate, hnone]
  rw [State.judge, hbad, hseal, hbad, hgate, hbad]

/-- Settles O18: an order's start is held, a time that has come begins its step, and quiescing, restart actions and the
boundary run where their conditions hold. -/
theorem stepsStartEndAndRestart : Obligations.StepsStartEndAndRestart := by
  refine ⟨fun s u o ht hu => congrArg Host.Outcome.next ?start,
    fun s id h hnext hheld hstarted hdue hin himg hstate => ⟨congrArg Host.Outcome.next ?time, fun hrecs hseals hfresh => ?begun⟩,
    fun s hin hruns hsent hall => ⟨_, rfl, fun g => stepBoundary_steps hin hruns hsent hall g⟩,
    fun s ups timedOut hstate hnot hreqs hrows => congrArg Host.Outcome.next ?quiescent,
    fun s u id hrestarting hstart hu => ⟨fun himg => congrArg Host.Outcome.next ?restarted,
      fun himg => congrArg Host.Outcome.next ?stopped⟩,
    fun s hstate => congrArg Host.Outcome.next ?fail⟩
  case start =>
    have hrun : s.cmdArrive opStepStart o 0 (fun _ s => (s, none)) = u := by rw [State.cmdArrive_now ht, hu]
    simp only [Sys2Proof.Machine.stepStart, hrun, hu ▸ s.started_held opStepStart o, if_true, s.orderId_eq]
  case time =>
    have hstate : (s.flt.stepState == .idle || s.flt.stepState == .restarted) = true := by simpa using hstate
    simp [stepStartTime, hnext, hheld, hstarted, hdue, hin, himg, hstate]
  case begun =>
    unfold State.beginStep
    dsimp only
    have hjudge : ∀ t : State, t.adj.recs = s.adj.recs → t.cfg = s.cfg → t.judge = t := fun t hr hc =>
      State.judge_noRecs (hr.trans hrecs) (hc ▸ hseals)
    rw [hfresh, if_neg Bool.false_ne_true, hjudge]
    · exact ⟨rfl, rfl, rfl, rfl⟩
    · rfl
    · rfl
  case quiescent =>
    have hstate : (s.flt.stepState == .failed || s.flt.stepState == .quiescing) = true := by simpa using hstate
    have hreqs : (timedOut || !s.lxg.reqs.any (·.failed)) = true := by
      simpa using hreqs
    have hrows : (List.range 4).all (fun p => (s.plat p).reqs.all (fun r => r.sent && timedOut)) = true :=
      List.all_eq_true.mpr fun p hp => List.all_eq_true.mpr fun q hq => by
        simpa using hrows ⟨p, List.mem_range.mp hp⟩ q hq
    simp only [quiescingEnd, hstate, hnot, hreqs, hrows, Bool.not_false, Bool.and_self, if_true]
  case restarted =>
    have himg : (u.img.state == .stopping) = false := by simpa using himg
    simp only [restartActionsDone, hrestarting, hstart, hu, himg, if_true, Bool.false_eq_true, if_false]
  case stopped =>
    have himg : (u.img.state == .stopping) = true := by simpa using himg
    simp only [restartActionsDone, hrestarting, hstart, hu, himg, if_true]
  case fail =>
    have hstate : (s.flt.stepState == .failed || s.flt.stepState == .quiescing) = true := by simpa using hstate
    simp only [Sys2Proof.Machine.restartFail, hstate, if_true]

end Sys2Proof.Machine
end

section
/-! Orders of coefficients and freezes, and the step counters of the AUs. -/
namespace Sys2Proof.Machine

theorem setWidth48_eq_fld (v : W64) : v.setWidth 48 = BitVec.ofNat 48 (fld v 0 48) := by
  refine BitVec.eq_of_toNat_eq ?_
  simp [fld]

/-- Settles O19: the check of an order picks its code; an entry inside its window is held. -/
theorem coefficientAndFreezeOrdersComplete : Obligations.CoefficientAndFreezeOrdersComplete := by
  refine ⟨fun s u o ht hu => congrArg Host.Outcome.next ?coef, fun s w hres hres' hindex hwindow hok => ?entry,
    fun s u o ht hu hres hregion hwindow => congrArg Host.Outcome.next ?freeze,
    fun s g v hgate => ⟨fun himg => congrArg Host.Outcome.next ?stepSet, fun himg => congrArg Host.Outcome.next ?stepHeld⟩⟩
  case coef =>
    rw [Sys2Proof.Machine.coefSet, State.cmdArrive_now ht, hu]
    rfl
  case entry =>
    have h : s.coefEntry w = (Codes.ok, { s with adj := { s.adj with coefs := s.adj.coefs.filter (fun e =>
        !(e.step == BitVec.ofNat 48 (fld w 0 48) && e.row == fld w 48 6 && e.index == fld w 54 5)) ++
        [{ step := BitVec.ofNat 48 (fld w 0 48), row := fld w 48 6, index := fld w 54 5
           value := BitVec.ofNat 32 (fld w 64 32) }] } }) := by
      simp only [State.coefEntry, hres, hres', hwindow, hok, decide_eq_false (Nat.not_lt.mpr hindex)]
      rfl
    rw [h]
    exact ⟨rfl, List.mem_append_right _ List.mem_cons_self⟩
  case freeze =>
    rw [Sys2Proof.Machine.freezeSet, State.cmdArrive_now ht, hu]
    simp only [freezeSetEff, State.freezeApply, hres, hwindow, decide_eq_false (Nat.not_le.mpr hregion)]
    rfl
  case stepSet =>
    rw [State.atBlock_open hgate, Sys2Proof.Machine.auStepWrite, State.woken_img, himg, setWidth48_eq_fld]
    rfl
  case stepHeld =>
    have himg : (s.img.state == .ready) = false := by simpa using himg
    rw [State.atBlock_open hgate, Sys2Proof.Machine.auStepWrite, State.woken_img, himg]
    rfl

end Sys2Proof.Machine
end

section
/-! Exchange records of other devices. -/
namespace Sys2Proof.Machine

/-! ## A failed step judges nothing -/

section
variable {s : State} (h : s.stepFailed = true)
include h

theorem State.judgeBad_failed : s.judgeBad = s := by simp [State.judgeBad, h]
theorem State.judgeSeal_failed : s.judgeSeal = s := by simp [State.judgeSeal, h]
theorem State.judgeGate_failed : s.judgeGate = s := by simp [State.judgeGate, h]

end

/-- A contained fault of a step under way fails it. -/
theorem State.raise_cont_stepFailed {s : State} (himg : s.img.state = .running ∨ s.img.state = .stopping)
    (hin : s.adj.inStep = true) (hok : s.stepFailed = false) (code : Code) (kind inst : Nat) (d : W64) :
    (s.raise .cont code kind inst d).stepFailed = true := by
  have hstep : (s.logFault .cont code kind inst d).flt.stepState = s.flt.stepState := (s.logFault_flt .cont code kind inst d).1
  have hgoes : (s.flt.stepState == .idle || s.flt.stepState == .running) = true := by
    revert hok
    unfold State.stepFailed
    cases s.flt.stepState <;> decide
  have himg : (s.img.state == .running || (s.img.state == .stopping && s.adj.inStep)) = true := by
    obtain himg | himg := himg <;> simp [himg, hin]
  have hcond : (((s.logFault .cont code kind inst d).img.state == .running ||
      ((s.logFault .cont code kind inst d).img.state == .stopping && (s.logFault .cont code kind inst d).adj.inStep)) &&
      ((s.logFault .cont code kind inst d).flt.stepState == .idle ||
        (s.logFault .cont code kind inst d).flt.stepState == .running)) = true := by
    rw [hstep, hgoes, Bool.and_true]
    exact himg
  unfold State.raise State.stepFail
  dsimp only
  rw [if_pos hcond]
  rfl

/-- A failed exchange before its fault is raised: AU_EXCH is w and every AU shows the bit. -/
def State.exchMarked (s : State) (w : W64) (bit : Nat) : State :=
  State.auFlagAll { s with adj := { s.adj with exch := w } } bit

theorem State.exchFail_eq (s : State) (dev typ : Nat) (fault : Code) (bit : Nat) (code : Code) :
    s.exchFail dev typ fault bit code =
      (s.exchMarked (mkWord 64 [(0, 12, dev), (12, 2, typ), (16, 16, fault.toNat), (32, 1, 1)]) bit).raise .cont code 5 0
        (mkWord 64 [(0, 12, dev), (12, 2, typ), (16, 16, fault.toNat), (32, 1, 1)]) := rfl

section
variable (s : State) (w : W64) (bit : Nat)

theorem State.exchMarked_eq : s.exchMarked w bit = State.setAus { s with adj := { s.adj with exch := w } }
    (fun g => { s.au g with fault := setBit (s.au g).fault bit }) (List.range 4) :=
  State.foldl_setAu _ List.nodup_range (fun t g _ _ hau => by rw [hau]; rfl)

/-- Flagging the AUs changes nothing else. -/
theorem State.exchMarked_others : { s.exchMarked w bit with aus := s.aus } = { s with adj := { s.adj with exch := w } } := by
  rw [State.exchMarked_eq]
  exact State.setAus_others { s with adj := { s.adj with exch := w } } _ _

theorem State.exchMarked_adj : (s.exchMarked w bit).adj = { s.adj with exch := w } := by
  have e := congrArg State.adj (s.exchMarked_others w bit)
  exact e

theorem State.exchMarked_img : (s.exchMarked w bit).img = s.img := by
  have e := congrArg State.img (s.exchMarked_others w bit)
  exact e

theorem State.exchMarked_stepFailed : (s.exchMarked w bit).stepFailed = s.stepFailed := by
  have e := congrArg State.stepFailed (s.exchMarked_others w bit)
  exact e

theorem State.exchMarked_au (g : Fin 4) :
    (s.exchMarked w bit).au g = { s.au g with fault := setBit (s.au g).fault bit } := by
  rw [State.exchMarked_eq]
  exact State.au_setAus _ _ g

end

/-- A contained fault leaves every AU as it is. -/
theorem State.raise_cont_au (s : State) (code : Code) (kind inst : Nat) (d : W64) (g : Nat) :
    (s.raise .cont code kind inst d).au g = s.au g :=
  congrArg (fun m => SMap.get ({} : Au) m g) (s.raise_cont_contained code kind inst d).aus

theorem State.raise_cont_exch (s : State) (code : Code) (kind inst : Nat) (d : W64) :
    (s.raise .cont code kind inst d).adj.exch = s.adj.exch :=
  congrArg (fun x : Bool × List (Nat × W32) × W64 => x.2.2) (s.raise_lasting (c := .cont) (by decide) code kind inst d)

section
variable (s : State) (dev typ : Nat) (fault : Code) (bit : Nat) (code : Code)

theorem State.exchFail_exch : (s.exchFail dev typ fault bit code).adj.exch =
    mkWord 64 [(0, 12, dev), (12, 2, typ), (16, 16, fault.toNat), (32, 1, 1)] := by
  rw [State.exchFail_eq, State.raise_cont_exch, State.exchMarked_adj]

theorem State.exchFail_au (g : Fin 4) :
    ((s.exchFail dev typ fault bit code).au g).fault = setBit (s.au g).fault bit := by
  rw [State.exchFail_eq, State.raise_cont_au, State.exchMarked_au]

end

theorem State.exchFail_stepFailed {s : State} (himg : s.img.state = .running ∨ s.img.state = .stopping)
    (hin : s.adj.inStep = true) (hok : s.stepFailed = false) (dev typ : Nat) (fault : Code) (bit : Nat) (code : Code) :
    (s.exchFail dev typ fault bit code).stepFailed = true := by
  rw [State.exchFail_eq]
  refine State.raise_cont_stepFailed ?_ ?_ ?_ _ _ _ _
  · rw [State.exchMarked_img]
    exact himg
  · rw [State.exchMarked_adj]
    exact hin
  · rw [State.exchMarked_stepFailed]
    exact hok

/-- Settles O20: a record that fails the step is the first bad one of the first judgement, and the failed step judges nothing
more. -/
theorem exchangeRecordsArriveOrTimeOut : Obligations.ExchangeRecordsArriveOrTimeOut := by
  refine ⟨fun s u v rx r ht htyp hu himg hok hseal hnew hv => ?kept,
    fun s u rx r ht htyp hu hlayout => congrArg Host.Outcome.next ?closure,
    fun s e hin hruns hbank hdue hmiss => ⟨s.exchFail e.dev s.exchPhase Codes.exchangeTimeout 5 Codes.exchangeTimeout,
      congrArg Host.Outcome.next ?missed, State.exchFail_exch _ _ _ _ _ _,
      fun g => ?flag⟩⟩
  case kept =>
    have hrun : normRecord rx r s = (v.keepRec r).judge := by
      have himg : (u.img.state != .running && u.img.state != .stopping) = false := by
        obtain himg | himg := himg <;> simp [himg]
      have hseal : u.cfg.plan.seals.any (fun e => e.dev == r.dev) = true := by simpa using hseal
      have hnew : u.adj.recs.any (fun q => q.typ == r.typ && q.dev == r.dev && q.step == r.step && (q.vote || !r.vote)) =
          false := List.any_eq_false.mpr fun q hq hbad => by
        simp only [Bool.and_eq_true, beq_iff_eq] at hbad
        obtain ⟨⟨⟨ht, hd⟩, hs⟩, hv⟩ := hbad
        obtain ⟨hq1, hr1⟩ := hnew q hq ht hd hs
        simp [hq1, hr1] at hv
      rw [normRecord, State.take_here ht, hu, if_neg htyp, hv]
      simp only [State.exchRecord, himg, hok, hseal, hnew, Bool.not_true, Bool.or_self, Bool.false_eq_true, if_false]
    refine ⟨congrArg Host.Outcome.next hrun, fun hin hstep hvote hdev hrest => congrArg Host.Outcome.next (hrun.trans ?_)⟩
    have hfind : (v.keepRec r).adj.recs.find? (fun q => q.dev != (v.keepRec r).cfg.plan.dev && (v.keepRec r).recBad q) =
        some r := by
      have hr : (r.dev != (v.keepRec r).cfg.plan.dev && (v.keepRec r).recBad r) = true := by
        have hnow : (r.step == (v.keepRec r).stepIndex) = true := beq_iff_eq.mpr hstep
        rw [Bool.and_eq_true, State.recBad, hvote, hnow]
        exact ⟨bne_iff_ne.mpr hdev, rfl⟩
      refine (List.find?_append ..).trans ?_
      rw [List.find?_eq_none.mpr]
      · simp only [List.find?_cons, hr, Option.none_or]
      · intro q hq hbad
        rw [Bool.and_eq_true, bne_iff_ne] at hbad
        obtain ⟨hqd, hqb⟩ := hbad
        exact absurd hqb (ne_true_of_eq_false (hrest q hq hqd))
    have hfailed : (v.keepRec r).stepFailed = false := by
      rw [hv]
      exact hok
    have hin' : (v.keepRec r).adj.inStep = true := hin
    have hbad : (v.keepRec r).judgeBad = (v.keepRec r).exchFail r.dev r.typ.val r.fault 4 Codes.sealPeer := by
      have hnow : (r.step == (v.keepRec r).stepIndex) = true := beq_iff_eq.mpr hstep
      simp only [State.judgeBad, hin', hfailed, hfind, hnow, Bool.not_false, Bool.and_self, if_true]
    have hstop := State.exchFail_stepFailed (s := v.keepRec r) (hv ▸ himg) hin' hfailed r.dev r.typ.val r.fault 4 Codes.sealPeer
    rw [State.judge, hbad, State.judgeSeal_failed hstop, State.judgeBad_failed hstop, State.judgeGate_failed hstop,
      State.judgeBad_failed hstop]
  case closure =>
    rw [normRecord, State.take_here ht, hu, if_pos htyp, if_pos hlayout]
  case missed =>
    simp only [Sys2Proof.Machine.exchangeTimeout, hin, hruns, hbank, hdue, hmiss, decide_true, Bool.and_self, Bool.not_false,
      if_true]
  case flag =>
    rw [State.exchFail_au, setBit]
    simp

end Sys2Proof.Machine
end

section
/-! Events of external memory. -/
namespace Sys2Proof.Machine

theorem State.raise_stat_mg (s : State) (code : Code) (kind inst : Nat) (d : W64) (g : Nat) :
    (s.raise .stat code kind inst d).mg g = s.mg g := rfl

theorem State.raise_stat_chan (s : State) (code : Code) (kind inst : Nat) (d : W64) (c : Nat) :
    (s.raise .stat code kind inst d).chan c = s.chan c := rfl

/-- A burst that the patrol scrubber cannot correct is poisoned, flagged and recorded (R272). -/
def State.scrubPoisoned (u : State) (c pos : Nat) : State :=
  let t : State := { u with dram := { u.dram with
      poison := SMap.set false u.dram.poison (burstKey c (128 * pos)) true
      err := SMap.set [] u.dram.err (burstKey c (128 * pos)) [] } }
  (t.setMg (c / 4) { t.mg (c / 4) with fault := setBit (t.mg (c / 4)).fault 2, eccLoc := mgLoc c pos false true }).raise
    .stat Codes.dramScrubUe 5 (c / 4) (mgLoc c pos false true)

theorem State.scrubPoisoned_fault (u : State) (c pos : Nat) :
    ((u.scrubPoisoned c pos).mg (c / 4)).fault = setBit (u.mg (c / 4)).fault 2 := by
  unfold State.scrubPoisoned
  dsimp only
  rw [State.raise_stat_mg, State.mg_setMg]
  rfl

/-- A module that is hot for the first time is flagged (R267). -/
def State.heated (s : State) (c : Nat) : State :=
  let t := s.setChan c { s.chan c with hot := true }
  t.setMg (c / 4) { t.mg (c / 4) with fault := setBit (t.mg (c / 4)).fault 5 }

theorem dramHot_flags {s : State} {c n : Nat} (hn : n < 16) (hup : (s.chan c).state = .up) (hcold : (s.chan c).hot = false) :
    Sys2Proof.Machine.dramHot c n s =
      (s.heated c).raise .stat Codes.dramHot 5 (c / 4) ((s.heated c).mg (c / 4)).eccLoc := by
  simp [Sys2Proof.Machine.dramHot, State.heated, State.chanFails, Nat.not_le.mpr hn, hup, hcold]

/-- Settles O21: an access takes the branch that its checks and its retries name. -/
theorem externalMemoryEventsComplete : Obligations.ExternalMemoryEventsComplete := by
  have htake : ∀ {a : Nat} (data : List Byte), a % 128 + data.length ≤ 128 →
      data.take (burstBase a + 128 - a) = data := fun data h => List.take_of_length_le (by unfold burstBase; omega)
  refine ⟨fun s u user addr retries c o ups bs bad hawake hdram hok hmap =>
      ⟨fun hretries hread => congrArg Host.Outcome.next ?read, fun hretries => congrArg Host.Outcome.next ?readLost⟩,
    fun s user addr retries ups hawake hdram hok => congrArg Host.Outcome.next ?readForbidden,
    fun s user addr data poison retries ups hawake hdram hdata hlen hload hlock =>
      ⟨fun hok => congrArg Host.Outcome.next ?writeForbidden, fun c o hok hmap =>
        ⟨fun hretries => congrArg Host.Outcome.next ?write, fun hretries => congrArg Host.Outcome.next ?writeLost⟩⟩,
    fun s c n => ⟨fun h => congrArg Host.Outcome.next ?refresh, fun hn hup => ⟨congrArg Host.Outcome.next ?refreshLost,
      congrArg Host.Outcome.next ?hotLost⟩⟩,
    fun s c n hn hup hcold => ⟨_, congrArg Host.Outcome.next (dramHot_flags hn hup hcold), ?hotChan, ?hotMg⟩,
    fun s u c ups hup hawake hperiod => ⟨fun hdec => congrArg Host.Outcome.next ?scrubGood,
      fun hdec => ⟨u.scrubPoisoned c (s.chan c).scrubPos, congrArg Host.Outcome.next ?scrubBad, rfl, rfl, ?fault⟩⟩,
    fun s c hmore => ?advance⟩
  case read =>
    simp only [State.whenAwake, hawake, dramReadEvent, hdram, hok, hmap, Nat.not_le.mpr hretries, hread]
    rfl
  case readLost =>
    simp [State.whenAwake, hawake, dramReadEvent, hdram, hok, hmap, hretries]
  case readForbidden =>
    simp [State.whenAwake, hawake, dramReadEvent, hdram, hok]
  case writeForbidden =>
    simp only [State.whenAwake, hawake, dramWriteEvent, hdram, htake data hlen, List.isEmpty_eq_false_iff.mpr hdata, hload, hlock, hok]
    rfl
  case write =>
    simp only [State.whenAwake, hawake, dramWriteEvent, hdram, htake data hlen, List.isEmpty_eq_false_iff.mpr hdata, hload, hlock, hok, hmap,
      Nat.not_le.mpr hretries]
    rfl
  case writeLost =>
    simp only [State.whenAwake, hawake, dramWriteEvent, hdram, htake data hlen, List.isEmpty_eq_false_iff.mpr hdata, hload, hlock, hok, hmap, hretries]
    rfl
  case refresh =>
    have hfails : s.chanFails c n = false := by
      rw [State.chanFails, Bool.and_eq_false_iff, decide_eq_false_iff_not]
      exact h.imp Nat.not_le.mpr beq_eq_false_iff_ne.mpr
    simp only [Sys2Proof.Machine.dramRefresh, hfails, Bool.false_eq_true, if_false]
  case refreshLost => simp [Sys2Proof.Machine.dramRefresh, State.chanFails, hn, hup]
  case hotLost => simp [Sys2Proof.Machine.dramHot, State.chanFails, hn, hup]
  case hotChan => rw [State.raise_stat_chan, State.heated, State.chan_of_setMg, State.chan_setChan]
  case hotMg => rw [State.raise_stat_mg, State.heated, State.mg_setMg, State.mg_of_setChan]
  case scrubGood =>
    simp only [patrolScrub, hup, hawake, beq_eq_false_iff_ne.mpr hperiod, hdec, bne_self_eq_false, Bool.not_true, Bool.or_self,
      Bool.false_eq_true, if_false]
  case scrubBad =>
    simp only [patrolScrub, hup, hawake, beq_eq_false_iff_ne.mpr hperiod, hdec, bne_self_eq_false, Bool.not_true, Bool.or_self,
      Bool.false_eq_true, if_false, if_true, State.scrubPoisoned]
  case fault =>
    rw [State.scrubPoisoned_fault, setBit]
    simp
  case advance => simp [State.scrubAdvance, hmore]

end Sys2Proof.Machine
end

section
/-! Operations and streams of monuments. -/
namespace Sys2Proof.Machine

/-! ## MON_CMD words -/

theorem monVia_reg {s : State} {path : Path} (hopen : s.openFor path .glb) (w : W64) :
    monVia w (.reg path) s = (s.monWord w).1 := by
  rw [monVia, State.writeBy_open hopen, State.woken_glbBlock]

theorem monVia_cmd {s u : State} {o r : Order} {w : W64} (hr : rowOrder o 0 0 64 w.toNat = r)
    (ht : s.takesNow opMon r (s.monSize w)) (hu : s.started opMon r = u) :
    monVia w (.cmd o) s = (match (u.monWord w).2 with
      | some c => (u.monWord w).1.complete (s.orderId opMon r) { code := c }
      | none => (u.monWord w).1) := by
  have hword : CmdWord.payWord { opcode := opMon, desc := r.desc } 0 = w := by
    rw [← hr, payWord_rowOrder, BitVec.ofNat_toNat, BitVec.setWidth_eq]
  rw [monVia, hr, State.cmdArrive_now ht, hu, monEff, hword]
  generalize u.monWord w = x
  obtain ⟨t, c⟩ := x
  cases c <;> rfl

theorem fld_captureWord (m : Step) : fld (mkWord 64 [(16, 48, m.toNat)]) 0 2 = 0 ∧
    fld (mkWord 64 [(16, 48, m.toNat)]) 16 48 = m.toNat := by
  have hm := m.isLt
  simp only [mkWord, List.foldl_cons, List.foldl_nil]
  rw [fld_ofNat _ _ _ (by decide), fld_ofNat _ _ _ (by decide)]
  omega

theorem toNat_restoreWord (newest : Bool) (m : Step) :
    (mkWord 64 [(0, 2, 1), (2, 1, b2n newest), (16, 48, m.toNat)]).toNat = 1 + 4 * b2n newest + m.toNat * 2 ^ 16 := by
  have hm := m.isLt
  simp only [mkWord, List.foldl_cons, List.foldl_nil, BitVec.toNat_ofNat]
  cases newest <;> simp only [b2n, if_true, Bool.false_eq_true, if_false] <;> omega

theorem fld_restoreWord (newest : Bool) (m : Step) : fld (mkWord 64 [(0, 2, 1), (2, 1, b2n newest), (16, 48, m.toNat)]) 0 2 = 1 ∧
    bitOf (mkWord 64 [(0, 2, 1), (2, 1, b2n newest), (16, 48, m.toNat)]) 2 = newest ∧
    fld (mkWord 64 [(0, 2, 1), (2, 1, b2n newest), (16, 48, m.toNat)]) 16 48 = m.toNat := by
  have hm := m.isLt
  simp only [fld, bitOf, toNat_restoreWord, Nat.testBit_eq_decide_div_mod_eq]
  cases newest <;> simp only [b2n, if_true, Bool.false_eq_true, if_false] <;> refine ⟨by omega, ?_, by omega⟩
  · exact decide_eq_false (by omega)
  · exact decide_eq_true (by omega)

section
variable {s : State} (hpwr : s.pwr.state ≠ .idle)
include hpwr

theorem State.monWord_capture (m : Step) : s.monWord (mkWord 64 [(16, 48, m.toNat)]) = s.captureOp m.toNat := by
  obtain ⟨hop, hstep⟩ := fld_captureWord m
  rw [State.monWord, beq_eq_false_iff_ne.mpr hpwr, hop, hstep]
  rfl

theorem State.monWord_restore (newest : Bool) (m : Step) :
    s.monWord (mkWord 64 [(0, 2, 1), (2, 1, b2n newest), (16, 48, m.toNat)]) = s.restoreOp newest m.toNat := by
  obtain ⟨hop, hnewest, hstep⟩ := fld_restoreWord newest m
  rw [State.monWord, beq_eq_false_iff_ne.mpr hpwr, hop, hnewest, hstep]
  rfl

theorem State.monWord_abort : s.monWord 2 = s.monAbortOp := by
  rw [State.monWord, beq_eq_false_iff_ne.mpr hpwr]
  rfl

end

/-! ## CAPTURE, RESTORE and ABORT -/

theorem State.monEnd_mon (s : State) (code : Code) (step : Nat) :
    (s.monEnd code step).mon = { s.mon with result := code, resultStep := step } := (State.completeAll_reports _ _ _ _).mon

/-- An abandoned monument of this device shows its code and its step. -/
theorem State.monAbandon_own {s : State} {j : MonJob} {code : Code} (hjob : s.mon.job = some j) (hown : j.own = true) :
    (s.monAbandon code).mon.job = none ∧ (s.monAbandon code).mon.result = code ∧
      (s.monAbandon code).mon.resultStep = j.step := by
  unfold State.monAbandon
  rw [hjob]
  dsimp only
  rw [if_pos hown, State.monEnd_mon]
  exact ⟨rfl, rfl, rfl⟩

/-- The job of a CAPTURE of step m (R288 to R290). -/
def State.captureJob (s : State) (m : Nat) : MonJob :=
  { own := true, step := m, src := s.cfg.plan.dev % 4096, dst := s.mon.sinkId, mask := s.mon.mask, window := s.mon.window
    bm := s.mon.progress, head := s.manifest m (s.monSegs m), segs := s.monSegs m, rule := s.cfg.ruleBytes
    freeze := freezeBytes s.adj.freeze, base := 0, len := segsEnd (s.monSegs m) }

theorem State.captureOp_begins {s : State} {m : Nat} (himg : s.img.state = .ready ∨ s.img.state = .running)
    (hdebug : s.debugOpen = false) (hbusy : s.monBusy = false) (hheld : s.stateHeld m = true)
    (hports : s.monPorts s.mon.mask ≠ []) :
    s.captureOp m = ({ s with mon := { s.mon with
      job := some (s.captureJob m), result := Codes.ok, resultStep := m, acked := 0, total := (s.captureJob m).total } }, none) := by
  have hheld' : (s.img.state == .held) = false := by obtain himg | himg := himg <;> simp [himg]
  have himg' : (!(s.img.state == .ready || s.img.state == .running) || s.debugOpen) = false := by
    obtain himg | himg := himg <;> simp [himg, hdebug]
  simp only [State.captureOp, State.captureJob, hheld', himg', hbusy, hheld, List.isEmpty_eq_false_iff.mpr hports,
    Bool.not_true, Bool.false_eq_true, if_false]

/-- Settles O22: each word is decoded, and its operation takes the branch of a free engine. -/
theorem monumentOperationsBeginAndEnd : Obligations.MonumentOperationsBeginAndEnd := by
  refine ⟨fun s path m hopen hpwr himg hdebug hbusy hheld hports => ?capture,
    fun s u o r m newest w i hi hr ht hu => ?order,
    fun s path newest m hopen hpwr himg hbusy hhost => congrArg Host.Outcome.next ?host,
    fun s path newest m hopen hpwr himg hbusy hdev hports => congrArg Host.Outcome.next ?device,
    fun s path j hopen hpwr himg hrestore hjob hown => ⟨(s.monAbortOp).1, congrArg Host.Outcome.next ?abort, ?ended⟩⟩
  case capture =>
    have hrun := State.captureOp_begins himg hdebug hbusy hheld hports
    exact ⟨_, s.captureJob m.toNat, congrArg Host.Outcome.next ((monVia_reg hopen _).trans
      (congrArg Prod.fst ((State.monWord_capture hpwr m).trans hrun))), rfl, rfl, rfl, rfl, rfl, rfl, rfl, rfl, rfl, rfl⟩
  case order =>
    simp only [List.mem_cons, Prod.mk.injEq, List.not_mem_nil, or_false] at hi
    obtain ⟨rfl, rfl⟩ | ⟨rfl, rfl⟩ | ⟨rfl, rfl⟩ := hi <;>
      exact congrArg Host.Outcome.next (monVia_cmd hr ht hu)
  case host =>
    rw [Sys2Proof.Machine.restore, monVia_reg hopen, State.monWord_restore hpwr]
    simp [State.restoreOp, himg, hbusy, hhost]
  case device =>
    rw [Sys2Proof.Machine.restore, monVia_reg hopen, State.monWord_restore hpwr]
    simp [State.restoreOp, himg, hbusy, hdev, hports]
  case abort => rw [Sys2Proof.Machine.monumentAbort, monVia_reg hopen, State.monWord_abort hpwr]
  case ended =>
    have himg : (s.img.state == .held) = false := by simpa using himg
    have hrun : s.monAbortOp.1 =
        State.monAbandon { s with mon := { s.mon with result := Codes.ok, resultStep := s.mon.stepNow } } Codes.monAbandoned := by
      simp only [State.monAbortOp, himg, hrestore, Bool.false_eq_true, if_false]
    rw [hrun]
    exact State.monAbandon_own hjob hown

/-! ## The stream of a monument -/

/-- Settles O23: each event finds its frame, or its chunk, as its premises name it. -/
theorem monumentStreamGoesOn : Obligations.MonumentStreamGoesOn := by
  refine ⟨fun s u ups j k bs bad hjob hruns hnext hroom hown hread hk =>
      ⟨fun hbad => congrArg Host.Outcome.next ?chunk, fun hbad => congrArg Host.Outcome.next ?poisoned⟩,
    fun s j hid hjob hown hnext hrecord => congrArg Host.Outcome.next ?signature,
    fun s j i e hjob hfind => ⟨fun hsends => congrArg Host.Outcome.next ?retry, fun hsends => congrArg Host.Outcome.next ?spent⟩,
    fun s j i e hjob hfind => congrArg Host.Outcome.next ?silence,
    fun s j i hjob hspent => congrArg Host.Outcome.next ?limit,
    fun s hwaits hdue => congrArg Host.Outcome.next ?bank⟩
  case chunk =>
    subst hk hbad
    simp [chunkRead, hjob, hruns, hnext, hroom, hown, hread]
  case poisoned =>
    subst hbad
    simp [chunkRead, hjob, hruns, hnext, hroom, hown, hread]
  case signature => simp [recordSignature, hid, hjob, hown, hnext, hrecord]
  case retry => simp [retryResend, hjob, hfind, Nat.not_le.mpr (Nat.lt_succ_of_le hsends)]
  case spent => simp [retryResend, hjob, hfind, hsends]
  case silence => simp [silenceResend, hjob, hfind]
  case limit =>
    have hany : j.flight.any (fun e => e.index == i.toNat && !e.retry && decide (17 ≤ e.sends)) = true := by
      obtain ⟨e, he, hindex, hretry, hsends⟩ := hspent
      exact List.any_eq_true.mpr ⟨e, he, by simp [hindex, hretry, hsends]⟩
    simp only [resendLimit, hjob, hany, if_true]
  case bank => simp [Sys2Proof.Machine.monBankWait, hwaits, hdue]

end Sys2Proof.Machine
end

section
/-! Monument frames and closure checks. -/
namespace Sys2Proof.Machine

/-- An acknowledgement is a message. -/
theorem State.monAck_reports (s : State) (rx : Rx) (f : MonFrame) (index : W32) (status : Byte) :
    Reports s (s.monAck rx f index status) := s.put_reports _ _

theorem State.restoreEnd_mon (s : State) (r : Restore) (code : Code) : (s.restoreEnd r code).mon =
    { s.mon with restore := none, restoreBad := code != Codes.ok, boundary := false, result := code, resultStep := r.step.getD 0 } :=
  State.monEnd_mon _ _ _

theorem State.restoreEnd_aus (s : State) (r : Restore) (code : Code) : (s.restoreEnd r code).aus = s.aus :=
  (State.completeAll_reports _ _ _ _).aus

theorem State.restoreEnd_au (s : State) (r : Restore) (code : Code) (g : Nat) : (s.restoreEnd r code).au g = s.au g :=
  congrArg (fun m => SMap.get ({} : Au) m g) (s.restoreEnd_aus r code)

/-- The state of step m is back: its seeds, and every AU at the step after it (R309). -/
def State.stateBack (u : State) (m : Nat) (a b : W64) : State :=
  { u.setAus (fun g => { u.au g with step := BitVec.ofNat 48 (m + 1) }) (List.range 4) with
    mon := { u.mon with seed0 := a, seed1 := b, boundary := false, pass2Step := none } }

theorem State.stateBack_au (u : State) (m : Nat) (a b : W64) (g : Fin 4) :
    ((u.stateBack m a b).au g).step = BitVec.ofNat 48 (m + 1) :=
  congrArg Au.step (u.au_setAus (fun g => { u.au g with step := BitVec.ofNat 48 (m + 1) }) g)

/-- The record of a complete restore that matches and is signed ends it. -/
theorem State.restoreRecord_good {u : State} {rx : Rx} {f : MonFrame} {r : Restore} {a b : W64} (hseed : r.seed = some (a, b))
    (hrec : recordMatches f.payload f.step.toNat (segsEnd (u.monSegs f.step.toNat)) r.got = true)
    (hsig : u.recordSigned f.payload = true) : u.restoreRecord rx f r =
      ((u.stateBack f.step.toNat a b).monAck rx f (BitVec.ofNat 32 ackRecord) 0).restoreEnd r Codes.ok := by
  have hmon : (u.setAus (fun g => { u.au g with step := BitVec.ofNat 48 (f.step.toNat + 1) }) (List.range 4)).mon = u.mon := by
    have e := congrArg State.mon (u.setAus_others
      (fun g => { u.au g with step := BitVec.ofNat 48 (f.step.toNat + 1) }) (List.range 4))
    exact e
  have hfold := State.foldl_setAu (s := u) (f := fun s g => s.setAu g { s.au g with
      step := BitVec.ofNat 48 (f.step.toNat + 1) }) (h := fun g => { u.au g with step := BitVec.ofNat 48 (f.step.toNat + 1) })
    (List.range 4) List.nodup_range (fun t g _ _ hau => by rw [hau])
  simp only [State.restoreRecord, State.stateBack, hseed, hrec, hsig, hfold, hmon, Bool.not_true, Bool.false_eq_true, if_false]

/-- The job that streams a stored monument to the device that pulls it (R310). -/
def State.pullJob (v : State) (src : Nat) (dst : W16) (x : SlotSeen) : MonJob :=
  { own := false, step := x.step, src := src, dst := dst, mask := v.mon.mask, window := v.mon.window, bm := v.mon.progress
    head := [], segs := [], rule := [], freeze := [], base := x.at_ + 0x10000, len := x.len }

/-- Settles O24: each frame finds the job, the fill or the restore that it belongs to. -/
theorem monumentFramesComplete : Obligations.MonumentFramesComplete := by
  refine ⟨fun s u rx f j e ht hu hjob hsrc hstep hdst hfind hstatus hindex hbm => congrArg Host.Outcome.next ?ack,
    fun s u rx f r x ht hu hrestore hrange hsrc hdigest hfill hlen hroom => congrArg Host.Outcome.next ?fill,
    fun s u rx f r ht hu hrestore hmatch => congrArg Host.Outcome.next ?chunk,
    fun s u rx f x ht hu hrestore hfill hrec hsig => congrArg Host.Outcome.next ?record,
    fun s u rx f r a b ht hu hrestore hmatch hseed hrec hsig => ?restored,
    fun s u rx f ht hu => ⟨fun hrestore => congrArg Host.Outcome.next ?abandonFill,
      fun r hrestore hmatch => congrArg Host.Outcome.next ?abandonRestore⟩,
    fun s u v rx f r valid x ht hu hrange hvalid hnewest himg hbusy hports => ?pull⟩
  case ack =>
    rw [Sys2Proof.Machine.ackFrame, State.take_here ht, hu]
    simp [State.onAck, hjob, hsrc, hstep, hdst, hfind, hstatus, hindex, hbm, State.setJob]
  case fill =>
    rw [Sys2Proof.Machine.chunkFrame, State.take_here ht, hu]
    simp [State.onChunk, State.buddyChunk, State.fillChunk, hrestore, hrange, hsrc, hdigest, hfill, Nat.not_lt.mpr hlen, hroom,
      Option.filter]
  case chunk =>
    rw [Sys2Proof.Machine.chunkFrame, State.take_here ht, hu]
    simp [State.onChunk, hrestore, hmatch]
  case record =>
    rw [Sys2Proof.Machine.recordFrame, State.take_here ht, hu]
    simp [State.buddyRecord, hrestore, hfill, hrec, hsig]
  case restored =>
    have hrun : recordFrame rx f s = ((u.stateBack f.step.toNat a b).monAck (s.headerOf rx) f
        (BitVec.ofNat 32 ackRecord) 0).restoreEnd r Codes.ok := by
      rw [Sys2Proof.Machine.recordFrame, State.take_here ht, hu, hrestore]
      exact (if_pos hmatch).trans (State.restoreRecord_good hseed hrec hsig)
    have hmon : ((u.stateBack f.step.toNat a b).monAck (s.headerOf rx) f (BitVec.ofNat 32 ackRecord) 0).mon =
        { u.mon with seed0 := a, seed1 := b, boundary := false, pass2Step := none } := (State.monAck_reports _ _ _ _ _).mon
    refine ⟨_, congrArg Host.Outcome.next hrun, ?_⟩
    rw [State.restoreEnd_mon, hmon]
    refine ⟨rfl, rfl, rfl, rfl, rfl, fun g => ?_⟩
    rw [State.restoreEnd_au, (State.monAck_reports _ _ _ _ _).au, State.stateBack_au]
  case abandonFill =>
    rw [Sys2Proof.Machine.abandonFrame, State.take_here ht, hu, hrestore]
  case abandonRestore =>
    rw [Sys2Proof.Machine.abandonFrame, State.take_here ht, hu, hrestore]
    exact if_pos hmatch
  case pull =>
    have himg : (v.img.state == .held) = false := by simpa using himg
    have hrun : pullFrame rx f s = { v with mon := { v.mon with
        job := some (v.pullJob f.srcDev (s.headerOf rx).src x), acked := 0
        total := (v.pullJob f.srcDev (s.headerOf rx).src x).total } } := by
      rw [Sys2Proof.Machine.pullFrame, State.take_here ht, hu, State.onPull, hrange]
      simp only [hvalid, hnewest, himg, hbusy, List.isEmpty_eq_false_iff.mpr hports, Bool.or_self, Bool.false_eq_true, if_false,
        State.pullJob]
    exact ⟨_, _, congrArg Host.Outcome.next hrun, rfl, rfl, rfl, rfl, rfl, rfl, rfl, rfl, rfl⟩

/-- Settles O25: a digest waits, or ends with its root or with a FAIL record; a check past its deadline is judged. -/
theorem closureChecksComplete : Obligations.ClosureChecksComplete := by
  refine ⟨fun s u ups n bs bad hdigest => ⟨fun hshares => congrArg Host.Outcome.next ?shares, fun hshares hruns hread =>
      ⟨fun hbad => congrArg Host.Outcome.next ?root, fun hbad => congrArg Host.Outcome.next ?poison⟩⟩,
    fun s k hk => congrArg Host.Outcome.next ?deadline⟩
  case shares => simp [Sys2Proof.Machine.closureDigestDone, hdigest, hshares]
  case root =>
    subst hbad
    simp only [Sys2Proof.Machine.closureDigestDone, hdigest, hshares, hruns, hread, Bool.not_true, Bool.or_self,
      Bool.false_eq_true, if_false]
  case poison =>
    subst hbad
    simp only [Sys2Proof.Machine.closureDigestDone, hdigest, hshares, hruns, hread, Bool.not_true, Bool.or_self,
      Bool.false_eq_true, if_false, if_true]
  case deadline => simp only [Sys2Proof.Machine.closureDeadline, hk]

end Sys2Proof.Machine
end

section
/-! Ports that train and drop. -/
namespace Sys2Proof.Machine

/-! ## Light, fault bits and state of every port stand through the messages of all ports -/

def Port.shown (p : Port) : Bool × W64 × PortState := (p.light, p.fault, p.state)

/-- Every port shows the same light, the same fault bits and the same state. -/
def SameLights (s t : State) : Prop := ∀ n, (t.port n).shown = (s.port n).shown

theorem SameLights.refl (s : State) : SameLights s s := fun _ => rfl

theorem SameLights.trans {r s t : State} (h : SameLights r s) (k : SameLights s t) : SameLights r t :=
  fun n => (k n).trans (h n)

theorem SameLights.foldl {α : Type} (f : State → α → State) (h : ∀ s a, SameLights s (f s a)) (l : List α) (s : State) :
    SameLights s (l.foldl f s) := by
  induction l generalizing s with
  | nil => exact .refl s
  | cons a l ih => exact (h s a).trans (ih _)

theorem SameLights.ofPorts {s t : State} (h : t.ports = s.ports) : SameLights s t := fun n => by
  rw [State.port, h, ← State.port]

theorem State.setPort_sameLights (s : State) (n : Nat) {x : Port} (h : x.shown = (s.port n).shown) :
    SameLights s (s.setPort n x) := fun m => by
  by_cases hm : m = n
  · rw [hm, State.port_setPort, h]
  · rw [State.port_setPort_ne _ _ _ _ hm]

theorem Port.switchKeys_shown (p : Port) : p.switchKeys.shown = p.shown := by
  unfold Port.switchKeys
  repeat' split
  all_goals rfl

theorem State.queueAnnounce_sameLights (s : State) (n : Nat) : SameLights s (s.queueAnnounce n) := by
  unfold State.queueAnnounce
  split
  · exact .refl s
  · dsimp only
    have hdraw : SameLights s ((s.drbgDraw 32).2.drbgDraw 64).2 := .ofPorts rfl
    refine hdraw.trans ?_
    generalize ((s.drbgDraw 32).2.drbgDraw 64).2 = t
    apply State.setPort_sameLights
    simp only [Port.shown]

theorem State.rekeyIfDue_sameLights (s : State) (n : Nat) : SameLights s (s.rekeyIfDue n) := by
  unfold State.rekeyIfDue
  split
  · refine SameLights.trans (s.setPort_sameLights n ?_) (State.queueAnnounce_sameLights _ n)
    rfl
  · exact .refl s

theorem State.startOn_sameLights (s : State) (n : Nat) (t : Trans) (deficit : List Nat) :
    SameLights s (s.startOn n t deficit) := by
  unfold State.startOn
  refine SameLights.trans ?_ (State.rekeyIfDue_sameLights _ n)
  exact s.setPort_sameLights n (Port.switchKeys_shown _)

theorem pump_sameLights (n fuel : Nat) (s : State) : SameLights s (pump n fuel s) := by
  induction fuel generalizing s with
  | zero => exact .refl s
  | succ fuel ih =>
    unfold pump
    dsimp only
    split
    · exact (s.startOn_sameLights n _ _).trans (ih _)
    · split
      · exact (s.startOn_sameLights n _ _).trans (ih _)
      · exact .refl s

theorem State.put_sameLights (s : State) (n : Nat) (t : Trans) : SameLights s (s.put n t) := by
  refine SameLights.trans (s.setPort_sameLights n ?_) (pump_sameLights _ _ _)
  rfl

theorem State.putOn_sameLights (s : State) (n : Nat) (t : Trans) : SameLights s (s.putOn n t) := by
  refine SameLights.trans (s.setPort_sameLights n ?_) (State.put_sameLights _ _ _)
  rfl

theorem State.trySend_sameLights (s : State) (t : Trans) : SameLights s (s.trySend t).1 := by
  unfold State.trySend
  split
  · exact .refl s
  · split
    · exact s.put_sameLights _ _
    · exact .refl s

theorem State.flood_sameLights (s : State) (e : Option Nat) (t : Trans) : SameLights s (s.flood e t) :=
  SameLights.foldl _ (fun s n => by
    split
    · exact s.putOn_sameLights n t
    · exact s.put_sameLights n t) _ s

theorem State.sendNorm_sameLights (s : State) (r : NormRec) : SameLights s (s.sendNorm r) := by
  unfold State.sendNorm
  refine SameLights.foldl _ (fun s e => ?_) _ s
  have h := fun t => s.trySend_sameLights t
  dsimp only
  split <;> exact h _

theorem State.sendFail_sameLights (s : State) : SameLights s s.sendFail := by
  unfold State.sendFail
  dsimp only
  repeat' split
  · exact .refl s
  all_goals exact SameLights.trans (SameLights.ofPorts rfl) (State.sendNorm_sameLights _ _)

theorem State.stepFail_sameLights (s : State) : SameLights s s.stepFail := by
  unfold State.stepFail State.enterFailed
  split
  · dsimp only
    split
    · exact s.sendFail_sameLights
    · exact .refl s
  · exact .refl s

theorem State.raise_sameLights (s : State) {c : FClass} (hc : c ≠ .fatal) (code : Code) (kind inst : Nat) (d : W64) :
    SameLights s (s.raise c code kind inst d) := by
  cases c with
  | corr => exact .refl s
  | stat => exact .refl s
  | cont => exact State.stepFail_sameLights _
  | fatal => exact absurd rfl hc

theorem State.lost_sameLights (s : State) (t : Trans) (c : Code) : SameLights s (s.lost t c) :=
  State.raise_sameLights ((s.dropReq t).emit (.code c)) (by split <;> decide) _ _ _ _

theorem State.passOn_sameLights (s : State) (t : Trans) : SameLights s (s.passOn t) := by
  unfold State.passOn
  split
  · exact s.putOn_sameLights _ t
  · dsimp only
    split
    · exact s.setPort_sameLights _ rfl
    · exact .refl s

theorem State.redirect_sameLights (s : State) (ts : List Trans) : SameLights s (s.redirect State.lost ts) := by
  unfold State.redirect
  refine SameLights.foldl _ (fun s t => ?_) ts s
  split
  · exact .refl s
  · split
    · have hsend := s.trySend_sameLights t
      split
      next u heq => rw [heq] at hsend; exact hsend
      next u c heq => rw [heq] at hsend; exact hsend.trans (u.lost_sameLights t c)
    · exact s.passOn_sameLights t

theorem State.leftSecure_sameLights (s : State) : SameLights s s.leftSecure := by
  have hsend : SameLights s s.sendLinkstate := by
    unfold State.sendLinkstate
    dsimp only
    have hmark : SameLights s { s with lxg := { s.lxg with floodTag := s.lxg.floodTag + 1 } } := .ofPorts rfl
    exact hmark.trans (State.flood_sameLights _ _ _)
  refine hsend.trans (SameLights.ofPorts ?_)
  unfold State.leftSecure State.endSession
  repeat' split
  all_goals rfl

theorem SameLights.light {s t : State} (h : SameLights s t) (n : Nat) : (t.port n).light = (s.port n).light :=
  congrArg Prod.fst (h n)

theorem SameLights.fault {s t : State} (h : SameLights s t) (n : Nat) : (t.port n).fault = (s.port n).fault :=
  congrArg (fun x : Bool × W64 × PortState => x.2.1) (h n)

theorem SameLights.state {s t : State} (h : SameLights s t) (n : Nat) : (t.port n).state = (s.port n).state :=
  congrArg (fun x : Bool × W64 × PortState => x.2.2) (h n)

theorem SameLights.up {s t : State} (h : SameLights s t) (n : Nat) : (t.port n).up = (s.port n).up := by
  rw [Port.up, h.state n, Port.up]

/-! ## A dropped link -/

/-- The fault bits of p stand in q. -/
def Port.FaultsStand (p q : Port) : Prop := ∀ k, p.fault.getLsbD k = true → q.fault.getLsbD k = true

theorem Port.flag_faultsStand (p : Port) (b : Nat) : p.FaultsStand (p.flag b) := fun k hk => by
  show (p.fault ||| BitVec.ofNat 64 (2 ^ b)).getLsbD k = true
  rw [BitVec.getLsbD_or, hk, Bool.true_or]

/-- The port of a dropped link once its own part is done: down, or in training where it may train. -/
theorem State.retrainPort_unlinked (s : State) (n : Nat) :
    ((s.retrainPort n ((s.port n).unlinked .down)).port n).light = (s.port n).light ∧
      ((s.retrainPort n ((s.port n).unlinked .down)).port n).fault = (s.port n).fault ∧
      ((s.retrainPort n ((s.port n).unlinked .down)).port n).up = false := by
  unfold State.retrainPort
  rw [State.port_setPort]
  unfold Port.retrain
  repeat' split
  all_goals exact ⟨rfl, rfl, rfl⟩

/-- From s to t, port n was dropped: every other port's light, fault bits and state stand; port n keeps its light and its
fault bits, and carries no flits. -/
structure Dropped (n : Nat) (s t : State) : Prop where
  others : ∀ m, m ≠ n → (t.port m).shown = (s.port m).shown
  light : (t.port n).light = (s.port n).light
  faults : (s.port n).FaultsStand (t.port n)
  down : (t.port n).up = false

theorem Dropped.sameLights {n : Nat} {s t u : State} (h : Dropped n s t) (k : SameLights t u) : Dropped n s u where
  others m hm := (k m).trans (h.others m hm)
  light := (k.light n).trans h.light
  faults := fun j hj => by
    rw [k.fault n]
    exact h.faults j hj
  down := (k.up n).trans h.down

theorem Dropped.flagged {n : Nat} {s t : State} (h : Dropped n s t) (b : Nat) :
    Dropped n s (t.setPort n ((t.port n).flag b)) where
  others m hm := by rw [State.port_setPort_ne _ _ _ _ hm, h.others m hm]
  light := by rw [State.port_setPort]; exact h.light
  faults := fun j hj => by
    rw [State.port_setPort]
    exact Port.flag_faultsStand _ b j (h.faults j hj)
  down := by rw [State.port_setPort]; exact h.down

theorem State.retrainPort_dropped (s : State) (n : Nat) : Dropped n s (s.retrainPort n ((s.port n).unlinked .down)) := by
  obtain ⟨hlight, hfault, hup⟩ := s.retrainPort_unlinked n
  exact ⟨fun m hm => by rw [State.retrainPort, State.port_setPort_ne _ _ _ _ hm], hlight, fun j hj => by rwa [hfault], hup⟩

theorem State.dropLink_dropped (s : State) (n : Nat) : Dropped n s (s.dropLink n) := by
  have hgone : Dropped n s ((s.retrainPort n ((s.port n).unlinked .down)).bufferGone n) :=
    (s.retrainPort_dropped n).sameLights (.ofPorts rfl)
  unfold State.dropLink
  dsimp only
  generalize (s.retrainPort n ((s.port n).unlinked .down)).bufferGone n = t at hgone
  split
  · refine Dropped.sameLights (Dropped.flagged ?_ 0) (State.raise_sameLights _ (by split <;> decide) _ _ _ _)
    refine Dropped.sameLights ?_ (State.redirect_sameLights _ _)
    split
    · exact hgone.sameLights t.leftSecure_sameLights
    · exact hgone
  · exact hgone

/-! ## Loss and return of light -/

/-- A port without light, that shows its loss and carries no flits. -/
def Port.dark (p : Port) : Prop := p.light = false ∧ p.fault.getLsbD 5 = true

/-- One port loses its link to the loss of light. -/
def State.darken (s : State) (n : Nat) : State := if (s.port n).state == .off then s else s.dropLink n

theorem Dropped.keepsDark {n m : Nat} {s t : State} (h : Dropped n s t) (hm : (s.port m).dark) : (t.port m).dark := by
  by_cases hmn : m = n
  · subst hmn
    exact ⟨h.light.trans hm.1, h.faults 5 hm.2⟩
  · have hshown := h.others m hmn
    have hlight : (t.port m).light = (s.port m).light := congrArg Prod.fst hshown
    have hfault : (t.port m).fault = (s.port m).fault := congrArg (fun x : Bool × W64 × PortState => x.2.1) hshown
    exact ⟨hlight.trans hm.1, by rw [hfault]; exact hm.2⟩

theorem Dropped.keepsDown {n m : Nat} {s t : State} (h : Dropped n s t) (hm : (s.port m).up = false) :
    (t.port m).up = false := by
  by_cases hmn : m = n
  · subst hmn
    exact h.down
  · have hstate : (t.port m).state = (s.port m).state :=
      congrArg (fun x : Bool × W64 × PortState => x.2.2) (h.others m hmn)
    rwa [Port.up, hstate]

theorem State.darken_dark {s : State} (n : Nat) {m : Nat} (hm : (s.port m).dark) : ((s.darken n).port m).dark := by
  unfold State.darken
  split
  · exact hm
  · exact (s.dropLink_dropped n).keepsDark hm

theorem State.darken_keepsDown {s : State} (n : Nat) {m : Nat} (hm : (s.port m).up = false) :
    ((s.darken n).port m).up = false := by
  unfold State.darken
  split
  · exact hm
  · exact (s.dropLink_dropped n).keepsDown hm

theorem State.darken_down (s : State) (n : Nat) : ((s.darken n).port n).up = false := by
  unfold State.darken
  split
  · rename_i hoff
    rw [Port.up, beq_iff_eq.mp hoff]
    rfl
  · exact (s.dropLink_dropped n).down

theorem State.darkens_dark (ns : List Nat) {s : State} {m : Nat} (hm : (s.port m).dark) :
    ((ns.foldl State.darken s).port m).dark := by
  induction ns generalizing s with
  | nil => exact hm
  | cons n ns ih => exact ih (State.darken_dark n hm)

theorem State.darkens_down (ns : List Nat) (s : State) {m : Nat} (hm : (s.port m).up = false ∨ m ∈ ns) :
    ((ns.foldl State.darken s).port m).up = false := by
  induction ns generalizing s with
  | nil => exact hm.resolve_right (by simp)
  | cons n ns ih =>
    refine ih (s.darken n) ?_
    obtain hm | hm := hm
    · exact .inl (State.darken_keepsDown n hm)
    · obtain rfl | hm := List.mem_cons.mp hm
      · exact .inl (s.darken_down _)
      · exact .inr hm

/-- A fold that writes each port of a list from its own value alone. -/
theorem State.foldl_setPort (f : Port → Port) (ns : List Nat) (hns : ns.Nodup) (s : State) :
    ∀ m, (ns.foldl (fun s n => s.setPort n (f (s.port n))) s).port m = if m ∈ ns then f (s.port m) else s.port m := by
  induction ns generalizing s with
  | nil => simp
  | cons n ns ih =>
    obtain ⟨hn, hns⟩ := List.nodup_cons.mp hns
    intro m
    rw [List.foldl_cons, ih hns]
    by_cases hmn : m = n
    · subst hmn
      simp [hn]
    · simp [hmn, State.port_setPort_ne]

/-- With the local input there, a port that light comes back to trains where it may. -/
theorem State.retrainPorts_eq (ns : List Nat) {s : State} (hrefin : s.clk.refin = true) :
    ns.foldl (fun s n => s.retrainPort n { s.port n with light := true }) s =
      ns.foldl (fun s n => s.setPort n ({ s.port n with light := true } : Port).retrain) s := by
  induction ns generalizing s with
  | nil => rfl
  | cons n ns ih =>
    rw [List.foldl_cons, List.foldl_cons, State.retrainPort, if_pos hrefin]
    exact ih hrefin

/-- Settles O26: the ports of an input darken and drop one after the other, and no later one lights or links an earlier one;
the rest is the branch that each event takes. -/
theorem portsTrainAndDrop : Obligations.PortsTrainAndDrop := by
  have hns : ∀ (i : Fin 8) (k : Fin 4), 4 * i.val + k.val ∈ List.range' (4 * i.val) 4 := fun i k => by
    simp only [List.mem_range'_1]
    omega
  refine ⟨fun s i hawake hlight => ⟨_, rfl, fun k => ?dark⟩, fun s i hawake hrefin => ⟨_, rfl, fun k => ?lit⟩,
    fun s i hasleep => ⟨congrArg Host.Outcome.next ?asleepLost, congrArg Host.Outcome.next ?asleepReturn⟩,
    fun s n hawake hrefin hdown hen hlight => congrArg Host.Outcome.next ?trains,
    fun s n hawake hnot => congrArg Host.Outcome.next ?signal,
    fun s n htraining hrefin => congrArg Host.Outcome.next ?links,
    fun s n hrefin => congrArg Host.Outcome.next ?nolink,
    fun s n lane hup => congrArg Host.Outcome.next ?lane,
    fun s n hon => congrArg Host.Outcome.next ?retrain⟩
  case dark =>
    have hmarked := State.foldl_setPort (fun p => { p.flag 5 with light := false }) (List.range' (4 * i.val) 4)
      (List.nodup_range' ..) s (4 * i + k)
    have hrun : Sys2Proof.Machine.laserLost i s = State.raisePort ((List.range' (4 * i.val) 4).foldl State.darken
        ((List.range' (4 * i.val) 4).foldl (fun s n => s.setPort n { (s.port n).flag 5 with light := false }) s))
        .stat Codes.lxLaserLost (4 * i) := by
      simp only [Sys2Proof.Machine.laserLost, hlight, hawake, Bool.not_true, Bool.or_self, Bool.false_eq_true, if_false]
      rfl
    rw [if_pos (hns i k)] at hmarked
    generalize (List.range' (4 * i.val) 4).foldl (fun s n => s.setPort n { (s.port n).flag 5 with light := false }) s = u
      at hmarked hrun
    have hdark : (u.port (4 * i + k)).dark := by
      rw [hmarked]
      exact ⟨rfl, by simp [Port.flag, setBit]⟩
    obtain ⟨hlight, hfault⟩ := State.darkens_dark (List.range' (4 * i.val) 4) hdark
    have hdown := State.darkens_down (List.range' (4 * i.val) 4) u (.inr (hns i k))
    rw [hrun, State.raisePort]
    have hsame := State.raise_sameLights ((List.range' (4 * i.val) 4).foldl State.darken u) (c := .stat) (by decide)
      Codes.lxLaserLost 6 (4 * i) (((List.range' (4 * i.val) 4).foldl State.darken u).port (4 * i)).status
    exact ⟨(hsame.light _).trans hlight, by rw [hsame.fault]; exact hfault, (hsame.up _).trans hdown⟩
  case lit =>
    have hrun : Sys2Proof.Machine.laserReturn i s = (List.range' (4 * i.val) 4).foldl (fun s n => s.setPort n
        (({ s.port n with light := true } : Port).retrain)) s := by
      rw [Sys2Proof.Machine.laserReturn, State.whenAwake, if_pos hawake, State.retrainPorts_eq _ hrefin]
    rw [hrun, State.foldl_setPort (fun p => ({ p with light := true } : Port).retrain) _ (List.nodup_range' ..), if_pos (hns i k)]
  case asleepLost => simp [Sys2Proof.Machine.laserLost, hasleep]
  case asleepReturn => simp [Sys2Proof.Machine.laserReturn, State.whenAwake, hasleep]
  case trains => simp [receiveSignal, State.whenAwake, State.retrainPort, Port.retrain, hawake, hrefin, hdown, hen, hlight]
  case signal =>
    have hstays : (if s.clk.refin then ({ s.port n with signal := true } : Port).retrain else { s.port n with signal := true }) =
        { s.port n with signal := true } := by
      obtain h | h | h | h := hnot <;> simp [Port.retrain, h]
    simp only [Sys2Proof.Machine.receiveSignal, State.whenAwake, hawake, if_true, State.retrainPort, hstays]
  case links => simp [Sys2Proof.Machine.trainingDone, htraining, hrefin]
  case nolink => simp [Sys2Proof.Machine.trainingDone, hrefin]
  case lane =>
    have hup : ((s.port n).state == .training || (s.port n).up) = true := by simpa using hup
    simp only [Sys2Proof.Machine.laneLockLoss, hup, if_true]
  case retrain => simp [Sys2Proof.Machine.retrain, hon]

end Sys2Proof.Machine
end

section
/-! Ports that become secure. -/
namespace Sys2Proof.Machine

/-- A place in a buffer changes nothing of who is at the port's other end. -/
theorem Port.free_peer (p : Port) (vc flits : Nat) : (p.free vc flits).state = p.state ∧
    (p.free vc flits).myAnnounce = p.myAnnounce ∧ (p.free vc flits).peerAnnounce = p.peerAnnounce ∧
    (p.free vc flits).kem = p.kem ∧ (p.free vc flits).keys = p.keys ∧ (p.free vc flits).waiting = p.waiting ∧
    (p.free vc flits).rekey = p.rekey ∧ (p.free vc flits).keyPhase = p.keyPhase := ⟨rfl, rfl, rfl, rfl, rfl, rfl, rfl, rfl⟩

section
variable {s r : State} {n : Nat} {a mine : Announce} {ct tr sig : List Byte}
  (hr : s.setPort n ((s.port n).free 0 (flitsOf 51488)) = r) (hid : r.hasIdentity = true)
  (hstate : (s.port n).state = .linked ∨ (s.port n).state = .secure)
  (ha : (s.port n).peerAnnounce = some a) (hmine : (s.port n).myAnnounce = some mine)

/-- The session keys that a KEYX of port n gives (R335). -/
def State.keyxKeys (s : State) (n : Nat) (a mine : Announce) (ct tr : List Byte) : LinkKeys :=
  keysOf (bytesLt mine.keyId a.keyId) (sessionKey (bytesLt mine.keyId a.keyId) (s.port n).kem.ss
    (Config.kemDecaps (s.port n).kem.dk ct) tr)

/-- A secure port at its peer's announcement, with the keys of a rekey to come (R337). -/
def Port.renewed (p : Port) (a : Announce) (old k : LinkKeys) : Port := { p.secure a old with nextKeys := some k }

include hr hid hstate ha hmine

/-- A KEYX at a port that has both announcements is checked, and isolates the port where a check fails. -/
theorem keyxArrive_refused {c : Option (Code × Nat)} (hcheck : r.peerCheck n a (Config.slhVerify true a.pubKey
    (keyxMessage ct tr) sig && tr == transcriptOf mine a) = some c) : keyxArrive n ct tr sig s = r.isolate n c := by
  have hport : r.port n = (s.port n).free 0 (flitsOf 51488) := by rw [← hr, State.port_setPort]
  obtain ⟨hst, hmy, hpa, -⟩ := (s.port n).free_peer 0 (flitsOf 51488)
  rw [← hport] at hst hmy hpa
  have hup : (s.port n).up = true := by
    rw [Port.up]
    obtain h | h := hstate <;> rw [h] <;> rfl
  have hopen : (!((s.port n).state == .linked || (s.port n).state == .secure) || !r.hasIdentity) = false := by
    rw [hid]
    obtain h | h := hstate <;> rw [h] <;> rfl
  simp only [keyxArrive, hup, hr, hst, hmy, hpa, ha, hmine, hopen, hcheck, Bool.not_true, Bool.false_eq_true, if_false]

/-- One that passes starts a session, or renews that of a secure port. -/
theorem keyxArrive_accepted (hcheck : r.peerCheck n a (Config.slhVerify true a.pubKey
    (keyxMessage ct tr) sig && tr == transcriptOf mine a) = none) : keyxArrive n ct tr sig s =
      if (s.port n).state == .secure then r.setPort n
        ((r.port n).renewed a (s.port n).keys (s.keyxKeys n a mine ct tr)).switchKeys
      else (r.setPort n ((r.port n).secure a (s.keyxKeys n a mine ct tr))).sendLinkstate.retryHeld := by
  have hport : r.port n = (s.port n).free 0 (flitsOf 51488) := by rw [← hr, State.port_setPort]
  obtain ⟨hst, hmy, hpa, hkem, hkeys, -⟩ := (s.port n).free_peer 0 (flitsOf 51488)
  rw [← hport] at hst hmy hpa hkem hkeys
  have hup : (s.port n).up = true := by
    rw [Port.up]
    obtain h | h := hstate <;> rw [h] <;> rfl
  have hopen : (!((s.port n).state == .linked || (s.port n).state == .secure) || !r.hasIdentity) = false := by
    rw [hid]
    obtain h | h := hstate <;> rw [h] <;> rfl
  simp only [keyxArrive, State.keyxKeys, Port.renewed, hup, hr, hst, hmy, hpa, hkem, hkeys, ha, hmine, hopen, hcheck, Bool.not_true,
    Bool.false_eq_true, if_false]

end

/-- A secure port takes up the keys of a rekey at once, unless its own KEYX still waits (R337). -/
theorem Port.switchKeys_now {p : Port} {k : LinkKeys} (hk : p.nextKeys = some k)
    (hnone : ∀ x ∈ p.waiting, x.body.typ ≠ 0x0D) : p.switchKeys =
      { p with nextKeys := none, rekey := false, keyPhase := !p.keyPhase, oldKeys := some p.keys, keys := k } := by
  have hany : p.waiting.any (fun t => t.body.typ = 0x0D) = false :=
    List.any_eq_false.mpr fun x hx => by simpa using hnone x hx
  simp only [Port.switchKeys, hk, hany, Bool.false_eq_true, if_false]

theorem Port.switchKeys_waits {p : Port} (hsome : ∃ x ∈ p.waiting, x.body.typ = 0x0D) : p.switchKeys = p := by
  have hany : p.waiting.any (fun t => t.body.typ = 0x0D) = true := by simpa using hsome
  unfold Port.switchKeys
  split
  · rfl
  · exact if_pos hany

/-- Settles O27: an announcement that passes is answered; a KEYX isolates the port, starts its session or renews it. -/
theorem portsBecomeSecure : Obligations.PortsBecomeSecure := by
  refine ⟨fun s r u v n a mine rnd hlinked hr hid hpeer hsigned hmine hu hdraw => congrArg Host.Outcome.next ?answer,
    fun s r n a hstate hr hid hsigned => congrArg Host.Outcome.next ?isolate,
    fun s r n a mine ct sig hlinked hr hid hpeer ha hmine hsig => congrArg Host.Outcome.next ?secure,
    fun s r n a mine ct tr sig hstate hr hid ha hmine hbad => congrArg Host.Outcome.next ?keyxIsolate,
    fun s r n a mine ct sig hsecure hr hid hpeer ha hmine hsig => ?rekeyed,
    fun s n hsecure hrekey => congrArg Host.Outcome.next ?rekey,
    fun s n hrekey => congrArg Host.Outcome.next ?timeout,
    fun s n => rfl⟩
  case answer =>
    have hport : r.port n = (s.port n).free 0 (flitsOf 53032) := by rw [← hr, State.port_setPort]
    have hstate : (r.port n).state = .linked := by rw [hport]; exact hlinked
    have hup : (s.port n).up = true := by rw [Port.up, hlinked]; rfl
    have hmine' : (u.port n).myAnnounce = some mine := by
      rw [← hu, ← hmine]
      show ((r.setPort n { r.port n with peerAnnounce := some a }).port n).myAnnounce = _
      rw [State.port_setPort, hport]
      rfl
    have hiso : ((r.port n).state == .isolated || !r.hasIdentity) = false := by rw [hstate, hid]; rfl
    have hlink : ((r.port n).state == .secure && !(r.port n).rekey) = false := by rw [hstate]; rfl
    simp only [announceArrive, hup, hr, hiso, hlink, hpeer, hsigned, hu, hmine', State.sendKeyx, hdraw, Bool.not_true,
      Bool.false_eq_true, if_false]
  case isolate =>
    have hport : r.port n = (s.port n).free 0 (flitsOf 53032) := by rw [← hr, State.port_setPort]
    have hup : (s.port n).up = true := by
      rw [Port.up]
      obtain h | h := hstate <;> rw [h] <;> rfl
    have hiso : ((r.port n).state == .isolated || !r.hasIdentity) = false := by
      rw [hport, hid]
      obtain h | h := hstate <;> simp [Port.free, h]
    simp only [announceArrive, hup, hr, hiso, hsigned, State.peerCheck, Bool.not_true, Bool.not_false, Bool.false_eq_true,
      if_false, if_true]
  case secure =>
    have hcheck : r.peerCheck n a (Config.slhVerify true a.pubKey (keyxMessage ct (transcriptOf mine a)) sig &&
        transcriptOf mine a == transcriptOf mine a) = none := by rw [hsig, beq_self_eq_true]; exact hpeer
    rw [keyxArrive_accepted hr hid (.inl hlinked) ha hmine hcheck, hlinked]
    rfl
  case keyxIsolate =>
    have hgood : (Config.slhVerify true a.pubKey (keyxMessage ct tr) sig && tr == transcriptOf mine a) = false := by
      obtain h | h := hbad
      · rw [h, Bool.false_and]
      · rw [beq_eq_false_iff_ne.mpr h, Bool.and_false]
    exact keyxArrive_refused hr hid hstate ha hmine (hgood ▸ rfl)
  case rekeyed =>
    have hcheck : r.peerCheck n a (Config.slhVerify true a.pubKey (keyxMessage ct (transcriptOf mine a)) sig &&
        transcriptOf mine a == transcriptOf mine a) = none := by rw [hsig, beq_self_eq_true]; exact hpeer
    have hrun := keyxArrive_accepted hr hid (.inr hsecure) ha hmine hcheck
    rw [hsecure, beq_self_eq_true, if_pos rfl] at hrun
    have hport : r.port n = (s.port n).free 0 (flitsOf 51488) := by rw [← hr, State.port_setPort]
    refine ⟨_, s.keyxKeys n a mine ct (transcriptOf mine a), congrArg Host.Outcome.next hrun, ?_, rfl, fun hnone => ?_,
      fun hsome => ?_⟩ <;> rw [State.port_setPort, hport]
    · unfold Port.switchKeys
      repeat' split
      all_goals rfl
    · rw [Port.switchKeys_now (p := ((s.port n).free 0 (flitsOf 51488)).renewed _ _ _) rfl hnone]
      exact ⟨rfl, rfl, rfl, rfl⟩
    · rw [Port.switchKeys_waits (p := ((s.port n).free 0 (flitsOf 51488)).renewed _ _ _) hsome]
      exact ⟨rfl, rfl, rfl⟩
  case rekey => simp [Sys2Proof.Machine.rekey, hsecure, hrekey]
  case timeout => simp [Sys2Proof.Machine.rekeyTimeout, hrekey]

end Sys2Proof.Machine
end

section
/-! Flits in order, and their replay. -/
namespace Sys2Proof.Machine

/-- What the outer code reports changes nothing but the port's counters and, for a codeword lost, its fault bit 2 (R319). -/
theorem State.port_fecSeen (s : State) (n : Nat) (fec : Fec) : (s.fecSeen n fec).port n =
    { (if fec.ue = 0 then s.port n else (s.port n).flag 2) with
      cntFecCe := BitVec.ofNat 64 (satAdd 64 (if fec.ue = 0 then s.port n else (s.port n).flag 2).cntFecCe.toNat fec.ce)
      cntFecUe := BitVec.ofNat 64 (satAdd 64 (if fec.ue = 0 then s.port n else (s.port n).flag 2).cntFecUe.toNat fec.ue) } :=
  State.port_setPort _ _ _

theorem State.port_fecSeen_ne (s : State) {n m : Nat} (fec : Fec) (h : m ≠ n) : (s.fecSeen n fec).port m = s.port m :=
  State.port_setPort_ne _ _ _ _ h

theorem State.fecSeen_order (s : State) (n : Nat) (fec : Fec) : ((s.fecSeen n fec).port n).nak = (s.port n).nak ∧
    ((s.fecSeen n fec).port n).rxSeq = (s.port n).rxSeq ∧ ((s.fecSeen n fec).port n).rxUsed = (s.port n).rxUsed ∧
    ((s.fecSeen n fec).port n).unreported = (s.port n).unreported ∧ ((s.fecSeen n fec).port n).cntRx = (s.port n).cntRx ∧
    ((s.fecSeen n fec).port n).cntCrc = (s.port n).cntCrc ∧ ((s.fecSeen n fec).port n).rxBytes = (s.port n).rxBytes ∧
    ((s.fecSeen n fec).port n).rxWhole = (s.port n).rxWhole := by
  rw [State.port_fecSeen]
  split <;> exact ⟨rfl, rfl, rfl, rfl, rfl, rfl, rfl, rfl⟩

theorem Port.collect_counts (p : Port) (f : Flit) : (p.collect f).nak = p.nak ∧ (p.collect f).rxSeq = p.rxSeq ∧
    (p.collect f).rxUsed = p.rxUsed ∧ (p.collect f).unreported = p.unreported ∧ (p.collect f).cntRx = p.cntRx ∧
    (p.collect f).cntFecCe = p.cntFecCe := by
  unfold Port.collect
  dsimp only
  split <;> exact ⟨rfl, rfl, rfl, rfl, rfl, rfl⟩

/-- What has come of a transaction depends on the bytes that came before alone. -/
theorem Port.collect_bytes {p q : Port} (f : Flit) (hb : q.rxBytes = p.rxBytes) (hw : q.rxWhole = p.rxWhole) :
    (q.collect f).rxBytes = (p.collect f).rxBytes ∧ (q.collect f).rxWhole = (p.collect f).rxWhole := by
  unfold Port.collect
  dsimp only
  rw [hb, hw]
  split <;> exact ⟨rfl, rfl⟩

section
variable {s : State} {n : Nat} {f : Flit} {fec : Fec} (hup : (s.port n).up = true)
include hup

/-- While a replay is awaited every flit is discarded. -/
theorem dataFlit_awaits {q : W16} (hnak : (s.port n).nak = some q) : dataFlit n f fec s = s.fecSeen n fec := by
  simp only [dataFlit, hup, (s.fecSeen_order n fec).1, hnak, Option.isSome_some, Bool.not_true, Bool.false_eq_true, if_false,
    if_true]

theorem dataFlit_bad (hnak : (s.port n).nak = none) (hbad : (s.port n).flitBad f fec = true) :
    dataFlit n f fec s = (s.fecSeen n fec).badFlit n := by
  obtain ⟨hn, hseq, -⟩ := s.fecSeen_order n fec
  have hbad : ((s.fecSeen n fec).port n).flitBad f fec = true := by
    rw [Port.flitBad, hseq]
    exact hbad
  simp only [dataFlit, hup, hn, hnak, hbad, Option.isSome_none, Bool.not_true, Bool.false_eq_true, if_false, if_true]

/-- The port after a good DATA flit in order. -/
def Port.taken (p : Port) (f : Flit) : Port :=
  { p.collect f with
    rxSeq := (p.collect f).rxSeq + 1, unreported := (p.collect f).unreported + 1
    cntRx := BitVec.ofNat 64 (satAdd 64 (p.collect f).cntRx.toNat 1)
    rxUsed := (p.collect f).rxUsed.modify f.vc.val (· + 1) }

theorem dataFlit_good (hnak : (s.port n).nak = none) (hgood : (s.port n).flitBad f fec = false) (hkind : f.kind.val = 1) :
    dataFlit n f fec s = (s.fecSeen n fec).setPort n (((s.fecSeen n fec).port n).taken f) := by
  obtain ⟨hn, hseq, -⟩ := s.fecSeen_order n fec
  have hgood : ((s.fecSeen n fec).port n).flitBad f fec = false := by
    rw [Port.flitBad, hseq]
    exact hgood
  simp only [dataFlit, Port.taken, hup, hn, hnak, hgood, hkind, Option.isSome_none, Bool.not_true, Bool.false_eq_true, if_false,
    bne_self_eq_false]

end

/-- What a good LINK flit does to its port: the replay it announces ends the wait, then acknowledgement and credit. -/
def Port.linked (p : Port) (o : LinkOps) : Port :=
  let p := { p with nak := if o.replay then none else p.nak }
  let p := if o.ack then p.acked o.ackSeq else p
  if o.credit then p.credited o.credits else p

theorem linkFlit_good {s u : State} {n : Nat} {f : Flit} (hup : (s.port n).up = true) (hu : s.fecSeen n {} = u)
    (hnak : (s.port n).nak.all (fun q => (linkOpsOf f.payload).replay && q == (linkOpsOf f.payload).seq) = true)
    (hcrc : flitCrc f (s.port n).rxSeq = f.crc) (hkind : f.kind.val = 2) :
    linkFlit n f {} s = (if (linkOpsOf f.payload).nak then
        (u.setPort n ((u.port n).linked (linkOpsOf f.payload))).onNak n (linkOpsOf f.payload).seq
      else u.setPort n ((u.port n).linked (linkOpsOf f.payload))).pumpPort n := by
  obtain ⟨hn, hseq, -⟩ := s.fecSeen_order n {}
  rw [hu] at hn hseq
  have hgood : (u.port n).flitBad f {} = false := by
    rw [Port.flitBad, hseq, hcrc]
    simp
  have hgoes : ((u.port n).nak.isSome && !((linkOpsOf f.payload).replay &&
      (u.port n).nak == some (linkOpsOf f.payload).seq)) = false := by
    rw [hn]
    revert hnak
    cases (s.port n).nak with
    | none => exact fun _ => rfl
    | some q => simp
  simp only [linkFlit, Port.linked, hup, hu, hgood, hkind, decide_true, Bool.true_and, Bool.not_false, Bool.and_true, hgoes,
    Bool.not_true, Bool.false_eq_true, if_false, bne_self_eq_false]

theorem badFlit_port (s : State) (n : Nat) : (s.badFlit n).port n = { s.port n with
    cntCrc := BitVec.ofNat 64 (satAdd 64 (s.port n).cntCrc.toNat 1), nak := some (s.port n).rxSeq } :=
  State.port_setPort _ _ _

/-- Settles O28: a flit is discarded, refused or taken as the wait for a replay and its checks say. -/
theorem flitsMoveInOrder : Obligations.FlitsMoveInOrder := by
  refine ⟨fun s n f fec p hup hnak hcrc hkind hfec hue hp => ?good,
    fun s n f hup hnak hcrc => ?bad,
    fun s n f fec hup hnak hue => ?uncorrected,
    fun s n f q hup hnak => ⟨_, congrArg Host.Outcome.next (dataFlit_awaits hup hnak), ?awaits⟩,
    fun s u n f hup hu hnak hcrc hkind hack hcredit hno => congrArg Host.Outcome.next ?link,
    fun s u n f hup hu hnak hcrc hkind hack hcredit hyes => congrArg Host.Outcome.next ?nak,
    fun s n hup howed => congrArg Host.Outcome.next ?report,
    fun s n q hnak => congrArg Host.Outcome.next ?again,
    fun s n hup hlimit => congrArg Host.Outcome.next ?limit⟩
  case good =>
    have hgood : (s.port n).flitBad f fec = false := by simp [Port.flitBad, hcrc, hfec, hue]
    refine ⟨_, congrArg Host.Outcome.next (dataFlit_good hup hnak hgood hkind), ?_⟩
    rw [State.port_setPort]
    obtain ⟨hn, hseq, hused, hunrep, hrx, -, hbytes, hwhole⟩ := s.fecSeen_order n fec
    obtain ⟨hcn, hcseq, hcused, hcunrep, hcrx, hcfec⟩ := ((s.fecSeen n fec).port n).collect_counts f
    have hpfec := (Port.collect_counts
      { s.port n with cntFecCe := BitVec.ofNat 64 (satAdd 64 (s.port n).cntFecCe.toNat fec.ce) } f).2.2.2.2.2
    have hqfec : ((s.fecSeen n fec).port n).cntFecCe = BitVec.ofNat 64 (satAdd 64 (s.port n).cntFecCe.toNat fec.ce) := by
      rw [State.port_fecSeen, if_pos hue]
    obtain ⟨hpbytes, hpwhole⟩ := Port.collect_bytes (q := (s.fecSeen n fec).port n)
      (p := { s.port n with cntFecCe := BitVec.ofNat 64 (satAdd 64 (s.port n).cntFecCe.toNat fec.ce) }) f hbytes hwhole
    rw [hp] at hpfec hpbytes hpwhole
    unfold Port.taken
    dsimp only
    rw [hcseq, hseq, hcunrep, hunrep, hcrx, hrx, hcused, hused, hcn, hn, hcfec, hqfec]
    refine ⟨rfl, rfl, rfl, rfl, hpfec.symm, hpbytes, hpwhole, hnak, fun m hm => ?_⟩
    have hne : m.val ≠ n.val := fun h => hm (Fin.ext h)
    rw [State.port_setPort_ne _ _ _ _ hne, State.port_fecSeen_ne _ _ hne]
  case bad =>
    have hbad : (s.port n).flitBad f {} = true := by simp [Port.flitBad, hcrc]
    obtain ⟨-, hseq, hused, -, -, hcrc, -⟩ := s.fecSeen_order n {}
    refine ⟨_, congrArg Host.Outcome.next (dataFlit_bad hup hnak hbad), ?_⟩
    rw [badFlit_port]
    exact ⟨congrArg some hseq, hseq, hused, by rw [hcrc]⟩
  case uncorrected =>
    have hbad : (s.port n).flitBad f fec = true := by simp [Port.flitBad, hue]
    refine ⟨_, congrArg Host.Outcome.next (dataFlit_bad hup hnak hbad), ?_⟩
    rw [badFlit_port, State.port_fecSeen, if_neg hue]
    exact ⟨rfl, rfl, by simp [Port.flag, setBit], rfl⟩
  case awaits =>
    obtain ⟨hn, hseq, hused, -⟩ := s.fecSeen_order n {}
    exact ⟨hn.trans hnak, hseq, hused⟩
  case link =>
    have hwait : (if (linkOpsOf f.payload).replay then none else (u.port n).nak) = none := by
      have hn := (s.fecSeen_order n {}).1
      rw [hu] at hn
      rw [hn]
      revert hnak
      cases (s.port n).nak with
      | none => simp
      | some q => simp +contextual
    refine (linkFlit_good hup hu hnak hcrc hkind).trans ?_
    simp only [Port.linked, hwait, hack, hcredit, hno, if_true, Bool.false_eq_true, if_false]
  case nak =>
    have hwait : (if (linkOpsOf f.payload).replay then none else (u.port n).nak) = none := by
      have hn := (s.fecSeen_order n {}).1
      rw [hu, hnak] at hn
      rw [hn, ite_self]
    refine (linkFlit_good hup hu (by rw [hnak]; rfl) hcrc hkind).trans ?_
    simp only [Port.linked, hwait, hack, hcredit, hyes, if_true, Bool.false_eq_true, if_false]
  case report =>
    have howed : (decide (0 < (s.port n).unreported) || (s.port n).owed.any (0 < ·)) = true := by simpa using howed
    simp only [Sys2Proof.Machine.ackReport, hup, howed, Bool.and_self, if_true, State.sendLink]
  case again => simp only [Sys2Proof.Machine.nakRepeat, hnak, State.sendNak, State.sendLink]
  case limit =>
    have hlimit : (!(s.port n).replay.isEmpty || (s.port n).nakSeen.any (fun x => 16 ≤ x.2)) = true := by
      obtain h | ⟨q, k, h, hk⟩ := hlimit
      · simp [h]
      · simp [h, hk]
    simp only [Sys2Proof.Machine.replayLimit, hup, hlimit, Bool.and_self, if_true]

end Sys2Proof.Machine
end

section
/-! Transactions at their destination: data, answers, tables and what is passed on. -/
namespace Sys2Proof.Machine

/-- An MU whose clock runs serves an access to its memory. -/
theorem State.spaceIdle_mu {s : State} {a p n o : Nat} (hmu : muOf a = some (p, n, o)) (hclk : s.muClocked p n = true) :
    s.spaceIdle a = none := by
  simp [State.spaceIdle, hmu, hclk]

theorem State.deviceGate_open {s : State} (himg : s.img.state ≠ .held) (hok : s.stepFailed = false) (rx : Rx) (typ : Nat)
    (f : State → State) : s.deviceGate rx typ f = f s := by
  simp [State.deviceGate, himg, hok]

theorem rreadSize_good {k : Nat} (hlo : 8 ≤ k) (hhi : k ≤ 65536) (hmod : k % 8 = 0) :
    (decide (k < 8) || decide (65536 < k) || k % 8 != 0) = false := by
  simp [Nat.not_lt.mpr hlo, Nat.not_lt.mpr hhi, hmod]

/-- Settles O29: each transaction takes the branch of its sender, its size and its place. -/
theorem dataTransactionsComplete : Obligations.DataTransactionsComplete := by
  refine ⟨fun s u rx addr data poison ht hu hhost hidle ha hlen => congrArg Host.Outcome.next ?hostWrite,
    fun s u rx addr data poison p n o ht hu hdev himg hok hmu hclk ha hlen hdata => congrArg Host.Outcome.next ?deviceWrite,
    fun s u rx addr bytes ups ht hu hhost hidle hlo hhi hmod => congrArg Host.Outcome.next ?hostRead,
    fun s u rx addr bytes ups ht hu hdev himg hok hidle hlo hhi hmod => congrArg Host.Outcome.next ?deviceRead,
    fun s u rx addr contrib entry ts p n o ht hu hdev himg hok hmu hts ho => congrArg Host.Outcome.next ?segment,
    fun s u v rx addr contrib entry ts p n o c ht hu hdev himg hok hmu hts ho hwrite => congrArg Host.Outcome.next ?window,
    fun s rx addr mode contrib entry ts ht hhost => congrArg Host.Outcome.next ?collHost⟩
  case hostWrite =>
    rw [Sys2Proof.Machine.rwrite, State.take_here ht, hu, if_pos hhost, hidle]
    simp only [ha, hlen]
    rfl
  case deviceWrite =>
    rw [Sys2Proof.Machine.rwrite, State.take_here ht, hu, if_neg (ne_true_of_eq_false hdev), State.deviceGate_open himg hok, hmu,
      State.spaceIdle_mu hmu hclk]
    simp only [ha, hlen, List.isEmpty_eq_false_iff.mpr hdata]
    rfl
  case hostRead =>
    rw [Sys2Proof.Machine.rread, State.take_here ht, hu]
    simp only [hhost, hidle, rreadSize_good hlo hhi hmod, if_true, Bool.false_eq_true, if_false]
  case deviceRead =>
    rw [Sys2Proof.Machine.rread, State.take_here ht, hu]
    simp only [hdev, State.deviceGate_open himg hok, hidle, rreadSize_good hlo hhi hmod, Bool.false_eq_true, if_false]
  case segment =>
    rw [Sys2Proof.Machine.coll, State.take_here ht, hu, if_neg (ne_true_of_eq_false hdev), State.deviceGate_open himg hok, hmu]
    simp only [List.isEmpty_eq_false_iff.mpr hts, ho]
    rfl
  case window =>
    rw [Sys2Proof.Machine.coll, State.take_here ht, hu, if_neg (ne_true_of_eq_false hdev), State.deviceGate_open himg hok, hmu]
    simp only [List.isEmpty_eq_false_iff.mpr hts, ho, hwrite]
    rfl
  case collHost => rw [Sys2Proof.Machine.coll, State.take_here ht, if_pos hhost]

/-- No stream entry before e is ready. -/
theorem streams_notReady {s : State} {e : Nat}
    (h : ∀ i y, (s.cfg.plan.streams.take e)[i]? = some y → s.streamReady i y = false) :
    (s.cfg.plan.streams.take e).zipIdx.any (fun (y, i) => s.streamReady i y) = false :=
  List.any_eq_false.mpr fun x hx => by simp [h x.2 x.1 (List.mem_zipIdx_iff_getElem?.mp hx)]

/-- Settles O30: an answer finds its request, and an entry that fires finds itself the first that is ready. -/
theorem requestsAreAnswered : Obligations.RequestsAreAnswered := by
  refine ⟨fun s u rx code typ v data q ht hu hq => congrArg Host.Outcome.next ?resp,
    fun s u rx code opcode v c hc ht hu hdev hwait hop => ?cpl,
    fun s tag q hq => congrArg Host.Outcome.next ?timeout,
    fun s u v e x ts hx hopen hready hspread hfirst htok hv => congrArg Host.Outcome.next ?entry,
    fun s u v e x ts p ps hx hopen hready hspread hmode hfirst htok hv hports => congrArg Host.Outcome.next ?spread,
    fun s rx typ hhears htyp => congrArg Host.Outcome.next ?reserved⟩
  case resp =>
    rw [Sys2Proof.Machine.resp, State.take_here ht, hu]
    have hq : u.lxg.reqs.find? (fun q => q.tag == (s.headerOf rx).tag && q.dst == (s.headerOf rx).src && q.typ == typ.toNat) =
        some q := hq
    simp only [hq]
  case cpl =>
    subst hc
    have hrun : cplArrive rx code opcode v s = { u with
        lxg := { u.lxg with reqs := u.lxg.reqs.filter (fun q =>
          !(q.tag == rx.tag && q.dst == (s.headerOf rx).src && q.typ == 8)) }
        cmd := { u.cmd with bcast := u.cmd.bcast.count (fld (s.headerOf rx).src 0 12) code } } := by
      have hmine : (!rxHost (s.headerOf rx) && u.cmd.bcast.waitingOn.contains (fld (s.headerOf rx).src 0 12) &&
          opcode == u.cmd.bcast.opcode) = true := by
        rw [hdev, List.contains_iff_mem.mpr hwait, hop, beq_self_eq_true]
        rfl
      rw [cplArrive, State.take_here ht, hu]
      exact if_pos hmine
    refine ⟨_, congrArg Host.Outcome.next hrun, rfl, fun q hq htyp hbad => ?_⟩
    obtain ⟨-, hkept⟩ := List.mem_filter.mp hq
    simp [htyp, hbad] at hkept
  case timeout => simp only [Sys2Proof.Machine.lxTimeout, hq]
  case entry =>
    have hone : (x.spread && decide (x.mode = 1)) = false := by
      obtain h | h := hspread <;> simp [h]
    simp only [Sys2Proof.Machine.streamEntryFire, hx, hopen, hready, streams_notReady hfirst, htok, hv, hone, Bool.not_true, Bool.or_self,
      Bool.false_eq_true, if_false]
  case spread =>
    simp only [Sys2Proof.Machine.streamEntryFire, hx, hopen, hready, streams_notReady hfirst, htok, hv, hspread, hmode, hports,
      decide_true, Bool.and_self, Bool.not_true, Bool.or_self, Bool.false_eq_true, if_false]
    subst hv
    rfl
  case reserved =>
    have htyp : (decide (typ = 0) || decide (0x10 ≤ typ)) = true := by simpa using htyp
    rw [Sys2Proof.Machine.reservedTransaction, if_pos htyp, State.arrive_heard hhears]

section
variable {s : State} {rx : Rx} {body : TBody}

theorem State.forward_lastHop (h : rx.hops = 0) : s.forward rx body = s := if_pos h

/-- A transaction with a hop left leaves by the first port of its route (R341). -/
theorem State.forward_on {n : Nat} {ns : List Nat} (h : rx.hops ≠ 0) (hports : s.outPorts rx.dst = n :: ns) :
    s.forward rx body = s.putOn n { src := rx.src, dst := rx.dst, tag := rx.tag, hops := rx.hops.toNat - 1, body := body
                                    frag := rxFragNo rx body, inPort := some rx.port.val } := by
  simp only [State.forward, if_neg h, State.passOn, hports, List.isEmpty_cons, Bool.and_false, Bool.false_eq_true, if_false]

/-- One without a route waits in its port's buffer (R343). -/
theorem State.forward_held {x : Trans} (h : rx.hops ≠ 0) (hflood : body.floods = false) (hports : s.outPorts rx.dst = [])
    (hx : x = { src := rx.src, dst := rx.dst, tag := rx.tag, hops := rx.hops.toNat - 1, body := body
                frag := rxFragNo rx body, inPort := some rx.port.val }) :
    s.forward rx body = State.setPort { s with lxg := { s.lxg with held := s.lxg.held ++ [x] } } rx.port
      ((s.port rx.port).keep x.vc x.flits) := by
  subst hx
  simp only [State.forward, if_neg h, State.passOn, hports, hflood, Bool.false_and, Bool.false_eq_true, if_false]
  rfl

end

/-- Settles O31: a table, a report and a transaction on its way take the branch of the image state, the role and the
route. -/
theorem routingTransactionsComplete : Obligations.RoutingTransactionsComplete := by
  refine ⟨fun s u rx t ht hu hgood himg => congrArg Host.Outcome.next ?now,
    fun s u rx t ht hu hgood himg => congrArg Host.Outcome.next ?later,
    fun s u rx t ht hu hbad => congrArg Host.Outcome.next ?rejected,
    fun s u rx k ports ht hu hrole => congrArg Host.Outcome.next ?master,
    fun s u rx k ports ht hu hrole => congrArg Host.Outcome.next ?slave,
    fun s u t n ns hhears hu hme hrouted hhops hports => congrArg Host.Outcome.next ?passed,
    fun s u t hhears hu hme hhops => congrArg Host.Outcome.next ?lastHop,
    fun s u t hhears hu hme hrouted hflood hhops hports x hx => congrArg Host.Outcome.next ?held,
    fun s tag n t hstalled => congrArg Host.Outcome.next ?stalled,
    fun s tag t hnone hheld => congrArg Host.Outcome.next ?unrouted⟩
  case now =>
    rw [Sys2Proof.Machine.member, State.flooded_here ht, hu]
    simp [hgood, State.tableIn, himg]
  case later =>
    rw [Sys2Proof.Machine.member, State.flooded_here ht, hu]
    simp [hgood, State.tableIn, himg]
  case rejected =>
    rw [Sys2Proof.Machine.member, State.flooded_here ht, hu]
    simp [hbad]
  case master => rw [Sys2Proof.Machine.linkstate, State.flooded_here ht, hu, if_pos hrole]
  case slave => rw [Sys2Proof.Machine.linkstate, State.flooded_here ht, hu, if_neg (ne_true_of_eq_false hrole)]
  case passed =>
    rw [Sys2Proof.Machine.transactionForward, State.arrive_heard hhears, hu, if_neg (by simp [hme, hrouted])]
    exact State.forward_on (rx := s.headerOf t.rx) hhops hports
  case lastHop =>
    rw [Sys2Proof.Machine.transactionForward, State.arrive_heard hhears, hu, State.forward_lastHop (rx := s.headerOf t.rx) hhops]
    exact ite_self u
  case held =>
    rw [Sys2Proof.Machine.transactionForward, State.arrive_heard hhears, hu, if_neg (by simp [hme, hrouted])]
    exact State.forward_held (rx := s.headerOf t.rx) hhops hflood hports hx
  case stalled => simp only [Sys2Proof.Machine.forwardStall, hstalled]
  case unrouted => simp only [Sys2Proof.Machine.forwardStall, hnone, hheld]

end Sys2Proof.Machine
end

section
/-! Datum frames, the loss of the reference and its choice, and steps of datum time. -/
namespace Sys2Proof.Machine

/-! ## Frames that arrive -/

/-- u has noted a frame of port n: the port's last frame, the lowest master tag and the newest membership epoch. -/
def State.noted (u : State) (n : Nat) (f : DatumFrame) (fr : W16) : State :=
  let s := u.setPort n { u.port n with frame := some { frame := f, arrival := u.dtm.time, arrivalFrac := fr } }
  { s with dtm := { s.dtm with
    lowestTag := some (match s.dtm.lowestTag with
      | some t => if f.masterTag.toNat < t.toNat then f.masterTag else t
      | none => f.masterTag)
    memberEpoch := if s.dtm.memberEpoch.toNat < f.memberEpoch.toNat then f.memberEpoch else s.dtm.memberEpoch } }

theorem State.noted_frame (u : State) (n : Fin 32) (f : DatumFrame) (fr : W16) :
    ((u.noted n f fr).port n).frame = some { frame := f, arrival := u.dtm.time, arrivalFrac := fr } :=
  congrArg Port.frame (State.port_setPort u n _)

/-- A frame at a part that is not LOCKED, and whose datum port is as it was, loses no reference. -/
theorem State.frameIn_unlocked {u : State} {n : Nat} {f : DatumFrame} {fr : W16} (hstate : u.dtm.state ≠ .locked)
    (hnow : u.dtmNow = u.dtm) : u.frameIn n f fr =
      if u.dtm.role then u.noted n f fr
      else
        let s : State := { u.noted n f fr with dtm := (u.noted n f fr).choosePort }
        if s.bestPort == some n && s.frameValid f then
          ({ s with dtm := s.dtm.takeFrame f (halfFrac s.dtm.time fr) }).tryLock
        else s := by
  have hkept : (u.refPortLeft || u.refSilent) = false := by simp [State.refPortLeft, State.refSilent, hstate]
  have hsame : ({ u with dtm := u.dtmNow } : State) = u := by rw [hnow]
  unfold State.frameIn
  rw [hkept, hsame]
  rfl

theorem State.frameValid_withDtm (s : State) {d : Dtm} (htag : d.lowestTag = s.dtm.lowestTag) (f : DatumFrame) :
    ({ s with dtm := d } : State).frameValid f = s.frameValid f := by
  simp only [State.frameValid, htag]

theorem State.bestPort_withDtm (s : State) {d : Dtm} (htime : d.time = s.dtm.time) (htag : d.lowestTag = s.dtm.lowestTag) :
    ({ s with dtm := d } : State).bestPort = s.bestPort := by
  have hcand : ∀ n, ({ s with dtm := d } : State).candidateHops n = s.candidateHops n := fun n => by
    unfold State.candidateHops
    simp only [State.frameValid_withDtm s htag, State.since, htime]
    rfl
  simp only [State.bestPort, hcand]

theorem Dtm.takeFrame_offsets (d : Dtm) (f : DatumFrame) (t4 : Int) :
    (d.takeFrame f t4).offsets = (d.offsets ++ [frameOffset f t4]).drop (d.offsets.length + 1 - 16) := by
  simp [Dtm.takeFrame]

theorem Dtm.takeFrame_good (d : Dtm) (f : DatumFrame) (t4 : Int) (h : d.good < 15) : (d.takeFrame f t4).good < 16 := by
  have hle : ∀ b : Bool, (if b = true then d.good + 1 else 1) < 16 := fun b => by
    split <;> omega
  exact hle _

theorem State.choosePort_fields (s : State) : s.choosePort.lowestTag = s.dtm.lowestTag ∧
    s.choosePort.time = s.dtm.time := by
  unfold State.choosePort Dtm.usePort Dtm.noPort Dtm.noRelock
  repeat' split
  all_goals exact ⟨rfl, rfl⟩

/-- The datum state after a choice among the ports differs by no more than what the choice reads not. -/
theorem State.chosen_reads (s : State) (f : DatumFrame) : ({ s with dtm := s.choosePort } : State).bestPort = s.bestPort ∧
    ({ s with dtm := s.choosePort } : State).frameValid f = s.frameValid f :=
  ⟨s.bestPort_withDtm s.choosePort_fields.2 s.choosePort_fields.1, s.frameValid_withDtm s.choosePort_fields.1 f⟩

theorem State.choosePort_same {s : State} {n : Fin 32} (hbest : s.bestPort = some n.val) (hport : s.dtm.port = some n) :
    s.choosePort = s.dtm := by
  simp [State.choosePort, hbest, hport]

/-- What a follower that is ACQUIRING does with a frame it has noted (R353, R354). -/
def State.follow (s : State) (n : Nat) (f : DatumFrame) (fr : W16) : State :=
  let s := { s with dtm := s.choosePort }
  if s.bestPort == some n && s.frameValid f then
    ({ s with dtm := s.dtm.takeFrame f (halfFrac s.dtm.time fr) }).tryLock
  else s

/-- A frame that is not the follower's own only moves the choice of its port. -/
theorem State.follow_other {s : State} {n : Nat} {f : DatumFrame} (h : (s.bestPort == some n && s.frameValid f) = false) (fr : W16) :
    s.follow n f fr = { s with dtm := s.choosePort } := by
  obtain ⟨hbest, hvalid⟩ := s.chosen_reads f
  rw [State.follow]
  dsimp only
  rw [hbest, hvalid, if_neg (ne_true_of_eq_false h)]

/-- A valid frame of its datum port joins the offsets; fewer than sixteen in a row lock nothing. -/
theorem State.follow_own {s : State} {n : Fin 32} {f : DatumFrame} (hport : s.dtm.port = some n) (hgood : s.dtm.good < 15)
    (hbest : s.bestPort = some n.val) (hvalid : s.frameValid f = true) (fr : W16) :
    s.follow n f fr = { s with dtm := s.dtm.takeFrame f (halfFrac s.dtm.time fr) } := by
  have hsame : ({ s with dtm := s.choosePort } : State) = s := by rw [State.choosePort_same hbest hport]
  rw [State.follow, hsame, if_pos (by simp [hbest, hvalid])]
  exact if_pos (Dtm.takeFrame_good s.dtm f _ hgood)

/-- t has followed a frame: what it says of the datum port's frame where t holds it for valid. -/
theorem State.followed (u : State) {n : Fin 32} (f : DatumFrame) (fr : W16) (hstate : u.dtm.state = .acquiring)
    (hport : u.dtm.port = some n) (hgood : u.dtm.good < 15) :
    (((u.noted n f fr).follow n f fr).port n).frame = some { frame := f, arrival := u.dtm.time, arrivalFrac := fr } ∧
    (((u.noted n f fr).follow n f fr).bestPort = some n.val → ((u.noted n f fr).follow n f fr).frameValid f = true →
      ((u.noted n f fr).follow n f fr).dtm.offsets =
        (u.dtm.offsets ++ [frameOffset f (halfFrac u.dtm.time fr)]).drop (u.dtm.offsets.length + 1 - 16) ∧
      ((u.noted n f fr).follow n f fr).dtm.hops = f.hops.toNat + 1 ∧
      ((u.noted n f fr).follow n f fr).dtm.lastFrameAt = u.dtm.time ∧
      ((u.noted n f fr).follow n f fr).dtm.state = .acquiring) := by
  cases hown : ((u.noted n f fr).bestPort == some n.val && (u.noted n f fr).frameValid f) with
  | false =>
    obtain ⟨hbest, hvalid⟩ := (u.noted n f fr).chosen_reads f
    rw [State.follow_other hown, hbest, hvalid]
    exact ⟨u.noted_frame n f fr, fun hb hv => by simp [hb, hv] at hown⟩
  | true =>
    obtain ⟨hbest, hvalid⟩ := (Bool.and_eq_true _ _).mp hown
    rw [State.follow_own (s := u.noted n f fr) hport hgood (beq_iff_eq.mp hbest) hvalid]
    exact ⟨u.noted_frame n f fr, fun _ _ => ⟨Dtm.takeFrame_offsets _ f _, rfl, rfl, hstate⟩⟩

/-! ## Steps of datum time -/

theorem ofHalf_halfFrac (v : W64) : ofHalf (halfFrac v 0) = (v, 0) := by
  have hwhole : halfFrac v 0 = (v.toNat : Int) * 131072 := by simp [halfFrac]
  rw [ofHalf, hwhole, Int.mul_ediv_cancel _ (by decide), Int.mul_emod_left]
  exact Prod.ext (by simp) rfl

theorem State.setDatum_at (s : State) (v : W64) : (s.setDatum v).dtm.time = v ∧ (s.setDatum v).dtm.frac = 0 := by
  have hmove : moveTime (halfFrac v 0 - halfFrac s.dtm.time s.dtm.frac) (s.dtm.time, s.dtm.frac) = (v, 0) := by
    have hsum : halfFrac s.dtm.time s.dtm.frac + (halfFrac v 0 - halfFrac s.dtm.time s.dtm.frac) = halfFrac v 0 := by omega
    rw [moveTime, hsum, ofHalf_halfFrac]
  exact ⟨congrArg Prod.fst hmove, congrArg Prod.snd hmove⟩

/-! ## The loss of the reference -/

theorem State.meterJudge_pll (s : State) : s.meterJudge.clk.pll = s.clk.pll := by
  unfold State.meterJudge
  split <;> rfl

theorem State.meterJudge_dtm (s : State) : s.meterJudge.dtm = s.dtm := by
  unfold State.meterJudge
  split <;> rfl

theorem State.coast_pll (s : State) (d : Fin 25) : s.coast.pll d = if s.pll d = .locked then .gliding else s.pll d := by
  have hpll := s.setPlls_pll (fun p => if p == .locked then .gliding else p) d
  simp only [State.coast, State.pll, State.meterJudge_pll, beq_iff_eq] at hpll ⊢
  generalize s.setPlls (fun p => if p = Pll.locked then Pll.gliding else p) = u at hpll ⊢
  exact hpll

theorem State.setPlls_dtm (s : State) (f : Pll → Pll) : (s.setPlls f).dtm = s.dtm := by
  unfold State.setPlls
  rfl

theorem State.coast_dtm (s : State) : s.coast.dtm = s.dtm := by
  rw [State.coast, State.meterJudge_dtm]
  simp only [State.setPlls_dtm]

/-- The datum state of a follower that has just lost its reference. -/
def Dtm.lost (d : Dtm) : Dtm := { d.noPort with state := .holdover, refLost := true, holdoverAt := d.time, relockTo := none }

theorem State.loseReference_dtm (s : State) : s.loseReference.dtm = s.dtm.lost := by
  rw [State.loseReference, (State.raise_stat_reports _ _ _ _ _).dtm, State.coast_dtm]
  rfl

theorem State.loseReference_pll (s : State) (d : Fin 25) :
    s.loseReference.pll d = if s.pll d = .locked then .gliding else s.pll d := by
  rw [State.loseReference, State.pll, (State.raise_stat_reports _ _ _ _ _).clk]
  exact State.coast_pll _ d

/-! ## REF_SELECT -/

theorem refVia_cmd {s u : State} {o r : Order} {op : Nat} {t : State} (hop : op < 2) (hr : rowOrder o 0 0 8 op = r)
    (ht : s.takesNow opRefSelect r 0) (hu : s.started opRefSelect r = u) (heff : u.refSelect op = (t, some Codes.ok)) :
    refVia op (.cmd o) s = t.complete (s.orderId opRefSelect r) .ok := by
  have hbyte : CmdWord.payByte { opcode := opRefSelect, desc := r.desc } 0 = op := by
    rw [← hr]
    exact (fld_putFld o.desc.payload 0 8 op (by decide)).trans (Nat.mod_eq_of_lt (by omega))
  rw [refVia, hr, State.cmdArrive_now ht, hu, refEff, hbyte, heff]
  rfl

/-- Settles O32: a frame is noted and, at a follower whose datum port it came by, taken; the other clauses read the model. -/
theorem datumCommandsComplete : Obligations.DatumCommandsComplete := by
  refine ⟨fun s n hin hdue => congrArg Host.Outcome.next ?sent,
    fun s u rx f fr hhears hu hrole hmaster => ⟨_, rfl, ?master⟩,
    fun s u rx f fr hhears hu hrole hstate hport hnow hgood => ⟨_, rfl, ?follower⟩,
    fun s left p hlocked hport hleft hsilent => ⟨_, rfl, ?lost⟩,
    fun s h ht hstate hnone hlate => congrArg Host.Outcome.next ?expired,
    fun s path hopen hstate => ⟨congrArg Host.Outcome.next ?localRef, congrArg Host.Outcome.next ?reacquire⟩,
    fun s path hopen hstate => congrArg Host.Outcome.next ?localHeld,
    fun s u o r hr ht hu hstate => congrArg Host.Outcome.next ?localOrder,
    fun s u o r hr ht hu hstate => congrArg Host.Outcome.next ?reacquireOrder,
    fun s v hstate => ⟨congrArg Host.Outcome.next ?set, s.setDatum_at v⟩,
    fun s v hm hl => congrArg Host.Outcome.next ?notSet⟩
  case sent =>
    have hframe : s.frameDue n = true := by
      rw [State.frameDue, hin, Bool.true_and, Option.all_eq_true]
      exact fun t ht => decide_eq_true (hdue t ht)
    exact if_pos hframe
  case master =>
    have hnow : u.dtmNow = u.dtm := by simp [State.dtmNow, hrole]
    rw [datumFrame, State.arrive_heard hhears, hu, State.frameIn_unlocked (by simp [hmaster]) hnow, if_pos hrole]
    exact ⟨u.noted_frame rx.port f fr, rfl, hmaster, rfl⟩
  case follower =>
    rw [datumFrame, State.arrive_heard hhears, hu, State.frameIn_unlocked (by simp [hstate]) hnow,
      if_neg (ne_true_of_eq_false hrole)]
    exact u.followed f fr hstate hport hgood
  case lost =>
    have hlost : (if left then s.refPortLeft else s.refSilent) = true := by
      cases left with
      | true => simp [State.refPortLeft, hlocked, hport, hleft rfl]
      | false => simpa [State.refSilent, hlocked] using hsilent rfl
    rw [referenceLoss, if_pos hlost]
    have hdtm := s.loseReference_dtm
    exact ⟨congrArg Dtm.state hdtm, congrArg Dtm.refLost hdtm, congrArg Dtm.port hdtm, congrArg Dtm.hops hdtm,
      congrArg Dtm.holdoverAt hdtm, fun d hd => by rw [State.loseReference_pll, if_pos hd]⟩
  case expired => simp [Sys2Proof.Machine.holdoverExpiry, ht, hstate, hnone, hlate]
  case localRef =>
    rw [refVia, State.writeBy_open hopen]
    obtain h | h | h := hstate <;> simp [State.refSelect, h]
  case reacquire =>
    rw [refVia, State.writeBy_open hopen]
    obtain h | h | h := hstate <;> simp [State.refSelect, h]
  case localHeld =>
    rw [refVia, State.writeBy_open hopen]
    simp [State.refSelect, hstate]
  case localOrder => exact refVia_cmd (by decide) hr ht hu (by simp [State.refSelect, hstate])
  case reacquireOrder =>
    exact refVia_cmd (by decide) hr ht hu (by obtain h | h := hstate <;> simp [State.refSelect, h])
  case set =>
    refine if_pos ?_
    obtain h | h := hstate <;> simp [h]
  case notSet =>
    refine if_neg ?_
    simp [hm, hl]

end Sys2Proof.Machine
end

section
/-! Orders that end at the arbiter, activation and deadlines; slots, notifications and the master's broadcast. -/
namespace Sys2Proof.Machine

/-! ## Orders that the arbiter refuses -/

theorem State.cmdArrive_atDesk {s : State} {op : W16} {o : Order} (h : s.comes op o) (size : Nat)
    (eff : Nat → State → State × Option Reply) (seen : SecSeen) :
    s.cmdArrive op o size eff seen = (s.desk op o).cmdHere op (s.atDesk o) size eff seen := by
  unfold State.cmdArrive
  unfold State.comes at h
  unfold State.desk State.atDesk
  split <;> rename_i ha <;> simp only [ha] at h ⊢
  · exact State.take_here h _
  · rw [if_pos h]

theorem State.handed_table (s : State) (rx : Rx) (b : TBody) : (s.handed rx b).lxg.table = s.lxg.table := by
  unfold State.handed State.dropParts
  repeat' split
  all_goals rfl

theorem State.rekeyIfDue_lxg (s : State) (n : Nat) : (s.rekeyIfDue n).lxg = s.lxg := by
  have h := congrArg State.lxg (s.rekeyIfDue_reports n).same
  exact h

theorem State.desk_table (s : State) (op : W16) (o : Order) : (s.desk op o).lxg.table = s.lxg.table := by
  unfold State.desk
  split
  · rw [State.taken, State.handed_table, State.received, State.rekeyIfDue_lxg]
    rfl
  · rfl

/-- The arbiter sees the same sender as the port's bridge. -/
theorem State.originOf_atDesk {s t : State} (htable : t.lxg.table = s.lxg.table) (o : Order) :
    t.originOf (s.atDesk o) = s.originOf (s.asTaken o) := by
  obtain ⟨desc, origin, port, arrival, rivals⟩ := o
  unfold State.originOf State.atDesk State.asTaken
  cases arrival with
  | trans rx => simp only [htable, State.headerOf]; rfl
  | _ => rfl

/-- An opcode without its class, or a sender that may send no CMD, is refused (R362, R368). -/
theorem State.orderCheck_unlisted {s : State} {w : CmdWord} {o : Order}
    (h : classOf w.opcode ≠ some w.desc.targetClass.toNat ∨ s.originOf o = none) : s.orderCheck w o = some Codes.refused := by
  unfold State.orderCheck
  cases horg : s.originOf o with
  | none => rfl
  | some org =>
    have hclass : classOf w.opcode ≠ some w.desc.targetClass.toNat := h.resolve_right (by simp [horg])
    simp [hclass]

theorem State.cmdHere_refused_noSlot {s : State} {op : W16} {o : Order} {c : Code} (hslot : 512 ≤ o.desc.slot.toNat)
    (hcheck : s.orderCheck { opcode := op, desc := o.desc } o = some c) (size : Nat) (eff : Nat → State → State × Option Reply)
    (seen : SecSeen) : s.cmdHere op o size eff seen = s.reject { opcode := op, desc := o.desc } o.arrival c := by
  have hno : ¬ o.desc.slot.toNat < 512 := Nat.not_lt.mpr hslot
  simp only [State.cmdHere, hno, decide_false, Bool.false_and, Bool.false_eq_true, if_false, hcheck]

theorem State.cmdHere_refused {s : State} {op : W16} {o : Order} {c : Code} (hslot : o.desc.slot.toNat < 512)
    (hfree : (s.slot o.desc.slot.toNat).busy = false)
    (hcheck : (s.setSlot o.desc.slot.toNat { busy := true }).orderCheck { opcode := op, desc := o.desc } o = some c) (size : Nat)
    (eff : Nat → State → State × Option Reply) (seen : SecSeen) :
    s.cmdHere op o size eff seen =
      (s.setSlot o.desc.slot.toNat { busy := true }).reject { opcode := op, desc := o.desc } o.arrival c := by
  simp only [State.cmdHere, hslot, decide_true, Bool.true_and, hfree, Bool.false_eq_true, if_false, if_true, hcheck]

theorem State.atDesk_desc (s : State) (o : Order) : (s.atDesk o).desc = o.desc := by
  unfold State.atDesk
  split <;> rfl

/-- Settles O33: the arbiter's own check refuses what is not listed; the rest reads the model's branches. -/
theorem ordersActivateAndComplete : Obligations.OrdersActivateAndComplete := by
  refine ⟨fun s o ht => congrArg Host.Outcome.next ?nop,
    fun s o op hcomes hslot hbad => congrArg Host.Outcome.next ?noSlot,
    fun s o op hcomes hslot hfree hbad => congrArg Host.Outcome.next ?slot,
    fun s id h hheld hwait hdue htimed hfree hturn => ⟨fun hserved => congrArg Host.Outcome.next ?timed,
      fun hserved => congrArg Host.Outcome.next ?timedLate⟩,
    fun s id h hheld hwait hdue htimed hfree hturn => ⟨fun hserved => congrArg Host.Outcome.next ?untimed,
      fun hserved => congrArg Host.Outcome.next ?untimedLate⟩,
    fun s id h hheld hwait hdead hpast => congrArg Host.Outcome.next ?waitEnds,
    fun s id h hheld hwait hdead hmissed hpast => congrArg Host.Outcome.next ?missed⟩
  case nop => exact State.cmdArrive_now ht _ _
  case noSlot =>
    rw [unlistedOpcode, if_pos (by simpa using hbad), State.cmdArrive_atDesk hcomes]
    have hdesc := s.atDesk_desc o
    have hcheck := (s.desk op o).orderCheck_unlisted (w := { opcode := op, desc := o.desc }) (o := s.atDesk o)
      (by rwa [State.originOf_atDesk (s.desk_table op o)])
    rw [← hdesc] at hslot hcheck
    rw [State.cmdHere_refused_noSlot hslot hcheck, hdesc]
  case slot =>
    rw [unlistedOpcode, if_pos (by simpa using hbad), State.cmdArrive_atDesk hcomes]
    have hdesc := s.atDesk_desc o
    have hcheck := ((s.desk op o).setSlot o.desc.slot.toNat { busy := true }).orderCheck_unlisted
      (w := { opcode := op, desc := o.desc }) (o := s.atDesk o) (by
        have htable : ((s.desk op o).setSlot o.desc.slot.toNat { busy := true }).lxg.table = s.lxg.table := s.desk_table op o
        rwa [State.originOf_atDesk htable])
    rw [← hdesc] at hslot hfree hcheck
    rw [State.cmdHere_refused hslot hfree hcheck, hdesc]
  case timed => simp [Sys2Proof.Machine.commandActivation, hheld, hwait, hdue, htimed, hfree, hturn, hserved]
  case timedLate => simp [Sys2Proof.Machine.commandActivation, hheld, hwait, hdue, htimed, hfree, hturn, hserved]
  case untimed => simp [Sys2Proof.Machine.commandActivation, hheld, hwait, hdue, htimed, hfree, hturn, hserved]
  case untimedLate => simp [Sys2Proof.Machine.commandActivation, hheld, hwait, hdue, htimed, hfree, hturn, hserved]
  case waitEnds =>
    have hset : (h.word.desc.deadline != 0) = true := bne_iff_ne.mpr hdead
    simp only [Sys2Proof.Machine.deadlineMissed, hheld, hwait, hset, hpast, decide_true, Bool.and_self, if_true]
  case missed =>
    have hpd : s.pastDeadline h.word = true := by
      rw [State.pastDeadline, bne_iff_ne.mpr hdead, Bool.true_and]
      exact decide_eq_true hpast
    simp only [Sys2Proof.Machine.deadlineMissed, hheld, hwait, hmissed, hpd, Bool.not_false, Bool.and_self, Bool.false_eq_true,
      if_false, if_true]
    exact if_pos (by rw [hwait, hmissed, Bool.not_false, Bool.and_true, Bool.and_true]; exact hpd)

/-! ## Slots, notifications, broadcast -/

/-- What the broadcast does for one device: its own copy is an order, another's a CMD (R372). -/
def State.sendCopy (w : CmdWord) (s : State) (d : Nat) : State :=
  if s.myNum = some d then submitOrder w.opcode { desc := w.desc, origin := .master, port := 32, arrival := .own } s
  else s.request (BitVec.ofNat 16 d) false (.bcast d) (.cmd w)

theorem State.sendCopy_eq (w : CmdWord) : State.sendCopy w = fun s d =>
    if s.myNum == some d then submitOrder w.opcode { desc := w.desc, origin := .master, port := 32, arrival := .own } s
    else s.request (BitVec.ofNat 16 d) false (.bcast d) (.cmd w) := by
  funext s d
  by_cases h : s.myNum = some d
  · rw [State.sendCopy, if_pos h, if_pos (beq_iff_eq.mpr h)]
  · rw [State.sendCopy, if_neg h, if_neg (by simpa using h)]

/-- A broadcast awaits a completion of each device that has a route, and sends each its copy. -/
theorem broadcastGo_go {s u : State} {w : CmdWord} {all : Bool} {d : Nat} {ds : List Nat} (hmaster : s.dtm.state = .master)
    (hnone : s.cmd.bcast.waitingOn = []) (hw : cmdOfWords s.cmd.bcastDesc = w)
    (hu : (if w.opcode = opStepStart then
      { s with dtm := { s.dtm with mstep := w.desc.step, mstepTime := w.desc.actTime } } else s) = u)
    (hds : (if all then (s.cfg.plan.seals.map (·.dev)).eraseDups else [d]) = ds) :
    Sys2Proof.Machine.broadcastGo all d s = ds.foldl (State.sendCopy w) { u with cmd := { u.cmd with bcast := {
      opcode := w.opcode
      waitingOn := ds.filter (fun d => u.myNum == some d || !(u.outPorts (BitVec.ofNat 16 d)).isEmpty) } } } := by
  rw [State.sendCopy_eq, Sys2Proof.Machine.broadcastGo, if_neg (by simp [hmaster, hnone])]
  simp only [hw, hu, hds]

/-- Settles O34: each clause is its branch of the model; the copy for this device is told by its number. -/
theorem slotsNotificationsAndBroadcast : Obligations.SlotsNotificationsAndBroadcast := by
  refine ⟨fun s k hopen hready => congrArg Host.Outcome.next ?consume,
    fun s k hopen hready => congrArg Host.Outcome.next ?read,
    fun s hopen => exec_notifyPop hopen,
    fun s w d hopen hmaster hnone hw hop hmine hroute => congrArg Host.Outcome.next ?one,
    fun s u w all d ds hopen hmaster hnone hw hstep hother hds => congrArg Host.Outcome.next ?all⟩
  all_goals rw [State.atBlock_open hopen, State.woken_cmdBlock]
  case consume => exact if_pos hready
  case read =>
    have hcount : s.countRead k = s.setSlot k { s.slot k with readCount := satAdd 16 (s.slot k).readCount 1 } := if_pos hready
    rw [slotWord0Read, hcount]
    simp [State.slot, State.setSlot]
  case one =>
    rw [broadcastGo_go hmaster hnone hw (if_neg hop) rfl]
    have hkept : (s.myNum == some d.toNat || !(s.outPorts (BitVec.ofNat 16 d.toNat)).isEmpty) = true := by
      rw [List.isEmpty_eq_false_iff.mpr hroute, Bool.not_false, Bool.or_true]
    simp only [Bool.false_eq_true, if_false, List.filter_cons, hkept, if_true, List.filter_nil, List.foldl_cons, List.foldl_nil]
    exact if_neg hmine
  case all =>
    refine broadcastGo_go hmaster hnone hw ?_ hds
    by_cases h : w.opcode = opStepStart
    · rw [if_pos h, hstep h]
    · rw [if_neg h, hother h]

end Sys2Proof.Machine
end

section
/-! Clock gates, automatic gating and the frequency meter. -/
namespace Sys2Proof.Machine

theorem State.meterJudge_quiet {s : State} (h : s.clk.measuring = false ∨ s.meterRefGone = false) : s.meterJudge = s := by
  rw [State.meterJudge, if_neg]
  obtain h | h := h <;> simp [h]

theorem State.meterJudge_gone {s : State} (hm : s.clk.measuring = true) (hg : s.meterRefGone = true) :
    s.meterJudge = { s with clk := { s.clk with measuring := false, done := true, aborted := true, count := 0 } } :=
  if_pos (by rw [hm, hg, Bool.and_self])

theorem State.gateCmd_done {s : State} {d g : Nat} {open_ : Bool} (hawake : s.awake = true) (h : s.gateRefused d g open_ = false) :
    s.gateCmd d g open_ = State.meterJudge { s with clk := { s.clk with
      gateResult := Codes.ok, closed := SMap.set false s.clk.closed (32 * d + g) (!open_) } } := by
  rw [State.gateCmd, State.whenAwake, if_pos hawake, h]
  rfl

theorem State.gateCmd_refused {s : State} {d g : Nat} {open_ : Bool} (hawake : s.awake = true)
    (h : s.gateRefused d g open_ = true) :
    s.gateCmd d g open_ = { s with clk := { s.clk with gateResult := Codes.refused } } := by
  rw [State.gateCmd, State.whenAwake, if_pos hawake, if_pos h]

theorem State.gateRefused_open {s : State} {d g : Nat} (hgate : g < gatesOf d) (htree : s.clk.treeMode d = true) :
    s.gateRefused d g true = (g != 0 && s.clk.isClosed d 0) := by
  rw [State.gateRefused, if_neg (by simp [hgate, htree]), if_pos rfl]

theorem State.gateRefused_child {s : State} {d g : Nat} (hgate : g < gatesOf d) (htree : s.clk.treeMode d = true)
    (hchild : g ≠ 0) : s.gateRefused d g false = s.gateBusy d g := by
  rw [State.gateRefused, if_neg (by simp [hgate, htree]), if_neg Bool.false_ne_true, if_neg hchild]

theorem State.gateRefused_root {s : State} {d : Nat} (hgate : 0 < gatesOf d) (htree : s.clk.treeMode d = true)
    (hchildren : ∀ k, 0 < k → k < gatesOf d → s.clk.isClosed d k = true)
    (hbridge : 8 ≤ d ∧ d < 12 → s.bridgeUsed (d - 8) = false) (hwindow : s.timedWindow = false) :
    s.gateRefused d 0 false = false := by
  rw [State.gateRefused, if_neg (by simp [Nat.pos_iff_ne_zero.mp hgate, htree]), if_neg Bool.false_ne_true, if_pos rfl, hwindow, Bool.or_false,
    Bool.or_eq_false_iff]
  refine ⟨List.any_eq_false.mpr fun k hk => ?_, ?_⟩
  · by_cases h0 : k = 0
    · simp [h0]
    · simp [hchildren k (Nat.pos_of_ne_zero h0) (List.mem_range.mp hk)]
  · by_cases h : 8 ≤ d ∧ d < 12
    · rw [hbridge h, Bool.and_false]
    · rw [← Bool.decide_and, decide_eq_false h, Bool.false_and]

theorem State.gateRefused_none {s : State} {d g : Nat} (h : gatesOf d ≤ g ∨ s.clk.treeMode d = false) (open_ : Bool) :
    s.gateRefused d g open_ = true := by
  rw [State.gateRefused, if_pos]
  obtain h | h := h <;> simp [h]

/-- A busy child gate does not close, whatever the mode of its domain. -/
theorem State.gateRefused_busy {s : State} {d g : Nat} (hchild : g ≠ 0) (hbusy : s.gateBusy d g = true) :
    s.gateRefused d g false = true := by
  simp only [State.gateRefused, Bool.false_eq_true, if_false, if_neg hchild, hbusy, ite_self]

/-! ## The gating mode -/

theorem bitOf_setBit {n : Nat} (w : BitVec n) {k : Nat} (hk : k < n) (j : Nat) :
    bitOf (setBit w k) j = (bitOf w j || decide (j = k)) := by
  show (w ||| BitVec.ofNat n (2 ^ k)).getLsbD j = (w.getLsbD j || decide (j = k))
  rw [BitVec.getLsbD_or, BitVec.getLsbD_ofNat, Nat.testBit_two_pow]
  by_cases h : j = k
  · subst h
    simp [hk]
  · have h' : ¬ k = j := fun e => h e.symm
    simp [h, h']

/-- A mask built bit by bit has the bits of the indices that pass. -/
theorem bitOf_foldl_setBit {n : Nat} (p : Nat → Bool) (l : List Nat) (hl : ∀ d ∈ l, d < n) (m : BitVec n) (j : Nat) :
    bitOf (l.foldl (fun m d => if p d then setBit m d else m) m) j = (bitOf m j || (decide (j ∈ l) && p j)) := by
  induction l generalizing m with
  | nil => simp
  | cons d l ih =>
    rw [List.foldl_cons, ih (fun x hx => hl x (List.mem_cons_of_mem d hx))]
    by_cases hd : j = d
    · subst hd
      cases hp : p j with
      | true => simp [bitOf_setBit m (hl j List.mem_cons_self)]
      | false => simp
    · cases hp : p d with
      | true => simp [bitOf_setBit m (hl d List.mem_cons_self), hd]
      | false => simp [hd]

/-- The mode that a write of CLK_GATE_MODE leaves. -/
def gateModeOf (v : W64) : BitVec 25 :=
  (List.range 25).foldl (fun (m : BitVec 25) d => if gatesOf d ≠ 0 && bitOf v d then setBit m d else m) 0

theorem bitOf_gateModeOf (v : W64) (d : Fin 25) : bitOf (gateModeOf v) d = (decide (gatesOf d ≠ 0) && v.getLsbD d) := by
  have hfold := bitOf_foldl_setBit (fun d => decide (gatesOf d ≠ 0) && bitOf v d) (List.range 25)
    (fun d hd => List.mem_range.mp hd) (0 : BitVec 25) d
  have hzero : bitOf (0 : BitVec 25) d = false := by simp [bitOf]
  rw [hzero, Bool.false_or, decide_eq_true (List.mem_range.mpr d.isLt), Bool.true_and] at hfold
  exact hfold

/-- Entries of domains that changed are gone, whatever their gate. -/
theorem SMap.get_unchanged (m : SMap Bool) (changed : Nat → Bool) {d : Nat} (h : changed d = true) (g : Fin 32) :
    SMap.get false (m.filter (fun e => !changed (e.1 / 32))) (32 * d + g) = false := by
  rw [SMap.get_filter m (fun k => !changed (k / 32))]
  have hdiv : (32 * d + g.val) / 32 = d := by omega
  rw [hdiv, h]
  rfl

/-! ## The frequency meter -/

/-- Sources that the meter does not have, or a gate of no length, end the measurement at once (R383). -/
def meterSources (v : W64) : Bool :=
  (fld v 0 5 ≤ 24 || fld v 0 5 = 30) && (fld v 5 5 ≤ 24 || fld v 5 5 = 30 || fld v 5 5 = 31) &&
    BitVec.ofNat 32 (fld v 32 32) != 0

theorem meterGate_zero (v : W64) : BitVec.ofNat 32 (fld v 32 32) = 0 ↔ fld v 32 32 = 0 := by
  have hlt : fld v 32 32 < 2 ^ 32 := Nat.mod_lt _ (by decide)
  constructor
  · intro h
    have hnat := congrArg BitVec.toNat h
    rwa [BitVec.toNat_ofNat, Nat.mod_eq_of_lt hlt] at hnat
  · intro h
    rw [h]
    rfl

theorem fmeterStart_started {s : State} {v : W64} (hawake : s.awake = true) (hgo : v.getLsbD 31 = true) :
    Sys2Proof.Machine.fmeterStart v s = State.meterJudge { s with clk := { s.clk with
      meas := fld v 0 5, ref := fld v 5 5, gate := BitVec.ofNat 32 (fld v 32 32), measuring := meterSources v, count := 0
      done := !meterSources v, aborted := !meterSources v } } := by
  have hbit : bitOf v 31 = true := hgo
  rw [Sys2Proof.Machine.fmeterStart, State.whenAwake, if_pos hawake]
  dsimp only
  rw [if_pos hbit]
  rfl

/-- Settles O36: a gate command is done or refused as the table says; the mode is read bit by bit. -/
theorem gatesAndMeter : Obligations.GatesAndMeter := by
  refine ⟨fun s d g hawake hgate htree hroot => congrArg Host.Outcome.next ?opens,
    fun s d g hawake hgate htree hchild hidle => congrArg Host.Outcome.next ?closes,
    fun s d g hawake hgate htree hg hchildren hbridge hwindow => congrArg Host.Outcome.next ?rootCloses,
    fun s d g hawake hnone => ⟨congrArg Host.Outcome.next ?noOpen, congrArg Host.Outcome.next ?noClose⟩,
    fun s d g hawake hchild hbusy => congrArg Host.Outcome.next ?busy,
    fun s v hawake => ⟨_, rfl, ?mode⟩,
    fun s d b hawake hb htree => ⟨fun hidle => congrArg Host.Outcome.next ?stops, fun hbusy => congrArg Host.Outcome.next ?works⟩,
    fun s d b hb => congrArg Host.Outcome.next (if_pos hb),
    fun s v hawake hmeas href hgate hgo => congrArg Host.Outcome.next ?measures,
    fun s v hawake hbad hgo => congrArg Host.Outcome.next ?aborts,
    fun s c stopped hm hg => congrArg Host.Outcome.next ?done,
    fun s c stopped hm hg => ⟨congrArg Host.Outcome.next ?gone, State.meterJudge_gone hm hg⟩,
    fun s h => State.meterJudge_quiet h⟩
  case opens =>
    refine State.gateCmd_done hawake ?_
    rw [State.gateRefused_open hgate htree]
    obtain h | h := hroot <;> simp [h]
  case closes => exact State.gateCmd_done hawake (by rw [State.gateRefused_child hgate htree hchild, hidle])
  case rootCloses =>
    exact State.gateCmd_done hawake (by rw [hg]; exact State.gateRefused_root hgate htree hchildren hbridge hwindow)
  case noOpen => exact State.gateCmd_refused hawake (State.gateRefused_none hnone true)
  case noClose => exact State.gateCmd_refused hawake (State.gateRefused_none hnone false)
  case busy => exact State.gateCmd_refused hawake (State.gateRefused_busy hchild hbusy)
  case mode =>
    rw [Sys2Proof.Machine.gatingModeWrite, State.whenAwake, if_pos hawake]
    refine ⟨rfl, bitOf_gateModeOf v, fun d g hchanged => ?_⟩
    have hdiff : (bitOf (gateModeOf v) d != s.clk.treeMode d) = true := bne_iff_ne.mpr hchanged
    have hclosed := SMap.get_unchanged s.clk.closed (fun d => bitOf (gateModeOf v) d != s.clk.treeMode d) hdiff g
    have hstopped := SMap.get_unchanged s.clk.stopped (fun d => bitOf (gateModeOf v) d != s.clk.treeMode d) hdiff g
    exact congr (congrArg (fun a b : Bool => !a && !b) hclosed) hstopped
  case stops => simp only [Sys2Proof.Machine.idleClockStop, hawake, hb, htree, hidle, decide_true, Bool.not_false, Bool.and_self, if_true]
  case works => simp only [Sys2Proof.Machine.idleClockStop, hbusy, Bool.not_true, Bool.and_false, Bool.false_eq_true, if_false]
  case measures =>
    have hok : meterSources v = true := by
      simp only [meterSources, Bool.and_eq_true, Bool.or_eq_true, decide_eq_true_eq, bne_iff_ne, ne_eq, meterGate_zero]
      exact ⟨⟨hmeas, or_assoc.mpr href⟩, hgate⟩
    rw [fmeterStart_started hawake hgo, hok]
    rfl
  case aborts =>
    have hno : meterSources v = false := by
      simp only [meterSources, Bool.and_eq_false_iff, Bool.or_eq_false_iff, decide_eq_false_iff_not, bne_eq_false_iff_eq,
        meterGate_zero]
      omega
    rw [fmeterStart_started hawake hgo, hno]
    exact State.meterJudge_quiet (.inl rfl)
  case done => simp only [Sys2Proof.Machine.fmeterDone, hm, hg, Bool.or_false, if_true]
  case gone => simp only [Sys2Proof.Machine.fmeterDone, hm, hg, Bool.or_true, if_true]

end Sys2Proof.Machine
end

section
/-! Power states, telemetry and temperature. -/
namespace Sys2Proof.Machine

/-- Settles O37: each operation takes the branch that its state opens. -/
theorem powerStatesAndLimit : Obligations.PowerStatesAndLimit := by
  refine ⟨fun s u hawake hdrained hnow hu => congrArg Host.Outcome.next ?idles,
    fun s hawake hnot => congrArg Host.Outcome.next ?staysUp,
    fun s hawake hidle => congrArg Host.Outcome.next ?wakes,
    fun s hawake hnot => congrArg Host.Outcome.next ?awake,
    fun s hawake hnot => congrArg Host.Outcome.next ?changes,
    fun s v hawake hfits => congrArg Host.Outcome.next ?limit,
    fun s v hawake hloaded hlow => congrArg Host.Outcome.next ?low⟩
  case idles =>
    have hmay : (s.pwr.state == .drained && s.drainedNow) = true := by simp [hdrained, hnow]
    rw [Sys2Proof.Machine.idle, State.whenAwake, if_pos hawake, if_pos hmay, hu]
    rfl
  case staysUp =>
    have hno : (s.pwr.state == .drained && s.drainedNow) = false := by
      obtain h | h := hnot <;> simp [h]
    rw [Sys2Proof.Machine.idle, State.whenAwake, if_pos hawake, hno]
    rfl
  case wakes =>
    rw [Sys2Proof.Machine.wake, State.whenAwake, if_pos hawake, if_pos (beq_iff_eq.mpr hidle)]
    rfl
  case awake =>
    rw [Sys2Proof.Machine.wake, State.whenAwake, if_pos hawake, if_neg (by simpa using hnot)]
    rfl
  case changes => rw [Sys2Proof.Machine.powerStateChange, if_neg (by simp [hnot, hawake])]
  case limit =>
    have hfits : ¬ (s.img.loaded && decide (min (fld v 0 32) 2500000 < s.pwr.admittedSum.toNat)) = true := by
      obtain h | h := hfits
      · simp [h]
      · rw [decide_eq_false (Nat.not_lt.mpr h), Bool.and_false]
        exact Bool.false_ne_true
    rw [Sys2Proof.Machine.pwrLimitWrite, State.whenAwake, if_pos hawake]
    exact if_neg hfits
  case low =>
    rw [Sys2Proof.Machine.pwrLimitWrite, State.whenAwake, if_pos hawake]
    exact if_pos (by rw [hloaded, Bool.true_and]; exact decide_eq_true hlow)

/-! ## Telemetry -/

theorem railPoll_awake {s : State} {rails : List RailSample} {answered : BitVec 5} {p : Pwr} {n : Nat} {isAbove : Bool}
    (hawake : s.awake = true) (hp : s.pwr.poll rails answered = p) (hn : p.mean = n)
    (habove : (s.img.loaded && !p.above && decide (p.admittedSum.toNat < n)) = isAbove) :
    Sys2Proof.Machine.railPoll rails answered s =
      let q := { p with
        avg := BitVec.ofNat 32 n, peak := BitVec.ofNat 32 (max p.peak.toNat n), above := p.above || isAbove
        fault := if isAbove then setBit p.fault 2 else p.fault }
      if isAbove then State.raise { s with pwr := q } .stat Codes.pwrOver 8 0 q.tempWord else { s with pwr := q } := by
  rw [Sys2Proof.Machine.railPoll, State.whenAwake, if_pos hawake, hp]
  dsimp only
  rw [hn, habove]

/-- A poll that every rail answers ends every outage, and its sum is that of all its readings. -/
theorem Pwr.poll_all (p : Pwr) {rails : List RailSample} (h : rails.length = 5) :
    (p.poll rails (BitVec.allOnes 5)).outage = 0 ∧ (p.poll rails (BitVec.allOnes 5)).polls =
      (p.polls ++ [(rails.map (fun (x : RailSample) => x.mv.toNat * x.ma.toNat / 1000)).sum]).drop (p.polls.length - 9) := by
  obtain ⟨a, b, c, d, e, rfl⟩ : ∃ a b c d e, rails = [a, b, c, d, e] := by
    match rails, h with
    | [a, b, c, d, e], _ => exact ⟨a, b, c, d, e, rfl⟩
  have hout : p.outage &&& ~~~ BitVec.allOnes 5 = 0 := by simp
  have hnone : ∀ r, bitOf (0 : BitVec 5) r = false := fun r => by simp [bitOf]
  have hall : ∀ r < 5, bitOf (BitVec.allOnes 5) r = true := by decide
  have hrange : List.range 5 = [0, 1, 2, 3, 4] := rfl
  refine ⟨hout, ?_⟩
  unfold Pwr.poll
  generalize BitVec.allOnes 5 = all at hout hall
  simp only [hout, hrange, hnone, hall, List.take_succ_cons, List.take_zero, List.zipIdx_cons, List.zipIdx_nil, List.foldl_cons,
    List.foldl_nil, Bool.false_eq_true, if_false, if_true, SMap.get_set, Nat.reduceAdd, Nat.reduceLT, Nat.reduceEqDiff,
    List.map_cons, List.map_nil, List.sum_cons, List.sum_nil, Nat.zero_add, Nat.add_zero, Nat.add_assoc]

/-- Settles O38: a poll and a sample change the fields they name, and each raises its fault once. -/
theorem telemetryAndTemperature : Obligations.TelemetryAndTemperature := by
  refine ⟨fun s rails answered p n hawake hp hn hquiet => congrArg Host.Outcome.next ?quiet,
    fun s u rails answered p n hawake hp hn hloaded hlow habove hu => congrArg Host.Outcome.next ?above,
    fun p rails hlen => p.poll_all hlen,
    fun s u ts t i hawake hhot htrip hwarn hwarned hout hu => congrArg Host.Outcome.next ?trips,
    fun s ts t i hawake hhot hcool hwarn hwarned => congrArg Host.Outcome.next ?cool,
    fun s k want hphase hstep hlo hhi hwant hnear => congrArg Host.Outcome.next ?adjusts,
    fun s k hbad => congrArg Host.Outcome.next ?stays,
    fun s r hawake hout => congrArg Host.Outcome.next ?silent,
    fun s hawake => congrArg Host.Outcome.next (if_pos hawake)⟩
  case quiet =>
    have hno : (s.img.loaded && !p.above && decide (p.admittedSum.toNat < n)) = false := by
      obtain h | h | h := hquiet
      · simp [h]
      · simp [h]
      · rw [decide_eq_false (Nat.not_lt.mpr h), Bool.and_false]
    rw [railPoll_awake hawake hp hn hno]
    simp
  case above =>
    have hover : (s.img.loaded && !p.above && decide (p.admittedSum.toNat < n)) = true := by simp [hloaded, habove, hlow]
    rw [railPoll_awake hawake hp hn hover, ← hu]
    simp
  case trips =>
    have hhot' : decide ((115 : Int) * 16 ≤ t) = true := decide_eq_true htrip
    have hcool : decide (t ≤ ((s.pwr.warn : Int) - 5) * 16) = false := decide_eq_false (by omega)
    have hstay : decide ((110 : Int) * 16 ≤ t) = true := decide_eq_true (by omega)
    rw [Sys2Proof.Machine.temperatureSample, State.whenAwake, if_pos hawake]
    simp only [hhot, hhot', hcool, hstay, hwarned, hout, ← hu, Bool.and_false, Bool.not_false, Bool.not_true, Bool.and_true,
      Bool.or_true, Bool.true_or, Bool.false_eq_true, if_false, if_true]
  case cool =>
    have hhot' : decide ((115 : Int) * 16 ≤ t) = false := decide_eq_false (by omega)
    have hstay : decide ((110 : Int) * 16 ≤ t) = false := decide_eq_false (by omega)
    have hunder : decide ((s.pwr.warn : Int) * 16 ≤ t) = false := decide_eq_false (by omega)
    rw [Sys2Proof.Machine.temperatureSample, State.whenAwake, if_pos hawake]
    simp only [hhot, hhot', hstay, hunder, hwarned, Bool.false_and, Bool.and_false, Bool.or_false, Bool.false_eq_true, if_false,
      id_eq]
  case adjusts =>
    have hmay : (6 ≤ s.nvm.phase && 600000 ≤ s.pwr.vddCore + k && s.pwr.vddCore + k ≤ 750000 && k.natAbs ≤ 5000 &&
        (s.pwr.vddCore + k - s.pwr.vddWanted).natAbs < (s.pwr.vddCore - s.pwr.vddWanted).natAbs) = true := by
      have hwant' : s.pwr.vddWanted = want := hwant
      simp [hwant', hphase, hstep, hlo, hhi, hnear]
    exact if_pos hmay
  case stays =>
    refine if_neg ?_
    simp only [Bool.and_eq_true, decide_eq_true_eq]
    omega
  case silent =>
    rw [Sys2Proof.Machine.avsTelemetry, if_neg (by simp [hout, hawake])]
    rfl

end Sys2Proof.Machine
end

section
/-! PLLs and the reference: what a relock and the loss of the local input do. -/
namespace Sys2Proof.Machine

/-! ## Orders and messages leave the light and the state of every port -/

theorem State.logFault_sameLights (s : State) (c : FClass) (code : Code) (kind inst : Nat) (d : W64) :
    SameLights s (s.logFault c code kind inst d) := .ofPorts rfl

theorem State.setSlot_sameLights (s : State) (k : Nat) (x : Slot) : SameLights s (s.setSlot k x) := .ofPorts rfl

theorem State.sendQuiet_sameLights (s : State) (t : Trans) : SameLights s (s.sendQuiet t) := by
  have hsend := s.trySend_sameLights t
  unfold State.sendQuiet
  split
  next u heq => rw [heq] at hsend; exact hsend
  next u c heq => rw [heq] at hsend; exact hsend.trans (u.logFault_sameLights _ _ _ _ _)

theorem State.sendCpl_sameLights (s : State) (a : Arrival) (c : Cpl) : SameLights s (s.sendCpl a c) := by
  cases a with
  | trans rx => exact s.sendQuiet_sameLights _
  | own =>
    rw [State.sendCpl]
    dsimp only
    split <;> exact .ofPorts rfl
  | _ => exact .ofPorts rfl

theorem State.finish_sameLights (s : State) (w : CmdWord) (a : Arrival) (r : Reply) : SameLights s (s.finish w a r) := by
  unfold State.finish
  dsimp only
  split
  · exact (s.setSlot_sameLights _ _).trans (State.sendCpl_sameLights _ _ _)
  · exact s.sendCpl_sameLights _ _

theorem State.missRecord_sameLights (s : State) (h : Held) : SameLights s (s.missRecord h) := by
  unfold State.missRecord
  split
  · exact s.logFault_sameLights _ _ _ _ _
  · exact .refl s

theorem State.withCmd_sameLights (s : State) (c : Cmd) : SameLights s { s with cmd := c } := .ofPorts rfl

theorem State.complete_sameLights (s : State) (id : Nat) (r : Reply) : SameLights s (s.complete id r) := by
  unfold State.complete
  split
  · exact .refl s
  · exact ((s.withCmd_sameLights _).trans (State.missRecord_sameLights _ _)).trans (State.finish_sameLights _ _ _ _)

theorem State.completeAll_sameLights (s : State) (op : W16) (f : Nat → Bool) (r : Reply) :
    SameLights s (s.completeAll op f r) := by
  unfold State.completeAll
  exact SameLights.foldl _ (fun s (h : Held) => s.complete_sameLights h.id r) _ s

theorem State.cancelClass0_sameLights (s : State) : SameLights s s.cancelClass0 := by
  unfold State.cancelClass0
  dsimp only
  have hset : SameLights s { s with adj := { s.adj with nextStart := none } } := .ofPorts rfl
  exact hset.trans (SameLights.foldl _ (fun s (h : Held) => s.complete_sameLights h.id _) _ _)

theorem State.contain_sameLights (s : State) : SameLights s s.contain := by
  have hnote : ∀ (u : State) (r : Rival), SameLights u (u.takeFree.2.noteOrder none r) := fun u r => .ofPorts rfl
  exact s.cancelClass0_sameLights.trans (hnote _ _)

theorem State.withMon_sameLights (s : State) (m : Mon) : SameLights s { s with mon := m } := .ofPorts rfl

theorem State.monEnd_sameLights (s : State) (c : Code) (k : Nat) : SameLights s (s.monEnd c k) := by
  unfold State.monEnd
  exact (s.withMon_sameLights _).trans (State.completeAll_sameLights _ _ _ _)

/-- A capture under way is abandoned. -/
def State.monFatalJob (s : State) : State :=
  match s.mon.job with
  | some j =>
    let s := s.logFault .stat Codes.monAbandoned 10 0 s.monStatus
    let s := { s with mon := { s.mon with job := none } }
    if j.own then s.monEnd Codes.monAbandoned j.step else s
  | none => s

/-- A restore under way is abandoned. -/
def State.monFatalRestore (s : State) : State :=
  match s.mon.restore with
  | some r => ({ s with mon := { s.mon with restore := none, restoreBad := true } }).monEnd Codes.monAbandoned (r.step.getD 0)
  | none => s

theorem State.monFatal_parts (s : State) : s.monFatal =
    { s.monFatalJob.monFatalRestore with mon := { s.monFatalJob.monFatalRestore.mon with digest := none, checks := [], early := [] } } :=
  rfl

theorem State.monFatal_sameLights (s : State) : SameLights s s.monFatal := by
  have hjob : SameLights s s.monFatalJob := by
    unfold State.monFatalJob
    split
    · dsimp only
      have hlog := (s.logFault_sameLights .stat Codes.monAbandoned 10 0 s.monStatus)
      generalize s.logFault .stat Codes.monAbandoned 10 0 s.monStatus = u at hlog
      have hset := hlog.trans (u.withMon_sameLights { u.mon with job := none })
      split
      · exact hset.trans (State.monEnd_sameLights _ _ _)
      · exact hset
    · exact .refl s
  have hrestore : ∀ u : State, SameLights u u.monFatalRestore := fun u => by
    unfold State.monFatalRestore
    split
    · exact (u.withMon_sameLights _).trans (State.monEnd_sameLights _ _ _)
    · exact .refl u
  rw [State.monFatal_parts]
  exact (hjob.trans (hrestore _)).trans (State.withMon_sameLights _ _)

theorem State.imgEnd_sameLights (s : State) (op : Nat) (code : Code) : SameLights s (s.imgEnd op code) := by
  have hset : ∀ i : Img, SameLights s { s with img := i } := fun i => .ofPorts rfl
  exact (hset _).trans (State.completeAll_sameLights _ _ _ _)

theorem State.abandonWaits_sameLights (s : State) : SameLights s s.abandonWaits := by
  have hreply : ∀ (u : State) (src : BmkSrc), SameLights u (u.waitReply src Codes.bmkAbandoned 0) := fun u src => by
    unfold State.waitReply
    split
    · split
      · exact u.complete_sameLights _ _
      · exact .refl u
    · exact u.sendQuiet_sameLights _
    · exact .ofPorts rfl
  have hplat : ∀ (u : State) (p : Nat) (x : Plat), SameLights u (u.setPlat p x) := fun u p x => .ofPorts rfl
  refine SameLights.foldl _ (fun u p => ?_) _ s
  exact (hplat u p _).trans (SameLights.foldl _ (fun u (k : Parked) => hreply u k.src) _ _)

theorem State.lostQuiet_sameLights (s : State) (t : Trans) (c : Code) : SameLights s (s.lostQuiet t c) := .ofPorts rfl

theorem State.redirectQuiet_sameLights (s : State) (ts : List Trans) : SameLights s (s.redirect State.lostQuiet ts) := by
  unfold State.redirect
  refine SameLights.foldl _ (fun s t => ?_) ts s
  split
  · exact .refl s
  · split
    · have hsend := s.trySend_sameLights t
      split
      next u heq => rw [heq] at hsend; exact hsend
      next u c heq => rw [heq] at hsend; exact hsend.trans (u.lostQuiet_sameLights t c)
    · exact s.passOn_sameLights t

theorem State.retryHeld_sameLights (s : State) : SameLights s s.retryHeld := by
  have hset : SameLights s { s with lxg := { s.lxg with held := [] } } := .ofPorts rfl
  have hun : ∀ (u : State) (t : Trans), SameLights u (u.unkeep t) := fun u t => by
    unfold State.unkeep
    split
    · exact .refl u
    · exact u.setPort_sameLights _ rfl
  exact hset.trans (SameLights.foldl _ (fun u t => (hun u t).trans (State.passOn_sameLights _ t)) _ _)

/-! ## A part whose links are all down -/

/-- No port carries flits. -/
def State.LinksDown (s : State) : Prop := ∀ n : Fin 32, (s.port n).up = false

theorem State.LinksDown.sameLights {s t : State} (h : s.LinksDown) (k : SameLights s t) : t.LinksDown := fun n =>
  (k.up n).trans (h n)

/-- A change of every port that touches no state leaves the links down. -/
theorem State.LinksDown.mapPorts {s t : State} {f : Nat → Port → Port} (h : s.LinksDown) (hwf : SMap.wf {} s.ports = true)
    (hports : t.ports = SMap.mapVals {} f s.ports) (hdefault : ∀ n, f n {} = {}) (hstate : ∀ n p, (f n p).state = p.state) :
    t.LinksDown := fun n => by
  have hport : t.port n = f n (s.port n) := by
    rw [State.port, hports, SMap.get_mapVals hwf f n (hdefault n), ← State.port]
  rw [Port.up, hport, hstate]
  exact h n

theorem State.LinksDown.closePort {s : State} (h : s.LinksDown) (n : Nat) : (s.closePort n State.lostQuiet).LinksDown := by
  have hset : ((s.setPort n ((s.port n).unlinked .off)).bufferGone n).LinksDown := fun m => by
    by_cases hm : m.val = n
    · show ((s.setPort n ((s.port n).unlinked .off)).port m).up = false
      rw [hm, State.port_setPort]
      rfl
    · show ((s.setPort n ((s.port n).unlinked .off)).port m).up = false
      rw [State.port_setPort_ne _ _ _ _ hm]
      exact h m
  unfold State.closePort
  dsimp only
  split
  · exact (hset.sameLights (State.leftSecure_sameLights _)).sameLights (State.redirectQuiet_sameLights _ _)
  · exact hset.sameLights (State.redirectQuiet_sameLights _ _)

theorem State.LinksDown.closeFenced {s : State} (h : s.LinksDown) : s.closeFenced.LinksDown := by
  unfold State.closeFenced
  generalize List.range 32 = ns
  induction ns generalizing s with
  | nil => exact h
  | cons n ns ih =>
    rw [List.foldl_cons]
    refine ih ?_
    split
    · exact h.closePort n
    · exact h

/-- Without a link, no bridge has a port to isolate. -/
theorem State.LinksDown.bridgeLeft {s : State} (h : s.LinksDown) : s.bridgeLeft = s := by
  have hns : ∀ n ∈ List.range 32, (s.port n).state ≠ .secure := fun n hn => by
    have hdown := h ⟨n, List.mem_range.mp hn⟩
    intro hs
    simp [Port.up, hs] at hdown
  unfold State.bridgeLeft
  generalize List.range 32 = ns at hns
  induction ns with
  | nil => rfl
  | cons n ns ih =>
    rw [List.foldl_cons, if_neg (by simp [hns n List.mem_cons_self])]
    exact ih fun m hm => hns m (List.mem_cons_of_mem n hm)

/-- A port's peer takes the number that a membership table gives its key. -/
def peerRenumbered (t : MTable) (p : Port) : Port :=
  if p.peerKind = 1 && !p.peerKey.isEmpty then
    (match (t.entries.find? (fun e => e.keyId == p.peerKey)).map (·.num) with
     | some d => { p with peerNum := d, peerValid := true }
     | none => { p with peerNum := 0, peerValid := false })
  else p

theorem peerRenumbered_state (t : MTable) (p : Port) : (peerRenumbered t p).state = p.state := by
  unfold peerRenumbered
  repeat' split
  all_goals rfl

theorem State.tableEffect_parts (s : State) (t : MTable) : s.tableEffect t = State.retryHeld (State.bridgeLeft { s with
    lxg := { s.lxg with table := some t, pendingTable := none }
    ports := SMap.mapVals {} (fun _ p => peerRenumbered t p) s.ports }) := rfl

theorem State.LinksDown.tableNow {s : State} (h : s.LinksDown) (hwf : SMap.wf {} s.ports = true) : s.tableNow.LinksDown := by
  unfold State.tableNow
  split
  · rename_i t _
    have hnamed : LinksDown { s with
        lxg := { s.lxg with table := some t, pendingTable := none }
        ports := SMap.mapVals {} (fun _ p => peerRenumbered t p) s.ports } :=
      h.mapPorts hwf rfl (fun _ => rfl) (fun _ => peerRenumbered_state t)
    rw [State.tableEffect_parts, hnamed.bridgeLeft]
    exact hnamed.sameLights (State.retryHeld_sameLights _)
  · exact h

/-- The part of `clearConfig` between the abandoned waits and the ports of the fence. -/
def State.configCleared (s : State) : State :=
  { s with
    cfg := {}
    cus := SMap.mapVals {} (fun _ c => c.halt) s.cus
    mus := SMap.mapVals {} (fun _ m => m.halt) s.mus
    sws := SMap.mapVals {} (fun _ w => w.halt) s.sws
    plats := SMap.mapVals {} (fun _ p => p.halt) s.plats
    aus := SMap.mapVals {} (fun _ a => { a with phase := 0, parked := [], live := [], passDone := false, sums := [], chunk := [] }) s.aus
    lxg := { s.lxg with streams := [], sent := [] }
    adj := { s.adj with inStep := false, curStart := none, nextStart := none, recs := [], pass2 := false }
    pwr := { s.pwr with admitted := 0, admittedSum := 0 }
    mon := { s.mon with fills := [], digest := none, checks := [], early := [] }
    img := { s.img with
      state := .held, loaded := false, partialBusy := false, partialMask := 0
      cfgId := List.replicate 64 0, fullId := List.replicate 64 0, layoutId := List.replicate 64 0
      stopAtBoundary := false, stopDrained := false } }

theorem State.clearConfig_parts (s : State) : s.clearConfig = s.abandonWaits.purgeArray.configCleared.closeFenced.tableNow := rfl

theorem State.LinksDown.purgeArray {s : State} (h : s.LinksDown) (hwf : SMap.wf {} s.ports = true) : s.purgeArray.LinksDown :=
  State.LinksDown.mapPorts (f := fun _ p => { p with waiting := p.waiting.filter (fun t => !(t.array && t.src == s.ownSrc)) })
    h hwf rfl (fun _ => rfl) (fun _ _ => rfl)

theorem State.configCleared_sameLights (s : State) : SameLights s s.configCleared := .ofPorts rfl

theorem State.LinksDown.clearConfig {s : State} (h : s.LinksDown) (hwf : SMap.wf {} s.ports = true) :
    s.clearConfig.LinksDown := by
  have hwaits : SMap.wf {} s.abandonWaits.ports = true := (State.abandonWaits_keeps (.refl s)).ports hwf
  have hpurged : SMap.wf {} s.abandonWaits.purgeArray.configCleared.ports = true :=
    (State.purgeArray_keeps (.refl s.abandonWaits)).ports hwaits
  have hdown := ((h.sameLights s.abandonWaits_sameLights).purgeArray hwaits).sameLights
    (State.configCleared_sameLights s.abandonWaits.purgeArray)
  rw [State.clearConfig_parts]
  generalize s.abandonWaits.purgeArray.configCleared = u at hpurged hdown ⊢
  exact hdown.closeFenced.tableNow ((State.closeFenced_keeps (.refl u)).ports hpurged)

/-- A fatal fault ends the order of the step under way. -/
def State.endStep (s : State) (code : Code) : State :=
  match s.adj.curStart with
  | some id => s.complete id { code := code }
  | none => s

/-- It ends a load, a partial load and a stop. -/
def State.endLoading (s : State) : State := if s.img.state == .loading then s.imgEnd 0 Codes.imageAborted else s
def State.endPartial (s : State) : State := if s.img.partialBusy then s.imgEnd 1 Codes.imageAborted else s
def State.endStopping (s : State) : State := if s.img.state == .stopping then s.imgEnd 3 Codes.ok else s

/-- What a fatal fault ends before it clears the image. -/
def State.fatalEnds (s : State) (code : Code) : State :=
  (s.endStep code).contain.monFatal.endLoading.endPartial.endStopping

/-- No step and no start-up goes on after it. -/
def State.halted (s : State) : State :=
  { s with
    flt := { s.flt with stepState := .idle, restarting := false }
    nvm := { s.nvm with booting := none }
    smb := { s.smb with awaiting := 0, image := none } }

theorem State.halted_sameLights (s : State) : SameLights s s.halted := .ofPorts rfl

theorem State.fatalStop_parts (s : State) (code : Code) : s.fatalStop code = (s.fatalEnds code).clearConfig.halted := by
  have hload : ∀ u : State, (if u.img.state == .loading then u.imgEnd 0 Codes.imageAborted else u) = u.endLoading := fun _ => rfl
  have hpartial : ∀ u : State, (if u.img.partialBusy then u.imgEnd 1 Codes.imageAborted else u) = u.endPartial := fun _ => rfl
  have hstop : ∀ u : State, (if u.img.state == .stopping then u.imgEnd 3 Codes.ok else u) = u.endStopping := fun _ => rfl
  cases hstart : s.adj.curStart with
  | none => simp only [State.fatalStop, hload, hpartial, hstop, State.fatalEnds, State.endStep, State.halted, hstart]
  | some id => simp only [State.fatalStop, hload, hpartial, hstop, State.fatalEnds, State.endStep, State.halted, hstart]

theorem State.fatalEnds_keeps {r s : State} (hk : Keeps r s) (code : Code) : Keeps r (s.fatalEnds code) := by
  have hstep : Keeps r (s.endStep code) := by
    unfold State.endStep
    split
    · exact State.complete_keeps hk _ _
    · exact hk
  have hmon := State.monFatal_keeps (State.contain_keeps hstep)
  have hload : ∀ {u : State}, Keeps r u → Keeps r u.endLoading := fun hu => Keeps.ite (State.imgEnd_keeps hu _ _) hu
  have hpartial : ∀ {u : State}, Keeps r u → Keeps r u.endPartial := fun hu => Keeps.ite (State.imgEnd_keeps hu _ _) hu
  have hstop : ∀ {u : State}, Keeps r u → Keeps r u.endStopping := fun hu => Keeps.ite (State.imgEnd_keeps hu _ _) hu
  exact hstop (hpartial (hload hmon))

theorem State.fatalEnds_sameLights (s : State) (code : Code) : SameLights s (s.fatalEnds code) := by
  have hstep : SameLights s (s.endStep code) := by
    unfold State.endStep
    split
    · exact s.complete_sameLights _ _
    · exact .refl s
  have hend : ∀ (u : State) (b : Bool) (op : Nat) (c : Code), SameLights u (if b then u.imgEnd op c else u) := fun u b op c => by
    split
    · exact u.imgEnd_sameLights op c
    · exact .refl u
  have hmon := (hstep.trans (State.contain_sameLights _)).trans (State.monFatal_sameLights _)
  have himg : ∀ u : State, SameLights u u.endLoading.endPartial.endStopping := fun u =>
    ((hend u _ _ _).trans (hend u.endLoading _ _ _)).trans (hend u.endLoading.endPartial _ _ _)
  exact hmon.trans (himg _)

theorem State.raise_fatal (s : State) (code : Code) (kind inst : Nat) (d : W64) :
    s.raise .fatal code kind inst d = (s.logFault .fatal code kind inst d).fatalStop code := rfl

theorem State.LinksDown.fatalStop {s : State} (h : s.LinksDown) (hwf : SMap.wf {} s.ports = true) (code : Code) :
    (s.fatalStop code).LinksDown := by
  have hdown : (s.fatalEnds code).clearConfig.LinksDown :=
    (h.sameLights (s.fatalEnds_sameLights code)).clearConfig ((State.fatalEnds_keeps (.refl s) code).ports hwf)
  rw [State.fatalStop_parts]
  exact hdown.sameLights (State.halted_sameLights _)

theorem State.LinksDown.raise_fatal {s : State} (h : s.LinksDown) (hwf : SMap.wf {} s.ports = true) (code : Code)
    (kind inst : Nat) (d : W64) : (s.raise .fatal code kind inst d).LinksDown := by
  have hlogged : (s.logFault .fatal code kind inst d).LinksDown := h
  rw [State.raise_fatal]
  exact hlogged.fatalStop hwf code

/-! ## DRAM, clocks and factor blocks through the drop of a link and a fatal stop -/

/-- What only the loss of power, of the reference or of a memory touches. -/
def State.powered (s : State) : Dram × Clk × SMap FactorSt := (s.dram, s.clk, s.adj.factors)

theorem Reports.powered {s t : State} (h : Reports s t) : t.powered = s.powered := by
  rw [State.powered, h.dram, h.clk, h.adj, State.powered]

theorem SameUnits.powered {s t : State} (h : SameUnits s t) : t.powered = s.powered := by
  have e := congrArg State.powered h
  exact e

theorem State.sendNorm_powered (s : State) (r : NormRec) : (s.sendNorm r).powered = s.powered := by
  unfold State.sendNorm
  refine foldl_proj State.powered _ (fun s e => ?_) _ s
  have h := fun t : Trans => (s.trySend_reports t).powered
  dsimp only
  split <;> exact h _

theorem State.stepFail_powered (s : State) : s.stepFail.powered = s.powered := by
  have hfail : s.sendFail.powered = s.powered := by
    unfold State.sendFail
    dsimp only
    repeat' split
    · rfl
    all_goals exact State.sendNorm_powered _ _
  unfold State.stepFail State.enterFailed
  split
  · dsimp only
    split
    · exact hfail
    · rfl
  · rfl

theorem State.raise_powered (s : State) {c : FClass} (hc : c ≠ .fatal) (code : Code) (kind inst : Nat) (d : W64) :
    (s.raise c code kind inst d).powered = s.powered := by
  cases c with
  | corr => rfl
  | stat => rfl
  | cont => exact State.stepFail_powered _
  | fatal => exact absurd rfl hc

theorem State.redirect_powered (s : State) (ts : List Trans) : (s.redirect State.lost ts).powered = s.powered := by
  unfold State.redirect
  refine foldl_proj State.powered _ (fun s t => ?_) ts s
  split
  · rfl
  · split
    · have hsend := (s.trySend_reports t).powered
      split
      next u heq => rw [heq] at hsend; exact hsend
      next u c heq =>
        rw [heq] at hsend
        exact (State.raise_powered ((u.dropReq t).emit (.code c)) (by split <;> decide) _ _ _ _).trans hsend
    · exact (s.passOn_sameUnits t).powered

theorem State.dropLink_powered (s : State) (n : Nat) : (s.dropLink n).powered = s.powered := by
  have hgone : ((s.retrainPort n ((s.port n).unlinked .down)).bufferGone n).powered = s.powered := rfl
  unfold State.dropLink
  dsimp only
  generalize (s.retrainPort n ((s.port n).unlinked .down)).bufferGone n = t at hgone
  split
  · refine (State.raise_powered _ (by split <;> decide) _ _ _ _).trans ?_
    refine (State.redirect_powered _ _).trans ?_
    split
    · exact t.leftSecure_sameUnits.powered.trans hgone
    · exact hgone
  · exact hgone

theorem State.monFatal_powered (s : State) : s.monFatal.powered = s.powered := by
  have hend : ∀ (u : State) (c : Code) (k : Nat), (u.monEnd c k).powered = u.powered := fun u c k =>
    (State.completeAll_reports { u with mon := { u.mon with result := c, resultStep := k } } _ _ _).powered
  have hjob : s.monFatalJob.powered = s.powered := by
    unfold State.monFatalJob
    split
    · dsimp only
      split
      · exact hend _ _ _
      · rfl
    · rfl
  have hrestore : ∀ u : State, u.monFatalRestore.powered = u.powered := fun u => by
    unfold State.monFatalRestore
    split
    · exact hend _ _ _
    · rfl
  rw [State.monFatal_parts]
  exact (hrestore _).trans hjob

theorem State.fatalEnds_powered (s : State) (code : Code) : (s.fatalEnds code).powered = s.powered := by
  have hstep : (s.endStep code).powered = s.powered := by
    unfold State.endStep
    split
    · exact (s.complete_reports _ _).powered
    · rfl
  have hnote : ∀ (u : State) (r : Rival), (u.takeFree.2.noteOrder none r).powered = u.powered := fun u r => rfl
  have hcontain : ∀ u : State, u.contain.powered = u.powered := fun u => (hnote _ _).trans u.cancelClass0_reports.powered
  have hend : ∀ (u : State) (b : Bool) (op : Nat) (c : Code), (if b then u.imgEnd op c else u).powered = u.powered :=
    fun u b op c => by
      split
      · obtain ⟨i, h⟩ := u.imgEnd_sameUnits op c
        exact h.powered
      · rfl
  have himg : ∀ u : State, u.endLoading.endPartial.endStopping.powered = u.powered := fun u =>
    ((hend u.endLoading.endPartial _ _ _).trans (hend u.endLoading _ _ _)).trans (hend u _ _ _)
  exact (((himg _).trans (State.monFatal_powered _)).trans (hcontain _)).trans hstep

theorem State.clearConfig_leaves (s : State) : s.clearConfig.powered = s.powered ∧ s.clearConfig.img.state = .held := by
  have hwaits := s.abandonWaits_purgeArray_sameUnits.powered
  have hcleared : ∀ u : State, u.configCleared.powered = u.powered ∧ u.configCleared.img.state = .held := fun u => ⟨rfl, rfl⟩
  obtain ⟨hcleared, hheld⟩ := hcleared s.abandonWaits.purgeArray
  rw [State.clearConfig_parts]
  generalize s.abandonWaits.purgeArray.configCleared = u at hcleared hheld ⊢
  have hlinks := u.closeFenced_tableNow_sameUnits
  exact ⟨hlinks.powered.trans (hcleared.trans hwaits), by rw [hlinks.img, hheld]⟩

theorem State.raise_fatal_leaves (s : State) (code : Code) (kind inst : Nat) (d : W64) :
    (s.raise .fatal code kind inst d).powered = s.powered ∧ (s.raise .fatal code kind inst d).img.state = .held := by
  obtain ⟨hpowered, hheld⟩ := ((s.logFault .fatal code kind inst d).fatalEnds code).clearConfig_leaves
  have hhalted : ∀ u : State, u.halted.powered = u.powered ∧ u.halted.img = u.img := fun u => ⟨rfl, rfl⟩
  obtain ⟨hsame, himg⟩ := hhalted ((s.logFault .fatal code kind inst d).fatalEnds code).clearConfig
  rw [State.raise_fatal, State.fatalStop_parts]
  exact ⟨(hsame.trans hpowered).trans (State.fatalEnds_powered _ code), by rw [himg, hheld]⟩

/-! ## The local input -/

/-- One port of a part whose local input is lost. -/
def State.unlit (s : State) (n : Nat) : State :=
  let p := s.port n
  if p.state == .training || p.up then (s.setPort n { p with signal := false }).dropLink n else s

theorem State.unlit_keepsDown {s : State} (n : Nat) {m : Nat} (hm : (s.port m).up = false) :
    ((s.unlit n).port m).up = false := by
  unfold State.unlit
  dsimp only
  split
  · refine (State.dropLink_dropped _ n).keepsDown ?_
    by_cases hmn : m = n
    · rw [hmn, State.port_setPort]
      exact hmn ▸ hm
    · exact (congrArg Port.up (State.port_setPort_ne s _ _ _ hmn)).trans hm
  · exact hm

theorem State.unlit_down (s : State) (n : Nat) : ((s.unlit n).port n).up = false := by
  unfold State.unlit
  dsimp only
  split
  · exact (State.dropLink_dropped _ n).down
  · rename_i h
    simpa using (Bool.or_eq_false_iff.mp (Bool.not_eq_true _ ▸ h)).2

theorem State.unlits_down (ns : List Nat) (s : State) {m : Nat} (hm : (s.port m).up = false ∨ m ∈ ns) :
    ((ns.foldl State.unlit s).port m).up = false := by
  induction ns generalizing s with
  | nil => exact hm.resolve_right (by simp)
  | cons n ns ih =>
    refine ih (s.unlit n) ?_
    obtain hm | hm := hm
    · exact .inl (State.unlit_keepsDown n hm)
    · obtain rfl | hm := List.mem_cons.mp hm
      · exact .inl (s.unlit_down _)
      · exact .inr hm

theorem State.unlits_powered (ns : List Nat) (s : State) : (ns.foldl State.unlit s).powered = s.powered := by
  refine foldl_proj State.powered _ (fun s n => ?_) ns s
  unfold State.unlit
  dsimp only
  split
  · exact State.dropLink_powered _ n
  · rfl

/-- The state in which the ports lose a lost local input. -/
def State.inputLost (s : State) : State :=
  let s := { s with clk := { s.clk.flag 1 with refin := false }, dram := s.dram.forget, adj := { s.adj with factors := [] } }
  if s.dtm.state == .locked || s.dtm.state == .holdover then s.meterJudge else s.coast

/-- What a measurement that ends and PLLs that start to coast leave alone. -/
def State.unclocked (s : State) : Dram × SMap FactorSt × Bool × SMap Port := (s.dram, s.adj.factors, s.clk.refin, s.ports)

theorem State.meterJudge_unclocked (s : State) : s.meterJudge.unclocked = s.unclocked := by
  unfold State.meterJudge
  split <;> rfl

theorem State.coast_unclocked (s : State) : s.coast.unclocked = s.unclocked := by
  have hplls : (s.setPlls (fun p => if p == .locked then .gliding else p)).unclocked = s.unclocked := by
    simp only [State.unclocked, State.setPlls]
  unfold State.coast
  generalize s.setPlls (fun p => if p == .locked then .gliding else p) = u at hplls ⊢
  exact (State.meterJudge_unclocked _).trans hplls

theorem State.inputLost_unclocked (s : State) : s.inputLost.unclocked = (s.dram.forget, [], false, s.ports) := by
  unfold State.inputLost
  dsimp only
  split
  · exact State.meterJudge_unclocked _
  · exact State.coast_unclocked _

theorem refinLost_parts {s : State} (h : s.clk.refin = true) : Sys2Proof.Machine.refinLost s =
    ((List.range 32).foldl State.unlit s.inputLost).raise .fatal Codes.refinLost 8 0
      ((List.range 32).foldl State.unlit s.inputLost).clk.faultLoc := by
  have hunlit : State.unlit = fun s n =>
      if (s.port n).state == .training || (s.port n).up then (s.setPort n { s.port n with signal := false }).dropLink n else s := rfl
  rw [Sys2Proof.Machine.refinLost, if_neg (by simp [h]), hunlit, State.inputLost]

/-! ## The return of the local input and a relock -/

theorem State.retrainPorts_refin (ns : List Nat) {s : State} (hrefin : s.clk.refin = true) :
    ns.foldl (fun s n => s.retrainPort n (s.port n)) s = ns.foldl (fun s n => s.setPort n (s.port n).retrain) s := by
  induction ns generalizing s with
  | nil => rfl
  | cons n ns ih =>
    rw [List.foldl_cons, List.foldl_cons, State.retrainPort, if_pos hrefin]
    exact ih hrefin

theorem State.foldl_setPort_others (f : State → Nat → Port) (ns : List Nat) (s : State) :
    { ns.foldl (fun s n => s.setPort n (f s n)) s with ports := s.ports } = s := by
  induction ns generalizing s with
  | nil => rfl
  | cons n ns ih =>
    have hrest := congrArg (fun u : State => { u with ports := s.ports }) (ih (s.setPort n (f s n)))
    exact hrest

theorem State.choosePort_state (s : State) : s.choosePort.state = s.dtm.state := by
  unfold State.choosePort Dtm.usePort Dtm.noPort Dtm.noRelock
  repeat' split
  all_goals rfl

theorem State.dtmNow_state (s : State) : s.dtmNow.state = s.dtm.state := by
  unfold State.dtmNow
  split
  · rfl
  · exact s.choosePort_state

/-- A relock out of HOLDOVER takes effect (R358, R380). -/
def State.relocked (s : State) : State :=
  match s.dtm.state, s.dtm.relockTo with
  | .holdover, some .locked =>
    let s := s.stepRecovered
    { s with dtm := { s.dtm with state := .locked, refLost := false, relockTo := none } }
  | .holdover, some x => { s with dtm := { s.dtm.noPort with state := x, refLost := false, relockTo := none } }
  | _, _ => s

theorem State.relocked_others (s : State) :
    { s.relocked with dtm := s.dtm, ports := s.ports, cmd := s.cmd, drbg := s.drbg } = s := by
  unfold State.relocked
  repeat' split
  all_goals rfl

theorem State.relocked_done {s : State} (hold : s.dtm.state = .holdover) {x : DtmState} (hto : s.dtm.relockTo = some x)
    (hx : x = .locked ∨ x = .localRef) :
    s.relocked.dtm.state = x ∧ s.relocked.dtm.refLost = false ∧ s.relocked.dtm.relockTo = none := by
  unfold State.relocked
  rw [hold, hto]
  obtain rfl | rfl := hx <;> exact ⟨rfl, rfl, rfl⟩

theorem pllRelock_runs {s : State} (hcoasts : ∃ d : Fin 25, (s.pll d).coasts = true) (hpresent : s.refPresent = true) :
    Sys2Proof.Machine.pllRelock s =
      State.relocked { s.setPlls (fun p => if p.coasts then .locked else p) with dtm := s.dtmNow } := by
  obtain ⟨d, hd⟩ := hcoasts
  have hany : (List.range 25).any (fun d => (s.pll d).coasts) = true :=
    List.any_eq_true.mpr ⟨d.val, List.mem_range.mpr d.isLt, hd⟩
  rw [Sys2Proof.Machine.pllRelock, hany, hpresent]
  rfl

/-- Settles O35: a relock moves the PLLs and, out of HOLDOVER, the datum state; the loss of the local input drops every link
and stops the part, and nothing that follows gives back a link or contents of DRAM. -/
theorem pllsAndReference : Obligations.PllsAndReference := by
  refine ⟨fun s d hawake hcoasts => congrArg Host.Outcome.next ?fails,
    fun s hcoasts hpresent => ⟨_, rfl, ?relock⟩,
    fun s hinv hrefin => ⟨_, rfl, ?lost⟩,
    fun s hawake hrefin => ⟨_, rfl, ?returns⟩⟩
  case fails => rw [Sys2Proof.Machine.pllLockFail, if_neg (by simp [hcoasts, hawake])]
  case relock =>
    rw [pllRelock_runs hcoasts hpresent]
    have hplls : ∀ d : Fin 25, (s.setPlls (fun p => if p.coasts then .locked else p)).pll d =
        if (s.pll d).coasts then .locked else s.pll d := s.setPlls_pll _
    have hothers : { s.setPlls (fun p => if p.coasts then .locked else p) with clk := s.clk } = s := by
      unfold State.setPlls
      rfl
    generalize s.setPlls (fun p => if p.coasts then .locked else p) = u at hplls hothers ⊢
    have hrest := ({ u with dtm := s.dtmNow } : State).relocked_others
    refine ⟨fun d => ?_, ?_, fun hhold x hto hx => State.relocked_done (s.dtmNow_state.trans hhold) hto hx⟩
    · have hpll : ∀ v : State, v.pll d = SMap.get .unlocked v.clk.pll d.val := fun _ => rfl
      have hclk : ({ u with dtm := s.dtmNow } : State).relocked.clk = u.clk := by
        have e := congrArg State.clk hrest
        exact e
      rw [hpll, hclk, ← hpll, hplls]
    · have hback := congrArg (fun v : State => { v with
        clk := s.clk, dtm := s.dtm, ports := s.ports, cmd := s.cmd, drbg := s.drbg }) hrest
      have hsame := congrArg (fun v : State => { v with dtm := s.dtm, ports := s.ports, cmd := s.cmd, drbg := s.drbg }) hothers
      exact hback.trans hsame
  case lost =>
    have hlost := s.inputLost_unclocked
    obtain ⟨hdram, hfactors, hclk, hports⟩ : s.inputLost.dram = s.dram.forget ∧ s.inputLost.adj.factors = [] ∧
        s.inputLost.clk.refin = false ∧ s.inputLost.ports = s.ports := by
      simpa only [State.unclocked, Prod.mk.injEq] using hlost
    obtain ⟨⟨-, -, -, -, -, -, hcanon, -, -, -⟩, -, -⟩ := hinv
    have hwf : SMap.wf {} ((List.range 32).foldl State.unlit s.inputLost).ports = true :=
      (Keeps.foldl State.unlit (fun _ n hu => Keeps.ite (State.dropLink_keeps (State.setPort_keeps hu _ _) n) hu)
        (List.range 32) _ (.refl s.inputLost)).ports (hports ▸ hcanon)
    have hdown : ((List.range 32).foldl State.unlit s.inputLost).LinksDown := fun n =>
      State.unlits_down (List.range 32) s.inputLost (.inr (List.mem_range.mpr n.isLt))
    have hunlit := State.unlits_powered (List.range 32) s.inputLost
    rw [refinLost_parts hrefin]
    generalize (List.range 32).foldl State.unlit s.inputLost = u at hwf hdown hunlit ⊢
    obtain ⟨hleft, hheld⟩ := u.raise_fatal_leaves Codes.refinLost 8 0 u.clk.faultLoc
    have hend := hdown.raise_fatal hwf Codes.refinLost 8 0 u.clk.faultLoc
    generalize u.raise .fatal Codes.refinLost 8 0 u.clk.faultLoc = t at hleft hheld hend ⊢
    obtain ⟨hdramLeft, hclkLeft, hfactorsLeft⟩ : t.dram = s.inputLost.dram ∧ t.clk = s.inputLost.clk ∧
        t.adj.factors = s.inputLost.adj.factors := by
      simpa only [State.powered, Prod.mk.injEq] using hleft.trans hunlit
    exact ⟨by rw [hclkLeft, hclk], hheld, by rw [hdramLeft, hdram]; rfl, by rw [hdramLeft, hdram]; rfl,
      hfactorsLeft.trans hfactors, hend⟩
  case returns =>
    have hrun : Sys2Proof.Machine.localInputPresent s =
        (List.range 32).foldl (fun s n => s.setPort n (s.port n).retrain) { s with clk := { s.clk with refin := true } } := by
      rw [Sys2Proof.Machine.localInputPresent, if_neg (by simp [hrefin, hawake])]
      exact State.retrainPorts_refin _ rfl
    have hothers := State.foldl_setPort_others (fun s n => (s.port n).retrain) (List.range 32)
      { s with clk := { s.clk with refin := true } }
    have hports := State.foldl_setPort Port.retrain (List.range 32) List.nodup_range { s with clk := { s.clk with refin := true } }
    rw [hrun]
    generalize (List.range 32).foldl (fun s n => s.setPort n (s.port n).retrain) { s with clk := { s.clk with refin := true } } = t
      at hothers hports ⊢
    refine ⟨congrArg State.clk hothers, congrArg (fun u : State => { u with clk := s.clk }) hothers, fun n => ?_⟩
    rw [hports n, if_pos (List.mem_range.mpr n.isLt)]
    rfl

end Sys2Proof.Machine
end

section
/-! Spine damage, failed firmware, fault records and fence stores. -/
namespace Sys2Proof.Machine

theorem State.storeBegun_flt (s : State) : s.storeBegun.flt = s.flt := by
  unfold State.storeBegun
  split <;> rfl

theorem State.storeOver_flt (s : State) : s.storeOver.flt = s.flt := State.storeBegun_flt _

/-! ## Fence operations -/

/-- The bit that an operation names is one that R419 assigns. -/
def fenceOpNamed : FenceOp → Bool
  | .add b => fenceBitOk b
  | .remove b => fenceBitOk b
  | .confirm => true

theorem State.fenceStart_asked {s : State} {o : FenceOp} (hfree : s.flt.fence.busy = none)
    (hbit : fenceOpNamed o = true) :
    s.fenceStart (some o) = State.askStore { s with flt := { s.flt with fence := { s.flt.fence with busy := some o } } } true := by
  unfold State.fenceStart
  cases o with
  | add b => simp [hfree, show fenceBitOk b = true from hbit]
  | remove b => simp [hfree, show fenceBitOk b = true from hbit]
  | confirm => simp [hfree]

theorem State.fenceStart_refused {s : State} {o : FenceOp} (h : s.flt.fence.busy ≠ none ∨
    fenceOpNamed o = false) :
    s.fenceStart (some o) = s.fenceResult Codes.refused := by
  unfold State.fenceStart
  refine if_pos ?_
  obtain h | h := h
  · simp [Option.isSome_iff_ne_none.mpr h]
  · cases o with
    | add b => simp [show fenceBitOk b = false from h]
    | remove b => simp [show fenceBitOk b = false from h]
    | confirm => exact absurd h (by simp [fenceOpNamed])

theorem fenceOp_awake {s : State} (hawake : s.awake = true) (o : FenceOp) : fenceOp o s = s.fenceStart (some o) :=
  if_pos hawake

/-- The map in use after a store is the one stored: its number is the higher one (R420). -/
theorem Fence.stored_inUse {f : Fence} (hlost : f.lost = false) (hroom : f.inUse.seq.toNat + 1 < 2 ^ 64) (o : FenceOp) :
    (f.stored o).inUse = f.next o := by
  have hseq : (f.next o).seq.toNat = f.inUse.seq.toNat + 1 := by
    show (f.inUse.seq + 1).toNat = _
    rw [BitVec.toNat_add]
    exact Nat.mod_eq_of_lt hroom
  unfold Fence.stored
  generalize f.next o = m at hseq ⊢
  obtain ⟨copy0, copy1, lost, busy, result⟩ := f
  obtain rfl : lost = false := hlost
  cases copy0 with
  | none => cases copy1 with
    | none => rfl
    | some b =>
      have hnewer : ¬ m.seq.toNat < b.seq.toNat := by
        rw [show m.seq.toNat = b.seq.toNat + 1 from hseq]
        omega
      simp [Fence.inUse, Fence.toCopy1, hnewer]
  | some a => cases copy1 with
    | none =>
      have hnewer : a.seq.toNat < m.seq.toNat := Nat.lt_of_lt_of_eq (Nat.lt_succ_self _) hseq.symm
      simp [Fence.inUse, Fence.toCopy1, hnewer]
    | some b =>
      by_cases h : a.seq.toNat < b.seq.toNat
      · have hnewer : ¬ m.seq.toNat < b.seq.toNat := by
          simp only [Fence.inUse, Bool.false_eq_true, if_false, h, if_true] at hseq
          omega
        simp [Fence.inUse, Fence.toCopy1, Nat.not_le.mpr h, hnewer]
      · have hnewer : a.seq.toNat < m.seq.toNat := by
          simp only [Fence.inUse, Bool.false_eq_true, if_false, h] at hseq
          omega
        simp [Fence.inUse, Fence.toCopy1, Nat.not_lt.mp h, hnewer]

theorem fenceStoreDone_ok {s : State} {b : Nat} (hruns : s.storeRuns true = true) (hbusy : s.flt.fence.busy = some (.add b))
    (hb : b < 4128) : Sys2Proof.Machine.fenceStoreDone true s =
      { s.storeOver with flt := { s.flt with fence := s.flt.fence.stored (.add b) } } := by
  have hflt := s.storeOver_flt
  have hlow : ¬ 4128 ≤ b := by omega
  simp only [Sys2Proof.Machine.fenceStoreDone, hruns, hbusy, hflt, Bool.not_true, Bool.false_eq_true, if_false, hlow]

/-- A fence store that its read-back fails leaves the copy it wrote invalid (R421). -/
def State.fenceFailed (s : State) : State :=
  let f := s.flt.fence
  let f := if f.toCopy1 then { f with copy1 := none } else { f with copy0 := none }
  { s with flt := { s.flt with fence := { f with busy := none, result := Codes.nvmWriteFail } } }

theorem fenceStoreDone_failed {s : State} (hruns : s.storeRuns true = true) (hbusy : s.flt.fence.busy ≠ none) :
    Sys2Proof.Machine.fenceStoreDone false s =
      s.storeOver.fenceFailed.raise .stat Codes.nvmWriteFail 9 0 s.storeOver.fenceFailed.nvm.status := by
  obtain ⟨o, ho⟩ := Option.ne_none_iff_exists'.mp hbusy
  simp only [Sys2Proof.Machine.fenceStoreDone, hruns, ho, Bool.not_true, Bool.false_eq_true, if_false, Bool.not_false, if_true]
  rfl

/-- The oldest buffered record stands in the ring. -/
def State.faultStored (s : State) (r : FaultRec) (rs : List FaultRec) : State :=
  { s with flt := { s.flt with buffer := rs, ring := SMap.set none s.flt.ring (r.seq.toNat % 65536) (some r) } }

/-- Settles O39: each damage and each store takes the branch that its state opens. -/
theorem faultCommandsComplete : Obligations.FaultCommandsComplete := by
  refine ⟨fun s h hawake => ⟨congrArg Host.Outcome.next ?clean, congrArg Host.Outcome.next ?data, congrArg Host.Outcome.next ?header⟩,
    fun s h p ix r hawake hr => congrArg Host.Outcome.next ?row,
    fun s p u hawake hu => ⟨congrArg Host.Outcome.next ?watchdog, congrArg Host.Outcome.next ?trap,
      congrArg Host.Outcome.next ?ue, congrArg Host.Outcome.next ?fine, congrArg Host.Outcome.next ?ce⟩,
    fun s r rs hbuffer hturn => ⟨s.faultStored r rs, congrArg Host.Outcome.next ?record, rfl, SMap.get_set_self s.flt.ring _ (some r), rfl,
      fun k hk => SMap.get_set_ne s.flt.ring (some r) hk⟩,
    fun s b q hawake hfree hbit hq => ⟨congrArg Host.Outcome.next ?add, congrArg Host.Outcome.next ?remove⟩,
    fun s b hawake hbad => ⟨congrArg Host.Outcome.next ?noAdd, congrArg Host.Outcome.next ?noRemove⟩,
    fun s hawake hfree => congrArg Host.Outcome.next ?confirm,
    fun s b hruns hbusy hb hlost hroom => ⟨congrArg Host.Outcome.next (fenceStoreDone_ok hruns hbusy hb),
      Fence.stored_inUse hlost hroom _, ?idle⟩,
    fun s hruns hbusy => ⟨s.storeOver.fenceFailed, congrArg Host.Outcome.next (fenceStoreDone_failed hruns hbusy), rfl, rfl, ?others⟩,
    fun s => ⟨fun hno ok => congrArg Host.Outcome.next ?notFence, fun hno ok => congrArg Host.Outcome.next ?notCommit, rfl⟩⟩
  case clean => exact if_pos hawake
  case data => exact if_pos hawake
  case header => exact if_pos hawake
  case row =>
    rw [State.whenAwake, if_pos hawake, Sys2Proof.Machine.spineTransfer]
    simp only [State.spoilRow, hr]
  case watchdog => rw [State.whenAwake, if_pos hawake, firmwareFault, hu]
  case trap => rw [State.whenAwake, if_pos hawake, firmwareFault, hu]
  case ue =>
    rw [State.whenAwake, if_pos hawake]
    show firmwareFault p s = _
    rw [firmwareFault, hu]
  case fine => exact if_pos hawake
  case ce => exact if_pos hawake
  case record =>
    have hnone : s.nvm.storeQ.any (fun q => decide (q.head.toNat ≤ r.seq.toNat)) = false := by
      rw [List.any_eq_false]
      intro q hq
      simpa using hturn q hq
    simp only [Sys2Proof.Machine.faultRecordStore, hbuffer, hnone, Bool.false_eq_true, if_false, State.faultStored]
  case add =>
    rw [fenceOp_awake hawake, State.fenceStart_asked (o := .add b.toNat) hfree hbit, hq]
    rfl
  case remove =>
    rw [fenceOp_awake hawake, State.fenceStart_asked (o := .remove b.toNat) hfree hbit, hq]
    rfl
  case noAdd => exact (fenceOp_awake hawake _).trans (State.fenceStart_refused (o := .add b.toNat) hbad)
  case noRemove => exact (fenceOp_awake hawake _).trans (State.fenceStart_refused (o := .remove b.toNat) hbad)
  case confirm =>
    rw [fenceOp_awake hawake, State.fenceStart_asked hfree rfl]
    rfl
  case idle => rfl
  case others =>
    have hflt := s.storeOver_flt
    rw [← hflt]
    rfl
  case notFence => rw [Sys2Proof.Machine.fenceStoreDone, if_pos (by rw [hno]; rfl)]
  case notCommit => rw [Sys2Proof.Machine.commitDone, if_pos (by rw [hno]; rfl)]

end Sys2Proof.Machine
end

section
/-! Security services: what each does once its checks pass, and how each is turned away. -/
namespace Sys2Proof.Machine

section
variable {s u : State} {o r q : Order} {k id : Nat} {x : SecSeen} (hr : rowOrder o 0 0 8 k = r) (hk : k < 256)
  (ht : s.takesNow opSec r (s.secSize { opcode := opSec, desc := r.desc })) (hu : s.started opSec r x = u)
  (hid : s.orderId opSec r = id) (hq : u.heldOrder id = some q)
include hr hk ht hu hid hq

/-- What a service answers once it starts. -/
theorem secService_starts : secService k o x s =
    (match (match u.secCheck (endpointOf q.arrival) k ((CmdWord.mk opSec r.desc).pay32 1).toNat
        ((CmdWord.mk opSec r.desc).pay32 2).toNat ((CmdWord.mk opSec r.desc).pay32 3).toNat with
      | some c => (u.secResult c k 0, some ({ code := c } : Reply))
      | none => secEff { opcode := opSec, desc := r.desc } x id u) with
    | (t, some a) => t.complete id a
    | (t, none) => t) := by
  have hbyte : (CmdWord.mk opSec r.desc).payByte 0 = k := by
    rw [← hr]
    exact (fld_putFld o.desc.payload 0 8 k (by decide)).trans (Nat.mod_eq_of_lt (by omega))
  unfold secService
  dsimp only
  rw [hr, State.cmdArrive_now ht, hu, hid]
  cases hc : u.secCheck (endpointOf q.arrival) k ((CmdWord.mk opSec r.desc).pay32 1).toNat
      ((CmdWord.mk opSec r.desc).pay32 2).toNat ((CmdWord.mk opSec r.desc).pay32 3).toNat with
  | none => rfl
  | some c => simp only [secEff, hbyte, hq, hc]

/-- A service that its checks turn away shows their code. -/
theorem secService_turnedAway {c : Code} (hc : u.secCheck (endpointOf q.arrival) k ((CmdWord.mk opSec r.desc).pay32 1).toNat
      ((CmdWord.mk opSec r.desc).pay32 2).toNat ((CmdWord.mk opSec r.desc).pay32 3).toNat = some c) :
    secService k o x s = (u.secResult c k 0).complete id { code := c } := by
  rw [secService_starts hr hk ht hu hid hq, hc]

/-- One that runs on answers later. -/
theorem secService_runsOn {v : State} (hc : u.secCheck (endpointOf q.arrival) k ((CmdWord.mk opSec r.desc).pay32 1).toNat
      ((CmdWord.mk opSec r.desc).pay32 2).toNat ((CmdWord.mk opSec r.desc).pay32 3).toNat = none)
    (hv : u.secRun id (endpointOf q.arrival) k ((CmdWord.mk opSec r.desc).pay32 3).toNat x = (v, none)) :
    secService k o x s = v := by
  have hbyte : (CmdWord.mk opSec r.desc).payByte 0 = k := by
    rw [← hr]
    exact (fld_putFld o.desc.payload 0 8 k (by decide)).trans (Nat.mod_eq_of_lt (by omega))
  rw [secService_starts hr hk ht hu hid hq, hc]
  simp only [secEff, hbyte, hq, hc, hv]

end

/-! ## Sessions and reports -/

theorem State.coAuthRun_proved {u : State} {src : W16} {n : List Byte} (hnonce : u.sec.nonce = some n)
    (hslot : (u.sec.slot 0).st = 1) (hsig : Config.slhVerify false (u.sec.slot 0).key (coMessage n u.lxg.ownKeyId src)
      (Memory.read u.sec.buf 0 coProofLen) = true) :
    u.coAuthRun src = ({ u with sec := { u.sec with nonce := none, co := some src } }, Codes.ok) := by
  simp [State.coAuthRun, hnonce, hslot, hsig]

theorem State.coAuthRun_unproved {u : State} (h : u.sec.nonce = none ∨ (u.sec.slot 0).st ≠ 1) (src : W16) :
    u.coAuthRun src = (State.secRaise { u with sec := { u.sec with nonce := none } } .stat Codes.secAuth 2, Codes.secAuth) := by
  obtain h | h := h <;> simp [State.coAuthRun, h]

/-- Settles O40: a service that its checks turn away shows their code; each other one runs as `secRun` says. -/
theorem sessionAndReportServicesComplete : Obligations.SessionAndReportServicesComplete := by
  intro s u o r q k id x w hr hk hw ht hu hid hq
  subst hw
  refine ⟨fun c hc hx p hp hkp => ?turned, fun hc done hdone => ?_⟩
  case turned =>
    have hrun : ∀ p ∈ [(1, Instr.nonce o), (2, .coAuth o .computed), (3, .coLogout o), (4, .selfTest o 0), (5, .attest o),
        (6, .getCert o), (7, .keyEnroll o), (8, .keyRevoke o), (9, .svnAdvance o), (10, .rosterSet o .computed),
        (11, .fwUpdate o .computed .computed), (12, .debugUnlock o .computed), (13, .debugLock o), (15, .random o)],
        exec p.2 s = .next (secService p.1 o {} s) := by
      simp only [List.forall_mem_cons]
      exact ⟨rfl, rfl, rfl, rfl, rfl, rfl, rfl, rfl, rfl, rfl, rfl, rfl, rfl, rfl, fun _ h => absurd h List.not_mem_nil⟩
    subst hx
    rw [hrun p hp, ← hkp, secService_turnedAway hr hk ht hu hid hq hc]
  have hrun : ∀ (v : State) (c : Code) (bs : List Byte), u.secRun id (endpointOf q.arrival) k
      ((CmdWord.mk opSec r.desc).pay32 3).toNat x = (v, some (c, bs)) → secService k o x s = done v c bs := fun v c bs hv => by
    subst hid
    rw [hdone]
    exact secService_now hr hk ht hu hq hc hv
  refine ⟨fun hservice hx => congrArg Host.Outcome.next ?nonce, fun n hservice hx hnonce hslot hsig => congrArg Host.Outcome.next ?proved,
    fun hservice hx hno => congrArg Host.Outcome.next ?unproved, fun hservice hx => congrArg Host.Outcome.next ?logout,
    fun hservice hx => congrArg Host.Outcome.next ?passes, fun f hservice hx hf => congrArg Host.Outcome.next ?fails,
    fun hservice hx => congrArg Host.Outcome.next ?attest, fun hservice hx => congrArg Host.Outcome.next ?cert,
    fun hservice hx => congrArg Host.Outcome.next ?lock,
    fun n hservice hx hn hlo hhi => congrArg Host.Outcome.next ?random,
    fun n hservice hx hn hbad => congrArg Host.Outcome.next ?noRandom⟩
  all_goals subst hservice hx
  case nonce => exact hrun _ _ _ rfl
  case proved => exact hrun _ _ _ (by simp only [State.secRun, State.coAuthRun_proved hnonce hslot hsig])
  case unproved => exact hrun _ _ _ (by simp only [State.secRun, State.coAuthRun_unproved hno])
  case logout => exact hrun _ _ _ rfl
  case passes => exact hrun _ _ _ rfl
  case fails => exact hrun _ _ _ (if_neg hf)
  case attest => exact hrun _ _ _ rfl
  case cert => exact hrun _ _ _ rfl
  case lock => exact hrun _ _ _ rfl
  case random =>
    have hlen : (decide (1 ≤ n) && decide (n ≤ 4096)) = true := by simp [hlo, hhi]
    subst hn
    exact hrun _ _ _ (if_pos hlen)
  case noRandom =>
    have hlen : ¬ (decide (1 ≤ n) && decide (n ≤ 4096)) = true := by
      simp only [Bool.and_eq_true, decide_eq_true_eq]
      omega
    subst hn
    exact hrun _ _ _ (if_neg hlen)

end Sys2Proof.Machine
end

section
/-! Key, counter, roster, firmware, debug and zeroize services. -/
namespace Sys2Proof.Machine

/-! ## Keys and counters -/

theorem Sec.enroll_done {x : Sec} {n : Nat} (hn : n = x.bufByte 0) (hle : n ≤ 12) (hfree : (x.slot n).st = 0 ∨ n = 0) :
    x.enroll = (x.putSlots (SMap.set {} x.slots n { st := 1, key := Memory.read x.buf 1 64 }), Codes.ok) := by
  subst hn
  refine if_neg ?_
  obtain h | h := hfree <;> simp [Nat.not_lt.mpr hle, h]

theorem Sec.enroll_refused {x : Sec} {n : Nat} (hn : n = x.bufByte 0) (h : 12 < n ∨ ((x.slot n).st ≠ 0 ∧ n ≠ 0)) :
    x.enroll = (x, Codes.secSlot) := by
  subst hn
  exact if_pos (by simpa using h)

theorem Sec.revoke_done {x : Sec} {n : Nat} (hn : n = x.bufByte 0) (hlo : 1 ≤ n) (hhi : n ≤ 12) (hst : (x.slot n).st = 1) :
    x.revoke = (x.putSlots (SMap.set {} x.slots n { x.slot n with st := 2 }), Codes.ok) := by
  subst hn
  exact if_neg (by simp [Nat.pos_iff_ne_zero.mp hlo, Nat.not_lt.mpr hhi, hst])

theorem Sec.revoke_refused {x : Sec} {n : Nat} (hn : n = x.bufByte 0) (h : n = 0 ∨ 12 < n ∨ (x.slot n).st ≠ 1) :
    x.revoke = (x, Codes.secSlot) := by
  subst hn
  exact if_pos (by simpa [or_assoc] using h)

/-- The counters after counter i takes a value. -/
def Svns.put (x : Svns) (i : Nat) (v : W32) : Svns :=
  match i with
  | 0 => { x with fsf := v }
  | 1 => { x with pcf := v }
  | 2 => { x with img := v }
  | _ => { x with fwkeyMin := v }

theorem Sec.advance_done {x : Sec} {loaded : Bool} {i : Nat} {v : W32} (hi : leNat (Memory.read x.buf 0 4) = i)
    (hv : BitVec.ofNat 32 (leNat (Memory.read x.buf 4 4)) = v) (hok : x.svnOk loaded i v = true) :
    x.advance loaded = (x.putSvns (x.svns.put i v), Codes.ok) := by
  unfold Sec.advance
  rw [hi, hv]
  dsimp only
  rw [if_pos hok]
  match i with
  | 0 => rfl
  | 1 => rfl
  | 2 => rfl
  | _ + 3 => rfl

theorem Sec.advance_refused {x : Sec} {loaded : Bool} {i : Nat} {v : W32} (hi : leNat (Memory.read x.buf 0 4) = i)
    (hv : BitVec.ofNat 32 (leNat (Memory.read x.buf 4 4)) = v) (hno : x.svnOk loaded i v = false) :
    x.advance loaded = (x, Codes.secSvn) := by
  unfold Sec.advance
  rw [hi, hv]
  exact if_neg (ne_true_of_eq_false hno)

/-! ## Rosters and firmware -/

section
variable {u t : State} {bs msg sig : List Byte} {bad : Bool} {g : Roster} {slot : Nat}

theorem State.rosterRun_signed (hs : u.stagedAll = (bs, false, t)) (hparse : rosterParse bs = some (g, slot, msg, sig))
    (hseq : ∀ p, t.sec.roster = some p → p.seq.toNat < g.seq.toNat) (hst : (t.sec.slot slot).st = 1)
    (hsig : Config.slhVerify false (t.sec.slot slot).key msg sig = true) :
    u.rosterRun = (State.rosterIsolate { t with sec := { t.sec with
      roster := some g, mram := { t.sec.mram with roster := t.sec.mram.roster.store (some g) } } }, Codes.ok) := by
  have hnew : t.sec.roster.any (fun q => decide (g.seq.toNat ≤ q.seq.toNat)) = false := by
    cases hroster : t.sec.roster with
    | none => rfl
    | some p => exact decide_eq_false (Nat.not_le.mpr (hseq p hroster))
  unfold State.rosterRun
  rw [hs]
  dsimp only
  rw [hparse]
  dsimp only
  rw [hnew, hst, hsig]
  rfl

theorem State.rosterRun_unsigned (hs : u.stagedAll = (bs, false, t)) (hparse : rosterParse bs = some (g, slot, msg, sig))
    (hseq : ∀ p, t.sec.roster = some p → p.seq.toNat < g.seq.toNat)
    (hsig : Config.slhVerify false (t.sec.slot slot).key msg sig = false) :
    u.rosterRun = (t.secRaise .stat Codes.secAuth 2, Codes.secAuth) := by
  have hnew : t.sec.roster.any (fun q => decide (g.seq.toNat ≤ q.seq.toNat)) = false := by
    cases hroster : t.sec.roster with
    | none => rfl
    | some p => exact decide_eq_false (Nat.not_le.mpr (hseq p hroster))
  unfold State.rosterRun
  rw [hs]
  dsimp only
  rw [hparse]
  dsimp only
  rw [hnew, hsig, Bool.not_false, Bool.or_true]
  rfl

theorem State.rosterRun_unparsed (hs : u.stagedAll = (bs, bad, t)) (hparse : rosterParse bs = none) :
    u.rosterRun = (t, Codes.secFormat) := by
  unfold State.rosterRun
  rw [hs]
  dsimp only
  rw [hparse]

theorem State.fwUpdateRun_done {h : FwHeader} (hs : u.stagedAll = (bs, false, t)) (hparse : fwParse bs = some h)
    (hsigned : h.signed = true) (hfresh : t.sec.fwFresh h.kind h.fwKey h.svn = true) (hlen : bs.length ≤ fwSlotBytes h.kind) :
    u.fwUpdateRun = ({ t with sec := { t.sec with
      fwSlots := SMap.set {} t.sec.fwSlots
        (2 * (h.kind - 1) + (if (if h.kind = 1 then t.sec.fsfSlot else t.sec.pcfSlot) then 0 else 1))
        (h.info bs) } }, Codes.ok) := by
  simp only [State.fwUpdateRun, hs, hparse, hsigned, hfresh, hlen, decide_true, Bool.not_false, Bool.and_self, if_true]

theorem State.fwUpdateRun_unsigned (hs : u.stagedAll = (bs, bad, t)) (hbad : ∀ h, fwParse bs = some h → h.signed = false) :
    u.fwUpdateRun = (t.secRaise .stat Codes.secAuth 2, Codes.secAuth) := by
  cases hparse : fwParse bs with
  | none => simp only [State.fwUpdateRun, hs, hparse]
  | some h => simp only [State.fwUpdateRun, hs, hparse, hbad h hparse, Bool.false_and, Bool.false_eq_true, if_false]

end

/-! ## Debug -/

/-- A token of the firmware's scope alone that unlocks this part (R451). -/
structure State.DebugToken (u : State) (tok : List Byte) : Prop where
  read : Memory.read u.sec.buf 0 0x80 = tok
  slot : (u.sec.slot 12).st = 1
  magic : sub tok 0 8 = ascii "BLKDBGT1"
  scope : byteAt tok 8 = 1
  zeros : allZero (sub tok 9 7) = true
  tail : allZero (sub tok 0x78 8) = true
  nonce : u.sec.nonce = some (sub tok 0x18 32)
  part : sub tok 0x38 64 = u.lxg.ownKeyId
  time : u.dtm.time.toNat < leAt tok 0x10 8
  sig : Config.slhVerify false (u.sec.slot 12).key (ascii "BLK-DBG-TOK1" ++ tok)
    (Memory.read u.sec.buf 0x80 (Config.sigLen false)) = true

theorem State.DebugToken.run {u : State} {tok : List Byte} (h : u.DebugToken tok) : u.debugUnlockRun =
    if u.monBusy then ({ u with sec := { u.sec with nonce := none } }, Codes.refused)
    else ({ u with sec := { u.sec with
      nonce := none, fwDebug := true, scan := false, expiry := BitVec.ofNat 64 (leAt tok 0x10 8) } }, Codes.ok) := by
  obtain ⟨hread, hslot, hmagic, hscope, hzeros, htail, hnonce, hpart, htime, hsig⟩ := h
  have hbusy : State.monBusy { u with sec := { u.sec with nonce := none } } = u.monBusy := rfl
  have hbit0 : Nat.testBit 1 0 = true := rfl
  have hbit1 : Nat.testBit 1 1 = false := rfl
  unfold State.debugUnlockRun
  simp [hread, hslot, hmagic, hscope, hzeros, htail, hnonce, hpart, htime, hsig, hbusy, hbit0, hbit1]

/-- Settles O41: each service that passed its checks runs as its own lemma says, and completes with its code. -/
theorem keyFirmwareAndZeroizeServicesComplete : Obligations.KeyFirmwareAndZeroizeServicesComplete := by
  intro s u o r q k id w hr hk hw ht hu hid hq hc done hdone
  subst hw
  have hrun : ∀ (v : State) (c : Code), u.secRun id (endpointOf q.arrival) k
      ((CmdWord.mk opSec r.desc).pay32 3).toNat {} = (v, some (c, [])) → secService k o {} s = done v c := fun v c hv => by
    subst hid
    rw [hdone]
    exact secService_now hr hk ht hu hq hc hv
  refine ⟨fun n hservice hn hle hfree => congrArg Host.Outcome.next ?enroll,
    fun n hservice hn hbad => congrArg Host.Outcome.next ?noEnroll,
    fun n hservice hn hlo hhi hst => congrArg Host.Outcome.next ?revoke,
    fun x v w => ⟨rfl, rfl⟩,
    fun n hservice hn hbad => congrArg Host.Outcome.next ?noRevoke,
    fun i v hservice hi hv => ⟨fun h2 hlo hloaded hhi => congrArg Host.Outcome.next ?img,
      fun h0 hlo hhi => congrArg Host.Outcome.next ?fsf, fun h1 hlo hhi => congrArg Host.Outcome.next ?pcf,
      fun h3 hzero hone hfsf hpcf => congrArg Host.Outcome.next ?key, fun hno => congrArg Host.Outcome.next ?noSvn⟩,
    fun bs msg sig t g slot hservice hs hparse hseq hst v hv => ⟨fun hsig => congrArg Host.Outcome.next ?roster,
      fun hsig => congrArg Host.Outcome.next ?unsigned⟩,
    fun bs bad t hservice hs hparse => congrArg Host.Outcome.next ?unparsed,
    fun bs t h hservice hs hparse hsigned hfresh hlen => congrArg Host.Outcome.next ?firmware,
    fun bs bad t hservice hs hbad => congrArg Host.Outcome.next ?noFirmware,
    fun tok hservice hread hslot hmagic hscope hzeros htail hnonce hpart htime hsig => ?debug,
    fun z scope hservice ho harg => ?zeroize⟩
  all_goals subst hservice
  case enroll => exact hrun _ _ (by simp only [State.secRun, Sec.enroll_done hn hle hfree])
  case noEnroll => exact hrun _ _ (by simp only [State.secRun, Sec.enroll_refused hn hbad])
  case revoke => exact hrun _ _ (by simp only [State.secRun, Sec.revoke_done hn hlo hhi hst])
  case noRevoke => exact hrun _ _ (by simp only [State.secRun, Sec.revoke_refused hn hbad])
  case img =>
    subst h2
    have hok : u.sec.svnOk u.img.loaded 2 v = true := by simp [Sec.svnOk, hlo, hloaded, hhi]
    exact hrun _ _ (by simp only [State.secRun, Sec.advance_done hi hv hok]; rfl)
  case fsf =>
    subst h0
    have hok : u.sec.svnOk u.img.loaded 0 v = true := by simp [Sec.svnOk, hlo, hhi]
    exact hrun _ _ (by simp only [State.secRun, Sec.advance_done hi hv hok]; rfl)
  case pcf =>
    subst h1
    have hok : u.sec.svnOk u.img.loaded 1 v = true := by simp [Sec.svnOk, hlo, hhi]
    exact hrun _ _ (by simp only [State.secRun, Sec.advance_done hi hv hok]; rfl)
  case key =>
    subst h3
    have hok : u.sec.svnOk u.img.loaded 3 v = true := by simp [Sec.svnOk, hzero, hone, hfsf, hpcf]
    exact hrun _ _ (by simp only [State.secRun, Sec.advance_done hi hv hok]; rfl)
  case noSvn => exact hrun _ _ (by simp only [State.secRun, Sec.advance_refused hi hv hno])
  case roster =>
    subst hv
    exact hrun _ _ (by simp only [State.secRun, State.rosterRun_signed hs hparse hseq hst hsig])
  case unsigned => exact hrun _ _ (by simp only [State.secRun, State.rosterRun_unsigned hs hparse hseq hsig])
  case unparsed => exact hrun _ _ (by simp only [State.secRun, State.rosterRun_unparsed hs hparse])
  case firmware =>
    exact hrun _ _ (by simp only [State.secRun, State.fwUpdateRun_done hs hparse hsigned hfresh hlen]; rfl)
  case noFirmware => exact hrun _ _ (by simp only [State.secRun, State.fwUpdateRun_unsigned hs hbad])
  case debug =>
    have htoken : u.DebugToken tok := ⟨hread, hslot, hmagic, hscope, hzeros, htail, hnonce, hpart, htime, hsig⟩
    refine ⟨fun hidle => congrArg Host.Outcome.next (hrun _ _ ?_), fun hbusy => congrArg Host.Outcome.next (hrun _ _ ?_)⟩
    · simp only [State.secRun, htoken.run, hidle, Bool.false_eq_true, if_false]
    · simp only [State.secRun, htoken.run, hbusy, if_true]
  case zeroize =>
    have hstart : ∀ k : Nat, scope = k → 1 ≤ k → k ≤ 3 → zeroize k z s = u.zeroizeStart id k := fun k hscope hlo hhi => by
      subst hscope
      rw [zeroize, ← ho]
      refine secService_runsOn hr hk ht hu hid hq hc ?_
      rw [harg]
      exact if_pos (by simp [hlo, hhi])
    exact ⟨fun h => congrArg Host.Outcome.next (hstart 1 h (by decide) (by decide)),
      fun h => congrArg Host.Outcome.next (hstart 2 h (by decide) (by decide)),
      fun h => congrArg Host.Outcome.next (hstart 3 h (by decide) (by decide))⟩

end Sys2Proof.Machine
end

section
/-! The end of debug also lets the firmware run on that the debugger halted. -/
namespace Sys2Proof.Machine

/-- A part whose debugger has halted the control firmware of plat 0, and whose token has expired. -/
def haltedByDebugger : State := { State.reset with sec := { State.reset.sec with fwDebug := true, halted := 1 } }

theorem debugExpiry_unhalts (s : State) (hopen : s.debugOpen = true) (hover : s.sec.expiry.toNat ≤ s.dtm.time.toNat) :
    (Sys2Proof.Machine.debugExpiry s).sec.halted = 0 := by
  have hdue : (s.debugOpen && decide (s.sec.expiry.toNat ≤ s.dtm.time.toNat)) = true := by
    rw [hopen, decide_eq_true hover, Bool.and_self]
  exact congrArg (fun t : State => t.sec.halted) (if_pos hdue)

/-- Refutes O42: its clause on DEBUG_EXPIRY keeps `halted`, which the relock of debug clears (R452; log entry 74). The state
below has the firmware of plat 0 halted by the debugger when its token expires. -/
theorem not_zeroizationAndSecurityEvents : ¬ Obligations.ZeroizationAndSecurityEvents := by
  intro h
  obtain ⟨-, -, -, hexpiry, -⟩ := h
  have hopen : haltedByDebugger.debugOpen = true := rfl
  have hover : haltedByDebugger.sec.expiry.toNat ≤ haltedByDebugger.dtm.time.toNat := Nat.zero_le _
  have hrun : Sys2Proof.Machine.debugExpiry haltedByDebugger =
      { haltedByDebugger with sec := { haltedByDebugger.sec with fwDebug := false, scan := false, expiry := 0 } } :=
    Host.Outcome.next.inj (hexpiry haltedByDebugger hopen hover)
  have hkept : (Sys2Proof.Machine.debugExpiry haltedByDebugger).sec.halted = 1 := congrArg (fun t : State => t.sec.halted) hrun
  rw [debugExpiry_unhalts haltedByDebugger hopen hover] at hkept
  exact absurd hkept (by decide)

end Sys2Proof.Machine
end

section
/-! Reset, power loss, start-up and commits of the settings. -/
namespace Sys2Proof.Machine

/-! ## Commits -/

/-- The sequence number a commit has to name. -/
def Nvm.baseSeq (n : Nvm) : W64 := match n.genInUse with | some g => g.seq | none => 0

theorem State.commitStart_accepted {s : State} {base : W64} (hfree : s.nvm.busy = none) (hbase : base = s.nvm.baseSeq)
    (hfields : badFields s.nvm.set0 s.nvm.set1 s.nvm.set2 = []) (order : Option Nat) :
    s.commitStart base order = (State.storeBegun { s with nvm := { s.nvm with
      busy := some (s.newGen, order), storeQ := s.nvm.storeQ ++ [{ fence := false, head := s.flt.head }] } }, none) := by
  subst hbase
  cases hgen : s.nvm.genInUse with
  | none =>
    simp only [State.commitStart, Nvm.baseSeq, hfree, hgen, hfields, Option.isSome_none, List.isEmpty_nil, Bool.not_true,
      bne_self_eq_false, Bool.false_eq_true, if_false]
    rfl
  | some g =>
    simp only [State.commitStart, Nvm.baseSeq, hfree, hgen, hfields, Option.isSome_none, List.isEmpty_nil, Bool.not_true,
      bne_self_eq_false, Bool.false_eq_true, if_false]
    rfl

theorem State.commitStart_busy {s : State} (hbusy : s.nvm.busy ≠ none) (base : W64) (order : Option Nat) :
    s.commitStart base order = (s.nvmResult Codes.nvmBusy, some Codes.nvmBusy) := by
  simp only [State.commitStart, Option.isSome_iff_ne_none.mpr hbusy, if_true]

theorem State.commitStart_stale {s : State} {base : W64} (hfree : s.nvm.busy = none) (hbase : base ≠ s.nvm.baseSeq)
    (order : Option Nat) : s.commitStart base order = (s.nvmResult Codes.nvmStale, some Codes.nvmStale) := by
  have hseq : (base != s.nvm.baseSeq) = true := bne_iff_ne.mpr hbase
  cases hgen : s.nvm.genInUse with
  | none =>
    simp only [Nvm.baseSeq, hgen] at hseq
    simp only [State.commitStart, hfree, hgen, hseq, Option.isSome_none, Bool.false_eq_true, if_false, if_true]
  | some g =>
    simp only [Nvm.baseSeq, hgen] at hseq
    simp only [State.commitStart, hfree, hgen, hseq, Option.isSome_none, Bool.false_eq_true, if_false, if_true]

/-- The first store of an empty queue begins at once. -/
theorem State.storeBegun_first {t : State} {r : StoreReq} (hq : t.nvm.storeQ = [r]) (hcommit : r.fence = false)
    (hbuffer : t.flt.buffer = []) : t.storeBegun = { t with nvm := t.nvm.putSlot none } := by
  refine if_pos ?_
  simp [State.storeRuns, hq, hbuffer, hcommit]

/-! ## The end of a commit -/

/-- The settings after a generation is written: it is the one in use. -/
def Nvm.generated (n : Nvm) (g : Gen) : Nvm := { (n.putSlot (some g)) with inUse := if n.toSlot1 then 1 else 0, calDirty := false }

/-- What a later store may change: neither the generation in use nor the result of a commit. -/
def Nvm.committed (n : Nvm) : Option Gen × Option (Gen × Option Nat) × Bool := (n.genInUse, n.busy, n.calDirty)

theorem Nvm.generated_inUse (n : Nvm) (g : Gen) : (n.generated g).genInUse = some g := by
  unfold Nvm.generated Nvm.putSlot Nvm.genInUse
  cases n.toSlot1 <;> rfl

theorem Nvm.storeCounts_committed (n : Nvm) (f : Counts → Counts) (fresh : Counts) :
    (n.storeCounts f fresh).committed = n.committed := by
  unfold Nvm.storeCounts
  split
  · rfl
  · dsimp only
    split <;> rfl

/-- A store invalidates the slot that is not in use. -/
theorem Nvm.putSlot_committed {n : Nvm} (h : n.inUse < 2) : (n.putSlot none).committed = n.committed := by
  unfold Nvm.putSlot Nvm.toSlot1 Nvm.committed Nvm.genInUse
  obtain hslot | hslot : n.inUse = 0 ∨ n.inUse = 1 := by omega
  all_goals simp [hslot]

theorem State.storeBegun_committed {s : State} (h : s.nvm.inUse < 2) : s.storeBegun.nvm.committed = s.nvm.committed := by
  unfold State.storeBegun
  split
  · exact Nvm.putSlot_committed h
  · rfl

theorem State.storeBegun_others (s : State) : { s.storeBegun with nvm := s.nvm } = s := by
  unfold State.storeBegun
  split <;> rfl

/-- The part once the read-back of a commit has passed, before the next store begins. -/
def State.commitStored (s : State) (g : Gen) : State :=
  let written := Nvm.generated { s.nvm with busy := none } g
  { s with nvm := (written.storeCounts (fun c => { c with commits := c.commits + 1 })
      { seq := 1, boots := 1, commits := 1, floor := s.flt.head }) }

theorem commitDone_passed {s : State} {g : Gen} (hruns : s.storeRuns false = true) (hbusy : s.nvm.busy = some (g, none)) :
    Sys2Proof.Machine.commitDone true s = (s.commitStored g).storeOver.nvmResult Codes.ok := by
  simp only [Sys2Proof.Machine.commitDone, hruns, hbusy, Bool.not_true, Bool.false_eq_true, if_false, if_true]
  rfl

theorem Nvm.storeCounts_inUse (n : Nvm) (f : Counts → Counts) (fresh : Counts) : (n.storeCounts f fresh).inUse = n.inUse := by
  unfold Nvm.storeCounts
  split
  · rfl
  · dsimp only
    split <;> rfl

theorem Nvm.generated_slot (n : Nvm) (g : Gen) : (n.generated g).inUse < 2 := by
  show (if n.toSlot1 then 1 else 0) < 2
  split <;> decide

/-- The generation stored is in use, and no later store changes that. -/
theorem State.commitStored_committed (s : State) (g : Gen) : (s.commitStored g).storeOver.nvm.committed = (some g, none, false) := by
  have hslot : (s.commitStored g).nvm.inUse < 2 := by
    rw [State.commitStored, Nvm.storeCounts_inUse]
    exact Nvm.generated_slot _ g
  have hqueue : (s.commitStored g).storeOver.nvm.committed = (s.commitStored g).nvm.committed :=
    State.storeBegun_committed hslot
  have hbusy : (Nvm.generated { s.nvm with busy := none } g).busy = none := by
    unfold Nvm.generated Nvm.putSlot
    split <;> rfl
  rw [hqueue, State.commitStored, Nvm.storeCounts_committed, Nvm.committed, Nvm.generated_inUse, hbusy]
  rfl

/-- Settles O43: reset keeps the MRAM, and a commit goes through its start and its end as the lemmas above say. -/
theorem resetAndCommit : Obligations.ResetAndCommit := by
  refine ⟨fun s => ⟨rfl, rfl, rfl, rfl⟩,
    fun s b slot fb hphase h1 h2 h3 hstrap t ht hpick => congrArg Host.Outcome.next ?release,
    fun s path base hopen hfree hbase hfields t ht => ⟨congrArg Host.Outcome.next ?commit, fun hq hbuffer => ?first⟩,
    fun s path base hopen => ⟨fun hbusy => congrArg Host.Outcome.next ?busy, fun hfree hbase => congrArg Host.Outcome.next ?stale⟩,
    fun s u o r base id hr ht hu hid hfree hbase hfields => congrArg Host.Outcome.next ?order,
    fun s g hruns hbusy => ⟨{ s with nvm := { s.nvm with busy := none } }, congrArg Host.Outcome.next ?failed, rfl, rfl⟩,
    fun s g hruns hbusy => ⟨_, congrArg Host.Outcome.next (commitDone_passed hruns hbusy), ?passed⟩⟩
  case release =>
    have hslot : (s.readMram b.mram).sec.pickFw 1 b.fsfValid = some (slot, fb) := by
      rw [ht] at hpick
      exact hpick
    simp only [Sys2Proof.Machine.resetRelease, hphase, h1, h2, h3, hstrap, ne_eq, not_true_eq_false, decide_false, Bool.or_self,
      Bool.false_eq_true, if_false, ← ht, hslot]
  case commit =>
    rw [nvmCommit, State.writeBy_open hopen, State.woken_nvmBlock, State.commitStart_accepted hfree hbase hfields, ht]
  case first =>
    have hone : t.nvm.storeQ = [{ fence := false, head := s.flt.head }] := by rw [ht, hq]; rfl
    exact State.storeBegun_first hone rfl (by rw [ht]; exact hbuffer)
  case busy =>
    rw [nvmCommit, State.writeBy_open hopen, State.woken_nvmBlock, State.commitStart_busy hbusy]
    rfl
  case stale =>
    rw [nvmCommit, State.writeBy_open hopen, State.woken_nvmBlock, State.commitStart_stale hfree hbase]
    rfl
  case order =>
    have hword : CmdWord.payWord { opcode := opNvmCommit, desc := r.desc } 0 = base := by
      rw [← hr, payWord_rowOrder, BitVec.ofNat_toNat, BitVec.setWidth_eq]
    rw [nvmCommit, hr, State.cmdArrive_now ht, hu, hid, nvmEff, hword, State.commitStart_accepted hfree hbase hfields]
    rfl
  case failed =>
    simp only [Sys2Proof.Machine.commitDone, hruns, hbusy, Bool.not_true, Bool.false_eq_true, if_false]
  case passed =>
    obtain ⟨hgen, hbusy, hdirty⟩ : (s.commitStored g).storeOver.nvm.genInUse = some g ∧
        (s.commitStored g).storeOver.nvm.busy = none ∧ (s.commitStored g).storeOver.nvm.calDirty = false := by
      simpa only [Nvm.committed, Prod.mk.injEq] using s.commitStored_committed g
    have hothers := congrArg (fun t : State => { t with nvm := s.nvm }) (State.storeBegun_others
      { s.commitStored g with nvm := { (s.commitStored g).nvm with storeQ := (s.commitStored g).nvm.storeQ.drop 1 } })
    exact ⟨hgen, hbusy, rfl, hdirty, hothers⟩

end Sys2Proof.Machine
end

section
/-! The board's boot image, the SMBus, register accesses, and the registers after a reset. -/
namespace Sys2Proof.Machine

/-! ## The board's boot image and the SMBus -/

theorem bootVerifyDone_good {s : State} {i : BootImage} {b : BootSeen} {h : FwHeader} (himage : s.smb.image = some i)
    (hboot : s.nvm.booting = some b) (hended : i.ended = true) (hparse : fwParse i.bytes = some h) (hkind : h.kind = i.kind)
    (hsigned : h.signed = true) (hfresh : s.sec.fwFresh h.kind h.fwKey h.svn = true) :
    Sys2Proof.Machine.bootVerifyDone s =
      let t : State := { s with smb := { s.smb with image := none, awaiting := 0, status := Codes.ok } }
      if i.kind = 1 then { t with sec := { t.sec with fsf := h.info i.bytes } }.bootMid b
      else { t with sec := { t.sec with pcf := h.info i.bytes } }.bootLate b := by
  simp only [Sys2Proof.Machine.bootVerifyDone, himage, hboot, hended, hparse, hsigned, decide_eq_true hkind, hfresh,
    Bool.not_true, Bool.and_self, Bool.false_eq_true, if_false, if_true, State.bootStat]

theorem bootVerifyDone_bad {s : State} {i : BootImage} {b : BootSeen} (himage : s.smb.image = some i)
    (hboot : s.nvm.booting = some b) (hended : i.ended = true) (hbad : ∀ h, fwParse i.bytes = some h → h.signed = false) :
    Sys2Proof.Machine.bootVerifyDone s = { s with smb := { s.smb with image := none, status := Codes.secAuth } } := by
  cases hparse : fwParse i.bytes with
  | none =>
    simp only [Sys2Proof.Machine.bootVerifyDone, himage, hboot, hended, hparse, Bool.not_true, Bool.false_eq_true, if_false,
      State.bootStat]
  | some h =>
    simp only [Sys2Proof.Machine.bootVerifyDone, himage, hboot, hended, hparse, hbad h hparse, Bool.not_true, Bool.false_and,
      Bool.false_eq_true, if_false, State.bootStat]

/-- Settles O44: each command of the board takes the branch that the image it has sent so far opens. -/
theorem smbusCommandsComplete : Obligations.SmbusCommandsComplete := by
  refine ⟨fun s kind hawake hawaits hkind hnone => congrArg Host.Outcome.next ?begins,
    fun s offset data i hawake himage hopen hoffset hfits hdata hlen => congrArg Host.Outcome.next ?data,
    fun s i hawake himage hopen => congrArg Host.Outcome.next ?ends,
    fun s hawake => congrArg Host.Outcome.next (if_pos hawake),
    fun s i b h himage hboot hended hparse hkind hfirst hsigned hfresh => congrArg Host.Outcome.next ?first,
    fun s i b h himage hboot hended hparse hkind hlater hsigned hfresh => congrArg Host.Outcome.next ?later,
    fun s i b himage hboot hended hbad => congrArg Host.Outcome.next (bootVerifyDone_bad himage hboot hended hbad),
    fun s a hphase => congrArg Host.Outcome.next ?address,
    fun s a hphase haddr => congrArg Host.Outcome.next ?value⟩
  case begins =>
    have hmay : ¬ (decide (s.smb.awaiting = 0) || decide (kind.toNat ≠ s.smb.awaiting) || s.smb.image.any (·.ended)) = true := by
      simp [hawaits, hkind, hnone]
    simp only [Sys2Proof.Machine.bootBegin, hawake, Bool.not_true, Bool.false_eq_true, if_false, if_neg hmay, State.bootStat]
  case data =>
    have hmay : ¬ (decide (offset.toNat ≠ i.bytes.length) || decide (fwSlotBytes i.kind < i.bytes.length + data.length) ||
        data.isEmpty || decide (240 < data.length)) = true := by
      simp [hoffset, Nat.not_lt.mpr hfits, hdata, Nat.not_lt.mpr hlen]
    simp only [Sys2Proof.Machine.bootData, hawake, himage, hopen, Bool.not_true, Bool.false_eq_true, if_false, if_neg hmay,
      State.bootStat]
  case ends =>
    simp only [Sys2Proof.Machine.bootEnd, hawake, himage, hopen, Bool.not_true, Bool.false_eq_true, if_false, State.bootStat]
  case first =>
    rw [bootVerifyDone_good himage hboot hended hparse hkind hsigned hfresh]
    exact if_pos hfirst
  case later =>
    rw [bootVerifyDone_good himage hboot hended hparse hkind hsigned hfresh]
    exact if_neg hlater
  case address => exact if_pos (bne_iff_ne.mpr hphase)
  case value =>
    have hopen : s.pathOpen .smbus = true := bne_iff_ne.mpr hphase
    rw [regValueRead, if_pos hopen, haddr]

/-! ## Register accesses -/

theorem State.writeReg_open {s : State} {a : W64} {b : Block} {o : Nat} (hreg : s.register a = some (b, o))
    (hopen : s.accessGated b o = false) (w : Who) (v : W64) : s.writeReg w a v = (s.woken b).writeAt w b o v := by
  simp only [State.writeReg, hreg, hopen, Bool.false_eq_true, if_false]

theorem State.writeReg_gated {s : State} {a : W64} {b : Block} {o : Nat} (hreg : s.register a = some (b, o))
    (hgated : s.accessGated b o = true) (w : Who) (v : W64) : s.writeReg w a v = (s, Codes.clkGated) := by
  simp only [State.writeReg, hreg, hgated, if_true]

theorem State.writeReg_none {s : State} {a : W64} (hreg : s.register a = none) (w : Who) (v : W64) :
    s.writeReg w a v = (s, Codes.refused) := by
  simp only [State.writeReg, hreg]

theorem State.readReg_open {s : State} {a : W64} {b : Block} {o : Nat} (hreg : s.register a = some (b, o))
    (hopen : s.blockGated b = false) (hcmd : b ≠ .cmd) :
    s.readReg a = (((s.woken b).regValue b o).getD 0, Codes.ok, (s.woken b).afterRead b o) := by
  simp only [State.readReg, hreg, hopen, Bool.false_eq_true, if_false]

theorem State.readReg_none {s : State} {a : W64} (hreg : s.register a = none) : s.readReg a = (0, Codes.refused, s) := by
  simp only [State.readReg, hreg]

/-- Who writes by a path of its own. -/
def writerOf : Path → Who
  | .fw p => .fw p
  | .mgmt src n => .host src n
  | .smbus => .fw 0

theorem registerWrite_word {s : State} {path : Path} (hopen : s.pathOpen path = true) (hpath : path ≠ .smbus) (a v : W64) :
    Sys2Proof.Machine.registerWrite path a 8 v s = (s.writeReg (writerOf path) a v).1.emit (.code (s.writeReg (writerOf path) a v).2) := by
  unfold Sys2Proof.Machine.registerWrite
  rw [if_neg (by simp [hopen]), if_neg (by decide)]
  cases path with
  | smbus => exact absurd rfl hpath
  | _ => rfl

theorem readClear_word {s : State} {path : Path} (hopen : s.pathOpen path = true) (hpath : path ≠ .smbus) (a : W64) :
    Sys2Proof.Machine.readClear path a 8 s =
      ((s.readReg a).2.2.emit (.code (s.readReg a).2.1)).emit (.value (s.readReg a).1) := by
  unfold Sys2Proof.Machine.readClear
  rw [if_neg (by simp [hopen]), if_neg (by decide)]
  cases path with
  | smbus => exact absurd rfl hpath
  | _ => rfl

/-- Settles O45: a word by a path of its own is what the register gives; a remote one is the same at its port. -/
theorem registerAccessesComplete : Obligations.RegisterAccessesComplete := by
  refine ⟨fun s p a v b o hopen hreg hgate => congrArg Host.Outcome.next ?firmware,
    fun s src n a v b o hopen hreg hgate => congrArg Host.Outcome.next ?mgmt,
    fun s path a b o hopen hpath hreg hgate hcmd => congrArg Host.Outcome.next ?read,
    fun s path a v b o hopen hpath hreg hgate => congrArg Host.Outcome.next ?gated,
    fun s path a v hopen hpath hreg => ⟨congrArg Host.Outcome.next ?noWrite, congrArg Host.Outcome.next ?noRead⟩,
    fun s a v hopen => ⟨congrArg Host.Outcome.next ?smbWrite, congrArg Host.Outcome.next ?smbRead⟩,
    fun s path a v size hopen hsize => ⟨congrArg Host.Outcome.next ?shortWrite, congrArg Host.Outcome.next ?shortRead⟩,
    fun s u rx a ht hu => congrArg Host.Outcome.next ?remoteRead,
    fun s u rx a v ht hu => congrArg Host.Outcome.next ?remoteWrite,
    fun s u rx a v => ⟨fun ht hu => congrArg Host.Outcome.next ?openRead, fun ht hu => congrArg Host.Outcome.next ?openWrite⟩,
    fun s rx a v hsize => ⟨fun ht => congrArg Host.Outcome.next ?badRead, fun ht => congrArg Host.Outcome.next ?badWrite⟩⟩
  case firmware =>
    rw [registerWrite_word hopen (by simp), writerOf, State.writeReg_open hreg hgate]
  case mgmt =>
    rw [registerWrite_word hopen (by simp), writerOf, State.writeReg_open hreg hgate]
  case read => rw [readClear_word hopen hpath, State.readReg_open hreg hgate hcmd]
  case gated => rw [registerWrite_word hopen hpath, State.writeReg_gated hreg hgate]
  case noWrite => rw [registerWrite_word hopen hpath, State.writeReg_none hreg]
  case noRead => rw [readClear_word hopen hpath, State.readReg_none hreg]
  case smbWrite =>
    unfold Sys2Proof.Machine.registerWrite
    rw [if_neg (by simp [hopen]), if_neg (fun h => h rfl)]
  case smbRead =>
    unfold Sys2Proof.Machine.readClear
    rw [if_neg (by simp [hopen]), if_neg (fun h => h rfl)]
  case shortWrite =>
    unfold Sys2Proof.Machine.registerWrite
    rw [if_neg (by simp [hopen]), if_pos hsize]
  case shortRead =>
    unfold Sys2Proof.Machine.readClear
    rw [if_neg (by simp [hopen]), if_pos hsize]
  case remoteRead =>
    have hbody : mgmtBody false { addr := a } 0 = .mgmt false a 0 := rfl
    rw [Sys2Proof.Machine.mgmtRead, hbody, State.take_here ht, hu, if_neg (fun h => h rfl)]
  case remoteWrite =>
    have hbody : mgmtBody true { addr := a } v = .mgmt true a v := rfl
    rw [Sys2Proof.Machine.mgmtWrite, hbody, State.take_here ht, hu, if_neg (fun h => h rfl)]
    rfl
  case openRead =>
    have hbody : mgmtBody false { addr := a } 0 = .mgmt false a 0 := rfl
    rw [Sys2Proof.Machine.mgmtRead, hbody, State.take_open ht, hu, if_neg (fun h => h rfl)]
  case openWrite =>
    have hbody : mgmtBody true { addr := a } v = .mgmt true a v := rfl
    rw [Sys2Proof.Machine.mgmtWrite, hbody, State.take_open ht, hu, if_neg (fun h => h rfl)]
    rfl
  case badRead => rw [Sys2Proof.Machine.mgmtRead, State.take_here ht, if_pos hsize]
  case badWrite => rw [Sys2Proof.Machine.mgmtWrite, State.take_here ht, if_pos hsize]

/-- DLD_WINDOW and its enable stand at offset 0 of a traverse plat's registers, whatever spills go on. -/
theorem trvRead_deadlockWindow (x : Plat) (k : Nat) (hw : x.dldWindow = 16) (he : x.dldEn = true) :
    x.trvRead k 0x000 = some 0x10010 := by
  rw [Plat.trvRead, hw, he]
  decide

/-- The time-out exponent of drains stands at offset 0x28. -/
theorem trvRead_drainTimeout (x : Plat) (k : Nat) (ht : x.timeoutExp = 14) : x.trvRead k 0x028 = some 14 := by
  rw [Plat.trvRead, ht]
  decide

/-- Settles O51: what reset leaves is given field by field. -/
theorem resetLeavesTheStatedValues : Obligations.ResetLeavesTheStatedValues := by
  intro s
  refine ⟨s.inReset, rfl, rfl, rfl, ?glb, fun g => ?au, fun p => ⟨?window, ?timeout⟩, ?ctl, fun p n => ⟨?cu, ?mu⟩, rfl, rfl, rfl,
    rfl, rfl, rfl, rfl, rfl, rfl⟩
  case glb => rfl
  case au => rfl
  case window => exact trvRead_deadlockWindow (s.inReset.plat p) (s.inReset.spillsNow p) rfl rfl
  case timeout => exact trvRead_drainTimeout (s.inReset.plat p) (s.inReset.spillsNow p) rfl
  case ctl => exact (by decide : fld (0x819 : W64) 8 6 = 8)
  case cu => rfl
  case mu => rfl

end Sys2Proof.Machine
end

section
/-! The frame of the commands of datum time, clocks, power, faults, slots, security time-outs, SMBus and JTAG. -/
namespace Sys2Proof.Machine

/-! ## Every outcome of a command stands in a relation to the state before -/

/-- Whatever command c does to s, the state after stands in relation R to s. -/
def Frames (R : State → State → Prop) (s : State) (c : Instr) : Prop := ∀ t, exec c s = .next t → R s t

theorem Frames.intro {R : State → State → Prop} {s u : State} {c : Instr} (he : exec c s = .next u) (hr : R s u) :
    Frames R s c := fun t ht => by
  have hut : u = t := Host.Outcome.next.inj (he.symm.trans ht)
  rwa [← hut]

/-! ## The array stands -/

theorem State.sameArray.refl (s : State) : s.sameArray s := ⟨rfl, rfl, rfl, rfl, rfl, rfl, rfl, rfl, rfl, rfl, rfl, rfl⟩

theorem State.sameArray.trans {r s t : State} (h : r.sameArray s) (k : s.sameArray t) : r.sameArray t := by
  obtain ⟨h1, h2, h3, h4, h5, h6, h7, h8, h9, h10, h11, h12⟩ := h
  obtain ⟨k1, k2, k3, k4, k5, k6, k7, k8, k9, k10, k11, k12⟩ := k
  exact ⟨k1.trans h1, k2.trans h2, k3.trans h3, k4.trans h4, k5.trans h5, k6.trans h6, k7.trans h7, k8.trans h8,
    k9.trans h9, k10.trans h10, k11.trans h11, k12.trans h12⟩

theorem State.logFault_sameArray (s : State) (c : FClass) (code : Code) (kind inst : Nat) (d : W64) :
    s.sameArray (s.logFault c code kind inst d) := .refl s

/-- A status is recorded beside the array. -/
theorem State.raise_stat_sameArray (s : State) (code : Code) (kind inst : Nat) (d : W64) :
    s.sameArray (s.raise .stat code kind inst d) := .refl s

theorem State.whenAwake_sameArray {s : State} {f : State → State} (h : s.sameArray (f s)) : s.sameArray (s.whenAwake f) := by
  unfold State.whenAwake
  split
  · exact h
  · exact .refl s

theorem State.woken_sameArray (s : State) (b : Block) : s.sameArray (s.woken b) := by
  rw [State.woken_eq]
  exact .refl s

theorem State.atBlock_sameArray {s : State} {b : Block} {f : State → State} (h : ∀ u : State, u.sameArray (f u)) :
    s.sameArray (s.atBlock b f) := by
  unfold State.atBlock
  split
  · exact .refl s
  · split
    · exact .refl s
    · exact (s.woken_sameArray b).trans (h _)

theorem State.storeBegun_sameArray (s : State) : s.sameArray s.storeBegun := by
  unfold State.storeBegun
  split <;> exact .refl s

theorem State.meterJudge_sameArray (s : State) : s.sameArray s.meterJudge := by
  unfold State.meterJudge
  split <;> exact .refl s

theorem State.withClk_sameArray (s : State) (c : Clk) : s.sameArray { s with clk := c } := .refl s

theorem State.coast_sameArray (s : State) : s.sameArray s.coast := by
  unfold State.coast State.setPlls
  dsimp only
  exact (s.withClk_sameArray _).trans (State.meterJudge_sameArray _)

/-! ## Datum time and clocks -/

theorem holdoverExpiry_sameArray (s : State) : s.sameArray (holdoverExpiry s) := by
  unfold holdoverExpiry
  split
  · split <;> exact .refl s
  · exact .refl s

theorem State.coastRecorded_sameArray (s : State) (d : Dtm) (code : Code) (kind inst : Nat) (w : W64) :
    s.sameArray (({ s with dtm := d }).coast.raise .stat code kind inst w) := by
  have hdtm : s.sameArray { s with dtm := d } := .refl s
  exact (hdtm.trans (State.coast_sameArray _)).trans (State.raise_stat_sameArray _ _ _ _ _)

theorem State.loseReference_sameArray (s : State) : s.sameArray s.loseReference := by
  unfold State.loseReference
  exact s.coastRecorded_sameArray _ _ _ _ _

theorem referenceLoss_sameArray (portLeft : Bool) (s : State) : s.sameArray (referenceLoss portLeft s) := by
  unfold referenceLoss
  generalize (if portLeft then s.refPortLeft else s.refSilent) = lost
  split
  · exact s.loseReference_sameArray
  · exact .refl s

theorem gatingModeWrite_sameArray (v : W64) (s : State) : s.sameArray (gatingModeWrite v s) :=
  State.whenAwake_sameArray (.refl s)

theorem idleClockStop_sameArray (d block : Nat) (s : State) : s.sameArray (idleClockStop d block s) := by
  unfold idleClockStop
  split <;> exact .refl s

theorem clockWake_sameArray (d block : Nat) (s : State) : s.sameArray (clockWake d block s) := by
  unfold clockWake
  split <;> exact .refl s

theorem State.gateCmd_sameArray (s : State) (d g : Nat) (opens : Bool) : s.sameArray (s.gateCmd d g opens) := by
  refine State.whenAwake_sameArray ?_
  split
  · exact .refl s
  · exact State.meterJudge_sameArray _

theorem fmeterStart_sameArray (v : W64) (s : State) : s.sameArray (fmeterStart v s) :=
  State.whenAwake_sameArray (State.meterJudge_sameArray _)

theorem fmeterDone_sameArray (count : BitVec 48) (refStopped : Bool) (s : State) :
    s.sameArray (fmeterDone count refStopped s) := by
  unfold fmeterDone
  split <;> exact .refl s

/-! ## Power -/

theorem powerStateChange_sameArray (s : State) : s.sameArray (powerStateChange s) := by
  unfold powerStateChange
  split <;> exact .refl s

theorem pwrLimitWrite_sameArray (v : W64) (s : State) : s.sameArray (pwrLimitWrite v s) := by
  refine State.whenAwake_sameArray ?_
  dsimp only
  split <;> exact .refl s

theorem railPoll_sameArray (rails : List RailSample) (answered : BitVec 5) (s : State) :
    s.sameArray (railPoll rails answered s) := by
  refine State.whenAwake_sameArray ?_
  dsimp only
  split
  · exact State.raise_stat_sameArray _ _ _ _ _
  · exact .refl s

theorem avsTelemetry_sameArray (r : Nat) (s : State) : s.sameArray (Sys2Proof.Machine.avsTelemetry r s) := by
  unfold Sys2Proof.Machine.avsTelemetry
  split
  · exact .refl s
  · exact State.raise_stat_sameArray _ _ _ _ _

theorem vddCoreAdjust_sameArray (step : Int) (s : State) : s.sameArray (vddCoreAdjust step s) := by
  unfold vddCoreAdjust
  dsimp only
  split <;> exact .refl s

/-! ## Records, fence and slots -/

theorem faultRecordStore_sameArray (s : State) : s.sameArray (faultRecordStore s) := by
  unfold faultRecordStore
  split
  · exact .refl s
  · split
    · exact .refl s
    · exact State.storeBegun_sameArray _

/-- A fence operation is refused, or its store is asked for. -/
theorem State.fenceAsked_sameArray (s : State) (refused : Bool) (o : FenceOp) :
    s.sameArray (if refused then s.fenceResult Codes.refused
      else State.askStore { s with flt := { s.flt with fence := { s.flt.fence with busy := some o } } } true) := by
  split
  · exact .refl s
  · exact State.storeBegun_sameArray _

theorem fenceOp_sameArray (op : FenceOp) (s : State) : s.sameArray (fenceOp op s) := by
  refine State.whenAwake_sameArray ?_
  cases op <;> exact s.fenceAsked_sameArray _ _

theorem consume_sameArray (k : Nat) (s : State) : s.sameArray (consume k s) := by
  unfold consume
  split <;> exact .refl s

theorem State.countRead_sameArray (s : State) (k : Nat) : s.sameArray (s.countRead k) := by
  unfold State.countRead
  dsimp only
  split <;> exact .refl s

theorem slotWord0Read_sameArray (k : Nat) (s : State) : s.sameArray (slotWord0Read k s) := s.countRead_sameArray k

theorem notifyPop_sameArray (s : State) : s.sameArray (notifyPop s) := .refl s

/-! ## Security time-outs, SMBus and JTAG -/

theorem debugExpiry_sameArray (s : State) : s.sameArray (debugExpiry s) := by
  unfold debugExpiry
  split <;> exact .refl s

theorem drbgReseed_sameArray (s : State) : s.sameArray (drbgReseed s) := by
  unfold drbgReseed
  split <;> exact .refl s

theorem bootBegin_sameArray (kind : Nat) (s : State) : s.sameArray (bootBegin kind s) := by
  unfold bootBegin
  repeat' split
  all_goals exact .refl s

theorem bootData_sameArray (offset : W32) (data : List Byte) (s : State) : s.sameArray (bootData offset data s) := by
  unfold bootData
  repeat' split
  all_goals exact .refl s

theorem bootEnd_sameArray (s : State) : s.sameArray (bootEnd s) := by
  unfold bootEnd
  repeat' split
  all_goals exact .refl s

theorem bootStatus_sameArray (s : State) : s.sameArray (bootStatus s) := State.whenAwake_sameArray (.refl s)

theorem regRead_sameArray (a : W64) (s : State) : s.sameArray (regRead a s) := by
  unfold regRead
  split <;> exact .refl s

theorem regValueRead_sameArray (s : State) : s.sameArray (regValueRead s) := by
  unfold regValueRead
  split
  · dsimp only
    split <;> exact .refl s
  · exact .refl s

theorem jtagInstruction_sameArray (op : JtagOp) (s : State) : s.sameArray (jtagInstruction op s) := by
  unfold jtagInstruction
  split
  · exact .refl s
  · dsimp only
    split <;> exact .refl s

/-! ## Steps of datum time and the return of the local input -/

/-- A step of the time moves the instants of a port's frames and nothing else of it. -/
theorem State.stepDatum_port {s : State} (hinv : s.Inv) (by_ : Int) (n : Nat) :
    { (s.stepDatum by_).port n with frame := (s.port n).frame, frameSent := (s.port n).frameSent } = s.port n := by
  obtain ⟨⟨-, -, -, -, -, -, hports, -⟩, -⟩ := hinv
  have hget := SMap.get_mapVals hports (fun _ p => { p with
      frameSent := p.frameSent.map (fun t => (moveTime by_ (t, 0)).1)
      frame := p.frame.map (fun x =>
        let t := moveTime by_ (x.arrival, x.arrivalFrac)
        { x with arrival := t.1, arrivalFrac := t.2 }) }) n rfl
  have hport : (s.stepDatum by_).port n = _ := hget
  rw [hport]
  rfl

theorem dtmTimeSet_frame {s : State} (hinv : s.Inv) (v : W64) :
    s.sameArray { dtmTimeSet v s with ports := s.ports } ∧
      ∀ n : Fin 32, { (dtmTimeSet v s).port n with frame := (s.port n).frame, frameSent := (s.port n).frameSent } = s.port n := by
  unfold dtmTimeSet
  split
  · exact ⟨.refl s, fun n => State.stepDatum_port hinv _ n⟩
  · exact ⟨.refl s, fun n => rfl⟩

/-- Ports that retrain leave the array beside the ports alone. -/
theorem State.retrains_array (ns : List Nat) (s u : State) (h : s.sameArray { u with ports := s.ports }) :
    s.sameArray { ns.foldl (fun s n => s.retrainPort n (s.port n)) u with ports := s.ports } := by
  induction ns generalizing u with
  | nil => exact h
  | cons n ns ih => exact ih _ h

theorem localInputPresent_frame (s : State) : s.sameArray { localInputPresent s with ports := s.ports } := by
  unfold localInputPresent
  split
  · exact .refl s
  · exact State.retrains_array _ s _ (.refl s)

theorem dramRefresh_quiet (s : State) (c : Nat) {k : Nat} (hk : k < 16) : dramRefresh c k s = s := by
  have hfails : s.chanFails c k = false := by
    simp only [State.chanFails, Bool.and_eq_false_iff, decide_eq_false_iff_not]
    exact .inl (by omega)
  rw [dramRefresh, hfails]
  rfl

/-! ## The whole frame -/

/-- The commands without operands. -/
theorem plainSystemCommand_sameArray (s : State) : ∀ c ∈ [Instr.powerStateChange, .holdoverExpiry, .faultRecordStore,
    .nonceExpiry, .coSessionTimeout, .debugExpiry, .drbgReseed, .bootEnd, .bootStatus, .regValue, .notifyPop,
    .fenceConfirm], Frames State.sameArray s c := by
  simp only [List.forall_mem_cons]
  exact ⟨.intro rfl (powerStateChange_sameArray s), .intro rfl (holdoverExpiry_sameArray s),
    .intro rfl (faultRecordStore_sameArray s), .intro rfl (.refl s), .intro rfl (.refl s),
    .intro rfl (debugExpiry_sameArray s), .intro rfl (drbgReseed_sameArray s), .intro rfl (bootEnd_sameArray s),
    .intro rfl (bootStatus_sameArray s), .intro rfl (regValueRead_sameArray s),
    .intro rfl (State.atBlock_sameArray notifyPop_sameArray), .intro rfl (fenceOp_sameArray _ s),
    List.forall_mem_nil _⟩

/-- Settles O60: each command is shown to change no part of the array. -/
theorem systemCommandsLeaveTheArray : Obligations.SystemCommandsLeaveTheArray := by
  refine ⟨fun s t v hinv h => ?_, fun s t h => ?_, fun s c hc => congrArg Host.Outcome.next (dramRefresh_quiet s _ hc),
    fun s t h => ?_⟩
  · exact Frames.intro (R := fun s t => s.sameArray { t with ports := s.ports } ∧
      ∀ n : Fin 32, { t.port n with frame := (s.port n).frame, frameSent := (s.port n).frameSent } = s.port n)
      rfl (dtmTimeSet_frame hinv v) t h
  · exact Frames.intro (R := fun s t => s.sameArray { t with ports := s.ports }) rfl (localInputPresent_frame s) t h
  · rcases h with ⟨c, hc, h⟩ | ⟨v, h⟩ | ⟨d, b, h⟩ | ⟨d, b, h⟩ | ⟨d, g, h⟩ | ⟨d, g, h⟩ | ⟨v, h⟩ | ⟨c, b, h⟩ | ⟨v, h⟩ |
      ⟨m, a, h⟩ | ⟨r, h⟩ | ⟨u, h⟩ | ⟨b, h⟩ | ⟨k, h⟩ | ⟨k, h⟩ | ⟨b, h⟩ | ⟨b, h⟩ | ⟨a, h⟩ | ⟨k, h⟩ | ⟨o, d, h⟩ | ⟨o, h⟩
    · exact plainSystemCommand_sameArray s c hc t h
    · exact Frames.intro rfl (gatingModeWrite_sameArray v s) t h
    · exact Frames.intro rfl (idleClockStop_sameArray d.val b s) t h
    · exact Frames.intro rfl (clockWake_sameArray d.val b s) t h
    · exact Frames.intro rfl (s.gateCmd_sameArray d.toNat g.toNat true) t h
    · exact Frames.intro rfl (s.gateCmd_sameArray d.toNat g.toNat false) t h
    · exact Frames.intro rfl (fmeterStart_sameArray v s) t h
    · exact Frames.intro rfl (fmeterDone_sameArray c b s) t h
    · exact Frames.intro rfl (pwrLimitWrite_sameArray v s) t h
    · exact Frames.intro rfl (railPoll_sameArray m a s) t h
    · exact Frames.intro rfl (avsTelemetry_sameArray r.val s) t h
    · exact Frames.intro rfl (vddCoreAdjust_sameArray u s) t h
    · exact Frames.intro rfl (referenceLoss_sameArray b s) t h
    · exact Frames.intro rfl (State.atBlock_sameArray (consume_sameArray k.val)) t h
    · exact Frames.intro rfl (State.atBlock_sameArray (slotWord0Read_sameArray k.val)) t h
    · exact Frames.intro rfl (fenceOp_sameArray (.add b.toNat) s) t h
    · exact Frames.intro rfl (fenceOp_sameArray (.remove b.toNat) s) t h
    · exact Frames.intro rfl (regRead_sameArray a s) t h
    · exact Frames.intro rfl (bootBegin_sameArray k.toNat s) t h
    · exact Frames.intro rfl (bootData_sameArray o d s) t h
    · exact Frames.intro rfl (jtagInstruction_sameArray o s) t h

end Sys2Proof.Machine
end

section
/-! The frame of the commands of a compute unit. -/
namespace Sys2Proof.Machine

/-! ## Messages leave the command block alone -/

theorem State.queueAnnounce_cmd (s : State) (n : Nat) : (s.queueAnnounce n).cmd = s.cmd := by
  unfold State.queueAnnounce
  split <;> rfl

theorem State.rekeyIfDue_cmd (s : State) (n : Nat) : (s.rekeyIfDue n).cmd = s.cmd := by
  unfold State.rekeyIfDue
  split
  · exact State.queueAnnounce_cmd _ n
  · rfl

theorem State.startOn_cmd (s : State) (n : Nat) (t : Trans) (deficit : List Nat) : (s.startOn n t deficit).cmd = s.cmd := by
  unfold State.startOn
  exact State.rekeyIfDue_cmd _ n

theorem pump_cmd (n fuel : Nat) (s : State) : (pump n fuel s).cmd = s.cmd := by
  induction fuel generalizing s with
  | zero => rfl
  | succ fuel ih =>
    unfold pump
    dsimp only
    split
    · exact (ih _).trans (s.startOn_cmd n _ _)
    · split
      · exact (ih _).trans (s.startOn_cmd n _ _)
      · rfl

theorem State.put_cmd (s : State) (n : Nat) (t : Trans) : (s.put n t).cmd = s.cmd := pump_cmd _ _ _

theorem State.trySend_cmd (s : State) (t : Trans) : (s.trySend t).1.cmd = s.cmd := by
  unfold State.trySend
  split
  · rfl
  · split
    · exact s.put_cmd _ _
    · rfl

theorem State.sendQuiet_cmd (s : State) (t : Trans) : (s.sendQuiet t).cmd = s.cmd := by
  have hsend := s.trySend_cmd t
  unfold State.sendQuiet
  split
  next u heq => rw [heq] at hsend; exact hsend
  next u c heq => rw [heq] at hsend; exact hsend

theorem State.sendNorm_cmd (s : State) (r : NormRec) : (s.sendNorm r).cmd = s.cmd := by
  unfold State.sendNorm
  refine foldl_proj State.cmd _ (fun s e => ?_) _ s
  have hsend := fun t : Trans => s.trySend_cmd t
  dsimp only
  split <;> exact hsend _

theorem State.sendNorm_lxg (s : State) (r : NormRec) : (s.sendNorm r).lxg = s.lxg := by
  unfold State.sendNorm
  refine foldl_proj State.lxg _ (fun s e => ?_) _ s
  have hsend := fun t : Trans => (s.trySend_reports t).lxg
  dsimp only
  split <;> exact hsend _

/-! ## Orders only go, requests are only marked -/

/-- No order is new, and of the links' table only requests in flight have changed. -/
structure Withdraws (s t : State) : Prop where
  held : ∀ h ∈ t.cmd.held, h ∈ s.cmd.held
  lxg : { t.lxg with reqs := s.lxg.reqs } = s.lxg

theorem Withdraws.refl (s : State) : Withdraws s s := ⟨fun _ h => h, rfl⟩

theorem Withdraws.trans {r s t : State} (h : Withdraws r s) (k : Withdraws s t) : Withdraws r t := by
  refine ⟨fun x hx => h.held x (k.held x hx), ?_⟩
  have hk := congrArg (fun x : Lxg => { x with reqs := r.lxg.reqs }) k.lxg
  exact hk.trans h.lxg

theorem Withdraws.of_same {s t : State} (hcmd : t.cmd.held = s.cmd.held) (hlxg : t.lxg = s.lxg) : Withdraws s t :=
  ⟨fun x hx => by rwa [hcmd] at hx, by rw [hlxg]⟩

theorem Withdraws.foldl {α : Type} (f : State → α → State) (h : ∀ s a, Withdraws s (f s a)) (l : List α) (s : State) :
    Withdraws s (l.foldl f s) := by
  induction l generalizing s with
  | nil => exact .refl s
  | cons a l ih => exact (h s a).trans (ih _)

theorem State.sendCpl_held (s : State) (a : Arrival) (c : Cpl) : (s.sendCpl a c).cmd.held = s.cmd.held := by
  cases a with
  | trans rx => exact congrArg Cmd.held (s.sendQuiet_cmd _)
  | own =>
    rw [State.sendCpl]
    dsimp only
    split <;> rfl
  | _ => rfl

theorem State.finish_held (s : State) (w : CmdWord) (a : Arrival) (r : Reply) : (s.finish w a r).cmd.held = s.cmd.held := by
  unfold State.finish
  dsimp only
  rw [State.sendCpl_held]
  split <;> rfl

theorem State.missRecord_cmd (s : State) (h : Held) : (s.missRecord h).cmd = s.cmd := by
  unfold State.missRecord
  split <;> rfl

theorem State.complete_withdraws (s : State) (id : Nat) (r : Reply) : Withdraws s (s.complete id r) := by
  refine ⟨?_, by rw [(s.complete_reports id r).lxg]⟩
  unfold State.complete
  split
  · exact fun x hx => hx
  · rename_i h _
    intro x hx
    rw [State.finish_held, State.missRecord_cmd] at hx
    exact (List.mem_filter.mp hx).1

theorem State.contain_withdraws (s : State) : Withdraws s s.contain := by
  have hcancel : Withdraws s s.cancelClass0 := by
    have hset : Withdraws s { s with adj := { s.adj with nextStart := none } } := .of_same rfl rfl
    exact hset.trans (Withdraws.foldl _ (fun s (h : Held) => s.complete_withdraws h.id _) _ _)
  have hnote : ∀ (u : State) (r : Rival), Withdraws u (u.takeFree.2.noteOrder none r) := fun u r => .of_same rfl rfl
  exact hcancel.trans (hnote _ _)

theorem State.sendFail_withdraws (s : State) : Withdraws s s.sendFail := by
  have hsend : ∀ (u : State) (r : NormRec), Withdraws u (u.sendNorm r) := fun u r =>
    .of_same (congrArg Cmd.held (u.sendNorm_cmd r)) (u.sendNorm_lxg r)
  have hadj : ∀ a : Adj, Withdraws s { s with adj := a } := fun a => .of_same rfl rfl
  unfold State.sendFail
  dsimp only
  repeat' split
  · exact .refl s
  all_goals exact (hadj _).trans (hsend _ _)

theorem State.stepFail_withdraws (s : State) : Withdraws s s.stepFail := by
  have hmark : ∀ (u : State) (f : Flt) (rs : List Req), Withdraws u { u with flt := f, lxg := { u.lxg with reqs := rs } } :=
    fun u f rs => ⟨fun _ h => h, rfl⟩
  unfold State.stepFail State.enterFailed
  split
  · dsimp only
    split
    · exact s.sendFail_withdraws.trans (hmark _ _ _)
    · exact hmark _ _ _
  · exact .refl s

theorem State.raise_withdraws (s : State) {c : FClass} (hc : c ≠ .fatal) (code : Code) (kind inst : Nat) (d : W64) :
    Withdraws s (s.raise c code kind inst d) := by
  have hlog : Withdraws s (s.logFault c code kind inst d) := .of_same rfl rfl
  have hadj : ∀ (u : State) (a : Adj), Withdraws u { u with adj := a } := fun u a => .of_same rfl rfl
  cases c with
  | corr => exact hlog
  | stat => exact hlog
  | cont => exact (hlog.trans (hadj _ _)).trans (State.stepFail_withdraws _)
  | fatal => exact absurd rfl hc

end Sys2Proof.Machine
end

section
/-! What each operation of a compute unit leaves alone. -/
namespace Sys2Proof.Machine

/-! ## The system stands -/

theorem State.sameSystem.refl (s : State) : s.sameSystem s := ⟨rfl, rfl, rfl, rfl, rfl, rfl, rfl, rfl, rfl, rfl⟩

theorem State.sameSystem.trans {r s t : State} (h : r.sameSystem s) (k : s.sameSystem t) : r.sameSystem t := by
  obtain ⟨h1, h2, h3, h4, h5, h6, h7, h8, h9, h10⟩ := h
  obtain ⟨k1, k2, k3, k4, k5, k6, k7, k8, k9, k10⟩ := k
  exact ⟨k1.trans h1, k2.trans h2, k3.trans h3, k4.trans h4, k5.trans h5, k6.trans h6, k7.trans h7, k8.trans h8,
    k9.trans h9, k10.trans h10⟩

theorem Contained.sameSystem {s t : State} (h : Contained s t) : s.sameSystem t :=
  ⟨h.cfg, h.img, h.dram, h.mon, h.dtm, h.clk, h.pwr, h.sec, h.nvm, h.smb⟩

/-- Messages, orders, records, free values and the step's own file may have changed, and no unit, table or register. -/
structure Aside (s t : State) : Prop where
  system : s.sameSystem t
  cus : t.cus = s.cus
  mus : t.mus = s.mus
  sws : t.sws = s.sws
  plats : t.plats = s.plats
  bmks : t.bmks = s.bmks
  aus : t.aus = s.aus

theorem Aside.trans {r s t : State} (h : Aside r s) (k : Aside s t) : Aside r t :=
  ⟨h.system.trans k.system, k.cus.trans h.cus, k.mus.trans h.mus, k.sws.trans h.sws, k.plats.trans h.plats,
    k.bmks.trans h.bmks, k.aus.trans h.aus⟩

theorem Contained.aside {s t : State} (h : Contained s t) : Aside s t :=
  ⟨h.sameSystem, h.cus, h.mus, h.sws, h.plats, h.bmks, h.aus⟩

/-- Containment reports to the orders it cancels and draws a free value. -/
theorem State.contain_aside (s : State) : Aside s s.contain := by
  have hset : Contained s { s with adj := { s.adj with nextStart := none } } := rfl
  have hnote : ∀ (u : State) (r : Rival), Aside u (u.takeFree.2.noteOrder none r) := fun u r =>
    ⟨.refl u, rfl, rfl, rfl, rfl, rfl, rfl⟩
  exact (hset.trans s.cancelClass0_reports.contained).aside.trans (hnote _ _)

theorem State.raise_aside (s : State) {c : FClass} (hc : c ≠ .fatal) (code : Code) (kind inst : Nat) (d : W64) :
    Aside s (s.raise c code kind inst d) := by
  cases c with
  | corr => exact (s.raise_corr_reports code kind inst d).contained.aside
  | stat => exact (s.raise_stat_reports code kind inst d).contained.aside
  | cont => exact (s.raise_cont_contained code kind inst d).aside
  | fatal => exact absurd rfl hc

/-! ## A compute unit and its own switch -/

/-- Of the units only CU n of plat p and the input queues of its switch may have changed; no order is new. -/
structure CuFrame (p n : Nat) (s t : State) : Prop where
  system : s.sameSystem t
  mus : t.mus = s.mus
  plats : t.plats = s.plats
  bmks : t.bmks = s.bmks
  aus : t.aus = s.aus
  withdraws : Withdraws s t
  cus : ∀ q m, unitKey q m ≠ unitKey p n → t.cu q m = s.cu q m
  sws : ∀ q x, siteKey q x ≠ siteKey p (cuSite n) → t.sw q x = s.sw q x
  own : { t.sw p (cuSite n) with ins := (s.sw p (cuSite n)).ins } = s.sw p (cuSite n)

section
variable {p n : Nat} {r s t : State}

theorem CuFrame.ofAside (h : Aside s t) (k : Withdraws s t) : CuFrame p n s t where
  system := h.system
  mus := h.mus
  plats := h.plats
  bmks := h.bmks
  aus := h.aus
  withdraws := k
  cus q m _ := by rw [State.cu, h.cus, ← State.cu]
  sws q x _ := by rw [State.sw, h.sws, ← State.sw]
  own := by rw [State.sw, h.sws, ← State.sw]

theorem CuFrame.refl (s : State) : CuFrame p n s s :=
  .ofAside ⟨.refl s, rfl, rfl, rfl, rfl, rfl, rfl⟩ (.refl s)

theorem CuFrame.trans (h : CuFrame p n r s) (k : CuFrame p n s t) : CuFrame p n r t where
  system := h.system.trans k.system
  mus := k.mus.trans h.mus
  plats := k.plats.trans h.plats
  bmks := k.bmks.trans h.bmks
  aus := k.aus.trans h.aus
  withdraws := h.withdraws.trans k.withdraws
  cus q m hne := (k.cus q m hne).trans (h.cus q m hne)
  sws q x hne := (k.sws q x hne).trans (h.sws q x hne)
  own := (congrArg (fun w : Sw => { w with ins := (r.sw p (cuSite n)).ins }) k.own).trans h.own

theorem CuFrame.foldl {α : Type} (f : State → α → State) (h : ∀ s a, CuFrame p n s (f s a)) (l : List α) (s : State) :
    CuFrame p n s (l.foldl f s) := by
  induction l generalizing s with
  | nil => exact .refl s
  | cons a l ih => exact (h s a).trans (ih _)

/-- A fold that gathers values beside the state. -/
theorem CuFrame.foldl_snd {α β : Type} (f : α × State → β → α × State) (h : ∀ x b, CuFrame p n x.2 (f x b).2) (l : List β)
    (x : α × State) : CuFrame p n x.2 (l.foldl f x).2 := by
  induction l generalizing x with
  | nil => exact .refl x.2
  | cons b l ih => exact (h x b).trans (ih _)

end

section
variable (s : State) (p n : Nat)

theorem State.setCu_cuFrame (c : Cu) : CuFrame p n s (s.setCu p n c) where
  system := .refl s
  mus := rfl
  plats := rfl
  bmks := rfl
  aus := rfl
  withdraws := .of_same rfl rfl
  cus q m hne := s.cu_setCu_ne p n q m c hne
  sws _ _ _ := rfl
  own := rfl

/-- A value enters an input queue of the unit's own switch. -/
theorem State.pushLink_cuFrame (net chan : Nat) (t : Tok) : CuFrame p n s (s.pushLink p (cuSite n) net chan t) where
  system := .refl s
  mus := rfl
  plats := rfl
  bmks := rfl
  aus := rfl
  withdraws := .of_same rfl rfl
  cus _ _ _ := rfl
  sws q x hne := s.sw_setSw_ne p (cuSite n) q x _ hne
  own := by
    unfold State.pushLink
    dsimp only
    rw [State.sw_setSw]
    rfl

theorem State.withFree_cuFrame (k : Nat) : CuFrame p n s { s with free := k } :=
  .ofAside ⟨.refl s, rfl, rfl, rfl, rfl, rfl, rfl⟩ (.of_same rfl rfl)

theorem State.contain_cuFrame : CuFrame p n s s.contain := .ofAside s.contain_aside s.contain_withdraws

theorem State.raiseCu_cuFrame {c : FClass} (hc : c ≠ .fatal) (code : Code) : CuFrame p n s (s.raiseCu c code p n) :=
  .ofAside (s.raise_aside hc _ _ _ _) (s.raise_withdraws hc _ _ _ _)

theorem State.cuFaulted_cuFrame (code : Code) (bit : Nat) (d : Option TileDesc) :
    CuFrame p n s (s.cuFaulted p n code bit d) := by
  unfold State.cuFaulted
  exact ((s.contain_cuFrame p n).trans (State.setCu_cuFrame _ p n _)).trans
    (State.raiseCu_cuFrame _ p n (by decide) code)

theorem State.freeBytes_cuFrame (k : Nat) : CuFrame p n s (s.freeBytes k).2 := by
  induction k generalizing s with
  | zero => exact .refl s
  | succ k ih => exact (s.withFree_cuFrame p n _).trans (ih _)

theorem State.packBlock_cuFrame (f : Fmt) (g nb : Nat) (xs : List VLane) : CuFrame p n s (s.packBlock f g nb xs).2 := by
  unfold State.packBlock
  split
  · exact .refl s
  · dsimp only
    generalize (if f == .bf16 then 64 else 32) = per
    split
    · exact .refl s
    · exact s.freeBytes_cuFrame p n 16

theorem State.packBlocks_cuFrame (f : Fmt) (g nb : Nat) (bs : List (List VLane)) :
    CuFrame p n s (bs.foldl (fun (acc : List VIn × State) b =>
      (acc.1 ++ (acc.2.packBlock f g nb b).1, (acc.2.packBlock f g nb b).2)) ([], s)).2 :=
  CuFrame.foldl_snd (fun (acc : List VIn × State) b =>
    (acc.1 ++ (acc.2.packBlock f g nb b).1, (acc.2.packBlock f g nb b).2))
    (fun x b => x.2.packBlock_cuFrame p n f g nb b) bs ([], s)

theorem State.packRow_cuFrame (c : Cu) (row : List VLane) : CuFrame p n s (s.packRow c row).2 :=
  s.packBlocks_cuFrame p n c.fmtOut c.gOut c.nbOut _

theorem State.cuEmitV_cuFrame (ts : List VIn) : CuFrame p n s (s.cuEmitV p n ts) :=
  CuFrame.foldl _ (fun s _ => s.pushLink_cuFrame p n _ _ _) ts s

theorem State.cuEmitS_cuFrame (t : SIn) : CuFrame p n s (s.cuEmitS p n t) := s.pushLink_cuFrame p n _ _ _

/-! ## The vector pipeline -/

theorem State.owedLanes_cuFrame (got : Nat) (last : Bool) : CuFrame p n s (s.owedLanes p n got last).2 := by
  unfold State.owedLanes
  dsimp only
  split
  · exact s.withFree_cuFrame p n _
  · exact .refl s

theorem State.stage6_cuFrame (xs : List VLane) (last : Bool) : CuFrame p n s (s.stage6 p n xs last) := by
  unfold State.stage6
  dsimp only
  split
  · exact .refl s
  · refine CuFrame.trans ?_ (State.cuEmitV_cuFrame _ p n _)
    refine CuFrame.trans ?_ (State.setCu_cuFrame _ p n _)
    refine CuFrame.trans ?_ (State.packBlocks_cuFrame _ p n _ _ _ _)
    exact (s.owedLanes_cuFrame p n _ _).trans (State.setCu_cuFrame _ p n _)

theorem State.rowEnd_cuFrame : CuFrame p n s (s.rowEnd p n) := by
  have hemit : ∀ t, CuFrame p n s (if (s.cu p n).s5Emit = 0 || (s.cu p n).s5Op = 0 then s else s.cuEmitS p n t) := fun t => by
    split
    · exact .refl s
    · exact s.cuEmitS_cuFrame p n t
  unfold State.rowEnd
  dsimp only
  split
  · exact ((hemit _).trans (State.setCu_cuFrame _ p n _)).trans (State.cuFaulted_cuFrame _ p n _ _ _)
  · exact (hemit _).trans (State.setCu_cuFrame _ p n _)

theorem State.beatRun_cuFrame (b : Beat) (ys : List VLane) : CuFrame p n s (s.beatRun p n b ys) := by
  have hlanes : ∀ (c : Cu) (xs : List VLane), CuFrame p n s ((s.setCu p n c).stage6 p n xs b.last) := fun c xs =>
    (s.setCu_cuFrame p n c).trans (State.stage6_cuFrame _ p n xs b.last)
  unfold State.beatRun
  dsimp only
  split
  · exact (hlanes _ _).trans (State.rowEnd_cuFrame _ p n)
  · exact hlanes _ _

theorem State.vecAdvance_cuFrame (fuel : Nat) : CuFrame p n s (s.vecAdvance p n fuel) := by
  induction fuel generalizing s with
  | zero => exact .refl s
  | succ fuel ih =>
    have hbeat : ∀ (u : State) (c : Cu) (b : Beat) (ys : List VLane),
        CuFrame p n u (((u.setCu p n c).beatRun p n b ys).vecAdvance p n fuel) := fun u c b ys =>
      ((u.setCu_cuFrame p n c).trans (State.beatRun_cuFrame _ p n b ys)).trans (ih _)
    unfold State.vecAdvance
    dsimp only
    split
    · exact .refl s
    · split
      · exact .refl s
      · split
        · split
          · exact .refl s
          · split
            · exact (s.cuFaulted_cuFrame p n _ _ _).trans (hbeat _ _ _ _)
            · exact hbeat _ _ _ _
        · exact hbeat _ _ _ _

theorem State.vecFaulted_cuFrame : CuFrame p n s (s.vecFaulted p n) := by
  unfold State.vecFaulted
  exact (s.cuFaulted_cuFrame p n _ _ _).trans (State.vecAdvance_cuFrame _ p n _)

end

/-! ## The commands -/

section
variable (p n : Nat) (s : State)

theorem kStep_cuFrame (scaleSeen : Bool) : CuFrame p n s (kStep p n scaleSeen s) := by
  unfold kStep
  dsimp only
  split
  · exact .refl s
  · split
    · exact s.setCu_cuFrame p n _
    · split
      · exact .refl s
      · split
        · split
          · exact (s.setCu_cuFrame p n _).trans (State.cuFaulted_cuFrame _ p n _ _ _)
          · exact s.setCu_cuFrame p n _
        · exact s.setCu_cuFrame p n _

theorem tileOperationStart_cuFrame : CuFrame p n s (tileOperationStart p n s) := by
  have hfault : ∀ d, CuFrame p n s ((s.setCu p n (s.cu p n).takeDesc).cuFaulted p n Codes.tileState 3 d) := fun d =>
    (s.setCu_cuFrame p n _).trans (State.cuFaulted_cuFrame _ p n _ _ _)
  unfold tileOperationStart
  dsimp only
  split
  · exact .refl s
  · split
    · exact .refl s
    · split
      · exact hfault _
      · split
        · exact s.setCu_cuFrame p n _
        · exact s.setCu_cuFrame p n _
        · exact .refl s
        · exact hfault _

theorem checksumComparison_cuFrame (t : Nat) : CuFrame p n s (checksumComparison p n t s) := by
  unfold checksumComparison
  dsimp only
  split
  · exact .refl s
  · split
    · exact s.setCu_cuFrame p n _
    · exact (s.setCu_cuFrame p n _).trans (State.raiseCu_cuFrame _ p n (by decide) _)

theorem retireSetReadout_cuFrame : CuFrame p n s (retireSetReadout p n s) := by
  unfold retireSetReadout
  dsimp only
  split
  · exact .refl s
  · split
    · exact .refl s
    · split
      · exact .refl s
      · split
        · exact s.setCu_cuFrame p n _
        · refine (s.setCu_cuFrame p n _).trans (CuFrame.foldl _ (fun u i => ?_) _ _)
          exact (u.packRow_cuFrame p n _ _).trans (State.cuEmitV_cuFrame _ p n _)

theorem readoutComplete_cuFrame : CuFrame p n s (readoutComplete p n s) := by
  unfold readoutComplete
  dsimp only
  split
  · split
    · exact s.setCu_cuFrame p n _
    · exact .refl s
  · exact .refl s

theorem scrubWord_cuFrame (t : Nat) (e : EccKind) : CuFrame p n s (s.scrubWord p n t e) := by
  unfold State.scrubWord
  dsimp only
  split
  · exact .refl s
  · split
    · exact .refl s
    · exact (s.setCu_cuFrame p n _).trans (State.raiseCu_cuFrame _ p n (by decide) _)
    · exact (s.setCu_cuFrame p n _).trans (State.raiseCu_cuFrame _ p n (by decide) _)

theorem accumulatorScrub_cuFrame (errs : List (Nat × EccKind)) : CuFrame p n s (accumulatorScrub p n errs s) := by
  unfold accumulatorScrub
  split
  · exact .refl s
  · exact CuFrame.foldl _ (fun u e => scrubWord_cuFrame p n u e.1 e.2) errs s

/-- A row that has just been decoded goes through the pipeline. -/
theorem vecAdvanced_cuFrame (c : Cu) (fuel : Nat) : CuFrame p n s ((s.setCu p n c).vecAdvance p n fuel) :=
  (s.setCu_cuFrame p n c).trans (State.vecAdvance_cuFrame _ p n fuel)

/-- A row of a wrong shape faults the unit. -/
theorem vecRefused_cuFrame (c : Cu) : CuFrame p n s ((s.setCu p n c).vecFaulted p n) :=
  (s.setCu_cuFrame p n c).trans (State.vecFaulted_cuFrame _ p n)

theorem rowStreamToken_cuFrame (streamY : Bool) : CuFrame p n s (rowStreamToken p n streamY s) := by
  unfold rowStreamToken
  dsimp only
  split
  · exact .refl s
  · split
    · exact s.setCu_cuFrame p n _
    · split
      · split
        · exact s.setCu_cuFrame p n _
        · split
          · exact s.setCu_cuFrame p n _
          · split
            · exact vecRefused_cuFrame p n s _
            · exact vecAdvanced_cuFrame p n s _ _
      · split
        · exact s.setCu_cuFrame p n _
        · split
          · split
            · exact vecAdvanced_cuFrame p n s _ _
            · exact vecRefused_cuFrame p n s _
          · exact vecAdvanced_cuFrame p n s _ _

theorem scalarInputArrival_cuFrame : CuFrame p n s (scalarInputArrival p n s) := by
  unfold scalarInputArrival
  dsimp only
  split
  · exact .refl s
  · split
    · exact .refl s
    · split
      · exact s.setCu_cuFrame p n _
      · split
        · exact .refl s
        · split
          · exact vecRefused_cuFrame p n s _
          · exact vecAdvanced_cuFrame p n s _ _

/-- The commands without further operands. -/
theorem plainCuCommand_cuFrame (p : Fin 4) (n : Fin 256) : ∀ c ∈ [Instr.kStep p n false, .kStep p n true,
    .tileOperationStart p n, .retireSetReadout p n, .readoutComplete p n, .rowStreamToken p n false,
    .rowStreamToken p n true, .scalarInputArrival p n], Frames (CuFrame p n) s c := by
  simp only [List.forall_mem_cons]
  exact ⟨.intro rfl (kStep_cuFrame p n s false), .intro rfl (kStep_cuFrame p n s true),
    .intro rfl (tileOperationStart_cuFrame p n s), .intro rfl (retireSetReadout_cuFrame p n s),
    .intro rfl (readoutComplete_cuFrame p n s), .intro rfl (rowStreamToken_cuFrame p n s false),
    .intro rfl (rowStreamToken_cuFrame p n s true), .intro rfl (scalarInputArrival_cuFrame p n s), List.forall_mem_nil _⟩

end

theorem cuSite_lt (n : Fin 256) : cuSite n < 512 := by
  have := n.isLt
  unfold cuSite
  split <;> omega

/-- What the frame of a unit says of all units and switches of the array. -/
theorem CuFrame.others {p : Fin 4} {n : Fin 256} {s t : State} (h : CuFrame p n s t) :
    (∀ (q : Fin 4) (m : Fin 256), (q, m) ≠ (p, n) → t.cu q m = s.cu q m) ∧
      ∀ (q : Fin 4) (x : Fin 512), (q.val, x.val) ≠ (p.val, cuSite n) → t.sw q x = s.sw q x := by
  refine ⟨fun q m hne => h.cus q m fun hkey => hne ?_, fun q x hne => h.sws q x fun hkey => hne ?_⟩
  · obtain ⟨rfl, rfl⟩ := unitKey_inj.mp hkey
    rfl
  · obtain ⟨hq, hx⟩ := siteKey_inj (m := ⟨cuSite n, cuSite_lt n⟩).mp hkey
    rw [hq, hx]

/-- Settles O57: each command stays within its unit's frame. -/
theorem computeUnitCommandsLeaveTheRest : Obligations.ComputeUnitCommandsLeaveTheRest := by
  intro s t p n h
  have hframe : CuFrame p n s t := by
    rcases h with ⟨c, hc, h⟩ | ⟨k, h⟩ | ⟨es, h⟩
    · exact plainCuCommand_cuFrame s p n c hc t h
    · exact Frames.intro rfl (checksumComparison_cuFrame p n s k.val) t h
    · exact Frames.intro rfl (accumulatorScrub_cuFrame p n s (es.map (fun e => (e.1.val, e.2.2)))) t h
  obtain ⟨hcus, hsws⟩ := hframe.others
  exact ⟨hframe.system, hframe.mus, hframe.plats, hframe.bmks, hframe.aus, hframe.withdraws.held, hframe.withdraws.lxg,
    hcus, hsws, hframe.own⟩

end Sys2Proof.Machine
end

section
/-! What each operation of a memory unit leaves alone. -/
namespace Sys2Proof.Machine

/-! ## A memory unit -/

/-- Of the compute units none and of the memory units only MU n of plat p may have changed; the system stands. -/
structure MuFrame (p n : Nat) (s t : State) : Prop where
  system : s.sameSystem t
  cus : t.cus = s.cus
  mus : ∀ q m, unitKey q m ≠ unitKey p n → t.mu q m = s.mu q m

section
variable {p n : Nat} {r s t : State}

theorem MuFrame.ofSame (h : s.sameSystem t) (hcus : t.cus = s.cus) (hmus : t.mus = s.mus) : MuFrame p n s t :=
  ⟨h, hcus, fun q m _ => by rw [State.mu, hmus, ← State.mu]⟩

theorem MuFrame.ofAside (h : Aside s t) : MuFrame p n s t := .ofSame h.system h.cus h.mus

theorem MuFrame.refl (s : State) : MuFrame p n s s := .ofSame (.refl s) rfl rfl

theorem MuFrame.trans (h : MuFrame p n r s) (k : MuFrame p n s t) : MuFrame p n r t :=
  ⟨h.system.trans k.system, k.cus.trans h.cus, fun q m hne => (k.mus q m hne).trans (h.mus q m hne)⟩

theorem MuFrame.foldl {α : Type} (f : State → α → State) (h : ∀ s a, MuFrame p n s (f s a)) (l : List α) (s : State) :
    MuFrame p n s (l.foldl f s) := by
  induction l generalizing s with
  | nil => exact .refl s
  | cons a l ih => exact (h s a).trans (ih _)

/-- A fold that gathers values beside the state. -/
theorem MuFrame.foldl_snd {α β : Type} (f : α × State → β → α × State) (h : ∀ x b, MuFrame p n x.2 (f x b).2) (l : List β)
    (x : α × State) : MuFrame p n x.2 (l.foldl f x).2 := by
  induction l generalizing x with
  | nil => exact .refl x.2
  | cons b l ih => exact (h x b).trans (ih _)

end

section
variable (s : State) (p n : Nat)

theorem State.setMu_muFrame (m : Mu) : MuFrame p n s (s.setMu p n m) :=
  ⟨.refl s, rfl, fun q k hne => s.mu_setMu_ne p n q k m hne⟩

theorem State.pushLink_muFrame (q site net chan : Nat) (t : Tok) : MuFrame p n s (s.pushLink q site net chan t) :=
  .ofSame (.refl s) rfl rfl

theorem State.withFree_muFrame (k : Nat) : MuFrame p n s { s with free := k } := .ofSame (.refl s) rfl rfl

theorem State.setAu_muFrame (g : Nat) (x : Au) : MuFrame p n s (s.setAu g x) := .ofSame (.refl s) rfl rfl

theorem State.raise_muFrame {c : FClass} (hc : c ≠ .fatal) (code : Code) (kind inst : Nat) (d : W64) :
    MuFrame p n s (s.raise c code kind inst d) := .ofAside (s.raise_aside hc code kind inst d)

/-- The unit changes and a fault is recorded. -/
theorem State.setMuRaise_muFrame (m : Mu) {c : FClass} (hc : c ≠ .fatal) (code : Code) (kind inst : Nat) (d : W64) :
    MuFrame p n s ((s.setMu p n m).raise c code kind inst d) :=
  (s.setMu_muFrame p n m).trans (State.raise_muFrame _ p n hc code kind inst d)

theorem State.raiseMu_muFrame (code : Code) (r : Nat) (bit : Option Nat) : MuFrame p n s (s.raiseMu code p n r bit) := by
  unfold State.raiseMu
  exact s.setMuRaise_muFrame p n _ (c := .cont) (by decide) _ _ _ _

theorem State.freeBytes_muFrame (k : Nat) : MuFrame p n s (s.freeBytes k).2 := by
  induction k generalizing s with
  | zero => exact .refl s
  | succ k ih => exact (s.withFree_muFrame p n _).trans (ih _)

/-! ## Benchmarks and requests touch no unit -/

theorem State.send_muFrame (t : Trans) : MuFrame p n s (s.send t) := by
  have hsend : MuFrame p n s (s.trySend t).1 := .ofAside (s.trySend_reports t).contained.aside
  have hdrop : ∀ (u : State) (c : Code), MuFrame p n u ((u.dropReq t).emit (.code c)) := fun u c =>
    .ofSame (.refl u) rfl rfl
  unfold State.send State.lost
  split
  next u heq => rw [heq] at hsend; exact hsend
  next u c heq =>
    rw [heq] at hsend
    exact (hsend.trans (hdrop u c)).trans (State.raise_muFrame _ p n (by split <;> decide) _ _ _ _)

theorem State.request_muFrame (dst : W16) (array : Bool) (kind : ReqKind) (body : TBody) :
    MuFrame p n s (s.request dst array kind body) := by
  have hreq : ∀ x : Lxg, MuFrame p n s { s with lxg := x } := fun x => .ofSame (.refl s) rfl rfl
  exact (hreq _).trans (State.send_muFrame _ p n _)

theorem State.notify_muFrame (x : Notice) : MuFrame p n s (s.notify x) := by
  unfold State.notify
  split
  · exact s.send_muFrame p n _
  · split <;> exact .ofSame (.refl s) rfl rfl

theorem State.armedAction_muFrame (i : Nat) (b : Bmk) : MuFrame p n s (s.armedAction i b) := by
  unfold State.armedAction
  split
  · split
    · exact .refl s
    · exact s.pushLink_muFrame p n _ _ _ _ _
  · split
    · exact s.notify_muFrame p n _
    · exact .refl s

theorem State.releaseWaits_muFrame (i : Nat) : MuFrame p n s (s.releaseWaits i) := by
  have hplat : ∀ (q : Nat) (x : Plat), MuFrame p n s (s.setPlat q x) := fun q x => .ofSame (.refl s) rfl rfl
  unfold State.releaseWaits
  exact (hplat _ _).trans (MuFrame.foldl _ (fun u w => .ofAside (u.waitReply_reports _ _ _).contained.aside) _ _)

theorem State.bmkEval_muFrame (i : Nat) : MuFrame p n s (s.bmkEval i) := by
  have hset : ∀ b : Bmk, MuFrame p n s (s.setBmk i b) := fun b => .ofSame (.refl s) rfl rfl
  unfold State.bmkEval
  exact ((hset _).trans (MuFrame.foldl _ (fun u _ => u.armedAction_muFrame p n i _) _ _)).trans
    (State.releaseWaits_muFrame _ p n i)

theorem State.bmkAdd_muFrame (i : Nat) (v : W32) : MuFrame p n s (s.bmkAdd i v) := by
  have hcount : ∀ b : Bmk, MuFrame p n s ((s.countOp i).setBmk i b) := fun b => .ofSame (.refl s) rfl rfl
  unfold State.bmkAdd
  exact (hcount _).trans (State.bmkEval_muFrame _ p n i)

/-! ## Reading and writing the memory -/

/-- What a reader of a word or a tag raises is never fatal. -/
theorem readClass_ne_fatal (a b : Bool) : (if a then FClass.stat else if b then .cont else .corr) ≠ .fatal := by
  cases a <;> cases b <;> decide

theorem State.muWordRead_muFrame (rd : MuReader) (w : Nat) (e : EccKind) : MuFrame p n s (s.muWordRead p n rd w e) := by
  cases e with
  | clean => exact .refl s
  | ce => exact s.setMuRaise_muFrame p n _ (c := .corr) (by decide) _ _ _ _
  | ue => exact s.setMuRaise_muFrame p n _ (readClass_ne_fatal _ _) _ _ _ _

theorem State.muTagRead_muFrame (rd : MuReader) (k : Nat) (e : EccKind) : MuFrame p n s (s.muTagRead p n rd k e) := by
  cases e with
  | clean => exact .refl s
  | ce => exact s.setMuRaise_muFrame p n _ (c := .corr) (by decide) _ _ _ _
  | ue => exact s.setMuRaise_muFrame p n _ (readClass_ne_fatal _ _) _ _ _ _

theorem State.muCheck_muFrame (off len : Nat) (rd : MuReader) : MuFrame p n s (s.muCheck p n off len rd) := by
  unfold State.muCheck
  split
  · exact .refl s
  · refine MuFrame.foldl _ (fun u h => ?_) _ s
    split
    · exact u.muTagRead_muFrame p n rd _ _
    · exact u.muWordRead_muFrame p n rd _ _

theorem State.muRead_muFrame (off len : Nat) : MuFrame p n s (s.muRead p n off len).2.2 := s.muCheck_muFrame p n off len .plain

theorem State.muWrite_muFrame (off : Nat) (bs : List Byte) (poison : Bool) : MuFrame p n s (s.muWrite p n off bs poison) :=
  s.setMu_muFrame p n _

/-! ## Generators -/

theorem State.startWalk_muFrame (a : Nat) : MuFrame p n s (s.startWalk p n a) := s.setMu_muFrame p n _

theorem generatorStartEvent_muFrame : MuFrame p n s (generatorStartEvent p n s) := by
  unfold generatorStartEvent
  dsimp only
  split
  · exact .refl s
  · split
    · exact .refl s
    · refine (s.setMu_muFrame p n _).trans (MuFrame.foldl _ (fun u a => ?_) _ _)
      split
      · exact u.startWalk_muFrame p n a
      · exact u.setMu_muFrame p n _

theorem pendingWalkStart_muFrame (a : Nat) : MuFrame p n s (pendingWalkStart p n a s) := by
  unfold pendingWalkStart
  dsimp only
  split
  · exact (s.setMu_muFrame p n _).trans (State.startWalk_muFrame _ p n a)
  · exact .refl s

theorem State.agEmit_muFrame (chan : Nat) (ts : List VIn) : MuFrame p n s (s.agEmit p n chan ts) :=
  MuFrame.foldl _ (fun u _ => u.pushLink_muFrame p n _ _ _ _ _) ts s

theorem State.agAdvance_muFrame (a : Nat) (addr : Int) : MuFrame p n s (s.agAdvance p n a addr) := s.setMu_muFrame p n _

theorem State.agBounds_muFrame (a : Nat) : MuFrame p n s (s.agBounds p n a) := by
  unfold State.agBounds
  exact (s.setMu_muFrame p n _).trans (State.raiseMu_muFrame _ p n _ _ _)

/-- A line that its region does not hold stops the generator. -/
theorem State.lineChecked_muFrame (a : Nat) (ok : Bool) : MuFrame p n s (if ok then s else s.agBounds p n a) := by
  split
  · exact .refl s
  · exact s.agBounds_muFrame p n a

theorem State.freeToken_muFrame (last : Bool) : MuFrame p n s (s.freeToken last).2 := s.freeBytes_muFrame p n 16

theorem State.directRead_muFrame (a : Nat) (line : Int) : MuFrame p n s (s.directRead p n a line) := by
  have hsent : ∀ (u : State) (chan : Nat) (ts : List VIn), MuFrame p n u ((u.agEmit p n chan ts).agAdvance p n a line) :=
    fun u chan ts => (u.agEmit_muFrame p n chan ts).trans (State.agAdvance_muFrame _ p n a line)
  unfold State.directRead
  dsimp only
  split
  · exact .refl s
  · have hline := s.lineChecked_muFrame p n a (((s.mu p n).ag a).dead || ((s.mu p n).reg ((s.mu p n).ag a).region).holdsLine line true)
    generalize (if (((s.mu p n).ag a).dead || ((s.mu p n).reg ((s.mu p n).ag a).region).holdsLine line true) = true then s
      else s.agBounds p n a) = u at hline ⊢
    refine hline.trans ?_
    by_cases hdead : ((u.mu p n).ag a).dead = true
    · rw [if_pos hdead]
      exact (u.freeToken_muFrame p n _).trans (hsent _ _ _)
    · rw [if_neg hdead]
      dsimp only
      exact (u.muRead_muFrame p n _ _).trans (hsent _ _ _)

theorem State.directWrite_muFrame (a : Nat) (line : Int) : MuFrame p n s (s.directWrite p n a line) := by
  have hstored : ∀ (u : State) (off : Nat) (t : VIn),
      MuFrame p n u (if ((u.mu p n).ag a).dead then u else u.muWrite p n off t.bytes t.poison) := fun u off t => by
    split
    · exact .refl u
    · exact u.muWrite_muFrame p n _ _ _
  unfold State.directWrite
  dsimp only
  split
  · exact .refl s
  · refine MuFrame.trans ?_ (State.agAdvance_muFrame _ p n a line)
    refine MuFrame.trans ?_ (hstored _ _ _)
    exact (s.setMu_muFrame p n _).trans (State.lineChecked_muFrame _ p n a _)

theorem State.transposeRead_muFrame (a : Nat) (line : Int) : MuFrame p n s (s.transposeRead p n a line) := by
  have hsent : ∀ (u : State) (m : Mu) (full : Prop) [Decidable full] (chan : Nat) (ts : List VIn), MuFrame p n u
      ((if full then (u.setMu p n m).agEmit p n chan ts else u.setMu p n m).agAdvance p n a line) := fun u m full _ chan ts => by
    refine (u.setMu_muFrame p n m).trans (MuFrame.trans ?_ (State.agAdvance_muFrame _ p n a line))
    split
    · exact State.agEmit_muFrame _ p n chan ts
    · exact .refl _
  unfold State.transposeRead
  dsimp only
  split
  · exact .refl s
  · have hline := s.lineChecked_muFrame p n a (((s.mu p n).ag a).dead || ((s.mu p n).reg ((s.mu p n).ag a).region).holdsLine line false)
    generalize (if (((s.mu p n).ag a).dead || ((s.mu p n).reg ((s.mu p n).ag a).region).holdsLine line false) = true then s
      else s.agBounds p n a) = u at hline ⊢
    refine hline.trans ?_
    by_cases hdead : ((u.mu p n).ag a).dead = true
    · rw [if_pos hdead]
      dsimp only
      exact (u.freeBytes_muFrame p n _).trans (hsent _ _ _ _ _)
    · rw [if_neg hdead]
      dsimp only
      exact (u.muRead_muFrame p n _ _).trans (hsent _ _ _ _ _)

theorem State.accumulateTake_muFrame (a : Nat) (line : Int) : MuFrame p n s (s.accumulateTake p n a line) := by
  have hmeets : ∀ (u : State) (dead bad : Bool) (r : Nat) (m : Mu), MuFrame p n u
      (if dead = true then u else if bad = true then u.raiseMu Codes.accumBounds p n r (some 10) else u.setMu p n m) :=
    fun u dead bad r m => by
      split
      · exact .refl u
      · split
        · exact u.raiseMu_muFrame p n _ _ _
        · exact u.setMu_muFrame p n _
  unfold State.accumulateTake
  dsimp only
  split
  · exact .refl s
  · refine MuFrame.trans ?_ (State.agAdvance_muFrame _ p n a line)
    refine MuFrame.trans ?_ (hmeets _ _ _ _ _)
    exact (s.setMu_muFrame p n _).trans (State.lineChecked_muFrame _ p n a _)

theorem generatorAddress_muFrame (a : Nat) : MuFrame p n s (generatorAddress p n a [] s) := by
  unfold generatorAddress
  dsimp only
  split
  · exact .refl s
  · split
    · exact .refl s
    · split
      · exact s.directRead_muFrame p n a _
      · exact s.directWrite_muFrame p n a _
      · exact s.transposeRead_muFrame p n a _
      · exact s.accumulateTake_muFrame p n a _
      · exact .refl s

/-! ## Accumulation -/

theorem State.segAdd_muFrame (r : RegSt) (x : Segment) : MuFrame p n s (s.segAdd p n r x) := by
  unfold State.segAdd
  refine MuFrame.foldl _ (fun u part => ?_) _ s
  dsimp only
  exact (u.muRead_muFrame p n _ _).trans (State.muWrite_muFrame _ p n _ _ _)

theorem State.holdRound_muFrame (g : Nat) : MuFrame p n s (s.holdRound g) :=
  (s.setAu_muFrame p n g _).trans (State.raise_muFrame _ p n (c := .cont) (by decide) _ _ _ _)

theorem State.roundCheck_muFrame (r : Nat) : MuFrame p n s (s.roundCheck p n r) := by
  have hdup : ∀ (u : State) (dup : Option Nat), MuFrame p n u (match dup with
      | some a => u.holdRound a
      | none => u) := fun u dup => by
    cases dup with
    | none => exact .refl u
    | some a => exact u.holdRound_muFrame p n a
  unfold State.roundCheck
  dsimp only
  split
  · split
    · exact ((s.setMu_muFrame p n _).trans (hdup _ _)).trans (State.bmkAdd_muFrame _ p n _ _)
    · exact (s.setMu_muFrame p n _).trans (hdup _ _)
  · exact .refl s

theorem State.segApply_muFrame (x : Segment) : MuFrame p n s (s.segApply p n x) := by
  unfold State.segApply
  exact ((s.segAdd_muFrame p n _ x).trans (State.setMu_muFrame _ p n _)).trans (State.roundCheck_muFrame _ p n _)

theorem State.freeRows_muFrame (r k : Nat) : MuFrame p n s (s.freeRows p n r k) := s.setMu_muFrame p n _

/-- A remote segment gives its rows back. -/
theorem State.freedIf_muFrame (b : Bool) (r k : Nat) : MuFrame p n s (if b then s.freeRows p n r k else s) := by
  split
  · exact s.freeRows_muFrame p n r k
  · exact .refl s

theorem State.parkSegment_muFrame (x : Segment) : MuFrame p n s (s.parkSegment p n x) := by
  unfold State.parkSegment
  refine MuFrame.trans ?_ (State.setMu_muFrame _ p n _)
  refine MuFrame.foldl _ (fun u row => ?_) _ s
  dsimp only
  exact (u.muWrite_muFrame p n _ _ _).trans (State.setMu_muFrame _ p n _)

theorem State.segAccept_muFrame (x : Segment) {t : State} (h : s.segAccept p n x = some t) : MuFrame p n s t := by
  unfold State.segAccept at h
  dsimp only at h
  split at h
  · cases h
    exact (s.freedIf_muFrame p n _ _ _).trans (State.raiseMu_muFrame _ p n _ _ _)
  · split at h
    · cases h
      exact (s.segApply_muFrame p n x).trans (State.freedIf_muFrame _ p n _ _ _)
    · split at h
      · cases h
      · cases h
        exact s.parkSegment_muFrame p n x

theorem accumulateSegment_muFrame : MuFrame p n s (accumulateSegment p n s) := by
  unfold accumulateSegment
  dsimp only
  split
  · exact .refl s
  · split
    · exact .refl s
    · split
      next t ht => exact (s.setMu_muFrame p n _).trans (State.segAccept_muFrame _ p n _ ht)
      next => exact .refl s

theorem State.unparkTokens_muFrame (x : Segment) : MuFrame p n s (s.unparkTokens p n x).2 := by
  unfold State.unparkTokens
  refine MuFrame.foldl_snd _ (fun acc i => ?_) _ ([], s)
  dsimp only
  exact State.muRead_muFrame acc.2 p n _ _

theorem parkedSegmentApply_muFrame (r : Nat) : MuFrame p n s (parkedSegmentApply p n r s) := by
  unfold parkedSegmentApply
  dsimp only
  split
  · exact .refl s
  · split
    · exact .refl s
    · refine MuFrame.trans ?_ (State.freedIf_muFrame _ p n _ _ _)
      refine MuFrame.trans ?_ (State.segApply_muFrame _ p n _)
      exact (s.setMu_muFrame p n _).trans (State.unparkTokens_muFrame _ p n _)

/-! ## Queues, row commands, credit and scrub -/

theorem queueTokenIn_muFrame (k : Nat) : MuFrame p n s (queueTokenIn p n k s) := by
  unfold queueTokenIn
  dsimp only
  split
  · split
    · exact .refl s
    · exact (s.setMu_muFrame p n _).trans (State.setMu_muFrame _ p n _)
  · exact .refl s

theorem State.fifoTake_muFrame (r : Nat) : MuFrame p n s (s.fifoTake p n r).2 :=
  (s.muRead_muFrame p n _ _).trans (State.setMu_muFrame _ p n _)

theorem queueTokenOut_muFrame (k : Nat) : MuFrame p n s (queueTokenOut p n k s) := by
  unfold queueTokenOut
  dsimp only
  split
  · exact .refl s
  · split
    · exact .refl s
    · exact (s.fifoTake_muFrame p n _).trans (State.agEmit_muFrame _ p n _ _)

theorem rowCommandDone_muFrame : MuFrame p n s (rowCommandDone p n s) := by
  unfold rowCommandDone
  dsimp only
  split
  · exact s.setMu_muFrame p n _
  · exact .refl s

theorem scrubLate_muFrame : MuFrame p n s (scrubLate p n s) := by
  unfold scrubLate
  dsimp only
  split
  · exact s.setMu_muFrame p n _
  · exact .refl s

/-- The rows a command moves are written one by one. -/
theorem State.rowsWritten_muFrame (c : RowCmd) (rows : List (List Byte × Bool)) : MuFrame p n s
    (rows.zipIdx.foldl (fun s (x, i) => s.muWrite p n (512 * (c.dst + i)) x.1 x.2)
      (s.setMu p n { s.mu p n with cmd := some c })) :=
  (s.setMu_muFrame p n _).trans (MuFrame.foldl _ (fun u _ => u.muWrite_muFrame p n _ _ _) _ _)

theorem State.rowCommand_muFrame (c : RowCmd) (byEvent : Bool) : MuFrame p n s (s.rowCommand p n c byEvent) := by
  have hread : MuFrame p n s ((List.range c.rows).foldl (fun (acc : List (List Byte × Bool) × State) i =>
      (acc.1 ++ [((acc.2.muRead p n (512 * (c.src + i)) 512).1, (acc.2.muRead p n (512 * (c.src + i)) 512).2.1)],
        (acc.2.muRead p n (512 * (c.src + i)) 512).2.2)) ([], s)).2 :=
    MuFrame.foldl_snd (α := List (List Byte × Bool)) _ (fun acc i => State.muRead_muFrame acc.2 p n (512 * (c.src + i)) 512) _ ([], s)
  have hemit : ∀ o : Out, MuFrame p n s (s.emit o) := fun o => .ofSame (.refl s) rfl rfl
  unfold State.rowCommand
  split
  · exact .refl s
  · split
    · split
      · exact .refl s
      · exact hemit _
    · split
      · split
        · exact .refl s
        · exact s.setMu_muFrame p n _
      · split
        · exact .refl s
        · by_cases hcopy : c.copy = true
          · rw [if_pos hcopy]
            dsimp only
            exact hread.trans (State.rowsWritten_muFrame _ p n c _)
          · rw [if_neg hcopy]
            dsimp only
            exact s.rowsWritten_muFrame p n c _

theorem State.grant_muFrame (r k : Nat) : MuFrame p n s (s.grant p n r k) := by
  unfold State.grant
  dsimp only
  split
  · exact s.setMu_muFrame p n _
  · split
    · exact (s.setMu_muFrame p n _).trans (State.bmkAdd_muFrame _ p n _ _)
    · exact (s.setMu_muFrame p n _).trans (State.request_muFrame _ p n _ _ _ _)

theorem creditReturn_muFrame (r : Nat) : MuFrame p n s (creditReturn p n r s) := by
  unfold creditReturn
  dsimp only
  split
  · exact s.grant_muFrame p n r _
  · exact .refl s

theorem scrubRow_muFrame : MuFrame p n s (scrubRow p n [] s) := by
  unfold scrubRow
  split
  · exact .refl s
  · refine MuFrame.trans ?_ (State.setMu_muFrame _ p n _)
    exact MuFrame.foldl _ (fun u i => u.muCheck_muFrame p n _ _ _) _ s

/-! ## The narrow view -/

theorem narrowWrite_muFrame (off size : Nat) (v : W64) : MuFrame p n s (narrowWrite p n off size v s) := by
  have hemit : ∀ (u : State) (o : Out), MuFrame p n u (u.emit o) := fun u o => .ofSame (.refl u) rfl rfl
  unfold narrowWrite
  dsimp only
  split
  · exact .refl s
  · split
    · exact hemit s _
    · split
      · exact (s.setMu_muFrame p n _).trans (hemit _ _)
      · exact (s.muWrite_muFrame p n _ _ _).trans (hemit _ _)

theorem narrowRead_muFrame (off size : Nat) : MuFrame p n s (narrowRead p n off size [] s) := by
  have hemit : ∀ (u : State) (o : Out), MuFrame p n u (u.emit o) := fun u o => .ofSame (.refl u) rfl rfl
  unfold narrowRead
  split
  · exact .refl s
  · split
    · exact hemit s _
    · split
      · exact hemit s _
      · exact ((s.muRead_muFrame p n _ _).trans (hemit _ _)).trans (hemit _ _)

end

end Sys2Proof.Machine
end

section
/-! The frame of the commands of a memory unit. -/
namespace Sys2Proof.Machine

/-! ## Bytes that stand -/

theorem State.mu_setMu_of_key {s : State} {p n q m : Nat} (hkey : unitKey q m = unitKey p n) (x : Mu) :
    (s.setMu p n x).mu q m = x := by
  rw [State.mu, hkey, ← State.mu, State.mu_setMu]

/-- A change of a unit that keeps a byte of its memory keeps that byte of every unit. -/
theorem State.setMu_byte {s : State} {p n a : Nat} {x : Mu}
    (h : Memory.byte x.sram a = Memory.byte (s.mu p n).sram a) (q m : Nat) :
    Memory.byte ((s.setMu p n x).mu q m).sram a = Memory.byte (s.mu q m).sram a := by
  by_cases hkey : unitKey q m = unitKey p n
  · rw [State.mu_setMu_of_key hkey, h, State.mu, State.mu, hkey]
  · rw [State.mu_setMu_ne _ _ _ _ _ _ hkey]

theorem State.raise_mus (s : State) {c : FClass} (hc : c ≠ .fatal) (code : Code) (kind inst : Nat) (d : W64) (q m : Nat) :
    (s.raise c code kind inst d).mu q m = s.mu q m := by
  rw [State.mu, (s.raise_aside hc code kind inst d).mus, ← State.mu]

/-- Every memory holds what it held. -/
def SameMemories (s t : State) : Prop := ∀ q m a, Memory.byte (t.mu q m).sram a = Memory.byte (s.mu q m).sram a

theorem SameMemories.refl (s : State) : SameMemories s s := fun _ _ _ => rfl

theorem SameMemories.trans {r s t : State} (h : SameMemories r s) (k : SameMemories s t) : SameMemories r t :=
  fun q m a => (k q m a).trans (h q m a)

theorem SameMemories.foldl {α : Type} (f : State → α → State) (h : ∀ s a, SameMemories s (f s a)) (l : List α) (s : State) :
    SameMemories s (l.foldl f s) := by
  induction l generalizing s with
  | nil => exact .refl s
  | cons a l ih => exact (h s a).trans (ih _)

/-- What is recorded of a damaged word or tag leaves its memory as it is. -/
theorem State.setMuRaise_sameMemories (s : State) (p n : Nat) {x : Mu} (hx : x.sram = (s.mu p n).sram) {c : FClass}
    (hc : c ≠ .fatal) (code : Code) (kind inst : Nat) (d : W64) :
    SameMemories s ((s.setMu p n x).raise c code kind inst d) := fun q m a => by
  rw [State.raise_mus _ hc, State.setMu_byte (by rw [hx])]

theorem Mu.flag_sram (m : Mu) (b : Nat) : (m.flag b).sram = m.sram := rfl

theorem Mu.setPoison_sram (m : Mu) (row : Nat) (b : Bool) : (m.setPoison row b).sram = m.sram := rfl

theorem State.muWordRead_sameMemories (s : State) (p n : Nat) (rd : MuReader) (w : Nat) (e : EccKind) :
    SameMemories s (s.muWordRead p n rd w e) := by
  unfold State.muWordRead
  dsimp only
  cases e with
  | clean => exact .refl s
  | ce =>
    refine s.setMuRaise_sameMemories p n ?_ (c := .corr) (by decide) _ _ _ _
    exact Mu.flag_sram _ _
  | ue =>
    refine s.setMuRaise_sameMemories p n ?_ (readClass_ne_fatal _ _) _ _ _ _
    exact (Mu.flag_sram _ _).trans (Mu.setPoison_sram _ _ _)

theorem State.muTagRead_sameMemories (s : State) (p n : Nat) (rd : MuReader) (k : Nat) (e : EccKind) :
    SameMemories s (s.muTagRead p n rd k e) := by
  unfold State.muTagRead
  dsimp only
  cases e with
  | clean => exact .refl s
  | ce =>
    refine s.setMuRaise_sameMemories p n ?_ (c := .corr) (by decide) _ _ _ _
    exact Mu.flag_sram _ _
  | ue =>
    refine s.setMuRaise_sameMemories p n ?_ (readClass_ne_fatal _ _) _ _ _ _
    exact (Mu.flag_sram _ _).trans (Mu.setPoison_sram _ _ _)

theorem State.muCheck_sameMemories (s : State) (p n off len : Nat) (rd : MuReader) :
    SameMemories s (s.muCheck p n off len rd) := by
  unfold State.muCheck
  split
  · exact .refl s
  · refine SameMemories.foldl _ (fun u h => ?_) _ s
    split
    · exact u.muTagRead_sameMemories p n rd _ _
    · exact u.muWordRead_sameMemories p n rd _ _

theorem narrowRead_sameMemories (p n off size : Nat) (s : State) : SameMemories s (narrowRead p n off size [] s) := by
  unfold narrowRead
  split
  · exact .refl s
  · split
    · exact .refl s
    · split
      · exact .refl s
      · exact s.muCheck_sameMemories p n off 8 .plain

/-- Marking rows leaves the bytes alone. -/
theorem Mu.foldl_sram {α : Type} (f : Mu → α → Mu) (h : ∀ m a, (f m a).sram = m.sram) (l : List α) (m : Mu) :
    (l.foldl f m).sram = m.sram := by
  induction l generalizing m with
  | nil => rfl
  | cons a l ih => rw [List.foldl_cons, ih, h]

/-- A wide write leaves the bytes beside it. -/
theorem Mu.writeWide_beside (m : Mu) {off a : Nat} {bs : List Byte} (poison : Bool) (ha : a < off ∨ off + bs.length ≤ a) :
    Memory.byte (m.writeWide off bs poison).sram a = Memory.byte m.sram a := by
  unfold Mu.writeWide
  dsimp only
  split
  · rfl
  · rw [Mu.foldl_sram]
    · rw [Memory.byte_write, if_neg (by omega)]
    · intro m r
      repeat' split
      all_goals rfl

theorem narrowWrite_beside (p n off size : Nat) (v : W64) (s : State) {q m a : Nat}
    (ha : unitKey q m ≠ unitKey p n ∨ a < off ∨ off + 8 ≤ a) :
    Memory.byte ((narrowWrite p n off size v s).mu q m).sram a = Memory.byte (s.mu q m).sram a := by
  rcases ha with hne | ha
  · rw [(narrowWrite_muFrame s p n off size v).mus q m hne]
  · unfold narrowWrite
    dsimp only
    split
    · rfl
    · split
      · rfl
      · split
        · exact State.setMu_byte (x := (s.mu p n).flag 9) rfl q m
        · exact State.setMu_byte (Mu.writeWide_beside _ false (by rwa [show (leBytes 8 v.toNat).length = 8 from rfl])) q m

/-! ## The whole frame -/

/-- The commands without operands beside the unit, and those of its two queues. -/
theorem plainMuCommand_muFrame (s : State) (p : Fin 4) (n : Fin 256) : ∀ c ∈ [Instr.generatorStartEvent p n,
    .accumulateSegment p n, .queueTokenIn p n 0, .queueTokenIn p n 1, .queueTokenOut p n 0, .queueTokenOut p n 1,
    .rowCommandDone p n, .scrubLate p n], Frames (MuFrame p n) s c := by
  simp only [List.forall_mem_cons]
  exact ⟨.intro rfl (generatorStartEvent_muFrame s p n), .intro rfl (accumulateSegment_muFrame s p n),
    .intro rfl (queueTokenIn_muFrame s p n 0), .intro rfl (queueTokenIn_muFrame s p n 1),
    .intro rfl (queueTokenOut_muFrame s p n 0), .intro rfl (queueTokenOut_muFrame s p n 1),
    .intro rfl (rowCommandDone_muFrame s p n), .intro rfl (scrubLate_muFrame s p n), List.forall_mem_nil _⟩

theorem unitKey_ne {p q : Fin 4} {n m : Fin 256} (hne : (q, m) ≠ (p, n)) : unitKey q m ≠ unitKey p n := fun hkey => by
  obtain ⟨rfl, rfl⟩ := unitKey_inj.mp hkey
  exact hne rfl

/-- Settles O58: each command stays within its unit's frame, and the narrow view within its 8 bytes. -/
theorem memoryUnitCommandsLeaveTheRest : Obligations.MemoryUnitCommandsLeaveTheRest := by
  refine ⟨fun s t p n h => ?frame, fun s t p q n m off size v a h ha => ?write, fun s t p q n m off size a h => ?read⟩
  case frame =>
    have hframe : MuFrame p n s t := by
      rcases h with ⟨c, hc, h⟩ | ⟨a, h⟩ | ⟨a, h⟩ | ⟨r, h⟩ | ⟨r, h⟩ | ⟨d, r, e, h⟩ | ⟨d, x, r, e, h⟩ | ⟨o, k, v, h⟩ |
        ⟨o, k, h⟩ | h
      · exact plainMuCommand_muFrame s p n c hc t h
      · exact Frames.intro rfl (pendingWalkStart_muFrame s p n a.val) t h
      · exact Frames.intro rfl (generatorAddress_muFrame s p n a.val) t h
      · exact Frames.intro rfl (parkedSegmentApply_muFrame s p n r.val) t h
      · exact Frames.intro rfl (creditReturn_muFrame s p n r.val) t h
      · exact Frames.intro rfl (s.rowCommand_muFrame p n _ e) t h
      · exact Frames.intro rfl (s.rowCommand_muFrame p n _ e) t h
      · exact Frames.intro rfl (narrowWrite_muFrame s p n o.toNat k v) t h
      · exact Frames.intro rfl (narrowRead_muFrame s p n o.toNat k) t h
      · exact Frames.intro rfl (scrubRow_muFrame s p n) t h
    exact ⟨hframe.system, hframe.cus, fun q m hne => hframe.mus q m (unitKey_ne hne)⟩
  case write =>
    exact Frames.intro (R := fun s t => Memory.byte (t.mu q m).sram a = Memory.byte (s.mu q m).sram a) rfl
      (narrowWrite_beside p n off.toNat size v s (ha.imp_left unitKey_ne)) t h
  case read =>
    exact Frames.intro (R := SameMemories) rfl (narrowRead_sameMemories p n off.toNat size s) t h q m a

end Sys2Proof.Machine
end
